-- ==== Sys2Proof/Word.lean ====
section
/-! DEFINITION. The word types of the machine. -/
namespace Sys2Proof

/-- A Tamrax word, a lane register or a uniform register (R3, R33). -/
abbrev Word := BitVec 32

/-- One byte of memory or of a tile (R3). -/
abbrev Byte := BitVec 8

/-- A set of lane positions of a group: bit l stands for lane l (R8). -/
abbrev Lanes := BitVec 32

end Sys2Proof
end

