-- ==== Sys2Proof/Config.lean ====
section
/-! DEFINITION. What the manual leaves open: the free values of the model, as constants with no body (assumption log 2), and
the fixed sizes of the KX2. No proof can see what a free value is. -/
namespace Sys2Proof.Config

/-- A free choice between two allowed outcomes: the first argument is State.oracle, the others name the point of the
step at which the choice is made (R128, R296, R358; assumption log 2). -/
opaque freeBit : Nat → Nat → Nat → Bool

/-- Free time between two steps, in core-clock periods and in nanoseconds of device time (R18, R392). -/
opaque freeSlack : Nat → Nat
opaque freeNanos : Nat → Nat

/-- L1 line fills of an HBM page since its counter was last read (R358, assumption log 5). -/
opaque freeFills : Nat → Nat → Nat

/-- The device physical word that an address of an HBM stack names, and the stack that holds a line (R373, assumption log 18). -/
opaque hbmPlace : Nat → Nat → Nat
opaque hbmStack : Nat → Nat

/-- A check syndrome, or a measurement of the environment (R374). -/
opaque freeWord : Nat → Nat → Nat → Word

/-- SHA-384 of bytes, by its byte's place; that of the Security Core ROM (R384). -/
opaque digest : List Byte → Nat → Byte
opaque romDigest : Nat → Byte

/-- Bytes that cryptography produces: argument 1 names the use, argument 2 is State.oracle, argument 3 the byte's place
(R349, R380, R383 to R388; assumption log 10). -/
opaque freeByte : Nat → Nat → Nat → Byte

/-- AES-256-XTS at one byte's place, by key and tweak: an unknown permutation of the bytes, as the exchanges it is made of (R378;
assumption log 10). -/
opaque swaps : Nat → Nat → List (Byte × Byte)

/-- Two bytes exchanged. -/
def swap (p : Byte × Byte) (b : Byte) : Byte := if b = p.1 then p.2 else if b = p.2 then p.1 else b

/-- The byte stored for a plain byte under a key at a tweak, and the plain byte for a stored one. -/
def encipher (key tweak : Nat) (b : Byte) : Byte := (swaps key tweak).foldr swap b
def decipher (key tweak : Nat) (b : Byte) : Byte := (swaps key tweak).foldl (fun b p => swap p b) b

/-- The AES-256-GCM tag of a unit of a protected image: key, counter, offset, the unit's bytes (R380; assumption log 10). -/
opaque imageTag : Nat → Nat → Nat → List Byte → Nat

/-- What a byte reads as before anything has written it: zero by the scrub of R376 for the package's own memory; for
host memory and other packages a choice of the model (assumption log 3). -/
def unlistedByte : Byte := 0

/-- Waiting accesses one vault holds (R65). -/
def vaultWaits : Nat := 2048
/-- Records the package's event buffer holds (R301). -/
def eventBuffer : Nat := 4096
/-- Entries of a core's range-overlap scoreboard (R72). -/
def scoreboard : Nat := 64
/-- Grid counter entries of a core (R30). -/
def gridCounters : Nat := 16
/-- Register blocks and tiles of a core (R11). -/
def coreBlocks : Nat := 208
def coreTiles : Nat := 256
/-- Lines a region's sets hold (R85). -/
def regionLines : Nat := 256
/-- Device physical bases (R342). -/
def hbmSize : Nat := 0x6000000000
def vaultBase : Nat := 0x10000000000
def vaultSize : Nat := 0x4000000
def packageBase : Nat := 0x400000000000
def packageSize : Nat := 0x10000000000
def hostBase : Nat := 0x800000000000
def spaceEnd : Nat := 0x1000000000000
/-- The fleet block (R365). -/
def fleetBase : Nat := 0x5FFFFF0000
/-- Cycles that a save takes beside those of its bytes (R310). -/
def saveFixed : Nat := 1880
/-- Lane and predicate numbers in the model's one numbering of a lane's results: predicate k is 128 + k. -/
def predBase : Nat := 128

end Sys2Proof.Config
end

