-- ==== Sys2Proof/Syntax.lean ====
section
/-! DEFINITION. Tamrax instructions and the steps of the KX2: one constructor for each row of the opcode table. A word
instruction carries its fields as R124 draws them (named as the table names them); a step of the machine (an event)
carries what the spec leaves to its surroundings: which party moves, what the host or the fabric sent. -/
namespace Sys2Proof

/-- Every row of spec/opcode_table.json. -/
inductive Instr where
  -- Steps of the machine (spec/95_what_each_step_holds.md)
  /-- CLAUSE_START (R126). -/
  | clauseStart (gid : Nat)
  /-- LONG_OP_COMPLETE (R128). -/
  | longOpComplete (op : Nat)
  /-- REJOIN_DEADLOCK (R24). -/
  | rejoinDeadlock (gid : Nat)
  /-- NEIGHBOUR_PARITY_ERROR (R35). -/
  | neighbourParityError (gid : Nat) (dir : BitVec 2)
  /-- CLUSTER_PLACEMENT (R309). -/
  | clusterPlacement
  /-- GRID_COMPLETE (R31). -/
  | gridComplete (handle : Nat)
  /-- TAGGED_ACCESS_ARRIVAL (R65). -/
  | taggedAccessArrival (op : Nat)
  /-- STORE_PERFORMED (R85). -/
  | storePerformed (word : Nat)
  /-- FLUSH_MARKER_GATHERED (R94). -/
  | flushMarkerGathered (op : Nat) (pkg : Nat)
  /-- ENGINE_COMMAND_ACCEPT (R228). -/
  | engineCommandAccept (cmd : Nat)
  /-- ENGINE_COMMAND_START (R72). -/
  | engineCommandStart (cmd : Nat)
  /-- ENGINE_ACCESS (R228). -/
  | engineAccess (cmd : Nat)
  /-- ENGINE_COMMAND_COMPLETE (R228). -/
  | engineCommandComplete (cmd : Nat)
  /-- CHAIN_ENTRY_START (R236). -/
  | chainEntryStart (cmd : Nat)
  /-- COLLECTIVE_MATCH (R237). -/
  | collectiveMatch (cmd : Nat)
  /-- SWEEP_START (R96). -/
  | sweepStart (unit : BitVec 3)
  /-- PAGE_COMMIT (R101). -/
  | pageCommit (unit : BitVec 3)
  /-- HOLE_COMMIT (R95). -/
  | holeCommit (unit : BitVec 3)
  /-- PAGE_ARRIVAL (R102). -/
  | pageArrival (unit : BitVec 3) (core : BitVec 8)
  /-- QSV_NOTICE_PUSH (R102). -/
  | qsvNoticePush (notice : Nat)
  /-- PAGE_FETCH_FAULT (R103). -/
  | pageFetchFault (unit : BitVec 3)
  /-- PARTIAL_MERGE (R107). -/
  | partialMerge (unit : BitVec 3) (sub : Nat)
  /-- TOL_UNIT_TAKE (R116). -/
  | tolUnitTake (team : Nat)
  /-- DOORBELL_KICK (R307). -/
  | doorbellKick (index : Nat) (value : BitVec 32)
  /-- DOORBELL_IGNORED_WRITE (R346). -/
  | doorbellIgnoredWrite (index : Nat) (offset : Nat) (width : Nat)
  /-- QUEUE_RECORD_START (R307). -/
  | queueRecordStart (slot : Nat)
  /-- QUEUE_MAP (R308). -/
  | queueMap (die : Nat)
  /-- QUEUE_AGEING_TICK (R308). -/
  | queueAgeingTick
  /-- REFILL_BOUNDARY (R290). -/
  | refillBoundary
  /-- TORUS_PACKET_SEND (R367). -/
  | torusPacketSend (core : BitVec 8) (inset : Nat) (bytes : Nat)
  /-- DRAIN_LATENCY_EXPIRY (R311). -/
  | drainLatencyExpiry (team : Nat)
  /-- TEAM_SAVE (R311). -/
  | teamSave (team : Nat)
  /-- TEAM_RESTORE (R314). -/
  | teamRestore (team : Nat)
  /-- RECORD_DELIVERY (R301). -/
  | recordDelivery
  /-- HOST_EVENT_RING_WRITE (R347). -/
  | hostEventRingWrite
  /-- EVREAD_WRITE (R347). -/
  | evreadWrite (value : BitVec 32)
  /-- EVENT_RING_CONFIG_WRITE (R347). -/
  | eventRingConfigWrite (log : Bool) (value : BitVec 64)
  /-- CONTROL_REGISTER_WRITE (R343). -/
  | controlRegisterWrite (offset : Nat) (value : BitVec 64)
  /-- MAILBOX_OVERRUN (R344). -/
  | mailboxOverrun
  /-- MAILBOX_UNKNOWN_COMMAND (R344). -/
  | mailboxUnknownCommand
  /-- MAILBOX_COMPLETE (R344). -/
  | mailboxComplete
  /-- INSETNEW (R345). -/
  | insetnew
  /-- INSETGRANT (R345). -/
  | insetgrant
  /-- FREEZE (R345). -/
  | freeze
  /-- THAW (R345). -/
  | thaw
  /-- CKPT (R345). -/
  | ckpt
  /-- REST (R345). -/
  | rest
  /-- REVOKE (R345). -/
  | revoke
  /-- STAT (R345). -/
  | stat
  /-- MAP (R345). -/
  | map
  /-- UNMAP (R345). -/
  | unmap
  /-- INVAL (R345). -/
  | inval
  /-- ROOTMAP (R345). -/
  | rootmap
  /-- ROOTUNMAP (R345). -/
  | rootunmap
  /-- DBSET (R345). -/
  | dbset
  /-- DBCLR (R346). -/
  | dbclr
  /-- RGTSET (R354). -/
  | rgtset
  /-- RGTWITHDRAW (R355). -/
  | rgtwithdraw
  /-- GANGSET (R356). -/
  | gangset
  /-- HOTREAD (R358). -/
  | hotread
  /-- TIMESET (R392). -/
  | timeset
  /-- LOADFW (R349). -/
  | loadfw
  /-- HOST_MEMORY_ACCESS (R341). -/
  | hostMemoryAccess (write : Bool) (offset : Nat) (bytes : List (BitVec 8))
  /-- FLIT_CRC_FAILURE (R340). -/
  | flitCrcFailure
  /-- DEVICE_RESET (R348). -/
  | deviceReset (straps : BitVec 32)
  /-- BOOT_ROM_COMPLETE (R348). -/
  | bootRomComplete
  /-- FIRMWARE_VERIFY_COMPLETE (R349). -/
  | firmwareVerifyComplete (ecdsa : Bool) (lms : Bool) (linkFault : Bool)
  /-- CORE_ROW_WAKE (R370). -/
  | coreRowWake (row : BitVec 4)
  /-- MATRIX_RAMP_STEP (R370). -/
  | matrixRampStep (core : BitVec 8)
  /-- FABRIC_PACKET_RECEIVE (R352). -/
  | fabricPacketReceive (pkg : Nat) (path : Nat) (seq : Nat)
  /-- REMOTE_REQUEST_CHECK (R354). -/
  | remoteRequestCheck (pkg : Nat) (subtree : Nat) (addr : Nat) (len : Nat) (write : Bool)
  /-- PACKET_RETRANSMIT (R352). -/
  | packetRetransmit (pkg : Nat) (seq : Nat)
  /-- PATH_REMOVAL (R352). -/
  | pathRemoval (pkg : Nat) (path : Nat)
  /-- PTP_SYNC (R392). -/
  | ptpSync (time : BitVec 64)
  /-- GANG_TICK (R357). -/
  | gangTick
  /-- GANG_READY (R357). -/
  | gangReady (pkg : Nat)
  /-- GANG_DECISION (R357). -/
  | gangDecision
  /-- COMMIT (R357). -/
  | commit
  /-- ABORT (R357). -/
  | abort
  /-- FLEET_GEN_SAMPLE (R365). -/
  | fleetGenSample
  /-- POWER_STATE_ENTRY (R369). -/
  | powerStateEntry
  /-- POWER_STATE_EXIT (R369). -/
  | powerStateExit
  /-- SHED_STEP (R371). -/
  | shedStep (pwr : Nat)
  /-- SHED_UNDO (R371). -/
  | shedUndo (pwr : Nat)
  /-- THROTTLE_STEP (R371). -/
  | throttleStep (pwr : Nat)
  /-- THROTTLE_UNDO (R371). -/
  | throttleUndo (pwr : Nat)
  /-- THROTTLE_FLOOR_REPORT (R371). -/
  | throttleFloorReport (pwr : Nat)
  /-- MEMORY_ERROR_DETECTED (R372). -/
  | memoryErrorDetected (array : BitVec 4) (unit : BitVec 8) (addr : Nat) (unc : Bool) (inset : Nat) (syndrome : BitVec 32)
  /-- BURST_TAG_FAILURE (R379). -/
  | burstTagFailure (line : Nat) (tries : Nat)
  /-- KILL_CONFIRM (R382). -/
  | killConfirm (slot : Nat) (die : Nat)
  /-- GET_VERSION (R384). -/
  | getVersion
  /-- GET_CAPABILITIES (R384). -/
  | getCapabilities
  /-- NEGOTIATE_ALGORITHMS (R384). -/
  | negotiateAlgorithms (supported : Bool)
  /-- GET_DIGESTS (R384). -/
  | getDigests
  /-- GET_CERTIFICATE (R384). -/
  | getCertificate (slot : Nat)
  /-- CHALLENGE (R384). -/
  | challenge (slot : Nat) (nonce : BitVec 256)
  /-- GET_MEASUREMENTS (R384). -/
  | getMeasurements (index : Nat) (nonce : BitVec 256)
  /-- KEY_EXCHANGE (R384). -/
  | keyExchange (slot : Nat)
  /-- FINISH (R384). -/
  | finish (verified : Bool)
  /-- END_SESSION (R384). -/
  | endSession
  /-- KEYLOAD (R381). -/
  | keyload (slot : Nat) (key : BitVec 512)
  /-- KEYKILL (R382). -/
  | keykill (slot : Nat)
  /-- KEYSTAT (R385). -/
  | keystat (slot : Nat)
  /-- SEAL (R386). -/
  | sealInset (inset : Nat) (addr : Nat) (size : Nat) (bound : Nat)
  /-- UNSEAL (R386). -/
  | unsealInset (addr : Nat) (bases : List Nat)
  /-- MIGOUT (R388). -/
  | migout (inset : Nat) (bound : Nat)
  /-- MIGIN (R388). -/
  | migin (addr : Nat) (block : Nat) (bases : List Nat)
  /-- VERIFIED (R388). -/
  | verified (inset : Nat) (valid : Bool)
  /-- ERASED (R388). -/
  | erased (inset : Nat) (valid : Bool)
  /-- ACTIVE (R388). -/
  | active (inset : Nat) (valid : Bool)
  /-- ABORTED (R389). -/
  | aborted (inset : Nat) (valid : Bool)
  /-- MIGABORT (R389). -/
  | migabort (inset : Nat)
  /-- MIGSTAT (R388). -/
  | migstat (inset : Nat)
  /-- ERASED_REQUEST (R389). -/
  | erasedRequest (inset : Nat)
  /-- ERASED_RESEND (R389). -/
  | erasedResend (inset : Nat)
  /-- HOLDEXPIRED (R389). -/
  | holdexpired (inset : Nat)
  /-- LINK_RETRAIN_COMPLETE (R340). -/
  | linkRetrainComplete
  /-- PATH_RETURN (R352). -/
  | pathReturn (pkg : Nat) (path : Nat)
  /-- REQUEST_BOUND_PASSED (R313). -/
  | requestBoundPassed (team : Nat)
  /-- FRESH_TOP_LEVEL_LEAF (R383). -/
  | freshTopLevelLeaf
  -- Instruction words (spec/09_opcode_map.md)
  /-- IADD (R144). -/
  | iadd (d : BitVec 7) (a : BitVec 7) (b : BitVec 7)
  /-- ISUB (R144). -/
  | isub (d : BitVec 7) (a : BitVec 7) (b : BitVec 7)
  /-- IMUL (R144). -/
  | imul (d : BitVec 7) (a : BitVec 7) (b : BitVec 7)
  /-- IMULH (R144). -/
  | imulh (d : BitVec 7) (a : BitVec 7) (b : BitVec 7)
  /-- IMULHU (R144). -/
  | imulhu (d : BitVec 7) (a : BitVec 7) (b : BitVec 7)
  /-- IMIN (R144). -/
  | imin (d : BitVec 7) (a : BitVec 7) (b : BitVec 7)
  /-- IMAX (R144). -/
  | imax (d : BitVec 7) (a : BitVec 7) (b : BitVec 7)
  /-- UMIN (R144). -/
  | umin (d : BitVec 7) (a : BitVec 7) (b : BitVec 7)
  /-- UMAX (R144). -/
  | umax (d : BitVec 7) (a : BitVec 7) (b : BitVec 7)
  /-- AND (R144). -/
  | and (d : BitVec 7) (a : BitVec 7) (b : BitVec 7)
  /-- OR (R144). -/
  | or (d : BitVec 7) (a : BitVec 7) (b : BitVec 7)
  /-- XOR (R144). -/
  | xor (d : BitVec 7) (a : BitVec 7) (b : BitVec 7)
  /-- SHL (R144). -/
  | shl (d : BitVec 7) (a : BitVec 7) (b : BitVec 7)
  /-- SHR (R144). -/
  | shr (d : BitVec 7) (a : BitVec 7) (b : BitVec 7)
  /-- SHRA (R144). -/
  | shra (d : BitVec 7) (a : BitVec 7) (b : BitVec 7)
  /-- ROTR (R144). -/
  | rotr (d : BitVec 7) (a : BitVec 7) (b : BitVec 7)
  /-- IDIV (R146). -/
  | idiv (d : BitVec 7) (a : BitVec 7) (b : BitVec 7)
  /-- UDIV (R146). -/
  | udiv (d : BitVec 7) (a : BitVec 7) (b : BitVec 7)
  /-- IREM (R146). -/
  | irem (d : BitVec 7) (a : BitVec 7) (b : BitVec 7)
  /-- UREM (R146). -/
  | urem (d : BitVec 7) (a : BitVec 7) (b : BitVec 7)
  /-- POPC (R147). -/
  | popc (d : BitVec 7) (a : BitVec 7)
  /-- CLZ (R147). -/
  | clz (d : BitVec 7) (a : BitVec 7)
  /-- BREV (R147). -/
  | brev (d : BitVec 7) (a : BitVec 7)
  /-- IABS (R147). -/
  | iabs (d : BitVec 7) (a : BitVec 7)
  /-- BFX (R147). -/
  | bfx (d : BitVec 7) (a : BitVec 7) (b : BitVec 7)
  /-- BFXU (R147). -/
  | bfxu (d : BitVec 7) (a : BitVec 7) (b : BitVec 7)
  /-- BFI (R147). -/
  | bfi (d : BitVec 7) (a : BitVec 7) (b : BitVec 7)
  /-- ANDN (R147). -/
  | andn (d : BitVec 7) (a : BitVec 7) (b : BitVec 7)
  /-- IADDI (R148). -/
  | iaddi (d : BitVec 7) (a : BitVec 7) (i : BitVec 11)
  /-- ANDI (R148). -/
  | andi (d : BitVec 7) (a : BitVec 7) (i : BitVec 11)
  /-- ORI (R148). -/
  | ori (d : BitVec 7) (a : BitVec 7) (i : BitVec 11)
  /-- XORI (R148). -/
  | xori (d : BitVec 7) (a : BitVec 7) (i : BitVec 11)
  /-- SHLI (R149). -/
  | shli (d : BitVec 7) (a : BitVec 7) (n : BitVec 5)
  /-- SHRI (R149). -/
  | shri (d : BitVec 7) (a : BitVec 7) (n : BitVec 5)
  /-- SHRAI (R149). -/
  | shrai (d : BitVec 7) (a : BitVec 7) (n : BitVec 5)
  /-- ROTRI (R149). -/
  | rotri (d : BitVec 7) (a : BitVec 7) (n : BitVec 5)
  /-- IMAD (R150). -/
  | imad (d : BitVec 7) (a : BitVec 7) (b : BitVec 7)
  /-- IMADU (R150). -/
  | imadu (d : BitVec 7) (a : BitVec 7) (b : BitVec 7)
  /-- IMADH (R150). -/
  | imadh (d : BitVec 7) (a : BitVec 7) (b : BitVec 7)
  /-- IMADHU (R150). -/
  | imadhu (d : BitVec 7) (a : BitVec 7) (b : BitVec 7)
  /-- IADDX (R151). -/
  | iaddx (d : BitVec 7) (a : BitVec 7) (b : BitVec 7)
  /-- ISUBX (R151). -/
  | isubx (d : BitVec 7) (a : BitVec 7) (b : BitVec 7)
  /-- SHLX (R151). -/
  | shlx (d : BitVec 7) (a : BitVec 7) (b : BitVec 7)
  /-- SHRX (R151). -/
  | shrx (d : BitVec 7) (a : BitVec 7) (b : BitVec 7)
  /-- SHRAX (R151). -/
  | shrax (d : BitVec 7) (a : BitVec 7) (b : BitVec 7)
  /-- IMULW (R151). -/
  | imulw (d : BitVec 7) (a : BitVec 7) (b : BitVec 7)
  /-- IMULWU (R151). -/
  | imulwu (d : BitVec 7) (a : BitVec 7) (b : BitVec 7)
  /-- LEA_S0 (R140). -/
  | leaS0 (d : BitVec 7) (a : BitVec 7) (b : BitVec 7)
  /-- LEA_S1 (R140). -/
  | leaS1 (d : BitVec 7) (a : BitVec 7) (b : BitVec 7)
  /-- LEA_S2 (R140). -/
  | leaS2 (d : BitVec 7) (a : BitVec 7) (b : BitVec 7)
  /-- LEA_S3 (R140). -/
  | leaS3 (d : BitVec 7) (a : BitVec 7) (b : BitVec 7)
  /-- MOV (R152). -/
  | mov (d : BitVec 7) (a : BitVec 7)
  /-- MOVX (R152). -/
  | movx (d : BitVec 7) (a : BitVec 7)
  /-- PTOV (R152). -/
  | ptov (d : BitVec 7)
  /-- VTOP (R152). -/
  | vtop (a : BitVec 7)
  /-- MOVI (R153). -/
  | movi (d : BitVec 7) (i : BitVec 18)
  /-- SEL (R154). -/
  | sel (d : BitVec 7) (a : BitVec 7) (b : BitVec 7) (p : BitVec 4)
  /-- ICMP (R155). -/
  | icmp (d : BitVec 7) (a : BitVec 7) (b : BitVec 7) (c : BitVec 4)
  /-- ICMPI (R155). -/
  | icmpi (d : BitVec 7) (a : BitVec 7) (c : BitVec 4) (i : BitVec 7)
  /-- FADD (R157). -/
  | fadd (d : BitVec 7) (a : BitVec 7) (b : BitVec 7)
  /-- FSUB (R157). -/
  | fsub (d : BitVec 7) (a : BitVec 7) (b : BitVec 7)
  /-- FMUL (R157). -/
  | fmul (d : BitVec 7) (a : BitVec 7) (b : BitVec 7)
  /-- FMIN (R157). -/
  | fmin (d : BitVec 7) (a : BitVec 7) (b : BitVec 7)
  /-- FMAX (R157). -/
  | fmax (d : BitVec 7) (a : BitVec 7) (b : BitVec 7)
  /-- FCOPYSIGN (R157). -/
  | fcopysign (d : BitVec 7) (a : BitVec 7) (b : BitVec 7)
  /-- FFMA (R158). -/
  | ffma (d : BitVec 7) (a : BitVec 7) (b : BitVec 7)
  /-- FFMS (R158). -/
  | ffms (d : BitVec 7) (a : BitVec 7) (b : BitVec 7)
  /-- FFNMA (R158). -/
  | ffnma (d : BitVec 7) (a : BitVec 7) (b : BitVec 7)
  /-- FFNMS (R158). -/
  | ffnms (d : BitVec 7) (a : BitVec 7) (b : BitVec 7)
  /-- FCMP (R159). -/
  | fcmp (d : BitVec 7) (a : BitVec 7) (b : BitVec 7) (c : BitVec 4)
  /-- FRNDN (R160). -/
  | frndn (d : BitVec 7) (a : BitVec 7)
  /-- FRNDZ (R160). -/
  | frndz (d : BitVec 7) (a : BitVec 7)
  /-- FRNDD (R160). -/
  | frndd (d : BitVec 7) (a : BitVec 7)
  /-- FRNDU (R160). -/
  | frndu (d : BitVec 7) (a : BitVec 7)
  /-- FCLASS (R160). -/
  | fclass (d : BitVec 7) (a : BitVec 7)
  /-- FABS (R160). -/
  | fabs (d : BitVec 7) (a : BitVec 7)
  /-- FNEG (R160). -/
  | fneg (d : BitVec 7) (a : BitVec 7)
  /-- HADD2 (R161). -/
  | hadd2 (d : BitVec 7) (a : BitVec 7) (b : BitVec 7)
  /-- HSUB2 (R161). -/
  | hsub2 (d : BitVec 7) (a : BitVec 7) (b : BitVec 7)
  /-- HMUL2 (R161). -/
  | hmul2 (d : BitVec 7) (a : BitVec 7) (b : BitVec 7)
  /-- HFMA2 (R161). -/
  | hfma2 (d : BitVec 7) (a : BitVec 7) (b : BitVec 7)
  /-- HMIN2 (R161). -/
  | hmin2 (d : BitVec 7) (a : BitVec 7) (b : BitVec 7)
  /-- HMAX2 (R161). -/
  | hmax2 (d : BitVec 7) (a : BitVec 7) (b : BitVec 7)
  /-- BADD2 (R161). -/
  | badd2 (d : BitVec 7) (a : BitVec 7) (b : BitVec 7)
  /-- BSUB2 (R161). -/
  | bsub2 (d : BitVec 7) (a : BitVec 7) (b : BitVec 7)
  /-- BMUL2 (R161). -/
  | bmul2 (d : BitVec 7) (a : BitVec 7) (b : BitVec 7)
  /-- BFMA2 (R161). -/
  | bfma2 (d : BitVec 7) (a : BitVec 7) (b : BitVec 7)
  /-- BMIN2 (R161). -/
  | bmin2 (d : BitVec 7) (a : BitVec 7) (b : BitVec 7)
  /-- BMAX2 (R161). -/
  | bmax2 (d : BitVec 7) (a : BitVec 7) (b : BitVec 7)
  /-- DOT4S8 (R162). -/
  | dot4s8 (d : BitVec 7) (a : BitVec 7) (b : BitVec 7)
  /-- DOT4U8 (R162). -/
  | dot4u8 (d : BitVec 7) (a : BitVec 7) (b : BitVec 7)
  /-- DOT4SU8 (R162). -/
  | dot4su8 (d : BitVec 7) (a : BitVec 7) (b : BitVec 7)
  /-- DOT8S4 (R162). -/
  | dot8s4 (d : BitVec 7) (a : BitVec 7) (b : BitVec 7)
  /-- DOT2H (R162). -/
  | dot2h (d : BitVec 7) (a : BitVec 7) (b : BitVec 7)
  /-- DOT2B (R162). -/
  | dot2b (d : BitVec 7) (a : BitVec 7) (b : BitVec 7)
  /-- DOT4E4 (R162). -/
  | dot4e4 (d : BitVec 7) (a : BitVec 7) (b : BitVec 7)
  /-- DOT4E5 (R162). -/
  | dot4e5 (d : BitVec 7) (a : BitVec 7) (b : BitVec 7)
  /-- CVT (R165). -/
  | cvt (d : BitVec 7) (a : BitVec 7) (m : BitVec 4)
  /-- QNT (R168). -/
  | qnt (d : BitVec 7) (a : BitVec 7) (b : BitVec 7) (s : BitVec 3)
  /-- DQNT (R169). -/
  | dqnt (d : BitVec 7) (a : BitVec 7) (b : BitVec 7) (s : BitVec 3)
  /-- UNPK3 (R170). -/
  | unpk3 (d : BitVec 7) (a : BitVec 7) (n : BitVec 2)
  /-- EXP2 (R171). -/
  | exp2 (d : BitVec 7) (a : BitVec 7) (b : BitVec 7)
  /-- EXP (R171). -/
  | exp (d : BitVec 7) (a : BitVec 7) (b : BitVec 7)
  /-- LOG2 (R171). -/
  | log2 (d : BitVec 7) (a : BitVec 7) (b : BitVec 7)
  /-- RCP (R171). -/
  | rcp (d : BitVec 7) (a : BitVec 7) (b : BitVec 7)
  /-- RSQRT (R171). -/
  | rsqrt (d : BitVec 7) (a : BitVec 7) (b : BitVec 7)
  /-- SQRT (R171). -/
  | sqrt (d : BitVec 7) (a : BitVec 7) (b : BitVec 7)
  /-- SIN (R171). -/
  | sin (d : BitVec 7) (a : BitVec 7) (b : BitVec 7)
  /-- COS (R171). -/
  | cos (d : BitVec 7) (a : BitVec 7) (b : BitVec 7)
  /-- TANH (R171). -/
  | tanh (d : BitVec 7) (a : BitVec 7) (b : BitVec 7)
  /-- SIGM (R171). -/
  | sigm (d : BitVec 7) (a : BitVec 7) (b : BitVec 7)
  /-- GELU (R171). -/
  | gelu (d : BitVec 7) (a : BitVec 7) (b : BitVec 7)
  /-- PAND (R163). -/
  | pand (d : BitVec 7) (a : BitVec 7) (b : BitVec 7)
  /-- POR (R163). -/
  | por (d : BitVec 7) (a : BitVec 7) (b : BitVec 7)
  /-- PXOR (R163). -/
  | pxor (d : BitVec 7) (a : BitVec 7) (b : BitVec 7)
  /-- PANDN (R163). -/
  | pandn (d : BitVec 7) (a : BitVec 7) (b : BitVec 7)
  /-- PNOT (R163). -/
  | pnot (d : BitVec 7) (a : BitVec 7)
  /-- PMOV (R163). -/
  | pmov (d : BitVec 7) (a : BitVec 7)
  /-- PSET (R163). -/
  | pset (d : BitVec 7)
  /-- PCLR (R163). -/
  | pclr (d : BitVec 7)
  /-- LD (R178). -/
  | ld (d : BitVec 7) (a : BitVec 7) (z : BitVec 3) (o : BitVec 2) (k : BitVec 3)
  /-- ST (R178). -/
  | st (d : BitVec 7) (a : BitVec 7) (z : BitVec 3) (o : BitVec 2) (k : BitVec 3)
  /-- LDNR (R180). -/
  | ldnr (d : BitVec 7) (a : BitVec 7) (z : BitVec 3) (o : BitVec 2) (k : BitVec 3) (p : BitVec 3)
  /-- LDT_WAITFULL (R181). -/
  | ldtWaitfull (d : BitVec 7) (a : BitVec 7) (z : BitVec 1) (k : BitVec 3)
  /-- LDT_TAKE (R181). -/
  | ldtTake (d : BitVec 7) (a : BitVec 7) (z : BitVec 1) (k : BitVec 3)
  /-- LDT_PEEKTAG (R181). -/
  | ldtPeektag (d : BitVec 7) (a : BitVec 7) (z : BitVec 1) (k : BitVec 3)
  /-- STT_PUT (R181). -/
  | sttPut (d : BitVec 7) (a : BitVec 7) (z : BitVec 1) (k : BitVec 3)
  /-- STT_FILL (R181). -/
  | sttFill (d : BitVec 7) (a : BitVec 7) (z : BitVec 1) (k : BitVec 3)
  /-- STT_DRAIN (R181). -/
  | sttDrain (d : BitVec 7) (a : BitVec 7) (z : BitVec 1) (k : BitVec 3)
  /-- ATOM (R183). -/
  | atom (d : BitVec 7) (a : BitVec 7) (b : BitVec 7) (o : BitVec 4)
  /-- ARED (R184). -/
  | ared (a : BitVec 7) (b : BitVec 7) (o : BitVec 4)
  /-- LPERM (R208). -/
  | lperm (d : BitVec 7) (a : BitVec 7) (b : BitVec 7) (m : BitVec 4)
  /-- LSENSE (R209). -/
  | lsense (d : BitVec 7) (a : BitVec 7) (m : BitVec 4)
  /-- LFOLD (R210). -/
  | lfold (d : BitVec 7) (a : BitVec 7) (m : BitVec 4)
  /-- SCAN (R211). -/
  | scan (d : BitVec 7) (a : BitVec 7) (m : BitVec 4)
  /-- BRL (R200). -/
  | brl (p : BitVec 5) (o : BitVec 18)
  /-- RNG (R174). -/
  | rng (d : BitVec 7)
  /-- RNGSEED (R175). -/
  | rngseed (a : BitVec 7)
  /-- TRD (R218). -/
  | trd (d : BitVec 7) (t : BitVec 4) (c : BitVec 5) (n : BitVec 5)
  /-- TWR (R218). -/
  | twr (d : BitVec 7) (t : BitVec 4) (c : BitVec 5) (n : BitVec 5)
  /-- UADD (R195). -/
  | uadd (d : BitVec 7) (a : BitVec 7) (b : BitVec 7)
  /-- USUB (R195). -/
  | usub (d : BitVec 7) (a : BitVec 7) (b : BitVec 7)
  /-- UMUL (R195). -/
  | umul (d : BitVec 7) (a : BitVec 7) (b : BitVec 7)
  /-- UMULHU (R195). -/
  | umulhu (d : BitVec 7) (a : BitVec 7) (b : BitVec 7)
  /-- UALU_UMIN (R195). -/
  | ualuUmin (d : BitVec 7) (a : BitVec 7) (b : BitVec 7)
  /-- UALU_UMAX (R195). -/
  | ualuUmax (d : BitVec 7) (a : BitVec 7) (b : BitVec 7)
  /-- UALU_AND (R195). -/
  | ualuAnd (d : BitVec 7) (a : BitVec 7) (b : BitVec 7)
  /-- UALU_OR (R195). -/
  | ualuOr (d : BitVec 7) (a : BitVec 7) (b : BitVec 7)
  /-- UALU_XOR (R195). -/
  | ualuXor (d : BitVec 7) (a : BitVec 7) (b : BitVec 7)
  /-- UALU_SHL (R195). -/
  | ualuShl (d : BitVec 7) (a : BitVec 7) (b : BitVec 7)
  /-- UALU_SHR (R195). -/
  | ualuShr (d : BitVec 7) (a : BitVec 7) (b : BitVec 7)
  /-- UALU_SHRA (R195). -/
  | ualuShra (d : BitVec 7) (a : BitVec 7) (b : BitVec 7)
  /-- UADDI (R196). -/
  | uaddi (d : BitVec 7) (a : BitVec 7) (i : BitVec 11)
  /-- UMOVI (R196). -/
  | umovi (d : BitVec 7) (i : BitVec 18)
  /-- UADDX (R197). -/
  | uaddx (d : BitVec 7) (a : BitVec 7) (b : BitVec 7)
  /-- USUBX (R197). -/
  | usubx (d : BitVec 7) (a : BitVec 7) (b : BitVec 7)
  /-- UMULW (R197). -/
  | umulw (d : BitVec 7) (a : BitVec 7) (b : BitVec 7)
  /-- ULEA (R140). -/
  | ulea (d : BitVec 7) (a : BitVec 7) (b : BitVec 7) (s : BitVec 2)
  /-- UCMP (R198). -/
  | ucmp (d : BitVec 7) (a : BitVec 7) (b : BitVec 7) (c : BitVec 4)
  /-- UCMPI (R198). -/
  | ucmpi (d : BitVec 7) (a : BitVec 7) (c : BitVec 4) (i : BitVec 7)
  /-- BRA (R199). -/
  | bra (p : BitVec 5) (m : BitVec 2) (o : BitVec 18)
  /-- CALL (R201). -/
  | call (o : BitVec 18)
  /-- NOP (R202). -/
  | nop
  /-- EXIT (R202). -/
  | exit
  /-- YIELD (R202). -/
  | yield
  /-- BRK (R202). -/
  | brk
  /-- TRAP (R202). -/
  | trap (a : BitVec 7)
  /-- RET (R201). -/
  | ret (a : BitVec 7)
  /-- BRR (R201). -/
  | brr (a : BitVec 7)
  /-- CALLR (R201). -/
  | callr (a : BitVec 7)
  /-- SREAD (R203). -/
  | sread (d : BitVec 7) (n : BitVec 7)
  /-- SWRITE (R203). -/
  | swrite (a : BitVec 7) (n : BitVec 7)
  /-- RQUOTA (R204). -/
  | rquota (a : BitVec 7) (b : BitVec 7)
  /-- RDLANE (R205). -/
  | rdlane (d : BitVec 7) (a : BitVec 7) (b : BitVec 7)
  /-- WRLANE (R205). -/
  | wrlane (d : BitVec 7) (a : BitVec 7) (b : BitVec 7)
  /-- RJSET (R206). -/
  | rjset (j : BitVec 7)
  /-- RJWAIT (R206). -/
  | rjwait (j : BitVec 7)
  /-- RJCLR (R206). -/
  | rjclr (j : BitVec 7)
  /-- RJREAD (R206). -/
  | rjread (d : BitVec 7) (j : BitVec 7)
  /-- BAR_TEAM (R187). -/
  | barTeam
  /-- BAR_CLUSTER (R187). -/
  | barCluster
  /-- ARRIVE_TEAM (R187). -/
  | arriveTeam
  /-- WAIT_TEAM (R187). -/
  | waitTeam
  /-- ARRIVE_CLUSTER (R187). -/
  | arriveCluster
  /-- WAIT_CLUSTER (R187). -/
  | waitCluster
  /-- FENCE (R186). -/
  | fence (k : BitVec 4)
  /-- BOINIT (R188). -/
  | boinit (a : BitVec 7)
  /-- BOEXP (R188). -/
  | boexp (a : BitVec 7) (b : BitVec 7)
  /-- BOARR (R188). -/
  | boarr (a : BitVec 7) (b : BitVec 7)
  /-- BOWAIT (R188). -/
  | bowait (d : BitVec 7) (a : BitVec 7) (b : BitVec 7)
  /-- BOTEST (R188). -/
  | botest (d : BitVec 7) (a : BitVec 7) (b : BitVec 7)
  /-- BOFAULT (R188). -/
  | bofault (a : BitVec 7) (b : BitVec 7)
  /-- TKINIT (R191). -/
  | tkinit (a : BitVec 7)
  /-- TKGET (R191). -/
  | tkget (d : BitVec 7) (a : BitVec 7) (b : BitVec 7)
  /-- TKWAIT (R191). -/
  | tkwait (d : BitVec 7) (a : BitVec 7) (b : BitVec 7)
  /-- TKNEXT (R191). -/
  | tknext (d : BitVec 7) (a : BitVec 7)
  /-- DQINIT (R193). -/
  | dqinit (a : BitVec 7) (b : BitVec 7)
  /-- DQPUSH (R193). -/
  | dqpush (d : BitVec 7) (a : BitVec 7) (b : BitVec 7)
  /-- DQPOP (R193). -/
  | dqpop (d : BitVec 7) (a : BitVec 7)
  /-- DQSTEAL (R193). -/
  | dqsteal (d : BitVec 7) (a : BitVec 7)
  /-- ARFLUSH (R185). -/
  | arflush
  /-- ARSTAT (R185). -/
  | arstat (d : BitVec 7)
  /-- WPREAD (R189). -/
  | wpread (d : BitVec 7) (a : BitVec 7)
  /-- WPWAIT (R189). -/
  | wpwait (d : BitVec 7) (a : BitVec 7) (b : BitVec 7)
  /-- TCONF (R215). -/
  | tconf (n : BitVec 7) (a : BitVec 7)
  /-- TCREAD (R215). -/
  | tcread (d : BitVec 7) (n : BitVec 7)
  /-- TZERO (R215). -/
  | tzero (n : BitVec 7)
  /-- TLD (R216). -/
  | tld (t : BitVec 4) (p : BitVec 7) (k : BitVec 7)
  /-- TST (R216). -/
  | tst (t : BitVec 4) (p : BitVec 7) (k : BitVec 7)
  /-- TLDT (R216). -/
  | tldt (t : BitVec 4) (p : BitVec 7) (k : BitVec 7)
  /-- MMA (R222). -/
  | mma (d : BitVec 4) (a : BitVec 4) (b : BitVec 4) (s : BitVec 3) (u : BitVec 6)
  /-- MMAQ (R224). -/
  | mmaq (d : BitVec 4) (a : BitVec 4) (b : BitVec 4) (s : BitVec 3) (u : BitVec 6)
  /-- MMAT (R222). -/
  | mmat (d : BitVec 4) (a : BitVec 4) (b : BitVec 4) (s : BitVec 3) (u : BitVec 6)
  /-- MMAB (R223). -/
  | mmab (d : BitVec 4) (a : BitVec 4) (b : BitVec 4) (s : BitVec 3) (u : BitVec 6)
  /-- TCVT (R226). -/
  | tcvt (d : BitVec 4) (a : BitVec 4) (b : BitVec 4) (s : BitVec 3) (u : BitVec 6)
  /-- TRMAX (R225). -/
  | trmax (d : BitVec 4) (a : BitVec 4) (b : BitVec 4) (s : BitVec 3) (u : BitVec 6)
  /-- TRSUM (R225). -/
  | trsum (d : BitVec 4) (a : BitVec 4) (b : BitVec 4) (s : BitVec 3) (u : BitVec 6)
  /-- TRSCL (R225). -/
  | trscl (d : BitVec 4) (a : BitVec 4) (b : BitVec 4) (s : BitVec 3) (u : BitVec 6)
  /-- TEXP2 (R225). -/
  | texp2 (d : BitVec 4) (a : BitVec 4) (b : BitVec 4) (s : BitVec 3) (u : BitVec 6)
  /-- TMOV (R225). -/
  | tmov (d : BitVec 4) (a : BitVec 4) (b : BitVec 4) (s : BitVec 3) (u : BitVec 6)
  /-- TMASK (R225). -/
  | tmask (d : BitVec 4) (a : BitVec 4) (b : BitVec 4) (s : BitVec 3) (u : BitVec 6)
  /-- CPY (R229). -/
  | cpy (d : BitVec 7) (a : BitVec 7) (w : BitVec 1) (c : BitVec 1)
  /-- CPYM (R232). -/
  | cpym (d : BitVec 7) (a : BitVec 7) (r : BitVec 1) (c : BitVec 1)
  /-- CPYC (R231). -/
  | cpyc (d : BitVec 7) (a : BitVec 7) (w : BitVec 1) (c : BitVec 1)
  /-- GATH (R233). -/
  | gath (d : BitVec 7) (a : BitVec 7)
  /-- SCAT (R233). -/
  | scat (d : BitVec 7) (a : BitVec 7)
  /-- CHAIN (R234). -/
  | chain (d : BitVec 7) (a : BitVec 7)
  /-- ALLRED (R237). -/
  | allred (d : BitVec 7) (a : BitVec 7)
  /-- ALLGATH (R237). -/
  | allgath (d : BitVec 7) (a : BitVec 7)
  /-- REDSCAT (R237). -/
  | redscat (d : BitVec 7) (a : BitVec 7)
  /-- BCAST (R237). -/
  | bcast (d : BitVec 7) (a : BitVec 7)
  /-- SVSUB (R241). -/
  | svsub (d : BitVec 7) (a : BitVec 7)
  /-- SVSWEEP (R240). -/
  | svsweep (d : BitVec 7)
  /-- SVPART (R242). -/
  | svpart (d : BitVec 7)
  /-- SVCLOSE (R243). -/
  | svclose (d : BitVec 7)
  /-- SVSTAT (R243). -/
  | svstat (d : BitVec 7)
  /-- SVSTAT_DESC (R243). -/
  | svstatDesc (d : BitVec 7)
  /-- SVCANCEL (R110). -/
  | svcancel (d : BitVec 7)
  /-- TOLNODE (R113). -/
  | tolnode (k : BitVec 7) (a : BitVec 7) (b : BitVec 7)
  /-- DEMAND (R115). -/
  | demand (a : BitVec 7) (b : BitVec 7)
  /-- TOLGET (R114). -/
  | tolget (d : BitVec 7) (a : BitVec 7)
  /-- FMTSEL (R118). -/
  | fmtsel (d : BitVec 7) (a : BitVec 7) (b : BitVec 7)
  /-- ITERSEL (R119). -/
  | itersel (d : BitVec 7) (a : BitVec 7) (b : BitVec 7)
  /-- TOLCHK (R117). -/
  | tolchk (d : BitVec 7)
  /-- TOLCLR (R117). -/
  | tolclr (a : BitVec 7)
  /-- TOLCLR_ALL (R117). -/
  | tolclrAll
  /-- LAUNCH (R318). -/
  | launch (d : BitVec 7)
  /-- LAUNCHQ (R319). -/
  | launchq (d : BitVec 7)
  /-- CTXNEW (R320). -/
  | ctxnew (d : BitVec 7)
  /-- CTXGRANT (R321). -/
  | ctxgrant (d : BitVec 7) (g : BitVec 5)
  /-- CTXFRZ (R322). -/
  | ctxfrz (d : BitVec 7)
  /-- CTXTHAW (R324). -/
  | ctxthaw (d : BitVec 7)
  /-- CTXCKPT (R325). -/
  | ctxckpt (d : BitVec 7) (t : BitVec 1)
  /-- CTXREST (R326). -/
  | ctxrest (d : BitVec 7)
  /-- CTXREVK (R327). -/
  | ctxrevk (d : BitVec 7)
  /-- CTXSTAT (R330). -/
  | ctxstat (d : BitVec 7)
  /-- CTXDBG_SETBP (R331). -/
  | ctxdbgSetbp (d : BitVec 7)
  /-- CTXDBG_CLRBP (R331). -/
  | ctxdbgClrbp (d : BitVec 7)
  /-- CTXDBG_RDSTATE (R331). -/
  | ctxdbgRdstate (d : BitVec 7)
  /-- CTXDBG_WRSTATE (R331). -/
  | ctxdbgWrstate (d : BitVec 7)
  /-- CTXDBG_STEP (R331). -/
  | ctxdbgStep (d : BitVec 7)
  /-- MAPG (R332). -/
  | mapg (d : BitVec 7)
  /-- UNMAPG (R333). -/
  | unmapg (d : BitVec 7)
  /-- PINV (R297). -/
  | pinv (d : BitVec 7)
  /-- PGREQ (R334). -/
  | pgreq (d : BitVec 7) (w : BitVec 1)
  /-- HQARM (R335). -/
  | hqarm (d : BitVec 7)
  /-- HQDISARM (R335). -/
  | hqdisarm (d : BitVec 7)
  /-- HQACK (R337). -/
  | hqack (d : BitVec 7) (a : BitVec 7) (b : BitVec 7)
  /-- ULD (R178). -/
  | uld (d : BitVec 7) (a : BitVec 7) (z : BitVec 3) (o : BitVec 2) (k : BitVec 3)
  /-- UST (R178). -/
  | ust (d : BitVec 7) (a : BitVec 7) (z : BitVec 3) (o : BitVec 2) (k : BitVec 3)
  /-- UATOM (R183). -/
  | uatom (d : BitVec 7) (a : BitVec 7) (b : BitVec 7) (o : BitVec 4)
  /-- XSCO (R134). -/
  | xsco (s : BitVec 3) (o : BitVec 2)
  /-- XMOD (R133). -/
  | xmod (a : BitVec 7) (b : BitVec 7) (w : BitVec 2) (i : BitVec 3) (t : BitVec 2) (r : BitVec 3) (s : BitVec 1)
  /-- XIMM (R132). -/
  | ximm (x : BitVec 25)
deriving DecidableEq, Repr

end Sys2Proof
end

