-- ==== Sys2Proof/WellFormed.lean ====
section
/-! DEFINITION. Which instructions are well formed: the reserved values of R37, R78, R125, R133, R134, R137 to R139, R206 and
R212 are refused here, so that no meaning meets one. A step of the machine is well formed when its operands lie in the
ranges the spec gives them. -/
namespace Sys2Proof

/-- A predicate field holds p0 to p23 (R142, R198, R207). -/
def predOk (x : BitVec 7) : Bool := decide (x.toNat < 24)

/-- The P field of a branch: p0 to p23, or 31 for always (R124). -/
def guardOk (x : BitVec 5) : Bool := decide (x.toNat < 24) || decide (x = 31)

/-- SCOPE names a scope of R78, and is 0 where ORD is plain (R176). -/
def scopeOk (ord : BitVec 2) (scope : BitVec 3) : Bool :=
  decide (scope.toNat < 5) && (decide (ord ≠ 0) || decide (scope = 0))

/-- No field of the instruction holds a reserved value. -/
def Instr.wf : Instr → Bool
  | .clauseStart _ => true
  | .longOpComplete _ => true
  | .rejoinDeadlock _ => true
  | .neighbourParityError _ _ => true
  | .clusterPlacement => true
  | .gridComplete _ => true
  | .taggedAccessArrival _ => true
  | .storePerformed _ => true
  | .flushMarkerGathered _ pkg => decide (pkg < 64)
  | .engineCommandAccept _ => true
  | .engineCommandStart _ => true
  | .engineAccess _ => true
  | .engineCommandComplete _ => true
  | .chainEntryStart _ => true
  | .collectiveMatch _ => true
  | .sweepStart _ => true
  | .pageCommit _ => true
  | .holeCommit _ => true
  | .pageArrival _ _ => true
  | .qsvNoticePush _ => true
  | .pageFetchFault _ => true
  | .partialMerge _ _ => true
  | .tolUnitTake _ => true
  | .doorbellKick index _ => decide (index < 8192)
  | .doorbellIgnoredWrite _ _ _ => true
  | .queueRecordStart slot => decide (slot < 128)
  | .queueMap die => decide (die < 2)
  | .queueAgeingTick => true
  | .refillBoundary => true
  | .torusPacketSend _ _ _ => true
  | .drainLatencyExpiry _ => true
  | .teamSave _ => true
  | .teamRestore _ => true
  | .recordDelivery => true
  | .hostEventRingWrite => true
  | .evreadWrite _ => true
  | .eventRingConfigWrite _ _ => true
  | .controlRegisterWrite _ _ => true
  | .mailboxOverrun => true
  | .mailboxUnknownCommand => true
  | .mailboxComplete => true
  | .insetnew => true
  | .insetgrant => true
  | .freeze => true
  | .thaw => true
  | .ckpt => true
  | .rest => true
  | .revoke => true
  | .stat => true
  | .map => true
  | .unmap => true
  | .inval => true
  | .rootmap => true
  | .rootunmap => true
  | .dbset => true
  | .dbclr => true
  | .rgtset => true
  | .rgtwithdraw => true
  | .gangset => true
  | .hotread => true
  | .timeset => true
  | .loadfw => true
  | .hostMemoryAccess _ offset bytes => decide (offset + bytes.length ≤ 68719476736)
  | .flitCrcFailure => true
  | .deviceReset _ => true
  | .bootRomComplete => true
  | .firmwareVerifyComplete _ _ _ => true
  | .coreRowWake _ => true
  | .matrixRampStep _ => true
  | .fabricPacketReceive pkg path _ => decide (pkg < 64) && decide (path < 8)
  | .remoteRequestCheck pkg _ _ _ _ => decide (pkg < 64)
  | .packetRetransmit pkg _ => decide (pkg < 64)
  | .pathRemoval pkg path => decide (pkg < 64) && decide (path < 8)
  | .ptpSync _ => true
  | .gangTick => true
  | .gangReady pkg => decide (pkg < 64)
  | .gangDecision => true
  | .commit => true
  | .abort => true
  | .fleetGenSample => true
  | .powerStateEntry => true
  | .powerStateExit => true
  | .shedStep _ => true
  | .shedUndo _ => true
  | .throttleStep _ => true
  | .throttleUndo _ => true
  | .throttleFloorReport _ => true
  | .memoryErrorDetected _ _ _ _ _ _ => true
  | .burstTagFailure _ _ => true
  | .killConfirm slot die => decide (slot < 64) && decide (die < 8)
  | .getVersion => true
  | .getCapabilities => true
  | .negotiateAlgorithms _ => true
  | .getDigests => true
  | .getCertificate _ => true
  | .challenge _ _ => true
  | .getMeasurements _ _ => true
  | .keyExchange _ => true
  | .finish _ => true
  | .endSession => true
  | .keyload slot _ => decide (slot < 64)
  | .keykill slot => decide (slot < 64)
  | .keystat slot => decide (slot < 64)
  | .sealInset _ _ _ _ => true
  | .unsealInset _ _ => true
  | .migout _ _ => true
  | .migin _ _ _ => true
  | .verified _ _ => true
  | .erased _ _ => true
  | .active _ _ => true
  | .aborted _ _ => true
  | .migabort _ => true
  | .migstat _ => true
  | .erasedRequest _ => true
  | .erasedResend _ => true
  | .holdexpired _ => true
  | .linkRetrainComplete => true
  | .pathReturn pkg path => decide (pkg < 64) && decide (path < 8)
  | .requestBoundPassed _ => true
  | .freshTopLevelLeaf => true
  | .iadd _ _ _ => true
  | .isub _ _ _ => true
  | .imul _ _ _ => true
  | .imulh _ _ _ => true
  | .imulhu _ _ _ => true
  | .imin _ _ _ => true
  | .imax _ _ _ => true
  | .umin _ _ _ => true
  | .umax _ _ _ => true
  | .and _ _ _ => true
  | .or _ _ _ => true
  | .xor _ _ _ => true
  | .shl _ _ _ => true
  | .shr _ _ _ => true
  | .shra _ _ _ => true
  | .rotr _ _ _ => true
  | .idiv _ _ _ => true
  | .udiv _ _ _ => true
  | .irem _ _ _ => true
  | .urem _ _ _ => true
  | .popc _ _ => true
  | .clz _ _ => true
  | .brev _ _ => true
  | .iabs _ _ => true
  | .bfx _ _ _ => true
  | .bfxu _ _ _ => true
  | .bfi _ _ _ => true
  | .andn _ _ _ => true
  | .iaddi _ _ _ => true
  | .andi _ _ _ => true
  | .ori _ _ _ => true
  | .xori _ _ _ => true
  | .shli _ _ _ => true
  | .shri _ _ _ => true
  | .shrai _ _ _ => true
  | .rotri _ _ _ => true
  | .imad _ _ _ => true
  | .imadu _ _ _ => true
  | .imadh _ _ _ => true
  | .imadhu _ _ _ => true
  | .iaddx _ _ _ => true
  | .isubx _ _ _ => true
  | .shlx _ _ _ => true
  | .shrx _ _ _ => true
  | .shrax _ _ _ => true
  | .imulw _ _ _ => true
  | .imulwu _ _ _ => true
  | .leaS0 _ _ _ => true
  | .leaS1 _ _ _ => true
  | .leaS2 _ _ _ => true
  | .leaS3 _ _ _ => true
  | .mov _ _ => true
  | .movx _ _ => true
  | .ptov _ => true
  | .vtop _ => true
  | .movi _ _ => true
  | .sel _ _ _ _ => true
  | .icmp d _ _ c => predOk d && decide (c.toNat < 10)
  | .icmpi d _ c _ => predOk d && decide (c.toNat < 10)
  | .fadd _ _ _ => true
  | .fsub _ _ _ => true
  | .fmul _ _ _ => true
  | .fmin _ _ _ => true
  | .fmax _ _ _ => true
  | .fcopysign _ _ _ => true
  | .ffma _ _ _ => true
  | .ffms _ _ _ => true
  | .ffnma _ _ _ => true
  | .ffnms _ _ _ => true
  | .fcmp d _ _ c => predOk d && decide (c.toNat < 8)
  | .frndn _ _ => true
  | .frndz _ _ => true
  | .frndd _ _ => true
  | .frndu _ _ => true
  | .fclass _ _ => true
  | .fabs _ _ => true
  | .fneg _ _ => true
  | .hadd2 _ _ _ => true
  | .hsub2 _ _ _ => true
  | .hmul2 _ _ _ => true
  | .hfma2 _ _ _ => true
  | .hmin2 _ _ _ => true
  | .hmax2 _ _ _ => true
  | .badd2 _ _ _ => true
  | .bsub2 _ _ _ => true
  | .bmul2 _ _ _ => true
  | .bfma2 _ _ _ => true
  | .bmin2 _ _ _ => true
  | .bmax2 _ _ _ => true
  | .dot4s8 _ _ _ => true
  | .dot4u8 _ _ _ => true
  | .dot4su8 _ _ _ => true
  | .dot8s4 _ _ _ => true
  | .dot2h _ _ _ => true
  | .dot2b _ _ _ => true
  | .dot4e4 _ _ _ => true
  | .dot4e5 _ _ _ => true
  | .cvt _ _ m => decide (m.toNat < 8)
  | .qnt _ _ _ _ => true
  | .dqnt _ _ _ _ => true
  | .unpk3 _ _ _ => true
  | .exp2 _ _ _ => true
  | .exp _ _ _ => true
  | .log2 _ _ _ => true
  | .rcp _ _ _ => true
  | .rsqrt _ _ _ => true
  | .sqrt _ _ _ => true
  | .sin _ _ _ => true
  | .cos _ _ _ => true
  | .tanh _ _ _ => true
  | .sigm _ _ _ => true
  | .gelu _ _ _ => true
  | .pand d a b => predOk d && predOk a && predOk b
  | .por d a b => predOk d && predOk a && predOk b
  | .pxor d a b => predOk d && predOk a && predOk b
  | .pandn d a b => predOk d && predOk a && predOk b
  | .pnot d a => predOk d && predOk a
  | .pmov d a => predOk d && predOk a
  | .pset d => predOk d
  | .pclr d => predOk d
  | .ld _ _ z o k => decide (z.toNat < 5) && scopeOk o k
  | .st _ _ z o k => decide (z.toNat < 5) && scopeOk o k
  | .ldnr _ _ z o k _ => decide (z.toNat < 5) && scopeOk o k
  | .ldtWaitfull _ _ _ k => decide (k.toNat < 5)
  | .ldtTake _ _ _ k => decide (k.toNat < 5)
  | .ldtPeektag _ _ _ k => decide (k.toNat < 5)
  | .sttPut _ _ _ k => decide (k.toNat < 5)
  | .sttFill _ _ _ k => decide (k.toNat < 5)
  | .sttDrain _ _ _ k => decide (k.toNat < 5)
  | .atom _ _ _ o => decide (o.toNat < 14)
  | .ared _ _ o => decide (o.toNat < 11)
  | .lperm _ _ b m => decide (m.toNat < 4) && (decide (m ≠ 3) || decide (b = 0))
  | .lsense d a m => decide (m.toNat < 5) && (decide (m = 3) || predOk a) && (decide (1 < m.toNat) || predOk d)
  | .lfold _ _ m => decide (m.toNat < 11)
  | .scan _ _ m => decide (m.toNat < 4)
  | .brl p _ => guardOk p
  | .rng _ => true
  | .rngseed _ => true
  | .trd _ _ _ _ => true
  | .twr _ _ _ _ => true
  | .uadd _ _ _ => true
  | .usub _ _ _ => true
  | .umul _ _ _ => true
  | .umulhu _ _ _ => true
  | .ualuUmin _ _ _ => true
  | .ualuUmax _ _ _ => true
  | .ualuAnd _ _ _ => true
  | .ualuOr _ _ _ => true
  | .ualuXor _ _ _ => true
  | .ualuShl _ _ _ => true
  | .ualuShr _ _ _ => true
  | .ualuShra _ _ _ => true
  | .uaddi _ _ _ => true
  | .umovi _ _ => true
  | .uaddx _ _ _ => true
  | .usubx _ _ _ => true
  | .umulw _ _ _ => true
  | .ulea _ _ _ _ => true
  | .ucmp d _ _ c => predOk d && decide (c.toNat < 10)
  | .ucmpi d _ c _ => predOk d && decide (c.toNat < 10)
  | .bra p _ _ => guardOk p
  | .call _ => true
  | .nop => true
  | .exit => true
  | .yield => true
  | .brk => true
  | .trap _ => true
  | .ret _ => true
  | .brr _ => true
  | .callr _ => true
  | .sread _ _ => true
  | .swrite _ _ => true
  | .rquota _ _ => true
  | .rdlane _ _ _ => true
  | .wrlane _ _ _ => true
  | .rjset j => decide (j.toNat < 8)
  | .rjwait j => decide (j.toNat < 8)
  | .rjclr j => decide (j.toNat < 8)
  | .rjread _ j => decide (j.toNat < 8)
  | .barTeam => true
  | .barCluster => true
  | .arriveTeam => true
  | .waitTeam => true
  | .arriveCluster => true
  | .waitCluster => true
  | .fence k => decide (k.toNat < 5)
  | .boinit _ => true
  | .boexp _ _ => true
  | .boarr _ _ => true
  | .bowait _ _ _ => true
  | .botest _ _ _ => true
  | .bofault _ _ => true
  | .tkinit _ => true
  | .tkget _ _ _ => true
  | .tkwait _ _ _ => true
  | .tknext _ _ => true
  | .dqinit _ _ => true
  | .dqpush _ _ _ => true
  | .dqpop _ _ => true
  | .dqsteal _ _ => true
  | .arflush => true
  | .arstat _ => true
  | .wpread _ _ => true
  | .wpwait _ _ _ => true
  | .tconf n _ => decide (n.toNat < 16)
  | .tcread _ n => decide (n.toNat < 16)
  | .tzero n => decide (n.toNat < 16)
  | .tld _ _ _ => true
  | .tst _ _ _ => true
  | .tldt _ _ _ => true
  | .mma _ _ _ _ u => decide (u.toNat < 16)
  | .mmaq _ _ _ _ u => decide (u.toNat < 16)
  | .mmat _ _ _ _ u => decide (u.toNat < 16)
  | .mmab _ _ _ _ u => decide (u.toNat < 16)
  | .tcvt _ _ b _ u => decide (b = 0) && decide (u.toNat / 8 < 6) && (!u.getLsbD 1 || decide (u.toNat / 4 = 0))
  | .trmax _ _ b s _ => decide (b = 0) && decide (s = 0)
  | .trsum _ _ b s _ => decide (b = 0) && decide (s = 0)
  | .trscl _ _ _ s _ => decide (s = 0)
  | .texp2 _ _ _ s u => decide (s = 0) && decide (u.toNat < 32)
  | .tmov _ _ b s u => decide (b = 0) && decide (s = 0) && decide (u.toNat < 32)
  | .tmask _ _ _ s u => decide (s = 0) && decide (u.toNat < 32)
  | .cpy _ _ _ _ => true
  | .cpym _ _ _ _ => true
  | .cpyc _ _ _ _ => true
  | .gath _ _ => true
  | .scat _ _ => true
  | .chain _ _ => true
  | .allred _ _ => true
  | .allgath _ _ => true
  | .redscat _ _ => true
  | .bcast _ _ => true
  | .svsub _ _ => true
  | .svsweep _ => true
  | .svpart _ => true
  | .svclose _ => true
  | .svstat _ => true
  | .svstatDesc _ => true
  | .svcancel _ => true
  | .tolnode _ _ _ => true
  | .demand _ _ => true
  | .tolget _ _ => true
  | .fmtsel _ _ _ => true
  | .itersel _ _ _ => true
  | .tolchk _ => true
  | .tolclr _ => true
  | .tolclrAll => true
  | .launch _ => true
  | .launchq _ => true
  | .ctxnew _ => true
  | .ctxgrant _ _ => true
  | .ctxfrz _ => true
  | .ctxthaw _ => true
  | .ctxckpt _ _ => true
  | .ctxrest _ => true
  | .ctxrevk _ => true
  | .ctxstat _ => true
  | .ctxdbgSetbp _ => true
  | .ctxdbgClrbp _ => true
  | .ctxdbgRdstate _ => true
  | .ctxdbgWrstate _ => true
  | .ctxdbgStep _ => true
  | .mapg _ => true
  | .unmapg _ => true
  | .pinv _ => true
  | .pgreq _ _ => true
  | .hqarm _ => true
  | .hqdisarm _ => true
  | .hqack _ _ _ => true
  | .uld _ _ z o k => decide (z.toNat < 5) && scopeOk o k
  | .ust _ _ z o k => decide (z.toNat < 5) && scopeOk o k
  | .uatom _ _ _ o => decide (o.toNat < 14)
  | .xsco s _ => decide (s.toNat < 5)
  | .xmod _ _ _ _ _ r _ => decide (r.toNat < 6)
  | .ximm _ => true

/-- The predicate the statements use. -/
abbrev Instr.WellFormed (i : Instr) : Prop := i.wf = true

end Sys2Proof
end

