-- ==== Sys2Proof/Decode.lean ====
section
/-! DEFINITION. The decoder of Tamrax words and of clause headers, and the encoder.
A word is read as a number, bit 0 least significant (R3); its fields stand where R124 puts them, its selecting values
where R138 to R140 put them. A word that is no legal instruction is refused by name (R137). -/
namespace Sys2Proof

/-- Why a word is no legal instruction (R137); `illegalOperand` is the one case the spec answers with an
illegal-operand event instead (R80, R244, R331). -/
inductive DecodeError where
  | reservedMajor
  | reservedMinor
  | reservedField
  | reservedValue
  | clauseMark
  | illegalOperand
deriving DecidableEq, Repr

namespace Decode

/-- Bits [lo + w - 1 : lo] of the word as a number. -/
def bits (n lo w : Nat) : Nat := n / 2 ^ lo % 2 ^ w

/-- The same bits as a field. -/
def fld (n lo w : Nat) : BitVec w := BitVec.ofNat w (n / 2 ^ lo)

/-! The functions that build an instruction stand in a noncomputable section: Lean's code generator limits a data
constructor's number, and an instruction set of this size passes the limit. The kernel evaluates them all the same. -/
noncomputable section

/-- Lane major 0: IADD ISUB IMUL IMULH IMULHU IMIN IMAX UMIN UMAX AND OR XOR SHL SHR SHRA ROTR (R138). -/
def lane0 (n : Nat) : Except DecodeError Instr :=
  match bits n 0 4 with
  | 0 => .ok (.iadd (fld n 18 7) (fld n 11 7) (fld n 4 7))
  | 1 => .ok (.isub (fld n 18 7) (fld n 11 7) (fld n 4 7))
  | 2 => .ok (.imul (fld n 18 7) (fld n 11 7) (fld n 4 7))
  | 3 => .ok (.imulh (fld n 18 7) (fld n 11 7) (fld n 4 7))
  | 4 => .ok (.imulhu (fld n 18 7) (fld n 11 7) (fld n 4 7))
  | 5 => .ok (.imin (fld n 18 7) (fld n 11 7) (fld n 4 7))
  | 6 => .ok (.imax (fld n 18 7) (fld n 11 7) (fld n 4 7))
  | 7 => .ok (.umin (fld n 18 7) (fld n 11 7) (fld n 4 7))
  | 8 => .ok (.umax (fld n 18 7) (fld n 11 7) (fld n 4 7))
  | 9 => .ok (.and (fld n 18 7) (fld n 11 7) (fld n 4 7))
  | 10 => .ok (.or (fld n 18 7) (fld n 11 7) (fld n 4 7))
  | 11 => .ok (.xor (fld n 18 7) (fld n 11 7) (fld n 4 7))
  | 12 => .ok (.shl (fld n 18 7) (fld n 11 7) (fld n 4 7))
  | 13 => .ok (.shr (fld n 18 7) (fld n 11 7) (fld n 4 7))
  | 14 => .ok (.shra (fld n 18 7) (fld n 11 7) (fld n 4 7))
  | _ => .ok (.rotr (fld n 18 7) (fld n 11 7) (fld n 4 7))

/-- Lane major 1: IDIV UDIV IREM UREM POPC CLZ BREV IABS BFX BFXU BFI ANDN (R138). -/
def lane1 (n : Nat) : Except DecodeError Instr :=
  match bits n 0 4 with
  | 0 => .ok (.idiv (fld n 18 7) (fld n 11 7) (fld n 4 7))
  | 1 => .ok (.udiv (fld n 18 7) (fld n 11 7) (fld n 4 7))
  | 2 => .ok (.irem (fld n 18 7) (fld n 11 7) (fld n 4 7))
  | 3 => .ok (.urem (fld n 18 7) (fld n 11 7) (fld n 4 7))
  | 4 => if bits n 4 7 = 0 then .ok (.popc (fld n 18 7) (fld n 11 7)) else .error .reservedField
  | 5 => if bits n 4 7 = 0 then .ok (.clz (fld n 18 7) (fld n 11 7)) else .error .reservedField
  | 6 => if bits n 4 7 = 0 then .ok (.brev (fld n 18 7) (fld n 11 7)) else .error .reservedField
  | 7 => if bits n 4 7 = 0 then .ok (.iabs (fld n 18 7) (fld n 11 7)) else .error .reservedField
  | 8 => .ok (.bfx (fld n 18 7) (fld n 11 7) (fld n 4 7))
  | 9 => .ok (.bfxu (fld n 18 7) (fld n 11 7) (fld n 4 7))
  | 10 => .ok (.bfi (fld n 18 7) (fld n 11 7) (fld n 4 7))
  | 11 => .ok (.andn (fld n 18 7) (fld n 11 7) (fld n 4 7))
  | _ => .error .reservedMinor

/-- Lane major 2: IADDI (R138). -/
def lane2 (n : Nat) : Except DecodeError Instr :=
  .ok (.iaddi (fld n 18 7) (fld n 11 7) (fld n 0 11))

/-- Lane major 3: ANDI (R138). -/
def lane3 (n : Nat) : Except DecodeError Instr :=
  .ok (.andi (fld n 18 7) (fld n 11 7) (fld n 0 11))

/-- Lane major 4: ORI (R138). -/
def lane4 (n : Nat) : Except DecodeError Instr :=
  .ok (.ori (fld n 18 7) (fld n 11 7) (fld n 0 11))

/-- Lane major 5: XORI (R138). -/
def lane5 (n : Nat) : Except DecodeError Instr :=
  .ok (.xori (fld n 18 7) (fld n 11 7) (fld n 0 11))

/-- Lane major 6: SHLI SHRI SHRAI ROTRI (R138). -/
def lane6 (n : Nat) : Except DecodeError Instr :=
  match bits n 9 2 with
  | 0 => if bits n 5 4 = 0 then .ok (.shli (fld n 18 7) (fld n 11 7) (fld n 0 5)) else .error .reservedField
  | 1 => if bits n 5 4 = 0 then .ok (.shri (fld n 18 7) (fld n 11 7) (fld n 0 5)) else .error .reservedField
  | 2 => if bits n 5 4 = 0 then .ok (.shrai (fld n 18 7) (fld n 11 7) (fld n 0 5)) else .error .reservedField
  | _ => if bits n 5 4 = 0 then .ok (.rotri (fld n 18 7) (fld n 11 7) (fld n 0 5)) else .error .reservedField

/-- Lane major 7: IMAD IMADU IMADH IMADHU (R138). -/
def lane7 (n : Nat) : Except DecodeError Instr :=
  match bits n 0 4 with
  | 0 => .ok (.imad (fld n 18 7) (fld n 11 7) (fld n 4 7))
  | 1 => .ok (.imadu (fld n 18 7) (fld n 11 7) (fld n 4 7))
  | 2 => .ok (.imadh (fld n 18 7) (fld n 11 7) (fld n 4 7))
  | 3 => .ok (.imadhu (fld n 18 7) (fld n 11 7) (fld n 4 7))
  | _ => .error .reservedMinor

/-- Lane major 8: IADDX ISUBX SHLX SHRX SHRAX IMULW IMULWU LEA (R138). -/
def lane8 (n : Nat) : Except DecodeError Instr :=
  match bits n 0 4 with
  | 0 => .ok (.iaddx (fld n 18 7) (fld n 11 7) (fld n 4 7))
  | 1 => .ok (.isubx (fld n 18 7) (fld n 11 7) (fld n 4 7))
  | 2 => .ok (.shlx (fld n 18 7) (fld n 11 7) (fld n 4 7))
  | 3 => .ok (.shrx (fld n 18 7) (fld n 11 7) (fld n 4 7))
  | 4 => .ok (.shrax (fld n 18 7) (fld n 11 7) (fld n 4 7))
  | 5 => .ok (.imulw (fld n 18 7) (fld n 11 7) (fld n 4 7))
  | 6 => .ok (.imulwu (fld n 18 7) (fld n 11 7) (fld n 4 7))
  | 8 => .ok (.leaS0 (fld n 18 7) (fld n 11 7) (fld n 4 7))
  | 7 => .ok (.leaS1 (fld n 18 7) (fld n 11 7) (fld n 4 7))
  | 11 => .ok (.leaS2 (fld n 18 7) (fld n 11 7) (fld n 4 7))
  | 15 => .ok (.leaS3 (fld n 18 7) (fld n 11 7) (fld n 4 7))
  | _ => .error .reservedMinor

/-- Lane major 9: MOV MOVX PTOV VTOP (R138). -/
def lane9 (n : Nat) : Except DecodeError Instr :=
  match bits n 0 4 with
  | 0 => if bits n 4 7 = 0 then .ok (.mov (fld n 18 7) (fld n 11 7)) else .error .reservedField
  | 1 => if bits n 4 7 = 0 then .ok (.movx (fld n 18 7) (fld n 11 7)) else .error .reservedField
  | 2 => if bits n 4 14 = 0 then .ok (.ptov (fld n 18 7)) else .error .reservedField
  | 3 => if bits n 4 7 = 0 ∧ bits n 18 7 = 0 then .ok (.vtop (fld n 11 7)) else .error .reservedField
  | _ => .error .reservedMinor

/-- Lane major 10: MOVI (R138). -/
def lane10 (n : Nat) : Except DecodeError Instr :=
  .ok (.movi (fld n 18 7) (fld n 0 18))

/-- Lane major 11: SEL (R138). -/
def lane11 (n : Nat) : Except DecodeError Instr :=
  .ok (.sel (fld n 18 7) (fld n 11 7) (fld n 4 7) (fld n 0 4))

/-- Lane major 12: ICMP (R138). -/
def lane12 (n : Nat) : Except DecodeError Instr :=
  .ok (.icmp (fld n 18 7) (fld n 11 7) (fld n 4 7) (fld n 0 4))

/-- Lane major 13: ICMPI (R138). -/
def lane13 (n : Nat) : Except DecodeError Instr :=
  .ok (.icmpi (fld n 18 7) (fld n 11 7) (fld n 7 4) (fld n 0 7))

/-- Lane major 14: FADD FSUB FMUL FMIN FMAX FCOPYSIGN (R138). -/
def lane14 (n : Nat) : Except DecodeError Instr :=
  match bits n 0 4 with
  | 0 => .ok (.fadd (fld n 18 7) (fld n 11 7) (fld n 4 7))
  | 1 => .ok (.fsub (fld n 18 7) (fld n 11 7) (fld n 4 7))
  | 2 => .ok (.fmul (fld n 18 7) (fld n 11 7) (fld n 4 7))
  | 3 => .ok (.fmin (fld n 18 7) (fld n 11 7) (fld n 4 7))
  | 4 => .ok (.fmax (fld n 18 7) (fld n 11 7) (fld n 4 7))
  | 5 => .ok (.fcopysign (fld n 18 7) (fld n 11 7) (fld n 4 7))
  | _ => .error .reservedMinor

/-- Lane major 15: FFMA FFMS FFNMA FFNMS (R138). -/
def lane15 (n : Nat) : Except DecodeError Instr :=
  match bits n 0 4 with
  | 0 => .ok (.ffma (fld n 18 7) (fld n 11 7) (fld n 4 7))
  | 1 => .ok (.ffms (fld n 18 7) (fld n 11 7) (fld n 4 7))
  | 2 => .ok (.ffnma (fld n 18 7) (fld n 11 7) (fld n 4 7))
  | 3 => .ok (.ffnms (fld n 18 7) (fld n 11 7) (fld n 4 7))
  | _ => .error .reservedMinor

/-- Lane major 16: FCMP (R138). -/
def lane16 (n : Nat) : Except DecodeError Instr :=
  .ok (.fcmp (fld n 18 7) (fld n 11 7) (fld n 4 7) (fld n 0 4))

/-- Lane major 17: FRNDN FRNDZ FRNDD FRNDU FCLASS FABS FNEG (R138). -/
def lane17 (n : Nat) : Except DecodeError Instr :=
  match bits n 0 4 with
  | 0 => if bits n 4 7 = 0 then .ok (.frndn (fld n 18 7) (fld n 11 7)) else .error .reservedField
  | 1 => if bits n 4 7 = 0 then .ok (.frndz (fld n 18 7) (fld n 11 7)) else .error .reservedField
  | 2 => if bits n 4 7 = 0 then .ok (.frndd (fld n 18 7) (fld n 11 7)) else .error .reservedField
  | 3 => if bits n 4 7 = 0 then .ok (.frndu (fld n 18 7) (fld n 11 7)) else .error .reservedField
  | 4 => if bits n 4 7 = 0 then .ok (.fclass (fld n 18 7) (fld n 11 7)) else .error .reservedField
  | 5 => if bits n 4 7 = 0 then .ok (.fabs (fld n 18 7) (fld n 11 7)) else .error .reservedField
  | 6 => if bits n 4 7 = 0 then .ok (.fneg (fld n 18 7) (fld n 11 7)) else .error .reservedField
  | _ => .error .reservedMinor

/-- Lane major 18: HADD2 HSUB2 HMUL2 HFMA2 HMIN2 HMAX2 BADD2 BSUB2 BMUL2 BFMA2 BMIN2 BMAX2 (R138). -/
def lane18 (n : Nat) : Except DecodeError Instr :=
  match bits n 0 4 with
  | 0 => .ok (.hadd2 (fld n 18 7) (fld n 11 7) (fld n 4 7))
  | 1 => .ok (.hsub2 (fld n 18 7) (fld n 11 7) (fld n 4 7))
  | 2 => .ok (.hmul2 (fld n 18 7) (fld n 11 7) (fld n 4 7))
  | 3 => .ok (.hfma2 (fld n 18 7) (fld n 11 7) (fld n 4 7))
  | 4 => .ok (.hmin2 (fld n 18 7) (fld n 11 7) (fld n 4 7))
  | 5 => .ok (.hmax2 (fld n 18 7) (fld n 11 7) (fld n 4 7))
  | 6 => .ok (.badd2 (fld n 18 7) (fld n 11 7) (fld n 4 7))
  | 7 => .ok (.bsub2 (fld n 18 7) (fld n 11 7) (fld n 4 7))
  | 8 => .ok (.bmul2 (fld n 18 7) (fld n 11 7) (fld n 4 7))
  | 9 => .ok (.bfma2 (fld n 18 7) (fld n 11 7) (fld n 4 7))
  | 10 => .ok (.bmin2 (fld n 18 7) (fld n 11 7) (fld n 4 7))
  | 11 => .ok (.bmax2 (fld n 18 7) (fld n 11 7) (fld n 4 7))
  | _ => .error .reservedMinor

/-- Lane major 19: DOT4S8 DOT4U8 DOT4SU8 DOT8S4 DOT2H DOT2B DOT4E4 DOT4E5 (R138). -/
def lane19 (n : Nat) : Except DecodeError Instr :=
  match bits n 0 4 with
  | 0 => .ok (.dot4s8 (fld n 18 7) (fld n 11 7) (fld n 4 7))
  | 1 => .ok (.dot4u8 (fld n 18 7) (fld n 11 7) (fld n 4 7))
  | 2 => .ok (.dot4su8 (fld n 18 7) (fld n 11 7) (fld n 4 7))
  | 3 => .ok (.dot8s4 (fld n 18 7) (fld n 11 7) (fld n 4 7))
  | 4 => .ok (.dot2h (fld n 18 7) (fld n 11 7) (fld n 4 7))
  | 5 => .ok (.dot2b (fld n 18 7) (fld n 11 7) (fld n 4 7))
  | 6 => .ok (.dot4e4 (fld n 18 7) (fld n 11 7) (fld n 4 7))
  | 7 => .ok (.dot4e5 (fld n 18 7) (fld n 11 7) (fld n 4 7))
  | _ => .error .reservedMinor

/-- Lane major 20: CVT (R138). -/
def lane20 (n : Nat) : Except DecodeError Instr :=
  if bits n 4 7 = 0 then .ok (.cvt (fld n 18 7) (fld n 11 7) (fld n 0 4)) else .error .reservedField

/-- Lane major 21: QNT (R138). -/
def lane21 (n : Nat) : Except DecodeError Instr :=
  if bits n 0 1 = 0 then .ok (.qnt (fld n 18 7) (fld n 11 7) (fld n 4 7) (fld n 1 3)) else .error .reservedMinor

/-- Lane major 22: DQNT (R138). -/
def lane22 (n : Nat) : Except DecodeError Instr :=
  if bits n 0 1 = 0 then .ok (.dqnt (fld n 18 7) (fld n 11 7) (fld n 4 7) (fld n 1 3)) else .error .reservedMinor

/-- Lane major 23: UNPK3 (R138). -/
def lane23 (n : Nat) : Except DecodeError Instr :=
  if bits n 0 2 = 0 ∧ bits n 4 7 = 0 then .ok (.unpk3 (fld n 18 7) (fld n 11 7) (fld n 2 2)) else .error .reservedMinor

/-- Lane major 24: EXP2 EXP LOG2 RCP RSQRT SQRT SIN COS TANH SIGM GELU (R138). -/
def lane24 (n : Nat) : Except DecodeError Instr :=
  match bits n 0 4 with
  | 0 => .ok (.exp2 (fld n 18 7) (fld n 11 7) (fld n 4 7))
  | 1 => .ok (.exp (fld n 18 7) (fld n 11 7) (fld n 4 7))
  | 2 => .ok (.log2 (fld n 18 7) (fld n 11 7) (fld n 4 7))
  | 3 => .ok (.rcp (fld n 18 7) (fld n 11 7) (fld n 4 7))
  | 4 => .ok (.rsqrt (fld n 18 7) (fld n 11 7) (fld n 4 7))
  | 5 => .ok (.sqrt (fld n 18 7) (fld n 11 7) (fld n 4 7))
  | 6 => .ok (.sin (fld n 18 7) (fld n 11 7) (fld n 4 7))
  | 7 => .ok (.cos (fld n 18 7) (fld n 11 7) (fld n 4 7))
  | 8 => .ok (.tanh (fld n 18 7) (fld n 11 7) (fld n 4 7))
  | 9 => .ok (.sigm (fld n 18 7) (fld n 11 7) (fld n 4 7))
  | 10 => .ok (.gelu (fld n 18 7) (fld n 11 7) (fld n 4 7))
  | _ => .error .reservedMinor

/-- Lane major 25: PAND POR PXOR PANDN PNOT PMOV PSET PCLR (R138). -/
def lane25 (n : Nat) : Except DecodeError Instr :=
  match bits n 0 4 with
  | 0 => .ok (.pand (fld n 18 7) (fld n 11 7) (fld n 4 7))
  | 1 => .ok (.por (fld n 18 7) (fld n 11 7) (fld n 4 7))
  | 2 => .ok (.pxor (fld n 18 7) (fld n 11 7) (fld n 4 7))
  | 3 => .ok (.pandn (fld n 18 7) (fld n 11 7) (fld n 4 7))
  | 4 => if bits n 4 7 = 0 then .ok (.pnot (fld n 18 7) (fld n 11 7)) else .error .reservedField
  | 5 => if bits n 4 7 = 0 then .ok (.pmov (fld n 18 7) (fld n 11 7)) else .error .reservedField
  | 6 => if bits n 4 14 = 0 then .ok (.pset (fld n 18 7)) else .error .reservedField
  | 7 => if bits n 4 14 = 0 then .ok (.pclr (fld n 18 7)) else .error .reservedField
  | _ => .error .reservedMinor

/-- Lane major 26: LD (R138). -/
def lane26 (n : Nat) : Except DecodeError Instr :=
  if bits n 0 3 = 0 then .ok (.ld (fld n 18 7) (fld n 11 7) (fld n 8 3) (fld n 6 2) (fld n 3 3)) else .error .reservedMinor

/-- Lane major 27: ST (R138). -/
def lane27 (n : Nat) : Except DecodeError Instr :=
  if bits n 0 3 = 0 then .ok (.st (fld n 18 7) (fld n 11 7) (fld n 8 3) (fld n 6 2) (fld n 3 3)) else .error .reservedMinor

/-- Lane major 28: LDNR (R138). -/
def lane28 (n : Nat) : Except DecodeError Instr :=
  .ok (.ldnr (fld n 18 7) (fld n 11 7) (fld n 8 3) (fld n 6 2) (fld n 3 3) (fld n 0 3))

/-- Lane major 29: LDT (R138). -/
def lane29 (n : Nat) : Except DecodeError Instr :=
  if bits n 9 2 ≠ 1 then .error .reservedField
  else if 5 ≤ bits n 3 3 then .error .reservedValue
  else match bits n 0 3 with
  | 0 => if bits n 6 2 = 0 then .ok (.ldtWaitfull (fld n 18 7) (fld n 11 7) (fld n 8 1) (fld n 3 3)) else .error .illegalOperand
  | 1 => if bits n 6 2 = 0 then .ok (.ldtTake (fld n 18 7) (fld n 11 7) (fld n 8 1) (fld n 3 3)) else .error .illegalOperand
  | 2 => if bits n 6 2 = 0 then .ok (.ldtPeektag (fld n 18 7) (fld n 11 7) (fld n 8 1) (fld n 3 3)) else .error .illegalOperand
  | _ => .error .reservedMinor

/-- Lane major 30: STT (R138). -/
def lane30 (n : Nat) : Except DecodeError Instr :=
  if bits n 9 2 ≠ 1 then .error .reservedField
  else if 5 ≤ bits n 3 3 then .error .reservedValue
  else match bits n 0 3 with
  | 0 => if bits n 6 2 = 0 then .ok (.sttPut (fld n 18 7) (fld n 11 7) (fld n 8 1) (fld n 3 3)) else .error .illegalOperand
  | 1 => if bits n 6 2 = 0 then .ok (.sttFill (fld n 18 7) (fld n 11 7) (fld n 8 1) (fld n 3 3)) else .error .illegalOperand
  | 2 => if bits n 6 2 = 0 then .ok (.sttDrain (fld n 18 7) (fld n 11 7) (fld n 8 1) (fld n 3 3)) else .error .illegalOperand
  | _ => .error .reservedMinor

/-- Lane major 31: ATOM (R138). -/
def lane31 (n : Nat) : Except DecodeError Instr :=
  .ok (.atom (fld n 18 7) (fld n 11 7) (fld n 4 7) (fld n 0 4))

/-- Lane major 32: ARED (R138). -/
def lane32 (n : Nat) : Except DecodeError Instr :=
  if bits n 18 7 = 0 then .ok (.ared (fld n 11 7) (fld n 4 7) (fld n 0 4)) else .error .reservedField

/-- Lane major 33: LPERM (R138). -/
def lane33 (n : Nat) : Except DecodeError Instr :=
  .ok (.lperm (fld n 18 7) (fld n 11 7) (fld n 4 7) (fld n 0 4))

/-- Lane major 34: LSENSE (R138). -/
def lane34 (n : Nat) : Except DecodeError Instr :=
  if bits n 4 7 = 0 then .ok (.lsense (fld n 18 7) (fld n 11 7) (fld n 0 4)) else .error .reservedField

/-- Lane major 35: LFOLD (R138). -/
def lane35 (n : Nat) : Except DecodeError Instr :=
  if bits n 4 7 = 0 then .ok (.lfold (fld n 18 7) (fld n 11 7) (fld n 0 4)) else .error .reservedField

/-- Lane major 36: SCAN (R138). -/
def lane36 (n : Nat) : Except DecodeError Instr :=
  if bits n 4 7 = 0 then .ok (.scan (fld n 18 7) (fld n 11 7) (fld n 0 4)) else .error .reservedField

/-- Lane major 37: BRL (R138). -/
def lane37 (n : Nat) : Except DecodeError Instr :=
  if bits n 18 2 = 0 then .ok (.brl (fld n 20 5) (fld n 0 18)) else .error .reservedMinor

/-- Lane major 38: RNG RNGSEED (R138). -/
def lane38 (n : Nat) : Except DecodeError Instr :=
  match bits n 0 4 with
  | 0 => if bits n 4 14 = 0 then .ok (.rng (fld n 18 7)) else .error .reservedField
  | 1 => if bits n 4 7 = 0 ∧ bits n 18 7 = 0 then .ok (.rngseed (fld n 11 7)) else .error .reservedField
  | _ => .error .reservedMinor

/-- Lane major 39: TRD (R138). -/
def lane39 (n : Nat) : Except DecodeError Instr :=
  if bits n 0 4 = 0 then .ok (.trd (fld n 18 7) (fld n 14 4) (fld n 9 5) (fld n 4 5)) else .error .reservedMinor

/-- Lane major 40: TWR (R138). -/
def lane40 (n : Nat) : Except DecodeError Instr :=
  if bits n 0 4 = 0 then .ok (.twr (fld n 18 7) (fld n 14 4) (fld n 9 5) (fld n 4 5)) else .error .reservedMinor

/-- Uniform major 0: UADD USUB UMUL UMULHU UALU (R139). -/
def uni0 (n : Nat) : Except DecodeError Instr :=
  match bits n 0 4 with
  | 0 => .ok (.uadd (fld n 18 7) (fld n 11 7) (fld n 4 7))
  | 1 => .ok (.usub (fld n 18 7) (fld n 11 7) (fld n 4 7))
  | 2 => .ok (.umul (fld n 18 7) (fld n 11 7) (fld n 4 7))
  | 3 => .ok (.umulhu (fld n 18 7) (fld n 11 7) (fld n 4 7))
  | 4 => .ok (.ualuUmin (fld n 18 7) (fld n 11 7) (fld n 4 7))
  | 5 => .ok (.ualuUmax (fld n 18 7) (fld n 11 7) (fld n 4 7))
  | 6 => .ok (.ualuAnd (fld n 18 7) (fld n 11 7) (fld n 4 7))
  | 7 => .ok (.ualuOr (fld n 18 7) (fld n 11 7) (fld n 4 7))
  | 8 => .ok (.ualuXor (fld n 18 7) (fld n 11 7) (fld n 4 7))
  | 9 => .ok (.ualuShl (fld n 18 7) (fld n 11 7) (fld n 4 7))
  | 10 => .ok (.ualuShr (fld n 18 7) (fld n 11 7) (fld n 4 7))
  | 11 => .ok (.ualuShra (fld n 18 7) (fld n 11 7) (fld n 4 7))
  | _ => .error .reservedMinor

/-- Uniform major 1: UADDI (R139). -/
def uni1 (n : Nat) : Except DecodeError Instr :=
  .ok (.uaddi (fld n 18 7) (fld n 11 7) (fld n 0 11))

/-- Uniform major 2: UMOVI (R139). -/
def uni2 (n : Nat) : Except DecodeError Instr :=
  .ok (.umovi (fld n 18 7) (fld n 0 18))

/-- Uniform major 3: UADDX USUBX UMULW ULEA (R139). -/
def uni3 (n : Nat) : Except DecodeError Instr :=
  match bits n 0 4 with
  | 0 => .ok (.uaddx (fld n 18 7) (fld n 11 7) (fld n 4 7))
  | 1 => .ok (.usubx (fld n 18 7) (fld n 11 7) (fld n 4 7))
  | 2 => .ok (.umulw (fld n 18 7) (fld n 11 7) (fld n 4 7))
  | _ => if bits n 0 2 = 3 then .ok (.ulea (fld n 18 7) (fld n 11 7) (fld n 4 7) (fld n 2 2)) else .error .reservedMinor

/-- Uniform major 4: UCMP (R139). -/
def uni4 (n : Nat) : Except DecodeError Instr :=
  .ok (.ucmp (fld n 18 7) (fld n 11 7) (fld n 4 7) (fld n 0 4))

/-- Uniform major 5: UCMPI (R139). -/
def uni5 (n : Nat) : Except DecodeError Instr :=
  .ok (.ucmpi (fld n 18 7) (fld n 11 7) (fld n 7 4) (fld n 0 7))

/-- Uniform major 6: BRA (R139). -/
def uni6 (n : Nat) : Except DecodeError Instr :=
  .ok (.bra (fld n 20 5) (fld n 18 2) (fld n 0 18))

/-- Uniform major 7: CALL (R139). -/
def uni7 (n : Nat) : Except DecodeError Instr :=
  if bits n 18 7 = 124 then .ok (.call (fld n 0 18)) else .error .reservedMinor

/-- Uniform major 8: NOP EXIT YIELD BRK TRAP RET BRR CALLR (R139). -/
def uni8 (n : Nat) : Except DecodeError Instr :=
  match bits n 0 4 with
  | 0 => if bits n 4 21 = 0 then .ok (.nop) else .error .reservedField
  | 1 => if bits n 4 21 = 0 then .ok (.exit) else .error .reservedField
  | 2 => if bits n 4 21 = 0 then .ok (.yield) else .error .reservedField
  | 3 => if bits n 4 21 = 0 then .ok (.brk) else .error .reservedField
  | 4 => if bits n 4 7 = 0 ∧ bits n 18 7 = 0 then .ok (.trap (fld n 11 7)) else .error .reservedField
  | 5 => if bits n 4 7 = 0 ∧ bits n 18 7 = 0 then .ok (.ret (fld n 11 7)) else .error .reservedField
  | 6 => if bits n 4 7 = 0 ∧ bits n 18 7 = 0 then .ok (.brr (fld n 11 7)) else .error .reservedField
  | 7 => if bits n 4 7 = 0 ∧ bits n 18 7 = 0 then .ok (.callr (fld n 11 7)) else .error .reservedField
  | _ => .error .reservedMinor

/-- Uniform major 9: SREAD SWRITE RQUOTA RDLANE WRLANE (R139). -/
def uni9 (n : Nat) : Except DecodeError Instr :=
  match bits n 0 4 with
  | 0 => if bits n 11 7 = 0 then .ok (.sread (fld n 18 7) (fld n 4 7)) else .error .reservedField
  | 1 => if bits n 18 7 = 0 then .ok (.swrite (fld n 11 7) (fld n 4 7)) else .error .reservedField
  | 2 => if bits n 18 7 = 0 then .ok (.rquota (fld n 11 7) (fld n 4 7)) else .error .reservedField
  | 3 => .ok (.rdlane (fld n 18 7) (fld n 11 7) (fld n 4 7))
  | 4 => .ok (.wrlane (fld n 18 7) (fld n 11 7) (fld n 4 7))
  | _ => .error .reservedMinor

/-- Uniform major 10: RJSET RJWAIT RJCLR RJREAD (R139). -/
def uni10 (n : Nat) : Except DecodeError Instr :=
  match bits n 0 4 with
  | 0 => if bits n 4 7 = 0 ∧ bits n 18 7 = 0 then .ok (.rjset (fld n 11 7)) else .error .reservedField
  | 1 => if bits n 4 7 = 0 ∧ bits n 18 7 = 0 then .ok (.rjwait (fld n 11 7)) else .error .reservedField
  | 2 => if bits n 4 7 = 0 ∧ bits n 18 7 = 0 then .ok (.rjclr (fld n 11 7)) else .error .reservedField
  | 3 => if bits n 4 7 = 0 then .ok (.rjread (fld n 18 7) (fld n 11 7)) else .error .reservedField
  | _ => .error .reservedMinor

/-- Uniform major 11: BAR ARRIVE WAIT (R139). -/
def uni11 (n : Nat) : Except DecodeError Instr :=
  match bits n 0 4 with
  | 0 => if bits n 4 21 = 0 then .ok (.barTeam) else .error .reservedField
  | 1 => if bits n 4 21 = 0 then .ok (.barCluster) else .error .reservedField
  | 2 => if bits n 4 21 = 0 then .ok (.arriveTeam) else .error .reservedField
  | 3 => if bits n 4 21 = 0 then .ok (.waitTeam) else .error .reservedField
  | 4 => if bits n 4 21 = 0 then .ok (.arriveCluster) else .error .reservedField
  | 5 => if bits n 4 21 = 0 then .ok (.waitCluster) else .error .reservedField
  | _ => .error .reservedMinor

/-- Uniform major 12: FENCE (R139). -/
def uni12 (n : Nat) : Except DecodeError Instr :=
  if bits n 4 21 = 0 then .ok (.fence (fld n 0 4)) else .error .reservedField

/-- Uniform major 13: BOINIT BOEXP BOARR BOWAIT BOTEST BOFAULT (R139). -/
def uni13 (n : Nat) : Except DecodeError Instr :=
  match bits n 0 4 with
  | 0 => if bits n 4 7 = 0 ∧ bits n 18 7 = 0 then .ok (.boinit (fld n 11 7)) else .error .reservedField
  | 1 => if bits n 18 7 = 0 then .ok (.boexp (fld n 11 7) (fld n 4 7)) else .error .reservedField
  | 2 => if bits n 18 7 = 0 then .ok (.boarr (fld n 11 7) (fld n 4 7)) else .error .reservedField
  | 3 => .ok (.bowait (fld n 18 7) (fld n 11 7) (fld n 4 7))
  | 4 => .ok (.botest (fld n 18 7) (fld n 11 7) (fld n 4 7))
  | 5 => if bits n 18 7 = 0 then .ok (.bofault (fld n 11 7) (fld n 4 7)) else .error .reservedField
  | _ => .error .reservedMinor

/-- Uniform major 14: TKINIT TKGET TKWAIT TKNEXT (R139). -/
def uni14 (n : Nat) : Except DecodeError Instr :=
  match bits n 0 4 with
  | 0 => if bits n 4 7 = 0 ∧ bits n 18 7 = 0 then .ok (.tkinit (fld n 11 7)) else .error .reservedField
  | 1 => .ok (.tkget (fld n 18 7) (fld n 11 7) (fld n 4 7))
  | 2 => .ok (.tkwait (fld n 18 7) (fld n 11 7) (fld n 4 7))
  | 3 => if bits n 4 7 = 0 then .ok (.tknext (fld n 18 7) (fld n 11 7)) else .error .reservedField
  | _ => .error .reservedMinor

/-- Uniform major 15: DQINIT DQPUSH DQPOP DQSTEAL (R139). -/
def uni15 (n : Nat) : Except DecodeError Instr :=
  match bits n 0 4 with
  | 0 => if bits n 18 7 = 0 then .ok (.dqinit (fld n 11 7) (fld n 4 7)) else .error .reservedField
  | 1 => .ok (.dqpush (fld n 18 7) (fld n 11 7) (fld n 4 7))
  | 2 => if bits n 4 7 = 0 then .ok (.dqpop (fld n 18 7) (fld n 11 7)) else .error .reservedField
  | 3 => if bits n 4 7 = 0 then .ok (.dqsteal (fld n 18 7) (fld n 11 7)) else .error .reservedField
  | _ => .error .reservedMinor

/-- Uniform major 16: ARFLUSH ARSTAT (R139). -/
def uni16 (n : Nat) : Except DecodeError Instr :=
  match bits n 0 4 with
  | 0 => if bits n 4 21 = 0 then .ok (.arflush) else .error .reservedField
  | 1 => if bits n 4 14 = 0 then .ok (.arstat (fld n 18 7)) else .error .reservedField
  | _ => .error .reservedMinor

/-- Uniform major 17: WPREAD WPWAIT (R139). -/
def uni17 (n : Nat) : Except DecodeError Instr :=
  match bits n 0 4 with
  | 0 => if bits n 4 7 = 0 then .ok (.wpread (fld n 18 7) (fld n 11 7)) else .error .reservedField
  | 1 => .ok (.wpwait (fld n 18 7) (fld n 11 7) (fld n 4 7))
  | _ => .error .reservedMinor

/-- Uniform major 18: TCONF TCREAD TZERO (R139). -/
def uni18 (n : Nat) : Except DecodeError Instr :=
  match bits n 0 4 with
  | 0 => if bits n 4 7 = 0 then .ok (.tconf (fld n 18 7) (fld n 11 7)) else .error .reservedField
  | 1 => if bits n 4 7 = 0 then .ok (.tcread (fld n 18 7) (fld n 11 7)) else .error .reservedField
  | 2 => if bits n 4 14 = 0 then .ok (.tzero (fld n 18 7)) else .error .reservedField
  | _ => .error .reservedMinor

/-- Uniform major 19: TLD TST TLDT (R139). -/
def uni19 (n : Nat) : Except DecodeError Instr :=
  match bits n 0 4 with
  | 0 => if bits n 4 3 = 0 then .ok (.tld (fld n 21 4) (fld n 14 7) (fld n 7 7)) else .error .reservedField
  | 1 => if bits n 4 3 = 0 then .ok (.tst (fld n 21 4) (fld n 14 7) (fld n 7 7)) else .error .reservedField
  | 2 => if bits n 4 3 = 0 then .ok (.tldt (fld n 21 4) (fld n 14 7) (fld n 7 7)) else .error .reservedField
  | _ => .error .reservedMinor

/-- Uniform major 20: MMA MMAQ MMAT MMAB (R139). -/
def uni20 (n : Nat) : Except DecodeError Instr :=
  match bits n 0 4 with
  | 0 => .ok (.mma (fld n 21 4) (fld n 17 4) (fld n 13 4) (fld n 10 3) (fld n 4 6))
  | 1 => .ok (.mmaq (fld n 21 4) (fld n 17 4) (fld n 13 4) (fld n 10 3) (fld n 4 6))
  | 2 => .ok (.mmat (fld n 21 4) (fld n 17 4) (fld n 13 4) (fld n 10 3) (fld n 4 6))
  | 3 => .ok (.mmab (fld n 21 4) (fld n 17 4) (fld n 13 4) (fld n 10 3) (fld n 4 6))
  | _ => .error .reservedMinor

/-- Uniform major 21: TCVT TRMAX TRSUM TRSCL TEXP2 TMOV TMASK (R139). -/
def uni21 (n : Nat) : Except DecodeError Instr :=
  match bits n 0 4 with
  | 0 => .ok (.tcvt (fld n 21 4) (fld n 17 4) (fld n 13 4) (fld n 10 3) (fld n 4 6))
  | 1 => .ok (.trmax (fld n 21 4) (fld n 17 4) (fld n 13 4) (fld n 10 3) (fld n 4 6))
  | 2 => .ok (.trsum (fld n 21 4) (fld n 17 4) (fld n 13 4) (fld n 10 3) (fld n 4 6))
  | 3 => .ok (.trscl (fld n 21 4) (fld n 17 4) (fld n 13 4) (fld n 10 3) (fld n 4 6))
  | 4 => .ok (.texp2 (fld n 21 4) (fld n 17 4) (fld n 13 4) (fld n 10 3) (fld n 4 6))
  | 5 => .ok (.tmov (fld n 21 4) (fld n 17 4) (fld n 13 4) (fld n 10 3) (fld n 4 6))
  | 6 => .ok (.tmask (fld n 21 4) (fld n 17 4) (fld n 13 4) (fld n 10 3) (fld n 4 6))
  | _ => .error .reservedMinor

/-- Uniform major 22: CPY CPYM CPYC (R139). -/
def uni22 (n : Nat) : Except DecodeError Instr :=
  match bits n 0 4 with
  | 0 => if bits n 6 5 = 0 then .ok (.cpy (fld n 18 7) (fld n 11 7) (fld n 5 1) (fld n 4 1)) else .error .reservedField
  | 1 => if bits n 5 1 = 0 ∧ bits n 7 4 = 0 then .ok (.cpym (fld n 18 7) (fld n 11 7) (fld n 6 1) (fld n 4 1)) else .error .reservedField
  | 2 => if bits n 6 5 = 0 then .ok (.cpyc (fld n 18 7) (fld n 11 7) (fld n 5 1) (fld n 4 1)) else .error .reservedField
  | _ => .error .reservedMinor

/-- Uniform major 23: GATH SCAT (R139). -/
def uni23 (n : Nat) : Except DecodeError Instr :=
  match bits n 0 4 with
  | 0 => if bits n 4 7 = 0 then .ok (.gath (fld n 18 7) (fld n 11 7)) else .error .reservedField
  | 1 => if bits n 4 7 = 0 then .ok (.scat (fld n 18 7) (fld n 11 7)) else .error .reservedField
  | _ => .error .reservedMinor

/-- Uniform major 24: CHAIN (R139). -/
def uni24 (n : Nat) : Except DecodeError Instr :=
  if bits n 0 11 = 0 then .ok (.chain (fld n 18 7) (fld n 11 7)) else .error .reservedMinor

/-- Uniform major 25: ALLRED ALLGATH REDSCAT BCAST (R139). -/
def uni25 (n : Nat) : Except DecodeError Instr :=
  match bits n 0 4 with
  | 0 => if bits n 4 7 = 0 then .ok (.allred (fld n 18 7) (fld n 11 7)) else .error .reservedField
  | 1 => if bits n 4 7 = 0 then .ok (.allgath (fld n 18 7) (fld n 11 7)) else .error .reservedField
  | 2 => if bits n 4 7 = 0 then .ok (.redscat (fld n 18 7) (fld n 11 7)) else .error .reservedField
  | 3 => if bits n 4 7 = 0 then .ok (.bcast (fld n 18 7) (fld n 11 7)) else .error .reservedField
  | _ => .error .reservedMinor

/-- An FE form that counts into no object: the AUX bits it does not define are reserved, and a nonzero A field is an illegal operand
(R227, R316). -/
def fe (n aux : Nat) (k : Except DecodeError Instr) : Except DecodeError Instr :=
  if aux ≠ 0 then .error .reservedField else if bits n 11 7 ≠ 0 then .error .illegalOperand else k

/-- Uniform major 26: SVSUB SVSWEEP SVPART SVCLOSE SVSTAT SVCANCEL (R139). -/
def uni26 (n : Nat) : Except DecodeError Instr :=
  match bits n 0 4 with
  | 0 => if bits n 4 7 = 0 then .ok (.svsub (fld n 18 7) (fld n 11 7)) else .error .reservedField
  | 1 => fe n (bits n 4 7) (.ok (.svsweep (fld n 18 7)))
  | 2 => fe n (bits n 4 7) (.ok (.svpart (fld n 18 7)))
  | 3 => fe n (bits n 4 7) (.ok (.svclose (fld n 18 7)))
  | 4 => fe n (bits n 5 6) (if bits n 4 1 = 0 then .ok (.svstat (fld n 18 7)) else .ok (.svstatDesc (fld n 18 7)))
  | 5 => fe n (bits n 4 7) (.ok (.svcancel (fld n 18 7)))
  | _ => .error .reservedMinor

/-- Uniform major 27: TOLNODE DEMAND TOLGET FMTSEL ITERSEL TOLCHK TOLCLR (R139). -/
def uni27 (n : Nat) : Except DecodeError Instr :=
  match bits n 0 4 with
  | 0 => .ok (.tolnode (fld n 18 7) (fld n 11 7) (fld n 4 7))
  | 1 => if bits n 18 7 = 0 then .ok (.demand (fld n 11 7) (fld n 4 7)) else .error .reservedField
  | 2 => if bits n 4 7 = 0 then .ok (.tolget (fld n 18 7) (fld n 11 7)) else .error .reservedField
  | 3 => .ok (.fmtsel (fld n 18 7) (fld n 11 7) (fld n 4 7))
  | 4 => .ok (.itersel (fld n 18 7) (fld n 11 7) (fld n 4 7))
  | 5 => if bits n 4 14 = 0 then .ok (.tolchk (fld n 18 7)) else .error .reservedField
  | 6 => if bits n 4 7 ≠ 0 then .error .reservedField
    else match bits n 18 7 with
      | 0 => .ok (.tolclr (fld n 11 7))
      | 1 => if bits n 11 7 = 0 then .ok .tolclrAll else .error .reservedField
      | _ => .error .illegalOperand
  | _ => .error .reservedMinor

/-- Uniform major 28: LAUNCH LAUNCHQ (R139). -/
def uni28 (n : Nat) : Except DecodeError Instr :=
  match bits n 0 4 with
  | 0 => fe n (bits n 4 7) (.ok (.launch (fld n 18 7)))
  | 1 => fe n (bits n 4 7) (.ok (.launchq (fld n 18 7)))
  | _ => .error .reservedMinor

/-- Uniform major 29: CTXNEW CTXGRANT CTXFRZ CTXTHAW CTXCKPT CTXREST CTXREVK CTXSTAT CTXDBG (R139). -/
def uni29 (n : Nat) : Except DecodeError Instr :=
  match bits n 0 4 with
  | 0 => fe n (bits n 4 7) (.ok (.ctxnew (fld n 18 7)))
  | 1 => fe n (bits n 9 2) (.ok (.ctxgrant (fld n 18 7) (fld n 4 5)))
  | 2 => fe n (bits n 4 7) (.ok (.ctxfrz (fld n 18 7)))
  | 3 => fe n (bits n 4 7) (.ok (.ctxthaw (fld n 18 7)))
  | 4 => fe n (bits n 5 6) (.ok (.ctxckpt (fld n 18 7) (fld n 4 1)))
  | 5 => fe n (bits n 4 7) (.ok (.ctxrest (fld n 18 7)))
  | 6 => fe n (bits n 4 7) (.ok (.ctxrevk (fld n 18 7)))
  | 7 => fe n (bits n 4 7) (.ok (.ctxstat (fld n 18 7)))
  | 8 => fe n (bits n 7 4) (match bits n 4 3 with
      | 0 => .ok (.ctxdbgSetbp (fld n 18 7))
      | 1 => .ok (.ctxdbgClrbp (fld n 18 7))
      | 2 => .ok (.ctxdbgRdstate (fld n 18 7))
      | 3 => .ok (.ctxdbgWrstate (fld n 18 7))
      | 4 => .ok (.ctxdbgStep (fld n 18 7))
      | _ => .error .illegalOperand)
  | _ => .error .reservedMinor

/-- Uniform major 30: MAPG UNMAPG PINV PGREQ (R139). -/
def uni30 (n : Nat) : Except DecodeError Instr :=
  match bits n 0 4 with
  | 0 => fe n (bits n 4 7) (.ok (.mapg (fld n 18 7)))
  | 1 => fe n (bits n 4 7) (.ok (.unmapg (fld n 18 7)))
  | 2 => fe n (bits n 4 7) (.ok (.pinv (fld n 18 7)))
  | 3 => fe n (bits n 5 6) (.ok (.pgreq (fld n 18 7) (fld n 4 1)))
  | _ => .error .reservedMinor

/-- Uniform major 31: HQARM HQDISARM HQACK (R139). -/
def uni31 (n : Nat) : Except DecodeError Instr :=
  match bits n 0 4 with
  | 0 => if bits n 4 14 = 0 then .ok (.hqarm (fld n 18 7)) else .error .reservedField
  | 1 => if bits n 4 14 = 0 then .ok (.hqdisarm (fld n 18 7)) else .error .reservedField
  | 2 => .ok (.hqack (fld n 18 7) (fld n 11 7) (fld n 4 7))
  | _ => .error .reservedMinor

/-- Uniform major 32: ULD (R139). -/
def uni32 (n : Nat) : Except DecodeError Instr :=
  if bits n 0 3 = 0 then .ok (.uld (fld n 18 7) (fld n 11 7) (fld n 8 3) (fld n 6 2) (fld n 3 3)) else .error .reservedMinor

/-- Uniform major 33: UST (R139). -/
def uni33 (n : Nat) : Except DecodeError Instr :=
  if bits n 0 3 = 0 then .ok (.ust (fld n 18 7) (fld n 11 7) (fld n 8 3) (fld n 6 2) (fld n 3 3)) else .error .reservedMinor

/-- Uniform major 34: UATOM (R139). -/
def uni34 (n : Nat) : Except DecodeError Instr :=
  .ok (.uatom (fld n 18 7) (fld n 11 7) (fld n 4 7) (fld n 0 4))

/-- Uniform major 60: XSCO (R139). -/
def uni60 (n : Nat) : Except DecodeError Instr :=
  if bits n 0 20 = 0 then .ok (.xsco (fld n 22 3) (fld n 20 2)) else .error .reservedField

/-- Uniform major 61: XMOD (R139). -/
def uni61 (n : Nat) : Except DecodeError Instr :=
  .ok (.xmod (fld n 18 7) (fld n 11 7) (fld n 9 2) (fld n 6 3) (fld n 4 2) (fld n 1 3) (fld n 0 1))

/-- Uniform major 62: XIMM (R139). -/
def uni62 (n : Nat) : Except DecodeError Instr :=
  .ok (.ximm (fld n 0 25))

/-- The instruction a word names, its fields not yet checked for reserved values: S and the major select (R123). -/
def pick (n : Nat) : Except DecodeError Instr :=
  match bits n 25 7 with
  | 0 => lane0 n
  | 1 => lane1 n
  | 2 => lane2 n
  | 3 => lane3 n
  | 4 => lane4 n
  | 5 => lane5 n
  | 6 => lane6 n
  | 7 => lane7 n
  | 8 => lane8 n
  | 9 => lane9 n
  | 10 => lane10 n
  | 11 => lane11 n
  | 12 => lane12 n
  | 13 => lane13 n
  | 14 => lane14 n
  | 15 => lane15 n
  | 16 => lane16 n
  | 17 => lane17 n
  | 18 => lane18 n
  | 19 => lane19 n
  | 20 => lane20 n
  | 21 => lane21 n
  | 22 => lane22 n
  | 23 => lane23 n
  | 24 => lane24 n
  | 25 => lane25 n
  | 26 => lane26 n
  | 27 => lane27 n
  | 28 => lane28 n
  | 29 => lane29 n
  | 30 => lane30 n
  | 31 => lane31 n
  | 32 => lane32 n
  | 33 => lane33 n
  | 34 => lane34 n
  | 35 => lane35 n
  | 36 => lane36 n
  | 37 => lane37 n
  | 38 => lane38 n
  | 39 => lane39 n
  | 40 => lane40 n
  | 64 => uni0 n
  | 65 => uni1 n
  | 66 => uni2 n
  | 67 => uni3 n
  | 68 => uni4 n
  | 69 => uni5 n
  | 70 => uni6 n
  | 71 => uni7 n
  | 72 => uni8 n
  | 73 => uni9 n
  | 74 => uni10 n
  | 75 => uni11 n
  | 76 => uni12 n
  | 77 => uni13 n
  | 78 => uni14 n
  | 79 => uni15 n
  | 80 => uni16 n
  | 81 => uni17 n
  | 82 => uni18 n
  | 83 => uni19 n
  | 84 => uni20 n
  | 85 => uni21 n
  | 86 => uni22 n
  | 87 => uni23 n
  | 88 => uni24 n
  | 89 => uni25 n
  | 90 => uni26 n
  | 91 => uni27 n
  | 92 => uni28 n
  | 93 => uni29 n
  | 94 => uni30 n
  | 95 => uni31 n
  | 96 => uni32 n
  | 97 => uni33 n
  | 98 => uni34 n
  | 124 => uni60 n
  | 125 => uni61 n
  | 126 => uni62 n
  | 127 => .error .clauseMark
  | _ => .error .reservedMajor

/-- Decoding of one word, total: the instruction, or the reason it is refused. -/
def word (n : Nat) : Except DecodeError Instr :=
  match pick n with
  | .error e => .error e
  | .ok i => if i.wf then .ok i else .error .reservedValue

end

end Decode

noncomputable section

/-- Decoding of a 32-bit word (R123, R137). -/
def decode (w : Word) : Except DecodeError Instr := Decode.word w.toNat

/-- The table's numbering: bit 0 is the least significant bit of the one word. -/
def decodeTableWord (nbits w : Nat) : Option Instr :=
  if nbits ≤ 32 then
    match Decode.word (w % 2 ^ nbits) with
    | .ok i => some i
    | .error _ => none
  else none

end

/-- The word of an instruction as a number, from the encodings of R124 and R138 to R140; none for a step of the machine. -/
def encodeNat : Instr → Option Nat
  | .clauseStart _ => none
  | .longOpComplete _ => none
  | .rejoinDeadlock _ => none
  | .neighbourParityError _ _ => none
  | .clusterPlacement => none
  | .gridComplete _ => none
  | .taggedAccessArrival _ => none
  | .storePerformed _ => none
  | .flushMarkerGathered _ _ => none
  | .engineCommandAccept _ => none
  | .engineCommandStart _ => none
  | .engineAccess _ => none
  | .engineCommandComplete _ => none
  | .chainEntryStart _ => none
  | .collectiveMatch _ => none
  | .sweepStart _ => none
  | .pageCommit _ => none
  | .holeCommit _ => none
  | .pageArrival _ _ => none
  | .qsvNoticePush _ => none
  | .pageFetchFault _ => none
  | .partialMerge _ _ => none
  | .tolUnitTake _ => none
  | .doorbellKick _ _ => none
  | .doorbellIgnoredWrite _ _ _ => none
  | .queueRecordStart _ => none
  | .queueMap _ => none
  | .queueAgeingTick => none
  | .refillBoundary => none
  | .torusPacketSend _ _ _ => none
  | .drainLatencyExpiry _ => none
  | .teamSave _ => none
  | .teamRestore _ => none
  | .recordDelivery => none
  | .hostEventRingWrite => none
  | .evreadWrite _ => none
  | .eventRingConfigWrite _ _ => none
  | .controlRegisterWrite _ _ => none
  | .mailboxOverrun => none
  | .mailboxUnknownCommand => none
  | .mailboxComplete => none
  | .insetnew => none
  | .insetgrant => none
  | .freeze => none
  | .thaw => none
  | .ckpt => none
  | .rest => none
  | .revoke => none
  | .stat => none
  | .map => none
  | .unmap => none
  | .inval => none
  | .rootmap => none
  | .rootunmap => none
  | .dbset => none
  | .dbclr => none
  | .rgtset => none
  | .rgtwithdraw => none
  | .gangset => none
  | .hotread => none
  | .timeset => none
  | .loadfw => none
  | .hostMemoryAccess _ _ _ => none
  | .flitCrcFailure => none
  | .deviceReset _ => none
  | .bootRomComplete => none
  | .firmwareVerifyComplete _ _ _ => none
  | .coreRowWake _ => none
  | .matrixRampStep _ => none
  | .fabricPacketReceive _ _ _ => none
  | .remoteRequestCheck _ _ _ _ _ => none
  | .packetRetransmit _ _ => none
  | .pathRemoval _ _ => none
  | .ptpSync _ => none
  | .gangTick => none
  | .gangReady _ => none
  | .gangDecision => none
  | .commit => none
  | .abort => none
  | .fleetGenSample => none
  | .powerStateEntry => none
  | .powerStateExit => none
  | .shedStep _ => none
  | .shedUndo _ => none
  | .throttleStep _ => none
  | .throttleUndo _ => none
  | .throttleFloorReport _ => none
  | .memoryErrorDetected _ _ _ _ _ _ => none
  | .burstTagFailure _ _ => none
  | .killConfirm _ _ => none
  | .getVersion => none
  | .getCapabilities => none
  | .negotiateAlgorithms _ => none
  | .getDigests => none
  | .getCertificate _ => none
  | .challenge _ _ => none
  | .getMeasurements _ _ => none
  | .keyExchange _ => none
  | .finish _ => none
  | .endSession => none
  | .keyload _ _ => none
  | .keykill _ => none
  | .keystat _ => none
  | .sealInset _ _ _ _ => none
  | .unsealInset _ _ => none
  | .migout _ _ => none
  | .migin _ _ _ => none
  | .verified _ _ => none
  | .erased _ _ => none
  | .active _ _ => none
  | .aborted _ _ => none
  | .migabort _ => none
  | .migstat _ => none
  | .erasedRequest _ => none
  | .erasedResend _ => none
  | .holdexpired _ => none
  | .linkRetrainComplete => none
  | .pathReturn _ _ => none
  | .requestBoundPassed _ => none
  | .freshTopLevelLeaf => none
  | .iadd d a b => some (0x00000000 + d.toNat * 0x40000 + a.toNat * 0x800 + b.toNat * 0x10)
  | .isub d a b => some (0x00000001 + d.toNat * 0x40000 + a.toNat * 0x800 + b.toNat * 0x10)
  | .imul d a b => some (0x00000002 + d.toNat * 0x40000 + a.toNat * 0x800 + b.toNat * 0x10)
  | .imulh d a b => some (0x00000003 + d.toNat * 0x40000 + a.toNat * 0x800 + b.toNat * 0x10)
  | .imulhu d a b => some (0x00000004 + d.toNat * 0x40000 + a.toNat * 0x800 + b.toNat * 0x10)
  | .imin d a b => some (0x00000005 + d.toNat * 0x40000 + a.toNat * 0x800 + b.toNat * 0x10)
  | .imax d a b => some (0x00000006 + d.toNat * 0x40000 + a.toNat * 0x800 + b.toNat * 0x10)
  | .umin d a b => some (0x00000007 + d.toNat * 0x40000 + a.toNat * 0x800 + b.toNat * 0x10)
  | .umax d a b => some (0x00000008 + d.toNat * 0x40000 + a.toNat * 0x800 + b.toNat * 0x10)
  | .and d a b => some (0x00000009 + d.toNat * 0x40000 + a.toNat * 0x800 + b.toNat * 0x10)
  | .or d a b => some (0x0000000A + d.toNat * 0x40000 + a.toNat * 0x800 + b.toNat * 0x10)
  | .xor d a b => some (0x0000000B + d.toNat * 0x40000 + a.toNat * 0x800 + b.toNat * 0x10)
  | .shl d a b => some (0x0000000C + d.toNat * 0x40000 + a.toNat * 0x800 + b.toNat * 0x10)
  | .shr d a b => some (0x0000000D + d.toNat * 0x40000 + a.toNat * 0x800 + b.toNat * 0x10)
  | .shra d a b => some (0x0000000E + d.toNat * 0x40000 + a.toNat * 0x800 + b.toNat * 0x10)
  | .rotr d a b => some (0x0000000F + d.toNat * 0x40000 + a.toNat * 0x800 + b.toNat * 0x10)
  | .idiv d a b => some (0x02000000 + d.toNat * 0x40000 + a.toNat * 0x800 + b.toNat * 0x10)
  | .udiv d a b => some (0x02000001 + d.toNat * 0x40000 + a.toNat * 0x800 + b.toNat * 0x10)
  | .irem d a b => some (0x02000002 + d.toNat * 0x40000 + a.toNat * 0x800 + b.toNat * 0x10)
  | .urem d a b => some (0x02000003 + d.toNat * 0x40000 + a.toNat * 0x800 + b.toNat * 0x10)
  | .popc d a => some (0x02000004 + d.toNat * 0x40000 + a.toNat * 0x800)
  | .clz d a => some (0x02000005 + d.toNat * 0x40000 + a.toNat * 0x800)
  | .brev d a => some (0x02000006 + d.toNat * 0x40000 + a.toNat * 0x800)
  | .iabs d a => some (0x02000007 + d.toNat * 0x40000 + a.toNat * 0x800)
  | .bfx d a b => some (0x02000008 + d.toNat * 0x40000 + a.toNat * 0x800 + b.toNat * 0x10)
  | .bfxu d a b => some (0x02000009 + d.toNat * 0x40000 + a.toNat * 0x800 + b.toNat * 0x10)
  | .bfi d a b => some (0x0200000A + d.toNat * 0x40000 + a.toNat * 0x800 + b.toNat * 0x10)
  | .andn d a b => some (0x0200000B + d.toNat * 0x40000 + a.toNat * 0x800 + b.toNat * 0x10)
  | .iaddi d a i => some (0x04000000 + d.toNat * 0x40000 + a.toNat * 0x800 + i.toNat)
  | .andi d a i => some (0x06000000 + d.toNat * 0x40000 + a.toNat * 0x800 + i.toNat)
  | .ori d a i => some (0x08000000 + d.toNat * 0x40000 + a.toNat * 0x800 + i.toNat)
  | .xori d a i => some (0x0A000000 + d.toNat * 0x40000 + a.toNat * 0x800 + i.toNat)
  | .shli d a n => some (0x0C000000 + d.toNat * 0x40000 + a.toNat * 0x800 + n.toNat)
  | .shri d a n => some (0x0C000200 + d.toNat * 0x40000 + a.toNat * 0x800 + n.toNat)
  | .shrai d a n => some (0x0C000400 + d.toNat * 0x40000 + a.toNat * 0x800 + n.toNat)
  | .rotri d a n => some (0x0C000600 + d.toNat * 0x40000 + a.toNat * 0x800 + n.toNat)
  | .imad d a b => some (0x0E000000 + d.toNat * 0x40000 + a.toNat * 0x800 + b.toNat * 0x10)
  | .imadu d a b => some (0x0E000001 + d.toNat * 0x40000 + a.toNat * 0x800 + b.toNat * 0x10)
  | .imadh d a b => some (0x0E000002 + d.toNat * 0x40000 + a.toNat * 0x800 + b.toNat * 0x10)
  | .imadhu d a b => some (0x0E000003 + d.toNat * 0x40000 + a.toNat * 0x800 + b.toNat * 0x10)
  | .iaddx d a b => some (0x10000000 + d.toNat * 0x40000 + a.toNat * 0x800 + b.toNat * 0x10)
  | .isubx d a b => some (0x10000001 + d.toNat * 0x40000 + a.toNat * 0x800 + b.toNat * 0x10)
  | .shlx d a b => some (0x10000002 + d.toNat * 0x40000 + a.toNat * 0x800 + b.toNat * 0x10)
  | .shrx d a b => some (0x10000003 + d.toNat * 0x40000 + a.toNat * 0x800 + b.toNat * 0x10)
  | .shrax d a b => some (0x10000004 + d.toNat * 0x40000 + a.toNat * 0x800 + b.toNat * 0x10)
  | .imulw d a b => some (0x10000005 + d.toNat * 0x40000 + a.toNat * 0x800 + b.toNat * 0x10)
  | .imulwu d a b => some (0x10000006 + d.toNat * 0x40000 + a.toNat * 0x800 + b.toNat * 0x10)
  | .leaS0 d a b => some (0x10000008 + d.toNat * 0x40000 + a.toNat * 0x800 + b.toNat * 0x10)
  | .leaS1 d a b => some (0x10000007 + d.toNat * 0x40000 + a.toNat * 0x800 + b.toNat * 0x10)
  | .leaS2 d a b => some (0x1000000B + d.toNat * 0x40000 + a.toNat * 0x800 + b.toNat * 0x10)
  | .leaS3 d a b => some (0x1000000F + d.toNat * 0x40000 + a.toNat * 0x800 + b.toNat * 0x10)
  | .mov d a => some (0x12000000 + d.toNat * 0x40000 + a.toNat * 0x800)
  | .movx d a => some (0x12000001 + d.toNat * 0x40000 + a.toNat * 0x800)
  | .ptov d => some (0x12000002 + d.toNat * 0x40000)
  | .vtop a => some (0x12000003 + a.toNat * 0x800)
  | .movi d i => some (0x14000000 + d.toNat * 0x40000 + i.toNat)
  | .sel d a b p => some (0x16000000 + d.toNat * 0x40000 + a.toNat * 0x800 + b.toNat * 0x10 + p.toNat)
  | .icmp d a b c => some (0x18000000 + d.toNat * 0x40000 + a.toNat * 0x800 + b.toNat * 0x10 + c.toNat)
  | .icmpi d a c i => some (0x1A000000 + d.toNat * 0x40000 + a.toNat * 0x800 + c.toNat * 0x80 + i.toNat)
  | .fadd d a b => some (0x1C000000 + d.toNat * 0x40000 + a.toNat * 0x800 + b.toNat * 0x10)
  | .fsub d a b => some (0x1C000001 + d.toNat * 0x40000 + a.toNat * 0x800 + b.toNat * 0x10)
  | .fmul d a b => some (0x1C000002 + d.toNat * 0x40000 + a.toNat * 0x800 + b.toNat * 0x10)
  | .fmin d a b => some (0x1C000003 + d.toNat * 0x40000 + a.toNat * 0x800 + b.toNat * 0x10)
  | .fmax d a b => some (0x1C000004 + d.toNat * 0x40000 + a.toNat * 0x800 + b.toNat * 0x10)
  | .fcopysign d a b => some (0x1C000005 + d.toNat * 0x40000 + a.toNat * 0x800 + b.toNat * 0x10)
  | .ffma d a b => some (0x1E000000 + d.toNat * 0x40000 + a.toNat * 0x800 + b.toNat * 0x10)
  | .ffms d a b => some (0x1E000001 + d.toNat * 0x40000 + a.toNat * 0x800 + b.toNat * 0x10)
  | .ffnma d a b => some (0x1E000002 + d.toNat * 0x40000 + a.toNat * 0x800 + b.toNat * 0x10)
  | .ffnms d a b => some (0x1E000003 + d.toNat * 0x40000 + a.toNat * 0x800 + b.toNat * 0x10)
  | .fcmp d a b c => some (0x20000000 + d.toNat * 0x40000 + a.toNat * 0x800 + b.toNat * 0x10 + c.toNat)
  | .frndn d a => some (0x22000000 + d.toNat * 0x40000 + a.toNat * 0x800)
  | .frndz d a => some (0x22000001 + d.toNat * 0x40000 + a.toNat * 0x800)
  | .frndd d a => some (0x22000002 + d.toNat * 0x40000 + a.toNat * 0x800)
  | .frndu d a => some (0x22000003 + d.toNat * 0x40000 + a.toNat * 0x800)
  | .fclass d a => some (0x22000004 + d.toNat * 0x40000 + a.toNat * 0x800)
  | .fabs d a => some (0x22000005 + d.toNat * 0x40000 + a.toNat * 0x800)
  | .fneg d a => some (0x22000006 + d.toNat * 0x40000 + a.toNat * 0x800)
  | .hadd2 d a b => some (0x24000000 + d.toNat * 0x40000 + a.toNat * 0x800 + b.toNat * 0x10)
  | .hsub2 d a b => some (0x24000001 + d.toNat * 0x40000 + a.toNat * 0x800 + b.toNat * 0x10)
  | .hmul2 d a b => some (0x24000002 + d.toNat * 0x40000 + a.toNat * 0x800 + b.toNat * 0x10)
  | .hfma2 d a b => some (0x24000003 + d.toNat * 0x40000 + a.toNat * 0x800 + b.toNat * 0x10)
  | .hmin2 d a b => some (0x24000004 + d.toNat * 0x40000 + a.toNat * 0x800 + b.toNat * 0x10)
  | .hmax2 d a b => some (0x24000005 + d.toNat * 0x40000 + a.toNat * 0x800 + b.toNat * 0x10)
  | .badd2 d a b => some (0x24000006 + d.toNat * 0x40000 + a.toNat * 0x800 + b.toNat * 0x10)
  | .bsub2 d a b => some (0x24000007 + d.toNat * 0x40000 + a.toNat * 0x800 + b.toNat * 0x10)
  | .bmul2 d a b => some (0x24000008 + d.toNat * 0x40000 + a.toNat * 0x800 + b.toNat * 0x10)
  | .bfma2 d a b => some (0x24000009 + d.toNat * 0x40000 + a.toNat * 0x800 + b.toNat * 0x10)
  | .bmin2 d a b => some (0x2400000A + d.toNat * 0x40000 + a.toNat * 0x800 + b.toNat * 0x10)
  | .bmax2 d a b => some (0x2400000B + d.toNat * 0x40000 + a.toNat * 0x800 + b.toNat * 0x10)
  | .dot4s8 d a b => some (0x26000000 + d.toNat * 0x40000 + a.toNat * 0x800 + b.toNat * 0x10)
  | .dot4u8 d a b => some (0x26000001 + d.toNat * 0x40000 + a.toNat * 0x800 + b.toNat * 0x10)
  | .dot4su8 d a b => some (0x26000002 + d.toNat * 0x40000 + a.toNat * 0x800 + b.toNat * 0x10)
  | .dot8s4 d a b => some (0x26000003 + d.toNat * 0x40000 + a.toNat * 0x800 + b.toNat * 0x10)
  | .dot2h d a b => some (0x26000004 + d.toNat * 0x40000 + a.toNat * 0x800 + b.toNat * 0x10)
  | .dot2b d a b => some (0x26000005 + d.toNat * 0x40000 + a.toNat * 0x800 + b.toNat * 0x10)
  | .dot4e4 d a b => some (0x26000006 + d.toNat * 0x40000 + a.toNat * 0x800 + b.toNat * 0x10)
  | .dot4e5 d a b => some (0x26000007 + d.toNat * 0x40000 + a.toNat * 0x800 + b.toNat * 0x10)
  | .cvt d a m => some (0x28000000 + d.toNat * 0x40000 + a.toNat * 0x800 + m.toNat)
  | .qnt d a b s => some (0x2A000000 + d.toNat * 0x40000 + a.toNat * 0x800 + b.toNat * 0x10 + s.toNat * 0x2)
  | .dqnt d a b s => some (0x2C000000 + d.toNat * 0x40000 + a.toNat * 0x800 + b.toNat * 0x10 + s.toNat * 0x2)
  | .unpk3 d a n => some (0x2E000000 + d.toNat * 0x40000 + a.toNat * 0x800 + n.toNat * 0x4)
  | .exp2 d a b => some (0x30000000 + d.toNat * 0x40000 + a.toNat * 0x800 + b.toNat * 0x10)
  | .exp d a b => some (0x30000001 + d.toNat * 0x40000 + a.toNat * 0x800 + b.toNat * 0x10)
  | .log2 d a b => some (0x30000002 + d.toNat * 0x40000 + a.toNat * 0x800 + b.toNat * 0x10)
  | .rcp d a b => some (0x30000003 + d.toNat * 0x40000 + a.toNat * 0x800 + b.toNat * 0x10)
  | .rsqrt d a b => some (0x30000004 + d.toNat * 0x40000 + a.toNat * 0x800 + b.toNat * 0x10)
  | .sqrt d a b => some (0x30000005 + d.toNat * 0x40000 + a.toNat * 0x800 + b.toNat * 0x10)
  | .sin d a b => some (0x30000006 + d.toNat * 0x40000 + a.toNat * 0x800 + b.toNat * 0x10)
  | .cos d a b => some (0x30000007 + d.toNat * 0x40000 + a.toNat * 0x800 + b.toNat * 0x10)
  | .tanh d a b => some (0x30000008 + d.toNat * 0x40000 + a.toNat * 0x800 + b.toNat * 0x10)
  | .sigm d a b => some (0x30000009 + d.toNat * 0x40000 + a.toNat * 0x800 + b.toNat * 0x10)
  | .gelu d a b => some (0x3000000A + d.toNat * 0x40000 + a.toNat * 0x800 + b.toNat * 0x10)
  | .pand d a b => some (0x32000000 + d.toNat * 0x40000 + a.toNat * 0x800 + b.toNat * 0x10)
  | .por d a b => some (0x32000001 + d.toNat * 0x40000 + a.toNat * 0x800 + b.toNat * 0x10)
  | .pxor d a b => some (0x32000002 + d.toNat * 0x40000 + a.toNat * 0x800 + b.toNat * 0x10)
  | .pandn d a b => some (0x32000003 + d.toNat * 0x40000 + a.toNat * 0x800 + b.toNat * 0x10)
  | .pnot d a => some (0x32000004 + d.toNat * 0x40000 + a.toNat * 0x800)
  | .pmov d a => some (0x32000005 + d.toNat * 0x40000 + a.toNat * 0x800)
  | .pset d => some (0x32000006 + d.toNat * 0x40000)
  | .pclr d => some (0x32000007 + d.toNat * 0x40000)
  | .ld d a z o k => some (0x34000000 + d.toNat * 0x40000 + a.toNat * 0x800 + z.toNat * 0x100 + o.toNat * 0x40 + k.toNat * 0x8)
  | .st d a z o k => some (0x36000000 + d.toNat * 0x40000 + a.toNat * 0x800 + z.toNat * 0x100 + o.toNat * 0x40 + k.toNat * 0x8)
  | .ldnr d a z o k p => some (0x38000000 + d.toNat * 0x40000 + a.toNat * 0x800 + z.toNat * 0x100 + o.toNat * 0x40 + k.toNat * 0x8 + p.toNat)
  | .ldtWaitfull d a z k => some (0x3A000200 + d.toNat * 0x40000 + a.toNat * 0x800 + z.toNat * 0x100 + k.toNat * 0x8)
  | .ldtTake d a z k => some (0x3A000201 + d.toNat * 0x40000 + a.toNat * 0x800 + z.toNat * 0x100 + k.toNat * 0x8)
  | .ldtPeektag d a z k => some (0x3A000202 + d.toNat * 0x40000 + a.toNat * 0x800 + z.toNat * 0x100 + k.toNat * 0x8)
  | .sttPut d a z k => some (0x3C000200 + d.toNat * 0x40000 + a.toNat * 0x800 + z.toNat * 0x100 + k.toNat * 0x8)
  | .sttFill d a z k => some (0x3C000201 + d.toNat * 0x40000 + a.toNat * 0x800 + z.toNat * 0x100 + k.toNat * 0x8)
  | .sttDrain d a z k => some (0x3C000202 + d.toNat * 0x40000 + a.toNat * 0x800 + z.toNat * 0x100 + k.toNat * 0x8)
  | .atom d a b o => some (0x3E000000 + d.toNat * 0x40000 + a.toNat * 0x800 + b.toNat * 0x10 + o.toNat)
  | .ared a b o => some (0x40000000 + a.toNat * 0x800 + b.toNat * 0x10 + o.toNat)
  | .lperm d a b m => some (0x42000000 + d.toNat * 0x40000 + a.toNat * 0x800 + b.toNat * 0x10 + m.toNat)
  | .lsense d a m => some (0x44000000 + d.toNat * 0x40000 + a.toNat * 0x800 + m.toNat)
  | .lfold d a m => some (0x46000000 + d.toNat * 0x40000 + a.toNat * 0x800 + m.toNat)
  | .scan d a m => some (0x48000000 + d.toNat * 0x40000 + a.toNat * 0x800 + m.toNat)
  | .brl p o => some (0x4A000000 + p.toNat * 0x100000 + o.toNat)
  | .rng d => some (0x4C000000 + d.toNat * 0x40000)
  | .rngseed a => some (0x4C000001 + a.toNat * 0x800)
  | .trd d t c n => some (0x4E000000 + d.toNat * 0x40000 + t.toNat * 0x4000 + c.toNat * 0x200 + n.toNat * 0x10)
  | .twr d t c n => some (0x50000000 + d.toNat * 0x40000 + t.toNat * 0x4000 + c.toNat * 0x200 + n.toNat * 0x10)
  | .uadd d a b => some (0x80000000 + d.toNat * 0x40000 + a.toNat * 0x800 + b.toNat * 0x10)
  | .usub d a b => some (0x80000001 + d.toNat * 0x40000 + a.toNat * 0x800 + b.toNat * 0x10)
  | .umul d a b => some (0x80000002 + d.toNat * 0x40000 + a.toNat * 0x800 + b.toNat * 0x10)
  | .umulhu d a b => some (0x80000003 + d.toNat * 0x40000 + a.toNat * 0x800 + b.toNat * 0x10)
  | .ualuUmin d a b => some (0x80000004 + d.toNat * 0x40000 + a.toNat * 0x800 + b.toNat * 0x10)
  | .ualuUmax d a b => some (0x80000005 + d.toNat * 0x40000 + a.toNat * 0x800 + b.toNat * 0x10)
  | .ualuAnd d a b => some (0x80000006 + d.toNat * 0x40000 + a.toNat * 0x800 + b.toNat * 0x10)
  | .ualuOr d a b => some (0x80000007 + d.toNat * 0x40000 + a.toNat * 0x800 + b.toNat * 0x10)
  | .ualuXor d a b => some (0x80000008 + d.toNat * 0x40000 + a.toNat * 0x800 + b.toNat * 0x10)
  | .ualuShl d a b => some (0x80000009 + d.toNat * 0x40000 + a.toNat * 0x800 + b.toNat * 0x10)
  | .ualuShr d a b => some (0x8000000A + d.toNat * 0x40000 + a.toNat * 0x800 + b.toNat * 0x10)
  | .ualuShra d a b => some (0x8000000B + d.toNat * 0x40000 + a.toNat * 0x800 + b.toNat * 0x10)
  | .uaddi d a i => some (0x82000000 + d.toNat * 0x40000 + a.toNat * 0x800 + i.toNat)
  | .umovi d i => some (0x84000000 + d.toNat * 0x40000 + i.toNat)
  | .uaddx d a b => some (0x86000000 + d.toNat * 0x40000 + a.toNat * 0x800 + b.toNat * 0x10)
  | .usubx d a b => some (0x86000001 + d.toNat * 0x40000 + a.toNat * 0x800 + b.toNat * 0x10)
  | .umulw d a b => some (0x86000002 + d.toNat * 0x40000 + a.toNat * 0x800 + b.toNat * 0x10)
  | .ulea d a b s => some (0x86000003 + d.toNat * 0x40000 + a.toNat * 0x800 + b.toNat * 0x10 + s.toNat * 0x4)
  | .ucmp d a b c => some (0x88000000 + d.toNat * 0x40000 + a.toNat * 0x800 + b.toNat * 0x10 + c.toNat)
  | .ucmpi d a c i => some (0x8A000000 + d.toNat * 0x40000 + a.toNat * 0x800 + c.toNat * 0x80 + i.toNat)
  | .bra p m o => some (0x8C000000 + p.toNat * 0x100000 + m.toNat * 0x40000 + o.toNat)
  | .call o => some (0x8FF00000 + o.toNat)
  | .nop => some (0x90000000)
  | .exit => some (0x90000001)
  | .yield => some (0x90000002)
  | .brk => some (0x90000003)
  | .trap a => some (0x90000004 + a.toNat * 0x800)
  | .ret a => some (0x90000005 + a.toNat * 0x800)
  | .brr a => some (0x90000006 + a.toNat * 0x800)
  | .callr a => some (0x90000007 + a.toNat * 0x800)
  | .sread d n => some (0x92000000 + d.toNat * 0x40000 + n.toNat * 0x10)
  | .swrite a n => some (0x92000001 + a.toNat * 0x800 + n.toNat * 0x10)
  | .rquota a b => some (0x92000002 + a.toNat * 0x800 + b.toNat * 0x10)
  | .rdlane d a b => some (0x92000003 + d.toNat * 0x40000 + a.toNat * 0x800 + b.toNat * 0x10)
  | .wrlane d a b => some (0x92000004 + d.toNat * 0x40000 + a.toNat * 0x800 + b.toNat * 0x10)
  | .rjset j => some (0x94000000 + j.toNat * 0x800)
  | .rjwait j => some (0x94000001 + j.toNat * 0x800)
  | .rjclr j => some (0x94000002 + j.toNat * 0x800)
  | .rjread d j => some (0x94000003 + d.toNat * 0x40000 + j.toNat * 0x800)
  | .barTeam => some (0x96000000)
  | .barCluster => some (0x96000001)
  | .arriveTeam => some (0x96000002)
  | .waitTeam => some (0x96000003)
  | .arriveCluster => some (0x96000004)
  | .waitCluster => some (0x96000005)
  | .fence k => some (0x98000000 + k.toNat)
  | .boinit a => some (0x9A000000 + a.toNat * 0x800)
  | .boexp a b => some (0x9A000001 + a.toNat * 0x800 + b.toNat * 0x10)
  | .boarr a b => some (0x9A000002 + a.toNat * 0x800 + b.toNat * 0x10)
  | .bowait d a b => some (0x9A000003 + d.toNat * 0x40000 + a.toNat * 0x800 + b.toNat * 0x10)
  | .botest d a b => some (0x9A000004 + d.toNat * 0x40000 + a.toNat * 0x800 + b.toNat * 0x10)
  | .bofault a b => some (0x9A000005 + a.toNat * 0x800 + b.toNat * 0x10)
  | .tkinit a => some (0x9C000000 + a.toNat * 0x800)
  | .tkget d a b => some (0x9C000001 + d.toNat * 0x40000 + a.toNat * 0x800 + b.toNat * 0x10)
  | .tkwait d a b => some (0x9C000002 + d.toNat * 0x40000 + a.toNat * 0x800 + b.toNat * 0x10)
  | .tknext d a => some (0x9C000003 + d.toNat * 0x40000 + a.toNat * 0x800)
  | .dqinit a b => some (0x9E000000 + a.toNat * 0x800 + b.toNat * 0x10)
  | .dqpush d a b => some (0x9E000001 + d.toNat * 0x40000 + a.toNat * 0x800 + b.toNat * 0x10)
  | .dqpop d a => some (0x9E000002 + d.toNat * 0x40000 + a.toNat * 0x800)
  | .dqsteal d a => some (0x9E000003 + d.toNat * 0x40000 + a.toNat * 0x800)
  | .arflush => some (0xA0000000)
  | .arstat d => some (0xA0000001 + d.toNat * 0x40000)
  | .wpread d a => some (0xA2000000 + d.toNat * 0x40000 + a.toNat * 0x800)
  | .wpwait d a b => some (0xA2000001 + d.toNat * 0x40000 + a.toNat * 0x800 + b.toNat * 0x10)
  | .tconf n a => some (0xA4000000 + n.toNat * 0x40000 + a.toNat * 0x800)
  | .tcread d n => some (0xA4000001 + d.toNat * 0x40000 + n.toNat * 0x800)
  | .tzero n => some (0xA4000002 + n.toNat * 0x40000)
  | .tld t p k => some (0xA6000000 + t.toNat * 0x200000 + p.toNat * 0x4000 + k.toNat * 0x80)
  | .tst t p k => some (0xA6000001 + t.toNat * 0x200000 + p.toNat * 0x4000 + k.toNat * 0x80)
  | .tldt t p k => some (0xA6000002 + t.toNat * 0x200000 + p.toNat * 0x4000 + k.toNat * 0x80)
  | .mma d a b s u => some (0xA8000000 + d.toNat * 0x200000 + a.toNat * 0x20000 + b.toNat * 0x2000 + s.toNat * 0x400 + u.toNat * 0x10)
  | .mmaq d a b s u => some (0xA8000001 + d.toNat * 0x200000 + a.toNat * 0x20000 + b.toNat * 0x2000 + s.toNat * 0x400 + u.toNat * 0x10)
  | .mmat d a b s u => some (0xA8000002 + d.toNat * 0x200000 + a.toNat * 0x20000 + b.toNat * 0x2000 + s.toNat * 0x400 + u.toNat * 0x10)
  | .mmab d a b s u => some (0xA8000003 + d.toNat * 0x200000 + a.toNat * 0x20000 + b.toNat * 0x2000 + s.toNat * 0x400 + u.toNat * 0x10)
  | .tcvt d a b s u => some (0xAA000000 + d.toNat * 0x200000 + a.toNat * 0x20000 + b.toNat * 0x2000 + s.toNat * 0x400 + u.toNat * 0x10)
  | .trmax d a b s u => some (0xAA000001 + d.toNat * 0x200000 + a.toNat * 0x20000 + b.toNat * 0x2000 + s.toNat * 0x400 + u.toNat * 0x10)
  | .trsum d a b s u => some (0xAA000002 + d.toNat * 0x200000 + a.toNat * 0x20000 + b.toNat * 0x2000 + s.toNat * 0x400 + u.toNat * 0x10)
  | .trscl d a b s u => some (0xAA000003 + d.toNat * 0x200000 + a.toNat * 0x20000 + b.toNat * 0x2000 + s.toNat * 0x400 + u.toNat * 0x10)
  | .texp2 d a b s u => some (0xAA000004 + d.toNat * 0x200000 + a.toNat * 0x20000 + b.toNat * 0x2000 + s.toNat * 0x400 + u.toNat * 0x10)
  | .tmov d a b s u => some (0xAA000005 + d.toNat * 0x200000 + a.toNat * 0x20000 + b.toNat * 0x2000 + s.toNat * 0x400 + u.toNat * 0x10)
  | .tmask d a b s u => some (0xAA000006 + d.toNat * 0x200000 + a.toNat * 0x20000 + b.toNat * 0x2000 + s.toNat * 0x400 + u.toNat * 0x10)
  | .cpy d a w c => some (0xAC000000 + d.toNat * 0x40000 + a.toNat * 0x800 + w.toNat * 0x20 + c.toNat * 0x10)
  | .cpym d a r c => some (0xAC000001 + d.toNat * 0x40000 + a.toNat * 0x800 + r.toNat * 0x40 + c.toNat * 0x10)
  | .cpyc d a w c => some (0xAC000002 + d.toNat * 0x40000 + a.toNat * 0x800 + w.toNat * 0x20 + c.toNat * 0x10)
  | .gath d a => some (0xAE000000 + d.toNat * 0x40000 + a.toNat * 0x800)
  | .scat d a => some (0xAE000001 + d.toNat * 0x40000 + a.toNat * 0x800)
  | .chain d a => some (0xB0000000 + d.toNat * 0x40000 + a.toNat * 0x800)
  | .allred d a => some (0xB2000000 + d.toNat * 0x40000 + a.toNat * 0x800)
  | .allgath d a => some (0xB2000001 + d.toNat * 0x40000 + a.toNat * 0x800)
  | .redscat d a => some (0xB2000002 + d.toNat * 0x40000 + a.toNat * 0x800)
  | .bcast d a => some (0xB2000003 + d.toNat * 0x40000 + a.toNat * 0x800)
  | .svsub d a => some (0xB4000000 + d.toNat * 0x40000 + a.toNat * 0x800)
  | .svsweep d => some (0xB4000001 + d.toNat * 0x40000)
  | .svpart d => some (0xB4000002 + d.toNat * 0x40000)
  | .svclose d => some (0xB4000003 + d.toNat * 0x40000)
  | .svstat d => some (0xB4000004 + d.toNat * 0x40000)
  | .svstatDesc d => some (0xB4000014 + d.toNat * 0x40000)
  | .svcancel d => some (0xB4000005 + d.toNat * 0x40000)
  | .tolnode k a b => some (0xB6000000 + k.toNat * 0x40000 + a.toNat * 0x800 + b.toNat * 0x10)
  | .demand a b => some (0xB6000001 + a.toNat * 0x800 + b.toNat * 0x10)
  | .tolget d a => some (0xB6000002 + d.toNat * 0x40000 + a.toNat * 0x800)
  | .fmtsel d a b => some (0xB6000003 + d.toNat * 0x40000 + a.toNat * 0x800 + b.toNat * 0x10)
  | .itersel d a b => some (0xB6000004 + d.toNat * 0x40000 + a.toNat * 0x800 + b.toNat * 0x10)
  | .tolchk d => some (0xB6000005 + d.toNat * 0x40000)
  | .tolclr a => some (0xB6000006 + a.toNat * 0x800)
  | .tolclrAll => some (0xB6040006)
  | .launch d => some (0xB8000000 + d.toNat * 0x40000)
  | .launchq d => some (0xB8000001 + d.toNat * 0x40000)
  | .ctxnew d => some (0xBA000000 + d.toNat * 0x40000)
  | .ctxgrant d g => some (0xBA000001 + d.toNat * 0x40000 + g.toNat * 0x10)
  | .ctxfrz d => some (0xBA000002 + d.toNat * 0x40000)
  | .ctxthaw d => some (0xBA000003 + d.toNat * 0x40000)
  | .ctxckpt d t => some (0xBA000004 + d.toNat * 0x40000 + t.toNat * 0x10)
  | .ctxrest d => some (0xBA000005 + d.toNat * 0x40000)
  | .ctxrevk d => some (0xBA000006 + d.toNat * 0x40000)
  | .ctxstat d => some (0xBA000007 + d.toNat * 0x40000)
  | .ctxdbgSetbp d => some (0xBA000008 + d.toNat * 0x40000)
  | .ctxdbgClrbp d => some (0xBA000018 + d.toNat * 0x40000)
  | .ctxdbgRdstate d => some (0xBA000028 + d.toNat * 0x40000)
  | .ctxdbgWrstate d => some (0xBA000038 + d.toNat * 0x40000)
  | .ctxdbgStep d => some (0xBA000048 + d.toNat * 0x40000)
  | .mapg d => some (0xBC000000 + d.toNat * 0x40000)
  | .unmapg d => some (0xBC000001 + d.toNat * 0x40000)
  | .pinv d => some (0xBC000002 + d.toNat * 0x40000)
  | .pgreq d w => some (0xBC000003 + d.toNat * 0x40000 + w.toNat * 0x10)
  | .hqarm d => some (0xBE000000 + d.toNat * 0x40000)
  | .hqdisarm d => some (0xBE000001 + d.toNat * 0x40000)
  | .hqack d a b => some (0xBE000002 + d.toNat * 0x40000 + a.toNat * 0x800 + b.toNat * 0x10)
  | .uld d a z o k => some (0xC0000000 + d.toNat * 0x40000 + a.toNat * 0x800 + z.toNat * 0x100 + o.toNat * 0x40 + k.toNat * 0x8)
  | .ust d a z o k => some (0xC2000000 + d.toNat * 0x40000 + a.toNat * 0x800 + z.toNat * 0x100 + o.toNat * 0x40 + k.toNat * 0x8)
  | .uatom d a b o => some (0xC4000000 + d.toNat * 0x40000 + a.toNat * 0x800 + b.toNat * 0x10 + o.toNat)
  | .xsco s o => some (0xF8000000 + s.toNat * 0x400000 + o.toNat * 0x100000)
  | .xmod a b w i t r s => some (0xFA000000 + a.toNat * 0x40000 + b.toNat * 0x800 + w.toNat * 0x200 + i.toNat * 0x40 + t.toNat * 0x10 + r.toNat * 0x2 + s.toNat)
  | .ximm x => some (0xFC000000 + x.toNat)

/-- The 32-bit word of an instruction. -/
def encode (i : Instr) : Option Word := (encodeNat i).map (BitVec.ofNat 32)

namespace Decode

/-- S and the major of a word, as one number (R123). -/
def major (n : Nat) : Nat := bits n 25 7

/-- The word belongs to the uniform set (R123). -/
def isUniform (n : Nat) : Bool := decide (64 ≤ major n)

/-- XIMM, XMOD or XSCO (R131). -/
def isPrefix (n : Nat) : Bool := decide (124 ≤ major n ∧ major n ≤ 126)

/-- The word ends control within its clause and must be its last (R130, R206). -/
def endsClause (n : Nat) : Bool :=
  match major n with
  | 37 => true
  | 70 => true
  | 71 => true
  | 72 => decide (bits n 0 4 = 1 ∨ bits n 0 4 = 5 ∨ bits n 0 4 = 6 ∨ bits n 0 4 = 7)
  | 74 => decide (bits n 0 4 = 1)
  | _ => false

/-- A minor of a long major that the opcode map lists (R138 to R140); any other is a reserved encoding, met at the instruction
(R137). -/
def listedMinor (n : Nat) : Bool :=
  let k := bits n 0 4
  match major n with
  | 24 => decide (k < 11)
  | 26 => decide (bits n 0 3 = 0)
  | 27 => decide (bits n 0 3 = 0)
  | 29 => decide (bits n 0 3 < 3)
  | 30 => decide (bits n 0 3 < 3)
  | 31 => decide (k < 14)
  | 32 => decide (k < 11)
  | 33 => decide (k < 4)
  | 34 => decide (k < 5)
  | 35 => decide (k < 11)
  | 36 => decide (k < 4)
  | 39 => decide (k = 0)
  | 40 => decide (k = 0)
  | 73 => decide (k < 5)
  | 75 => decide (k < 6)
  | 76 => decide (k < 5)
  | 77 => decide (k < 6)
  | 78 => decide (k < 4)
  | 79 => decide (k < 4)
  | 80 => decide (k < 2)
  | 81 => decide (k < 2)
  | 82 => decide (k < 3)
  | 83 => decide (k < 3)
  | 84 => decide (k < 4)
  | 85 => decide (k < 7)
  | 86 => decide (k < 3)
  | 87 => decide (k < 2)
  | 88 => decide (bits n 0 11 = 0)
  | 89 => decide (k < 4)
  | 90 => decide (k < 6)
  | 91 => decide (k < 7)
  | 92 => decide (k < 2)
  | 93 => decide (k < 9)
  | 94 => decide (k < 4)
  | 95 => decide (k < 3)
  | 96 => decide (bits n 0 3 = 0)
  | 97 => decide (bits n 0 3 = 0)
  | 98 => decide (k < 14)
  | _ => true

/-- Which flag field a long operation attaches to (R128): none for a short or control word, true for the matrix and
engine operations (SETB first), false for every other long operation (SETA). A reserved encoding is no operation. -/
def longClass (n : Nat) : Option Bool :=
  let m := major n
  if !listedMinor n then none
  else if m = 1 then (if bits n 0 4 < 4 then some false else none)
  else if m = 24 ∨ (26 ≤ m ∧ m ≤ 36) then some false
  else if m = 39 ∨ m = 40 then some true
  else if m = 73 ∨ (75 ≤ m ∧ m ≤ 81) then some false
  else if 82 ≤ m ∧ m ≤ 94 then some true
  else if 95 ≤ m ∧ m ≤ 98 then some false
  else none

/-- Which majors accept which prefix (R132, R133, R134, R143, R164, R194). -/
def acceptsPrefix (pre n : Nat) : Bool :=
  let m := major n
  if pre = 126 then decide (m ∈ [2, 3, 4, 5, 10, 13, 65, 66, 69])
  else if pre = 125 then decide (m ∈ [0, 12, 14, 15, 16, 17, 20, 24])
  else decide (m = 31 ∨ m = 98)

end Decode

/-- A clause header, H0 and H1 read apart (R126). `seta` and `setb` are 15 for none; `gpred` is 31 for none. -/
structure ClauseHeader where
  wait : BitVec 12
  seta : Nat
  setb : Nat
  len : Nat
  yieldHint : Bool
  dist : Nat
  gmask : Nat
  gpred : Nat
  gneg : Bool
deriving DecidableEq, Repr

/-- The distance an instruction of the clause carries, 1 to 4 cycles (R126). -/
def ClauseHeader.distance (h : ClauseHeader) (i : Nat) : Nat := Decode.bits h.dist (14 - 2 * i) 2 + 1

/-- The instruction is guarded (R126, R129). -/
def ClauseHeader.guarded (h : ClauseHeader) (i : Nat) : Bool := h.gmask.testBit i

namespace Decode

/-- The word has the form of H0: MARK stands (R126, R130). -/
def isHeader (n : Nat) : Bool := decide (bits n 25 7 = 127)

/-- SETA and SETB name f0 to f11, or 15 for none. -/
def flagFieldOk (x : Nat) : Bool := decide (x < 12 ∨ x = 15)

/-- Reading H0 and H1; none where one of their own fields breaks R126 (first row of R137). -/
def header (h0 h1 : Nat) : Option ClauseHeader :=
  let len := bits h0 2 3 + 1
  if isHeader h0 && flagFieldOk (bits h0 9 4) && flagFieldOk (bits h0 5 4) && decide (bits h0 1 1 = 0)
      && decide (bits h1 0 2 = 0) && decide (bits h1 16 (16 - 2 * len) = 0) && decide (bits h1 (8 + len) (8 - len) = 0)
      && decide (bits h1 3 5 < 24 ∨ bits h1 3 5 = 31) && (decide (bits h1 3 5 ≠ 31) || decide (bits h1 8 8 = 0)) then
    some { wait := fld h0 13 12, seta := bits h0 9 4, setb := bits h0 5 4, len := len,
           yieldHint := decide (bits h0 0 1 = 1), dist := bits h1 16 16, gmask := bits h1 8 8,
           gpred := bits h1 3 5, gneg := decide (bits h1 2 1 = 1) }
  else none

/-- The prefixes that stand before a word are accepted by it and do not repeat a kind (R131). -/
def prefixesOk (seen : List Nat) (n : Nat) : Bool := seen.all (fun p => acceptsPrefix p n)

/-- The words of a clause, from slot i on, against R126 (prefix slots, GMASK), R128, R130, R131 and R206. -/
def clauseWordsOk (h : ClauseHeader) : Nat → List Nat → List Nat → Bool
  | _, seen, [] => seen.isEmpty
  | i, seen, n :: rest =>
    if isPrefix n then
      decide (h.distance i = 1) && !h.guarded i && !seen.contains (major n)
        && clauseWordsOk h (i + 1) (major n :: seen) rest
    else
      (!isUniform n || !h.guarded i) && prefixesOk seen n && (!endsClause n || rest.isEmpty)
        && (match longClass n with
            | none => true
            | some false => decide (h.seta ≠ 15)
            | some true => decide (h.seta ≠ 15 ∨ h.setb ≠ 15))
        && clauseWordsOk h (i + 1) [] rest

/-- A legal clause: a legal header and legal words (the first two rows of R137). -/
def clause (h0 h1 : Nat) (ws : List Nat) : Option ClauseHeader :=
  match header h0 h1 with
  | none => none
  | some h => if ws.length = h.len ∧ clauseWordsOk h 0 [] ws = true then some h else none

end Decode

end Sys2Proof
end

