-- ==== Sys2Proof/Machine/State.lean ====
section
/-! DEFINITION. The state of a KX2 package as plain data: every lane, group, team, cluster, grid and inset; memory with its
tags and poison; the engines, the Survey units and the Tolerance tables; the device's control registers, queues, fabric,
power, key slots and migration records. Fields that are the model's own say so. -/
namespace Sys2Proof.Machine

/-- Why the machine stops. -/
inductive Fault where
  /-- Raised by a host access through the device-memory window to a physical address outside R342 (HOST_MEMORY_ACCESS).
  Safe: the model stops where the manual names no memory. -/
  | noSuchAddress (address : Nat)
deriving DecidableEq, Repr

/-- Why the machine refuses an instruction. -/
inductive Refusal where
  /-- Raised by an arm of exec whose instruction has no meaning yet. Safe: nothing is claimed of it. -/
  | notModelled (mnemonic : String)
deriving DecidableEq, Repr

/-! ## Lanes and groups -/

/-- A short result that is not visible yet (R127): the bits it writes, its latency, the lane clock at which the lane's own stream
sees it, and the cycle at which other streams do. -/
structure Pending where
  reg : Nat
  mask : Word
  value : Word
  latency : Nat
  visible : Nat
  cycle : Nat
deriving DecidableEq, Repr

/-- One lane position of a group (R33, R37, R41, R43). -/
structure Lane where
  header : Nat
  index : Nat
  exited : Bool
  parked : Option Nat
  run : Nat
  regs : List (Nat × Word)
  preds : BitVec 24
  gen : BitVec 64
  clock : Nat
  pend : List Pending
deriving DecidableEq, Repr

/-- A run of a group: its deferred bit, and the breakpoint slot it has just been resumed from (R20, R21, R331). -/
structure Run where
  id : Nat
  deferred : Bool
  passed : Option Nat
deriving DecidableEq, Repr

/-- The fields of an XMOD prefix (R133). -/
structure XMod where
  a : BitVec 7
  b : BitVec 7
  width : BitVec 2
  index : BitVec 3
  interp : BitVec 2
  round : BitVec 3
  sat : Bool
deriving DecidableEq, Repr

/-- A clause under way: its header and words as fetched (R391), the next word, and the prefixes read for it (R131). -/
structure Clause where
  run : Nat
  base : Nat
  header : ClauseHeader
  words : List Word
  index : Nat
  ximm : Option (BitVec 25)
  xmod : Option XMod
  xsco : Option (BitVec 3 × BitVec 2)
deriving DecidableEq, Repr

/-- A group stopped by an event (R28, R337): the event kind, whether it fell at a clause start, the breakpoint slot it
stopped at, whether the saved counters already stand after the instruction (BRK, TRAP), the run that stopped, and the long
operation that met the event after its issue (R65, R116), if one did. -/
structure Stop where
  kind : Nat
  clauseStart : Bool
  slot : Option Nat
  after : Bool
  run : Nat
  index : Nat
  length : Nat
  late : Option Nat
deriving DecidableEq, Repr

/-- One entry of a neighbour receive queue (R35): reserved by a long operation, or filled with 32 words. -/
structure NeighbourEntry where
  op : Option Nat
  words : List Word
deriving DecidableEq, Repr

/-- One entry of an atomic buffer (R74): the key, the physical address it was checked to name, and the partial (R59). -/
structure AtomicEntry where
  address : Nat
  op : Nat
  phys : Nat
  sum : Word
deriving DecidableEq, Repr

/-- A group of 32 lanes (R8). `gid` and `team` are the model's keys; `lastLane` and `lastUniform` are the recency of R19. -/
structure Group where
  gid : Nat
  team : Nat
  index : Nat
  slot : Nat
  quota : Nat
  tileQuota : Nat
  lanes : List Lane
  sregs : List (Nat × Word)
  flags : List Nat
  rejoin : List (Lanes × Bool)
  tiles : List (Nat × Byte)
  tileCtl : List (Nat × Word)
  stkLo : Word
  stkHi : Word
  evtag : Word
  latch : List (Nat × Word)
  runs : List Run
  streak : Nat
  lastRun : Option Nat
  clause : Option Clause
  stop : Option Stop
  stepping : Bool
  lastIssue : Nat
  lastLane : Nat
  lastUniform : Nat
  recv : List (List NeighbourEntry)
  atomics : List AtomicEntry
  overflow : Nat
  flushed : Bool
  pendTeam : Option Nat
  pendCluster : Option Nat
  reads : List Nat
  writes : List Nat
  written : BitVec 64
  charged : Option Nat
  freed : Bool
  /-- Flags on which forms of R323 completed, whose acquire takes effect at the first clause that waits on them. -/
  acquiring : List Nat
deriving DecidableEq, Repr

/-! ## Long operations -/

/-- A register a long operation writes (R128): a lane's register or predicate, or a uniform register (no lane).
`loses` marks a result that a later short write has overtaken. -/
structure RegWrite where
  lane : Option Nat
  reg : Nat
  mask : Word
  value : Word
  loses : Bool
deriving DecidableEq, Repr

/-- One lane of a tagged access: its address in the inset's space and the physical address it names (R64, R65). -/
structure TagLane where
  lane : Option Nat
  vaddr : Nat
  address : Nat
  lo : Word
  hi : Word
deriving DecidableEq, Repr

/-- What a long operation still waits for before its flag may fall. -/
inductive Waiting where
  /-- Nothing: the results stand, and the operation may complete. -/
  | none
  /-- A tagged access of R64 (kind 0 to 5 in the table's order) that has not reached its vault, or waits there. -/
  | tagged (kind size scope dst : Nat) (lanes : List TagLane)
  /-- BOWAIT and the waits of R182 on a word or a record. -/
  | bo (address : Nat) (last : Word) (dst : Nat)
  | ticket (address : Nat) (turn : Word) (dst : Nat)
  | pointer (address : Nat) (least : BitVec 64) (dst : Nat)
  | teamPhase (phase : Nat)
  | clusterPhase (phase : Nat)
  | flushPoint
  /-- An ARFLUSH whose flush point has passed: the words of its group that drained (R75, R185). -/
  | drained (words : List Nat)
  /-- The 8-byte parts of a 16-byte access that have not performed, low half first in each lane (R179). -/
  | wide (load : Bool) (order scope dst : Nat) (parts : List TagLane)
  /-- A matrix stream, or a Survey partial, that its unit has not read whole (R223, R242). -/
  | stream (cmd : Nat)
  /-- An engine command that has not been accepted yet (R228). -/
  | accept (cmd : Nat)
  /-- A Tolerance instruction that the unit has not taken yet (R116). -/
  | tol (words : List Word) (minor dst : Nat)
  /-- A CTX or MAP form on a child in progress, by its number in Privileged, and what it read at issue (R316, R329). -/
  | form (form child : Nat) (desc : List Word) (dst : Nat)
  /-- A page request that waits for its acknowledgement (R334). -/
  | pageRequest (dst : Nat)
  /-- A register move (R16): giver's blocks, receiver, their number. -/
  | quotaMove (receiver blocks : Nat)
  /-- A push into a neighbour queue that a long operation reserved (R142). -/
  | push (dir : Nat) (words : List Word)
deriving DecidableEq, Repr

/-- A long operation in flight (R128). `words` are its instruction word and prefixes, `operands` the s operands read at
issue, both for the withdrawn-access list (R312); `arrived` tells that a wait has reached its vault, `held` that it found
the vault's table full, `again` that a restore or RESUME has issued it again, so that its addresses are translated anew; `header`,
`index` and `mask` are those of its issue, for a record it raises later. -/
structure LongOp where
  id : Nat
  gid : Nat
  flag : Nat
  header : Nat
  index : Nat
  mask : Lanes
  words : List Word
  /-- EVTAG as it stood at the issue (R44). -/
  evtag : Word
  operands : List Word
  results : List RegWrite
  wait : Waiting
  arrived : Bool
  held : Bool
  again : Bool
  /-- The cycle of its issue (R116); registers whose results a later short write has overtaken before they stand (R128). -/
  cycle : Nat
  overtaken : List (Option Nat × Nat)
deriving DecidableEq, Repr

/-! ## Teams, clusters, grids -/

/-- A node of a team's Tolerance table (R113): operands with their sensitivities. -/
structure TolNode where
  operands : List (Nat × Int)
  tau : Nat
  tight : Bool
deriving DecidableEq, Repr

/-- Where a team stands (R14, R310 to R314): draining to a deadline, or to its exit where nothing was offered; overdue,
its drain past and no image room free; saving or flushing, stopped until its flags are clear; saved, its image at an offset
of the save area; flushed, to start again. -/
inductive Residency where
  | resident
  | draining (deadline : Option Nat)
  | overdue
  | saving
  | flushing
  | saved
  | flushed
  | freed
deriving DecidableEq, Repr

/-- One entry of a team port (R36): its words still to be popped, and whether its first word has been popped. -/
structure Port where
  entries : List (List Word)
  holder : Option Nat
deriving DecidableEq, Repr

/-- A team (R7): its core, ports, barrier record, Tolerance table, and residency. -/
structure Team where
  tid : Nat
  cluster : Nat
  index : Nat
  core : Nat
  ports : List Port
  phase : Nat
  arrived : List Nat
  tol : List (Nat × TolNode)
  collectives : Nat
  residency : Residency
  since : Nat
  /-- The cycle at which the requester's bound passes, while that is not reported (R310, R313). -/
  bound : Option Nat
  /-- Offset and size of its image in the save area, while saving or saved; why it left (R312). -/
  image : Nat
  imageSize : Nat
  reason : Nat
  /-- The image waits for a MAPG into the table of this inset (0: of the root stage) after a fault (R313). -/
  imageFault : Option Nat
  /-- Counter of its latest image in confidential mode (R380); the image failed its check (R324). -/
  imageCounter : Nat
  refused : Bool
  /-- Actions acknowledged for its groups while it was out of residency: group index and action (R337). -/
  acks : List (Nat × Nat)
  /-- The groups as they stopped for a save: their clauses and short results under way have no place in the image, and neither
  changes what they give (R127, R391). -/
  kept : List Group
  /-- "Bound missed" still to be posted: the choice and its latency, as the event buffer was full (R301, R310). -/
  missed : Option (Nat × Nat)
deriving DecidableEq, Repr

/-- A cluster (R9): its rectangle and barrier record (arrivals as team and group index). -/
structure Cluster where
  cid : Nat
  grid : Nat
  index : Nat
  ax : Nat
  ay : Nat
  phase : Nat
  arrived : List (Nat × Nat)
deriving DecidableEq, Repr

/-- A launch record as read (R302). -/
structure Launch where
  entry : Nat
  args : Nat
  width : Nat
  height : Nat
  threads : Nat
  clusters : Nat
  deque : Bool
  restart : Bool
  coop : Bool
  tiles : Nat
  quota : Nat
  cycles : Nat
  seed : BitVec 64
  cbo : Nat
  nkind : Nat
  tag : Nat
  serial : Bool
  imgCount : Nat
  imgList : Nat
  slots : List (BitVec 64)
deriving DecidableEq, Repr

/-- A live grid (R53, R302 to R304): its record's address, the physical address of its completion object, how many
clusters are placed, who is told of its completion, and its counter entries as (core, count) (R30). `queue` names the queue
(inset, control block) and index of its record; `gate` the control block, first index and number of the records that must
end first (R319). -/
structure Grid where
  handle : Nat
  inset : Nat
  launch : Launch
  record : Nat
  object : Option Nat
  placed : Nat
  notifyTeam : Option Nat
  queue : Option (Nat × Nat × Nat)
  counters : List (Nat × Nat)
  gate : Option (Nat × Nat × Nat)
  order : Nat
  /-- It has completed (R31); what its teams hold stays until they are freed (R29). -/
  completed : Bool
deriving DecidableEq, Repr

/-- An event record (R338, R339) before its delivery fixes SEQ. `route` is the inset X of R300 (0: the root stage);
`gid` is the group it stopped, `op` the request that awaits REPLY; `atStart` tells that it was raised where a clause starts (R337). `dest` is the
receiving inset where it no longer follows from `route`, whose inset is revoked (R327). -/
structure Record where
  kind : Nat
  ack : Bool
  sub : Nat
  level : Nat
  src : Nat
  stage : Nat
  grid : Nat
  cluster : Nat
  team : Nat
  group : Nat
  index : Nat
  evtag : Word
  info : Word
  addr : Nat
  route : Nat
  gid : Option Nat
  op : Option Nat
  seq : Option (Nat × Nat)
  atStart : Bool
  dest : Option Nat
  /-- An HQACK may still name it: its ACK bit, until the group or request it concerned is gone. -/
  awaits : Bool
deriving DecidableEq, Repr

/-! ## Engines and Survey -/

/-- Where an engine command stands (R228). -/
inductive CmdState where
  | issued
  | accepted
  | running
  | done
deriving DecidableEq, Repr

/-- A range an engine command names: its address in the issuing inset's space, and its physical pieces where it was
translated at issue; without them it is translated as the engine reaches it (R228). -/
structure Span where
  base : Nat
  length : Nat
  pieces : Option (List (Nat × Nat))
deriving DecidableEq, Repr

/-- One entry of a chain as read and checked (R234, R235); `px` and `py` are the physical words of X and Y, `ranges` the physical
ranges it reads and writes, as known at issue. -/
structure ChainEntry where
  op : Nat
  n : Nat
  x : Nat
  y : BitVec 64
  v : Word
  px : Nat
  py : Nat
  src : Span
  dst : Span
  ranges : List (Nat × Nat × Bool)
deriving DecidableEq, Repr

/-- One destination of a multicast copy (R232): its mask bit, the bytes delivered to it, its own object. -/
structure Target where
  bit : Nat
  dst : Span
  progress : Nat
  object : Option Nat
deriving DecidableEq, Repr

/-- An engine command (R227 to R238). `kind` is 0 CPY, 1 CPYM, 2 CPYC, 3 GATH, 4 SCAT, 5 CHAIN, 6 to 9 the collectives,
10 a matrix stream, 11 a Survey partial on its way (R242). `ranges` are its physical ranges in the issuing vault, with
whether each is written (R72); `region` those of R88, of a chain those of its entries up to the next wait; `run` is the run mask of
its issue. `progress` counts the bytes or rows moved, `inner` the bytes of the
row under way; `origin` is the record template of the instruction that issued it (R360). -/
structure Command where
  id : Nat
  core : Nat
  gid : Nat
  grid : Nat
  inset : Nat
  team : Nat
  kind : Nat
  channel : Nat
  desc : List Word
  object : Option Nat
  wp : Option Nat
  ranges : List (Nat × Nat × Bool)
  region : List (Nat × Nat × Bool)
  state : CmdState
  order : Nat
  src : Span
  dst : Span
  /-- The index list of a gather or scatter (R233). -/
  list : Span
  progress : Nat
  inner : Nat
  delivered : Nat
  entries : List ChainEntry
  /-- The first of the entries has begun; the wait it holds in its vault's table. -/
  begun : Bool
  waiting : Option Nat
  targets : List Target
  /-- The source's failure and its place, at which every destination of a multicast stops. -/
  stopAt : Option Nat
  sequence : Nat
  matched : Bool
  buffer : List Byte
  packages : BitVec 64
  run : Lanes
  origin : Record
deriving DecidableEq, Repr

/-- A query's accumulator (R107). -/
structure Accumulator where
  m : Word
  l : Word
  o : List Word
  nonfinite : Bool
deriving DecidableEq, Repr

/-- An accepted subscription (R97, R102, R108). `number` is its local number, `slots` the physical staging slots of its ring,
`due` the pages committed for it and not yet merged, in order, `masked` the holes among them, `held` the partials that
wait to be merged, `served` whether any page was delivered to it. -/
structure Subscription where
  query : Nat
  number : Nat
  list : List Nat
  core : Nat
  team : Nat
  ring : Nat
  slots : List Nat
  limit : Nat
  format : Nat
  output : Nat
  object : Nat
  owner : Nat
  acc : Option Accumulator
  due : List Nat
  masked : List Nat
  held : List (Nat × Accumulator)
  served : Bool
  finished : Bool
  /-- A record that named it has been refused: it cannot finish until its sweep is cancelled (R106). -/
  barred : Bool
deriving DecidableEq, Repr

/-- A sweep of a Survey unit (R96, R240). `next` is the lowest page not passed, `highest` the highest page committed (R99),
`committed` counts the pages committed that are no holes. -/
structure Sweep where
  sequence : Nat
  inset : Nat
  desc : List Word
  next : Nat
  highest : Option Nat
  fetched : Nat
  committed : Nat
  closed : Bool
  cancelled : Bool
  subs : List Subscription
deriving DecidableEq, Repr

/-- A staging slot in use (R101, R102): the sweep and core it belongs to, the page and its bytes on their way, the
subscriptions (by position) whose partials are still to be posted, and the teams whose notice has entered its port. -/
structure Staging where
  sweep : Nat
  core : Nat
  slot : Nat
  phys : Nat
  page : Nat
  bytes : List Byte
  landed : Bool
  owed : List Nat
  told : List Nat
deriving DecidableEq, Repr

/-- One Survey unit (R96, R239): the sequence its next sweep gets, and its sweeps. -/
structure Survey where
  sequence : Nat
  running : Option Sweep
  pending : Option Sweep
  last : Option Sweep
  staging : List Staging
deriving DecidableEq, Repr

/-- A page notice that waits for room or residency (R102), and any other words that wait for a port (R191, R304). `source`
is the core whose Sync engine holds a ticket word. -/
structure Notice where
  id : Nat
  source : Option Nat
  team : Nat
  port : Nat
  words : List Word
deriving DecidableEq, Repr

/-! ## Insets -/

/-- A root-stage range of a level-1 inset (R294, R345). `tweak` is the address that its bytes were enciphered for (R378, assumption log 10). -/
structure RootRange where
  base : Nat
  length : Nat
  key : Nat
  perms : BitVec 3
  tweak : Nat
deriving DecidableEq, Repr

/-- An inset (R286 to R290, R320). `parent` is 0 for the root. -/
structure Inset where
  id : Nat
  level : Nat
  parent : Nat
  tbase : Nat
  saveBase : Nat
  saveSize : Nat
  cw : Nat
  lw : Nat
  qslots : Nat
  iquota : Nat
  sys : Bool
  cores : BitVec 256
  share : Nat
  ownCw : Nat
  ownLw : Nat
  frozen : Bool
  shed : Bool
  /-- Held out of residency by the gang rotation (R357). -/
  ganged : Bool
  revoking : Bool
  armed : Option Nat
  nextSeq : Nat
  breakpoints : List (Option Nat)
  ranges : List RootRange
  subtree : Nat
  package : Nat
  packages : BitVec 64
  held : Option Nat
  /-- Shares in force since the last refill boundary: of the inset, and of its own grids (R290). -/
  e : Nat
  l : Nat
  ownE : Nat
  ownL : Nat
  /-- Account balance (R366), and whether the shedding action Slow holds its gains to a quarter (R371). -/
  balance : Int
  slowed : Bool
  /-- Token buckets, one per core with traffic (R367). -/
  buckets : List (Nat × Int)
  /-- Images in the save area, as (offset, size) (R312). -/
  images : List (Nat × Nat)
  /-- Table pages in use: address in the parent's space, and physical address (R293, R298). -/
  tablePages : List (Nat × Nat)
  saveCounter : Nat
  sealing : Bool
  pendingBreaks : List Record
deriving DecidableEq, Repr

/-- A replaced leaf that kept projections and partial walks may still use (R296, R298): owner of the table, the range of its space
the leaf covers, the physical address and the number of its entries (32 for a 64 MiB page), and their old value. The composed
results of R296 that went through it differ from a new walk in this leaf alone, so the leaf stands for them all (assumption log 73). -/
structure Projection where
  inset : Nat
  base : Nat
  size : Nat
  entry : Nat
  span : Nat
  value : Nat
deriving DecidableEq, Repr

/-- A delivered record that awaits HQACK (R337): receiving inset, sequence number, the record. -/
structure Outstanding where
  inset : Nat
  seq : Nat
  record : Record
deriving DecidableEq, Repr

/-! ## Queues -/

/-- A registered doorbell (R345, R346): queue control block address in the owning inset's space, and the inset. `malformed`: an attempt
to map the queue found its block so, and it has not been registered again since (R306). `kick` is the WRITE of a kick that has not reached
the block (R307). -/
structure Doorbell where
  index : Nat
  qcb : Nat
  inset : Nat
  pending : Bool
  malformed : Bool
  kick : Option Nat
deriving DecidableEq, Repr

/-- A mapped hardware queue slot (R305 to R308). -/
structure Slot where
  slot : Nat
  qcb : Nat
  inset : Nat
  ring : Nat
  logsize : Nat
  read : Nat
  write : Nat
  prio : Nat
  age : Nat
  err : Bool
  cring : Nat
deriving DecidableEq, Repr

/-! ## Memory -/

/-- A range of HBM granted in confidential mode: its accesses are enciphered under a key, with the tweaks of a range at `tweak` (R378). -/
structure Veil where
  base : Nat
  size : Nat
  key : Nat
  tweak : Nat
deriving DecidableEq, Repr

/-- Bytes by device physical address (R342), the vault words whose tag is not full (R63), and poison marks as (address, size): words,
or 64-byte lines of HBM (R372). `inject` is the armed injection's word and mask, `struck` tells that it has struck, and `latent` is
the error it left that is not in the log yet (R373). Bytes are held as stored: those under a veil as ciphertext (R377, R378). -/
structure Memory where
  cells : List Host.Cell
  empties : List Nat
  poison : List (Nat × Nat)
  veils : List Veil
  inject : Option (Nat × Nat)
  struck : Bool
  latent : Option (Nat × Nat)
deriving DecidableEq, Repr

/-! ## The device -/

/-- Boot states (R348). -/
inductive Boot where
  | rom | waitimg | verify | run | bootfail
deriving DecidableEq, Repr

/-- The control window (R343), and the vectors sent to the host so far (R344, R347, R348). -/
structure Control where
  boot : Boot
  bfail : Nat
  straps : BitVec 32
  cmd : BitVec 16
  busy : Bool
  overrun : Bool
  mstatus : BitVec 8
  mresult : BitVec 24
  args : List (BitVec 64)
  evbase : BitVec 64
  evlog : Nat
  evwrite : Nat
  evread : Nat
  dberr : Nat
  dmbase : BitVec 64
  vectors : List Nat
  /-- The command under way, whether it has begun, and its status and result once they stand. -/
  command : Option Nat
  begun : Bool
  outcome : Option (Nat × Nat)
  /-- Its arguments as taken at GO, and what it waits for. -/
  taken : List (BitVec 64)
  waits : List Nat
  /-- The firmware image being checked; what the last host read of a window returned. -/
  image : Option (Nat × Nat)
  window : List Byte
deriving DecidableEq, Repr

/-- One Range Grant Table entry, with its accepted requests in flight (R354, R355). -/
structure Grant where
  base : BitVec 64
  length : BitVec 64
  reqmask : BitVec 64
  subtree : Nat
  w : Bool
  r : Bool
  valid : Bool
  withdrawing : Bool
  inflight : Nat
deriving DecidableEq, Repr

/-- A packet sent over a path and not acknowledged (R352), and the time it was last sent at. -/
structure Packet where
  pkg : Nat
  seq : Nat
  path : Nat
  sent : Nat
deriving DecidableEq, Repr

/-- A switch of a gang under way (R357): the device time of its tick, the outgoing subtree, the incoming one (none: an idle slot),
and the coordinator's decision. -/
structure Switch where
  tick : Nat
  outgoing : Nat
  incoming : Option Nat
  decision : Option Bool
deriving DecidableEq, Repr

/-- The gang rotation (R356, R357): period in µs, the slot list, the slot of the period, the READY messages of the switch. -/
structure Gang where
  period : Nat
  slots : List Nat
  coordinator : Nat
  current : Nat
  ready : BitVec 64
  switch : Option Switch
deriving DecidableEq, Repr

/-- The fabric of the package (R351 to R357): paths as (package, path), packets received as (package, sequence number),
acknowledgements and answers sent as (package, number or 1 for granted). -/
structure Fabric where
  paths : List (Nat × Nat)
  received : List (Nat × Nat)
  acks : List (Nat × Nat)
  sent : List Packet
  answers : List (Nat × Bool)
  grants : List (Nat × Grant)
  gang : Option Gang
  linkUp : Bool
  flitFailures : Nat
deriving DecidableEq, Repr

/-- Power, shedding and injection (R365 to R373). `shed` is the list in force as (index, inset, action), `actions` the steps applied;
`pwr` the last measurement; `rows` the woken rows and `ramp` the ramp steps of cores' matrix arrays; `wake` tells that a cause to
leave the power state has come. `injmask` is INJMASK in force, `injection` the armed (array, unit, address, mask), `refused` and `done` its other outcomes,
`armSeen` tells that INJARM reads as the host wrote it; `easySince` is since when PWR has stayed at or below 95 % of the cap. The times
are those of `State.uptime`. -/
structure Power where
  gen : Nat
  lattol : Nat
  capw : Nat
  shed : List (Nat × Nat × Nat)
  shedn : Nat
  actions : List (Nat × Nat × Nat)
  throttle : Nat
  pstate : Nat
  pwr : Nat
  rows : BitVec 16
  ramp : List (Nat × Nat)
  wake : Bool
  injmask : Nat
  injection : Option (Nat × Nat × Nat × Nat)
  refused : Bool
  done : Bool
  armSeen : Bool
  lastAct : Nat
  easySince : Option Nat
  lastReport : Nat
  lastSample : Nat
  start : Nat
deriving DecidableEq, Repr

/-- A key slot (R381, R382); a kill holds the dies that have confirmed, and whether KEYKILL awaits its response. -/
inductive KeySlot where
  | empty
  | loaded (key : BitVec 512)
  | killing (confirmed : BitVec 8) (answer : Bool)
deriving DecidableEq, Repr

/-- A migration record (R388): state code, whether this package is the source, since when, and when it last asked or resent. -/
structure Migration where
  inset : Nat
  source : Bool
  code : Nat
  since : Nat
  asked : Nat
deriving DecidableEq, Repr

/-- A sealed inset (R386): the number of its image, the image's size, what it holds of the subtree (insets, grids, teams with their
images, records that await HQACK), of the vault ranges, and the keys by their old slots. -/
structure Sealed where
  nonce : Nat
  size : Nat
  insets : List Inset
  grids : List Grid
  clusters : List Cluster
  teams : List Team
  groups : List Group
  ops : List LongOp
  outstanding : List Outstanding
  images : List (Nat × List Byte)
  vaults : Memory
  keys : List (Nat × BitVec 512)
deriving DecidableEq, Repr

/-- A response of the Security Core (R384, R385): its SPDM code, a status or parameter, what the manual states of its payload. -/
structure Response where
  code : Nat
  status : Nat
  payload : List Byte
deriving DecidableEq, Repr

/-- The Security Core's own state (R380 to R389). `session` is the SPDM connection state: 0 none, 1 version, 2 capabilities,
3 algorithms, 4 key exchange, 5 secured; `version` and `payload` are the running firmware's; `tree` is the
top-level leaf of the bottom tree in use and `leaves` the leaves spent of it; `awaiting` are responses that wait for a leaf;
`messages` are the protocol messages sent, as (kind, inset). -/
structure Security where
  keys : List (Nat × KeySlot)
  session : Nat
  responses : List Response
  awaiting : List Response
  sealed : List Sealed
  nextNonce : Nat
  migrations : List Migration
  messages : List (Nat × Nat)
  tree : Option Nat
  leaves : Nat
  timeSet : Bool
  version : Nat
  payload : List Byte
deriving DecidableEq, Repr

/-- Which party makes the next step (a field of the model, assumption log 1). -/
inductive Action where
  | issue (gid : Nat)
  | event (i : Instr)
deriving DecidableEq, Repr

/-- A party of the memory model (R78, R79): a group by its key, or an engine command by its number, and where it stands. -/
structure Party where
  id : Nat
  team : Nat
  cluster : Nat
deriving DecidableEq, Repr

/-- Where an acquire finds what a release left (R81, R82): a word's value, what was counted into a phase of a barrier object, a
phase of a team's or cluster's barrier, the launch of a grid, or the completion of a form that a group issued with a flag (R323). -/
inductive Place where
  | word (address : Nat)
  | object (address : Nat) (phase : Word)
  | team (tid phase : Nat)
  | cluster (cid phase : Nat)
  | grid (handle : Nat)
  | form (gid flag : Nat)
deriving DecidableEq, Repr

/-- A release that covers a write: where it stands, who released, at which scope (R79). -/
structure Release where
  place : Place
  owner : Party
  scope : Nat
deriving DecidableEq, Repr

/-- A write of a closed region that has not performed everywhere (R85): word, group, the package it goes to, and the grid and core
that count it (R30). The rest is happens-before (R82): `known` are the parties it happens before, `released` the releases that cover
it; `fenced` are groups that have passed a FENCE of a scope after it, `seen` what their plain atomics have read (R87). -/
structure PendingWrite where
  word : Nat
  gid : Nat
  pkg : Option Nat
  grid : Nat
  core : Nat
  known : List Nat
  released : List Release
  fenced : List (Nat × Nat)
  seen : List (Nat × Release)
deriving DecidableEq, Repr

/-- The whole package. -/
structure State where
  mem : Memory
  groups : List Group
  teams : List Team
  clusters : List Cluster
  grids : List Grid
  ops : List LongOp
  commands : List Command
  surveys : List Survey
  notices : List Notice
  armedTickets : List (Nat × Word × Nat)
  insets : List Inset
  projections : List Projection
  records : List Record
  outstanding : List Outstanding
  doorbells : List Doorbell
  slots : List Slot
  pendingWrites : List PendingWrite
  /-- Flush markers on their way (R94): the releasing group or command, the package, the path. -/
  markers : List (Nat × Nat × Nat)
  hotness : List (Nat × Nat)
  ctl : Control
  fabric : Fabric
  power : Power
  security : Security
  /-- Packets that wait at torus ports, as (core, inset, bytes) (R367). -/
  torus : List (Nat × Nat × Nat)
  /-- The grid handle last handed out (R359), the last refill boundary and ageing tick (R290, R308). -/
  handles : Nat
  refill : Nat
  aged : Nat
  /-- Core-clock periods and device time in ns (R44, R392), and nanoseconds since reset, which nothing sets. -/
  cycle : Nat
  time : Nat
  uptime : Nat
  /-- The model's own: who moves next, whose word exec runs, the next fresh key, the counter of the free values. -/
  agenda : List Action
  issuer : Option Nat
  fresh : Nat
  oracle : Nat
deriving DecidableEq, Repr

/-- The control window after reset (R343), with the straps of the board. -/
def Control.reset (straps : BitVec 32) : Control :=
  { boot := .rom, bfail := 0, straps := straps, cmd := 0, busy := false, overrun := false, mstatus := 0, mresult := 0,
    args := List.replicate 8 0, evbase := 0, evlog := 6, evwrite := 0, evread := 0, dberr := 0, dmbase := 0,
    vectors := [], command := none, begun := false, outcome := none, taken := List.replicate 8 0, waits := [], image := none, window := [] }

/-- The fabric, the power state and the Security Core after reset (R343 to R389). -/
def Fabric.reset : Fabric :=
  { paths := [], received := [], acks := [], sent := [], answers := [], grants := [], gang := none, linkUp := true, flitFailures := 0 }

def Power.reset : Power :=
  { gen := 0, lattol := 0, capw := 0, shed := [], shedn := 0, actions := [], throttle := 0, pstate := 0, pwr := 0, rows := 0, ramp := [],
    wake := false, injmask := 0, injection := none, refused := false, done := false, armSeen := true, lastAct := 0, easySince := none,
    lastReport := 0, lastSample := 0, start := 0 }

def Security.reset : Security :=
  { keys := [], session := 0, responses := [], awaiting := [], sealed := [], nextNonce := 0, migrations := [], messages := [],
    tree := none, leaves := 0, timeSet := false, version := 0, payload := [] }

/-- A Survey unit after reset: its first sweep has sequence 1 (R239). -/
def Survey.reset : Survey := { sequence := 1, running := none, pending := none, last := none, staging := [] }

/-- The machine right after reset (R348, R376): only the Security Core runs, memory is scrubbed, no inset lives. -/
def State.reset : State :=
  { mem := { cells := [], empties := [], poison := [], veils := [], inject := none, struck := false, latent := none },
    groups := [], teams := [], clusters := [], grids := [], ops := [], commands := [], surveys := List.replicate 8 Survey.reset, notices := [], armedTickets := [], insets := [],
    projections := [], records := [], outstanding := [], doorbells := [], slots := [], pendingWrites := [], markers := [],
    hotness := [], ctl := Control.reset 0, fabric := Fabric.reset, power := Power.reset, security := Security.reset,
    torus := [], handles := 0, refill := 0, aged := 0, cycle := 0, time := 0, uptime := 0, agenda := [], issuer := none, fresh := 1, oracle := 0 }

end Sys2Proof.Machine
end

