-- ==== Sys2Proof/Machine/Ops.lean ====
section
/-! DEFINITION. The named operations over the state: sparse maps in one canonical form, memory with tags and poison, looking up
and updating groups, teams, grids and insets, posting a record, stopping a group (taking an event) and its return
(HQACK), and the issue of one word. -/
namespace Sys2Proof.Machine

/-! ## Maps in one canonical form: keys rising, no entry equal to what an unlisted key reads as -/

/-- What the map holds at a key. -/
def Sparse.get {α : Type} (dflt : α) : List (Nat × α) → Nat → α
  | [], _ => dflt
  | (k, v) :: rest, a => if a = k then v else Sparse.get dflt rest a

/-- The map with an entry in its place. -/
def Sparse.insert {α : Type} (a : Nat) (x : α) : List (Nat × α) → List (Nat × α)
  | [] => [(a, x)]
  | (k, v) :: rest =>
    if a < k then (a, x) :: (k, v) :: rest
    else if a = k then (a, x) :: rest
    else (k, v) :: Sparse.insert a x rest

/-- The map with one key changed; storing the default removes the entry. -/
def Sparse.set {α : Type} [DecidableEq α] (dflt : α) (m : List (Nat × α)) (a : Nat) (x : α) : List (Nat × α) :=
  if x = dflt then m.filter (fun e => decide (e.1 ≠ a)) else Sparse.insert a x m

/-- Every key of the map is above the bound, and the map is canonical. -/
def Sparse.above {α : Type} [DecidableEq α] (dflt : α) : Nat → List (Nat × α) → Bool
  | _, [] => true
  | lo, (k, v) :: rest => decide (lo ≤ k) && decide (v ≠ dflt) && Sparse.above dflt (k + 1) rest

/-- The canonical form of a map. -/
def Sparse.wf {α : Type} [DecidableEq α] (dflt : α) (m : List (Nat × α)) : Bool := Sparse.above dflt 0 m

/-- A set of numbers as a rising list. -/
def NatSet.insert (a : Nat) : List Nat → List Nat
  | [] => [a]
  | k :: rest => if a < k then a :: k :: rest else if a = k then k :: rest else k :: NatSet.insert a rest

def NatSet.erase (a : Nat) (m : List Nat) : List Nat := m.filter (fun k => decide (k ≠ a))

/-- The first entry of an association list with this key, or the default. -/
def findKey {α : Type} (m : List (Nat × α)) (k : Nat) : Option α := (m.find? (fun e => decide (e.1 = k))).map (·.2)

/-! ## Memory (R3, R63, R342, R372) -/

/-- A byte as it is stored. -/
def Memory.stored (m : Memory) (a : Nat) : Byte := Sparse.get Config.unlistedByte m.cells a

def Memory.setStored (m : Memory) (a : Nat) (b : Byte) : Memory := { m with cells := Sparse.set Config.unlistedByte m.cells a b }

/-- The newest veil over an address. -/
def Memory.veil? (m : Memory) (a : Nat) : Option Veil := m.veils.find? (fun v => decide (v.base ≤ a ∧ a < v.base + v.size))

/-- A plain byte as the base die stores it at an address, and a stored one in plain form (R378). -/
def Memory.conceal (m : Memory) (a : Nat) (b : Byte) : Byte :=
  match m.veil? a with
  | some v => Config.encipher v.key (v.tweak + (a - v.base)) b
  | none => b
def Memory.reveal (m : Memory) (a : Nat) (b : Byte) : Byte :=
  match m.veil? a with
  | some v => Config.decipher v.key (v.tweak + (a - v.base)) b
  | none => b

/-- One byte of memory, as an access through the ranges that are granted reads and writes it. -/
def Memory.byte (m : Memory) (a : Nat) : Byte := m.reveal a (m.stored a)

def Memory.setByte (m : Memory) (a : Nat) (b : Byte) : Memory := m.setStored a (m.conceal a b)

/-- Marks in rising order. -/
def markBefore (p q : Nat × Nat) : Bool := decide (p.1 < q.1 ∨ (p.1 = q.1 ∧ p.2 < q.2))

/-- Keys rising from a bound, and no entry equal to what an unlisted address holds. -/
def cellsFrom (dflt : Nat → Byte) : Nat → List Host.Cell → Bool
  | _, [] => true
  | lo, (k, v) :: rest => decide (lo ≤ k) && decide (v ≠ dflt k) && cellsFrom dflt (k + 1) rest

/-- The canonical form of memory: the byte map, the tag set and the poison set. -/
def Memory.wf (m : Memory) : Bool :=
  cellsFrom (fun _ => Config.unlistedByte) 0 m.cells && decide (m.empties.Pairwise (· < ·)) && decide (m.poison.Pairwise (fun p q => markBefore p q))

/-- Bytes from an address up. -/
def Memory.bytes (m : Memory) (a n : Nat) : List Byte := (List.range n).map (fun i => m.byte (a + i))

/-- n bytes as one little-endian number (R3). -/
def Memory.nat (m : Memory) (a : Nat) : Nat → Nat
  | 0 => 0
  | n + 1 => (m.byte a).toNat + 256 * Memory.nat m (a + 1) n

def Memory.word (m : Memory) (a : Nat) : Word := BitVec.ofNat 32 (m.nat a 4)
def Memory.dword (m : Memory) (a : Nat) : BitVec 64 := BitVec.ofNat 64 (m.nat a 8)

/-- What backs a device physical address (R61, R342). -/
inductive Backing where
  | hbm
  | vault (core : Nat)
  | package (k : Nat)
  | host
  | none
deriving DecidableEq, Repr

def backing (a : Nat) : Backing :=
  if a < Config.hbmSize then .hbm
  else if Config.vaultBase ≤ a ∧ a < Config.vaultBase + 256 * Config.vaultSize then .vault ((a - Config.vaultBase) / Config.vaultSize)
  else if Config.packageBase ≤ a ∧ a < Config.packageBase + 64 * Config.packageSize then .package ((a - Config.packageBase) / Config.packageSize)
  else if Config.hostBase ≤ a ∧ a < Config.spaceEnd then .host
  else .none

/-- The address lies in a vault of this package, or of another one (R61). -/
def vaultBacked (a : Nat) : Bool :=
  match backing a with
  | .vault _ => true
  | .package _ =>
    match backing (a % Config.packageSize) with
    | .vault _ => true
    | _ => false
  | _ => false

/-- The vault of the core on this package holds every byte of the range. -/
def inVault (core a n : Nat) : Bool :=
  decide (Config.vaultBase + Config.vaultSize * core ≤ a ∧ a + n ≤ Config.vaultBase + Config.vaultSize * (core + 1))

/-- Some byte of the range carries a poison mark (R372). -/
def Memory.poisoned (m : Memory) (a n : Nat) : Bool := m.poison.any (fun p => decide (p.1 < a + n ∧ a < p.1 + p.2))

/-- A mark in its place. -/
def insertMark (p : Nat × Nat) : List (Nat × Nat) → List (Nat × Nat)
  | [] => [p]
  | q :: rest => if markBefore p q then p :: q :: rest else if p = q then q :: rest else q :: insertMark p rest

/-- Marking a word, or the 64-byte line of HBM, that holds an address. -/
def Memory.mark (m : Memory) (a size : Nat) : Memory := { m with poison := insertMark (a / size * size, size) m.poison }

/-- A write clears the marks of the words or lines it covers whole (R372). -/
def Memory.cleanse (m : Memory) (a n : Nat) : Memory :=
  { m with poison := m.poison.filter (fun p => !decide (a ≤ p.1 ∧ p.1 + p.2 ≤ a + n)) }

/-- Bits set in a mask of 39. -/
def bitCount (mask : Nat) : Nat := ((List.range 39).filter (fun i => mask.testBit i)).length

/-- The size of the mark an address takes: a line of HBM, else a word. -/
def markSize (a : Nat) : Nat := if a < Config.hbmSize then 64 else 4

/-- An armed injection strikes the next write to its word (R373): SECDED corrects one flipped bit; more mark the word or line. -/
def Memory.strike (m : Memory) (a n : Nat) : Memory :=
  match m.inject with
  | none => m
  | some (w, mask) =>
    if w < a + n ∧ a < w + 4 then
      let m := { m with inject := none, struck := true, latent := some (w, mask) }
      if 2 ≤ bitCount mask then m.mark w (markSize w) else m
    else m

/-- Storing bytes from an address up. -/
def Memory.putBytes (m : Memory) (a : Nat) : List Byte → Memory
  | [] => m
  | b :: rest => Memory.putBytes (m.setByte a b) (a + 1) rest

def Memory.store (m : Memory) (a : Nat) (bs : List Byte) : Memory := ((m.cleanse a bs.length).strike a bs.length).putBytes a bs

/-- A number as n little-endian bytes (R3). -/
def natBytes : Nat → Nat → List Byte
  | 0, _ => []
  | n + 1, v => BitVec.ofNat 8 v :: natBytes n (v / 256)

def bytesNat : List Byte → Nat
  | [] => 0
  | b :: rest => b.toNat + 256 * bytesNat rest

def Memory.putWord (m : Memory) (a : Nat) (w : Word) : Memory := m.store a (natBytes 4 w.toNat)
def Memory.putDword (m : Memory) (a : Nat) (v : Nat) : Memory := m.store a (natBytes 8 v)

/-- The tag of the vault word at a 4-aligned address is full (R63). -/
def Memory.full (m : Memory) (a : Nat) : Bool := !m.empties.contains a

def Memory.setTag (m : Memory) (a : Nat) (full : Bool) : Memory :=
  if full then { m with empties := NatSet.erase a m.empties } else { m with empties := NatSet.insert a m.empties }

/-- Zeroing a range, with every tag full (the grant of R63). -/
def Memory.zeroFill (m : Memory) (a n : Nat) : Memory :=
  { m with
    cells := m.cells.filter (fun c => !decide (a ≤ c.1 ∧ c.1 < a + n)),
    empties := m.empties.filter (fun w => !decide (a ≤ w ∧ w < a + n)),
    poison := m.poison.filter (fun p => !decide (a ≤ p.1 ∧ p.1 < a + n)) }

/-! ## Finding and changing the parts of the state -/

def State.group? (s : State) (gid : Nat) : Option Group := s.groups.find? (fun g => decide (g.gid = gid))
def State.updGroup (s : State) (gid : Nat) (f : Group → Group) : State :=
  { s with groups := s.groups.map (fun g => if g.gid = gid then f g else g) }

def State.team? (s : State) (tid : Nat) : Option Team := s.teams.find? (fun t => decide (t.tid = tid))
def State.updTeam (s : State) (tid : Nat) (f : Team → Team) : State :=
  { s with teams := s.teams.map (fun t => if t.tid = tid then f t else t) }

def State.cluster? (s : State) (cid : Nat) : Option Cluster := s.clusters.find? (fun c => decide (c.cid = cid))
def State.updCluster (s : State) (cid : Nat) (f : Cluster → Cluster) : State :=
  { s with clusters := s.clusters.map (fun c => if c.cid = cid then f c else c) }

def State.grid? (s : State) (handle : Nat) : Option Grid := s.grids.find? (fun g => decide (g.handle = handle))
def State.updGrid (s : State) (handle : Nat) (f : Grid → Grid) : State :=
  { s with grids := s.grids.map (fun g => if g.handle = handle then f g else g) }

def State.inset? (s : State) (id : Nat) : Option Inset := s.insets.find? (fun x => decide (x.id = id))
def State.updInset (s : State) (id : Nat) (f : Inset → Inset) : State :=
  { s with insets := s.insets.map (fun x => if x.id = id then f x else x) }

def State.op? (s : State) (id : Nat) : Option LongOp := s.ops.find? (fun o => decide (o.id = id))
def State.updOp (s : State) (id : Nat) (f : LongOp → LongOp) : State :=
  { s with ops := s.ops.map (fun o => if o.id = id then f o else o) }
def State.dropOp (s : State) (id : Nat) : State := { s with ops := s.ops.filter (fun o => decide (o.id ≠ id)) }

def State.command? (s : State) (id : Nat) : Option Command := s.commands.find? (fun c => decide (c.id = id))
def State.updCommand (s : State) (id : Nat) (f : Command → Command) : State :=
  { s with commands := s.commands.map (fun c => if c.id = id then f c else c) }

def State.setMem (s : State) (m : Memory) : State := { s with mem := m }

/-- The surroundings of a group: its team, cluster and grid. -/
def State.teamOf (s : State) (g : Group) : Option Team := s.team? g.team
def State.clusterOf (s : State) (g : Group) : Option Cluster := (s.teamOf g).bind (fun t => s.cluster? t.cluster)
def State.gridOf (s : State) (g : Group) : Option Grid := (s.clusterOf g).bind (fun c => s.grid? c.grid)
def State.insetOf (s : State) (g : Group) : Option Inset := (s.gridOf g).bind (fun d => s.inset? d.inset)
def State.coreOf (s : State) (g : Group) : Nat := ((s.teamOf g).map (·.core)).getD 0

def State.teamGroups (s : State) (tid : Nat) : List Group := s.groups.filter (fun g => decide (g.team = tid))
def State.clusterTeams (s : State) (cid : Nat) : List Team := s.teams.filter (fun t => decide (t.cluster = cid))
def State.gridClusters (s : State) (h : Nat) : List Cluster := s.clusters.filter (fun c => decide (c.grid = h))
def State.gridTeams (s : State) (h : Nat) : List Team := (s.gridClusters h).flatMap (fun c => s.clusterTeams c.cid)

/-- An inset and its ancestors up to level 1, the inset first. -/
def State.chain (s : State) : Nat → Nat → List Inset
  | 0, _ => []
  | fuel + 1, id =>
    match s.inset? id with
    | none => []
    | some x => x :: (if x.parent = 0 then [] else State.chain s fuel x.parent)

def State.ancestors (s : State) (id : Nat) : List Inset := s.chain 5 id

/-- The inset lies in the subtree of x (R287). -/
def State.under (s : State) (x id : Nat) : Bool := (s.ancestors id).any (fun y => decide (y.id = x))

def State.subtree (s : State) (x : Nat) : List Inset := s.insets.filter (fun y => s.under x y.id)

/-- No FROZEN or SHED bit and no gang's hold stands from the inset up to level 1, and none of them is under revoke (R322, R327,
R357, R371). -/
def State.running (s : State) (id : Nat) : Bool :=
  (s.ancestors id).all (fun y => !y.frozen && !y.shed && !y.ganged && !y.revoking)

/-! ## Residency (R14, R310 to R314) -/

/-- The team's groups issue, and its ports take entries. -/
def Team.runs (t : Team) : Bool :=
  match t.residency with
  | .resident => true
  | .draining _ => true
  | .overdue => true
  | _ => false

/-- The team holds its resources on its core. -/
def Team.seated (t : Team) : Bool := t.runs || decide (t.residency = .saving ∨ t.residency = .flushing)

/-- The team is out of residency and is to come back. -/
def Team.away (t : Team) : Bool := decide (t.residency = .saved ∨ t.residency = .flushed)

/-- The team of a group runs: resident with its inset running, or draining, whatever the FROZEN bits hold (R311, R322). -/
def State.teamRuns (s : State) (g : Group) : Bool :=
  match s.teamOf g with
  | none => false
  | some t => match t.residency with
    | .resident => s.running (((s.insetOf g).map (·.id)).getD 0)
    | .draining d => !((s.ancestors (((s.insetOf g).map (·.id)).getD 0)).any (·.revoking)) && (match d with
      | none => true
      | some d => decide (s.cycle < d))
    | .overdue => !(s.ancestors (((s.insetOf g).map (·.id)).getD 0)).any (·.revoking)
    | _ => false

/-! ## Time, and causes to leave a power state (R369, R392) -/

/-- The device waits until a moment of its time since reset. -/
def State.waitUntil (s : State) (t : Nat) : State :=
  { s with uptime := max s.uptime t, time := s.time + (t - s.uptime) }

/-- A kick, mailbox command or fabric request that meets a power state is a cause to leave it. -/
def State.noteWake (s : State) : State :=
  if s.power.pstate = 0 then s else { s with power := { s.power with wake := true } }

/-! ## Accounts (R366) -/

/-- Units charged to the account of an inset's own grids (R366). -/
def State.chargeUnits (s : State) (inset n : Nat) : State := s.updInset inset (fun x => { x with balance := x.balance - (n : Int) })

/-- A team's residency since its start or the last refill is charged: 1 unit per cycle. -/
def State.chargeTeam (s : State) (t : Team) : State :=
  if t.seated then
    s.chargeUnits ((((s.cluster? t.cluster).bind (fun c => s.grid? c.grid)).map (·.inset)).getD 0) (s.cycle - max t.since s.refill)
  else s

/-! ## Lanes -/

/-- The default lane: one that has exited. -/
def Lane.blank : Lane :=
  { header := 0, index := 0, exited := true, parked := none, run := 0, regs := [], preds := 0, gen := 0, clock := 0, pend := [] }

def Group.lane (g : Group) (l : Nat) : Lane := g.lanes.getD l Lane.blank

def Group.updLane (g : Group) (l : Nat) (f : Lane → Lane) : Group := { g with lanes := g.lanes.modify l f }

/-- The lanes of a mask, in ascending position (R82). -/
def lanesOf (m : Lanes) : List Nat := (List.range 32).filter (fun l => m.getLsbD l)

/-- The mask of the positions that satisfy a test. -/
def maskOf (p : Nat → Bool) : Lanes := BitVec.ofBoolListLE ((List.range 32).map p)

/-- Every lane of a mask changed. -/
def Group.updLanes (g : Group) (m : Lanes) (f : Nat → Lane → Lane) : Group :=
  { g with lanes := g.lanes.mapIdx (fun l x => if m.getLsbD l then f l x else x) }

/-- A lane that may issue: not exited, not parked (R20). -/
def Lane.live (l : Lane) : Bool := !l.exited && l.parked.isNone

/-- The lanes of a run (R20). -/
def Group.runMask (g : Group) (run : Nat) : Lanes := maskOf (fun l => (g.lane l).live && decide ((g.lane l).run = run))

def Group.exitMask (g : Group) : Lanes := maskOf (fun l => (g.lane l).exited)
def Group.parkMask (g : Group) : Lanes := maskOf (fun l => !(g.lane l).exited && (g.lane l).parked.isSome)

/-- A group has exited when all its lanes have (R29). -/
def Group.exited (g : Group) : Bool := g.lanes.all (·.exited)

def Lane.reg (l : Lane) (r : Nat) : Word := Sparse.get 0 l.regs r

/-- Merging masked bits into a word. -/
def mergeBits (old mask value : Word) : Word := (old &&& ~~~mask) ||| (value &&& mask)

/-- Writing bits of a lane's register, or one of its predicates (number 128 + k), at once. -/
def Lane.put (l : Lane) (r : Nat) (mask value : Word) : Lane :=
  if r < Config.predBase then { l with regs := Sparse.set 0 l.regs r (mergeBits (l.reg r) mask value) }
  else if !mask.getLsbD 0 then l
  else if value.getLsbD 0 then { l with preds := l.preds ||| (BitVec.ofNat 24 1 <<< (r - Config.predBase)) }
  else { l with preds := l.preds &&& ~~~(BitVec.ofNat 24 1 <<< (r - Config.predBase)) }

/-- Dropping bits of a register from short results that are older than a visible one (R127). -/
def clearPending (r : Nat) (mask : Word) (ps : List Pending) : List Pending :=
  (ps.map (fun p => if p.reg = r then { p with mask := p.mask &&& ~~~mask } else p)).filter (fun p => decide (p.mask ≠ 0))

/-- A result visible from the next instruction on. -/
def Lane.putNow (l : Lane) (r : Nat) (mask value : Word) : Lane :=
  { (l.put r mask value) with pend := clearPending r mask l.pend }

/-- The results whose encoded distance has passed, in issue order; each drops older ones of its bits (R127). -/
def commitPending (clock : Nat) : Lane → List Pending → List Pending → Lane
  | l, kept, [] => { l with pend := kept }
  | l, kept, p :: rest =>
    if p.visible ≤ clock then commitPending clock (l.put p.reg p.mask p.value) (clearPending p.reg p.mask kept) rest
    else commitPending clock l (kept ++ [p]) rest

/-- The lane's own stream moves on by an encoded distance (R127). -/
def Lane.tick (l : Lane) (dist : Nat) : Lane := commitPending (l.clock + dist) { l with clock := l.clock + dist } [] l.pend

/-- A result that becomes visible after a latency (R127). -/
def Lane.putLater (l : Lane) (latency cycle r : Nat) (mask value : Word) : Lane :=
  { l with pend := l.pend ++ [{ reg := r, mask := mask, value := value, latency := latency, visible := l.clock + latency, cycle := cycle + latency }] }

/-- A call or a return: the sum of distances starts at 0 behind it for results that are not visible yet (R246). DEDUCED (assumption
log 69): R246 says that the other side reads the older value, and R127 counts every distance; here such a result is read new once
the distances behind the transfer alone reach its latency. -/
def Lane.crossCall (l : Lane) : Lane := { l with pend := l.pend.map (fun p => { p with visible := l.clock + p.latency }) }

/-! ## Completion flags (R37, R128) -/

def Group.flag (g : Group) (f : Nat) : Nat := g.flags.getD f 0
def Group.raise (g : Group) (f : Nat) : Group := { g with flags := g.flags.modify f (· + 1) }
def Group.lower (g : Group) (f : Nat) : Group := { g with flags := g.flags.modify f (· - 1) }
def Group.allClear (g : Group) : Bool := g.flags.all (fun n => decide (n = 0))

/-! ## Event records (R299, R338, R339) -/

/-- What an event says beside its source: kind, SUB, INFO, ADDR, and for a stage fault the failing stage and the inset X
whose parent is told (R295, R300). -/
structure Trap where
  kind : Nat
  sub : Nat := 0
  info : Word := 0
  addr : Nat := 0
  stage : Nat := 0
  route : Option Nat := none
deriving DecidableEq, Repr

/-- The record of an event of a group (R338). -/
def State.recordOf (s : State) (g : Group) (index : Nat) (t : Trap) (ack : Bool) : Record :=
  let grid := s.gridOf g
  let cl := s.clusterOf g
  let tm := s.teamOf g
  let x := s.insetOf g
  let src := (x.map (·.id)).getD 0
  { kind := t.kind, ack := ack, sub := t.sub, level := (x.map (·.level)).getD 0, src := src, stage := t.stage,
    grid := (grid.map (·.handle)).getD 0, cluster := (cl.map (·.index)).getD 0, team := (tm.map (·.index)).getD 0,
    group := g.index, index := index, evtag := g.evtag, info := t.info, addr := t.addr, route := t.route.getD src,
    gid := if ack then some g.gid else none, op := none, seq := none, atStart := false, dest := none, awaits := ack }

/-- The record of an event at which its group did not stop, with an ACK bit that R339 fixes all the same; no action is legal for it. -/
def State.passing (s : State) (g : Group) (index : Nat) (t : Trap) : Record := { s.recordOf g index t true with gid := none }

/-- A record that concerns an inset but no group. -/
def insetRecord (x : Inset) (kind sub : Nat) (info : Word) (addr : Nat) : Record :=
  { kind := kind, ack := false, sub := sub, level := x.level, src := x.id, stage := 0, grid := 0, cluster := 0, team := 0,
    group := 0, index := 0, evtag := 0, info := info, addr := addr, route := x.id, gid := none, op := none, seq := none, atStart := false, dest := none,
    awaits := false }

/-- The level-1 ancestor is being sealed (R387). -/
def State.sealingOf (s : State) (id : Nat) : Option Nat := ((s.ancestors id).find? (·.sealing)).map (·.id)

/-- Posting a record: into the event buffer, in posting order (R301); a breakpoint or trap of an inset that is being sealed
goes to the pending-breakpoint list instead (R387). -/
def State.post (s : State) (r : Record) : State :=
  match (if r.kind = 7 ∨ r.kind = 8 then s.sealingOf r.src else none), r.gid with
  | some x, some _ => s.updInset x (fun y => { y with pendingBreaks := y.pendingBreaks ++ [r] })
  | _, _ => { s with records := s.records ++ [r] }

/-- The event buffer is full, so the party that would post waits (R301). -/
def State.bufferFull (s : State) : Bool := decide (Config.eventBuffer ≤ s.records.length)

/-! ## Stopping a group: taking an event (R28, R89) -/

/-- The other package that backs an address, if one does. -/
def packageOf (a : Nat) : Option Nat :=
  match backing a with
  | .package k => some k
  | _ => none

/-- Closing a region: its writes pend until they have performed (R85). -/
def State.closeRegion (s : State) (gid : Nat) : State :=
  match s.group? gid with
  | none => s
  | some g =>
    let pend := g.writes.map (fun w =>
      { word := w, gid := gid, pkg := packageOf w, grid := ((s.gridOf g).map (·.handle)).getD 0, core := s.coreOf g, known := [],
        released := [], fenced := [], seen := [] : PendingWrite })
    ({ s with pendingWrites := s.pendingWrites ++ pend }).updGroup gid (fun g => { g with reads := [], writes := [] })

/-- A soft boundary: an implicit device-scope FENCE, after which no write of the group to its own package pends (R90). -/
def State.softBoundary (s : State) (gid : Nat) : State :=
  let s := s.closeRegion gid
  { s with pendingWrites := s.pendingWrites.filter (fun p => decide (p.gid ≠ gid) || p.pkg.isSome) }

/-- Stopping a group where its lanes stand: it issues nothing more, and its region closes. The clause under way is kept for
the return (R337); a restore fetches it again. -/
def State.stopGroup (s : State) (gid : Nat) (st : Stop) : State :=
  (s.softBoundary gid).updGroup gid (fun g =>
    { g with stop := some st, stepping := false, charged := (if st.kind = 0x18 then none else g.charged) })

/-! ## Runs (R20, R21) -/

/-- An identifier no run of the group has, or had at its last clause start. -/
def Group.freshRun (g : Group) : Nat := (g.runs.foldl (fun n r => max n r.id) (g.lastRun.getD 0)) + 1

def Group.run? (g : Group) (id : Nat) : Option Run := g.runs.find? (fun r => decide (r.id = id))
def Group.deferred (g : Group) (id : Nat) : Bool := ((g.run? id).map (·.deferred)).getD false

/-- The program counters of the live lanes, without repetition. -/
def Group.counters (g : Group) : List (Nat × Nat) :=
  (lanesOf (maskOf (fun l => (g.lane l).live))).foldl
    (fun acc l => let pc := ((g.lane l).header, (g.lane l).index); if acc.contains pc then acc else acc ++ [pc]) []

/-- The runs that stand at a program counter. -/
def Group.runsAt (g : Group) (pc : Nat × Nat) : List Nat :=
  (g.runs.map (·.id)).filter (fun r => (lanesOf (g.runMask r)).any (fun l => decide (((g.lane l).header, (g.lane l).index) = pc)))

/-- Runs whose counters are equal merge into a new one, deferred only if all were (R20, R21). -/
def Group.mergeAt (g : Group) (pc : Nat × Nat) : Group :=
  let ids := g.runsAt pc
  if ids.length ≤ 1 then g
  else
    let id := g.freshRun
    let def_ := ids.all g.deferred
    let kept := g.runs.filter (fun r => !ids.contains r.id)
    { g with
      runs := kept ++ [{ id := id, deferred := def_, passed := none : Run }],
      lanes := g.lanes.map (fun l => if l.live && ids.contains l.run then { l with run := id } else l) }

/-- Merging everywhere, and forgetting runs that hold no lane. -/
def Group.mergeRuns (g : Group) : Group :=
  let g := g.counters.foldl Group.mergeAt g
  { g with runs := g.runs.filter (fun r => decide (g.runMask r.id ≠ 0)) }

/-- Splitting lanes off a run as a run of their own with a given deferred bit. -/
def Group.splitRun (g : Group) (m : Lanes) (deferred : Bool) : Group :=
  let id := g.freshRun
  { (g.updLanes m (fun _ l => { l with run := id })) with runs := g.runs ++ [{ id := id, deferred := deferred, passed := none : Run }] }

/-- Each lane of a mask becomes a run of its own; merging then joins those at equal counters. -/
def Group.scatterRuns (g : Group) (m : Lanes) : Group := (lanesOf m).foldl (fun g l => g.splitRun (maskOf (fun k => decide (k = l))) false) g

def Group.setDeferred (g : Group) (id : Nat) (b : Bool) : Group :=
  { g with runs := g.runs.map (fun r => if r.id = id then { r with deferred := b } else r) }

/-! ## Rejoin masks (R23) -/

def Group.rejoinMask (g : Group) (j : Nat) : Lanes := (g.rejoin.getD j (0, false)).1
def Group.armed (g : Group) (j : Nat) : Bool := (g.rejoin.getD j (0, false)).2
def Group.setRejoin (g : Group) (j : Nat) (m : Lanes) (armed : Bool) : Group := { g with rejoin := g.rejoin.set j (m, armed) }

/-- The completion test of one mask: armed, and every enrolled lane parked on it or exited. DESIGN CHOICE (assumption log 70): R23
unparks the lanes as one run at the instruction after the RJWAIT and does not say where lanes parked at RJWAITs of different clauses
go on; here each goes on behind its own, so that they form one run for each counter. -/
def Group.completeMask (g : Group) (j : Nat) : Group :=
  let enrolled := lanesOf (g.rejoinMask j)
  if g.armed j && enrolled.all (fun l => (g.lane l).exited || decide ((g.lane l).parked = some j)) then
    let out := maskOf (fun l => !(g.lane l).exited && decide ((g.lane l).parked = some j))
    (((g.updLanes out (fun _ l => { l with parked := none })).setRejoin j 0 false).scatterRuns out)
  else g

/-- Some armed mask could complete as its lanes stand (R24). -/
def Group.canComplete (g : Group) (j : Nat) : Bool :=
  g.armed j && (lanesOf (g.rejoinMask j)).all (fun l => (g.lane l).exited || decide ((g.lane l).parked = some j))

/-! ## The issue of one word (R18, R123, R127, R129) -/

/-- What a word's meaning sees: the group with its run's lanes moved on by the encoded distance, the clause, the run's
lanes, the active lanes among them (R136), and the cycle of the issue. -/
structure Ctx where
  s : State
  g : Group
  cl : Clause
  run : Lanes
  act : Lanes
  cycle : Nat
deriving DecidableEq, Repr

/-- How the issue of a word ends: with its effect; with its effect and a move of lanes to another header; waiting, with
nothing done; or with an event taken before any effect. -/
inductive Verdict where
  | done (s : State)
  | jump (s : State) (target : Nat) (who : Lanes)
  | stall
  /-- The word waits, but something has begun (flush markers sent, R94). -/
  | hold (s : State)
  | trap (t : Trap)
  /-- BRK, TRAP: the event is taken after the instruction, the saved counters stand behind it (R202). -/
  | trapAfter (t : Trap)
  /-- An event before the access that met it, after the accesses before that one have performed (R217). -/
  | trapPart (s : State) (t : Trap)
deriving DecidableEq, Repr

/-- A value, or the result of a long operation in flight that writes it: the free bit chooses (R128). -/
def State.beside (s : State) (gid : Nat) (lane : Option Nat) (reg : Nat) (v : Word) : Word :=
  s.ops.foldl (fun v o =>
    if o.gid = gid then
      o.results.foldl (fun v r =>
        if r.lane = lane ∧ r.reg = reg then
          (if Config.freeBit s.oracle (lane.getD 32) (reg + 256 * o.id) then mergeBits v r.mask r.value else v)
        else v) v
    else v) v

/-- Predicate p[l][k] as an instruction of the group reads it (R127, R128). -/
def State.readPred (s : State) (g : Group) (l k : Nat) : Bool :=
  (s.beside g.gid (some l) (Config.predBase + k) (if (g.lane l).preds.getLsbD k then 1 else 0)).getLsbD 0

/-- The lanes that the guard of an instruction of a clause lets act (R129). -/
def State.guardMask (s : State) (g : Group) (h : ClauseHeader) (index : Nat) : Lanes :=
  if h.guarded index && decide (h.gpred < 24) then maskOf (fun l => xor (s.readPred g l h.gpred) h.gneg) else BitVec.allOnes 32

/-- The group's last engine command waits at its issue, and the group issues nothing after it (R30, R72, R228). -/
def State.atIssue (s : State) (gid : Nat) : Bool :=
  s.ops.any (fun o => decide (o.gid = gid) && (match o.wait with
    | .accept _ => true
    | _ => false))

/-- The context of the next word of the issuing group, where it may issue: a clause under way, the group not stopped. -/
def State.ctx? (s : State) (lane : Bool) : Option Ctx :=
  match s.issuer.bind s.group? with
  | none => none
  | some g =>
    match g.clause, g.stop with
    | some cl, none =>
      if s.atIssue g.gid || !s.teamRuns g then none
      else
        let run := g.runMask cl.run
        let dist := cl.header.distance cl.index
        let g' := g.updLanes run (fun _ l => l.tick dist)
        some { s := s, g := g', cl := cl, run := run, act := if lane then run &&& s.guardMask g' cl.header cl.index else run,
               cycle := max s.cycle (g.lastIssue + dist) }
    | _, _ => none

/-- The header after a clause (R123). -/
def Clause.next (cl : Clause) : Nat := cl.base + 8 + 4 * cl.header.len

/-- The run moves on to the next word of its clause, or the clause ends and runs merge (R20, R123). -/
def Group.advance (g : Group) (cl : Clause) (run : Lanes) (target : Nat) (who : Lanes) : Group :=
  if cl.index + 1 < cl.header.len then
    { g.updLanes run (fun _ l => { l with index := cl.index + 1 }) with
      clause := some { cl with index := cl.index + 1, ximm := none, xmod := none, xsco := none } }
  else
    let g := g.updLanes run (fun l x => { x with header := if who.getLsbD l then target else cl.next, index := 0 })
    Group.mergeRuns { g with clause := none, runs := g.runs.map (fun (r : Run) => if r.id = cl.run then { r with passed := none } else r) }

/-- The state a word's effect starts from: the issuing group moved on in time, the cycle of the issue. -/
def Ctx.base (c : Ctx) (lane : Bool) : State :=
  let g := { c.g with lastIssue := c.cycle, lastLane := (if lane then c.cycle else c.g.lastLane), lastUniform := (if lane then c.g.lastUniform else c.cycle) }
  { c.s.updGroup c.g.gid (fun _ => g) with cycle := c.cycle }

/-- The stop record of an instruction's event. -/
def Ctx.stopOf (c : Ctx) (kind : Nat) (after : Bool) : Stop :=
  { kind := kind, clauseStart := false, slot := none, after := after, run := c.cl.run, index := c.cl.index, length := c.cl.header.len, late := none }

/-- Taking an event at an instruction: Post and Stop, before any effect; the counters stay (R28, R137). -/
def Ctx.take (c : Ctx) (t : Trap) : State :=
  (c.s.post (c.s.recordOf c.g c.cl.index t true)).stopGroup c.g.gid (c.stopOf t.kind false)

/-- The same with part of the effect performed; the counters stay all the same, and the distance counts once the word issues
again. -/
def Ctx.takePart (c : Ctx) (s : State) (t : Trap) : State :=
  let lanes := ((c.s.group? c.g.gid).getD c.g).lanes
  ((s.updGroup c.g.gid (fun g => { g with lanes := lanes })).post (s.recordOf c.g c.cl.index t true)).stopGroup c.g.gid (c.stopOf t.kind false)

/-- Taking an event behind an instruction (BRK, TRAP): the counters move on first (R202). -/
def Ctx.takeAfter (c : Ctx) (t : Trap) : State :=
  let s := (c.base false).updGroup c.g.gid (fun g => g.advance c.cl c.run 0 0)
  (s.post (c.s.recordOf c.g c.cl.index t true)).stopGroup c.g.gid (c.stopOf t.kind true)

/-- After a step group runs its one clause, it stops before the next (R331). -/
def State.afterClause (s : State) (gid run : Nat) (m : Lanes) : State :=
  match s.group? gid with
  | none => s
  | some g =>
    if g.stepping && g.clause.isNone && g.stop.isNone && !g.exited then
      (s.post (s.recordOf g 0 { kind := 7, sub := 2, info := m, addr := (g.lane ((lanesOf m).headD 0)).header } true)).stopGroup gid
        { kind := 7, clauseStart := true, slot := some 4, after := false, run := run, index := 0, length := 1, late := none }
    else s

/-- The issue of one word: nothing happens where no group issues or the word waits (R18); else its effect and the move of
the run, or the event it takes. -/
def issue (s : State) (lane : Bool) (body : Ctx → Verdict) : Host.Outcome State Fault Refusal :=
  match s.ctx? lane with
  | none => .next s
  | some c =>
    match body c with
    | .stall => .next s
    | .hold s' => .next s'
    | .trap t => .next (c.take t)
    | .trapAfter t => .next (c.takeAfter t)
    | .trapPart s' t => .next (c.takePart s' t)
    | .done s' => .next ((s'.updGroup c.g.gid (fun g => g.advance c.cl c.run 0 0)).afterClause c.g.gid c.cl.run c.run)
    | .jump s' target who => .next ((s'.updGroup c.g.gid (fun g => g.advance c.cl c.run target who)).afterClause c.g.gid c.cl.run c.run)

/-- The issuing group's state as it stands inside an effect. -/
def Ctx.group (c : Ctx) (s : State) : Group := (s.group? c.g.gid).getD c.g

/-! Event kinds (R339) -/
def Ctx.illegalOperand (c : Ctx) (lane : Bool) : Verdict :=
  .trap { kind := 2, info := if lane then c.act else c.run, addr := c.cl.base }
def Ctx.quotaFault (c : Ctx) (m : Lanes) : Verdict := .trap { kind := 3, info := m, addr := c.cl.base }
def Ctx.illegalInstruction (c : Ctx) (lane : Bool) : Verdict :=
  .trap { kind := 1, info := if lane then c.act else c.run, addr := c.cl.base }

end Sys2Proof.Machine
end

