-- ==== Sys2Proof/Machine/Operands.lean ====
section
/-! DEFINITION. Operand forms: the one numbering of registers (R33), reading registers beside results in flight (R128), pairs,
queue ports (R34 to R36, R142), immediates (R132), and the writing of short, long and pushed results. -/
namespace Sys2Proof.Machine

/-! ## Reading beside long results in flight (R128) -/

/-- Lane register v[l][r] as the issuing instruction reads it (R127, R128). -/
def Ctx.readV (c : Ctx) (l r : Nat) : Word := c.s.beside c.g.gid (some l) r ((c.g.lane l).reg r)

/-- Predicate p[l][k]. -/
def Ctx.readP (c : Ctx) (l k : Nat) : Bool := c.s.readPred c.g l k

/-- Uniform register s[r], r from 0 to 15. -/
def Ctx.readS (c : Ctx) (r : Nat) : Word := c.s.beside c.g.gid none (104 + r) (Sparse.get 0 c.g.sregs r)

/-- The predicates p23 to p0 of a lane (R152). -/
def Ctx.readPreds (c : Ctx) (l : Nat) : BitVec 24 := BitVec.ofBoolListLE ((List.range 24).map (c.readP l))

/-! ## What a field may name (R15, R33) -/

/-- A use of a register field: it is legal, and within the quota. -/
structure Use where
  legal : Bool
  quota : Bool
deriving DecidableEq, Repr

def isV (f : Nat) : Bool := decide (f < 104)
def isS (f : Nat) : Bool := decide (104 ≤ f ∧ f < 120)
def isNeighbour (f : Nat) : Bool := decide (120 ≤ f ∧ f < 124)
def isPort (f : Nat) : Bool := decide (120 ≤ f)

/-- A source register of a lane instruction. -/
def useSrc (q f : Nat) : Use := { legal := true, quota := decide (104 ≤ f ∨ f < q) }
/-- A source pair: even, no queue port. -/
def usePair (q f : Nat) : Use := { legal := decide (f % 2 = 0) && !isPort f, quota := decide (104 ≤ f ∨ f + 1 < q) }
/-- A v register, no other. -/
def useV (q f : Nat) : Use := { legal := isV f, quota := decide (104 ≤ f ∨ f < q) }
/-- n consecutive v registers from a multiple of n. -/
def useVs (q f n : Nat) : Use := { legal := isV f && decide (f % n = 0), quota := decide (104 ≤ f ∨ f + n ≤ q) }
/-- A register source that is no queue port. -/
def useNoPort (q f : Nat) : Use := { legal := !isPort f, quota := decide (104 ≤ f ∨ f < q) }
/-- A uniform source: an s register or a team port (R194). -/
def useUni (f : Nat) : Use := { legal := decide (104 ≤ f) && !isNeighbour f, quota := true }
/-- An s register, no port. -/
def useS (f : Nat) : Use := { legal := isS f, quota := true }
/-- An even s pair. -/
def useSPair (f : Nat) : Use := { legal := isS f && decide (f % 2 = 0), quota := true }
/-- n consecutive s registers from a multiple of n (s0 is number 104). -/
def useSs (f n : Nat) : Use := { legal := isS f && decide ((f - 104) % n = 0 ∧ f + n ≤ 120), quota := true }

/-- The first event among the uses: an illegal operand before a quota fault, both before any effect (log 14). -/
def Ctx.uses (c : Ctx) (lane : Bool) (us : List Use) (k : Verdict) : Verdict :=
  if us.any (fun u => !u.legal) then c.illegalOperand lane
  else if us.any (fun u => !u.quota) then c.quotaFault (if lane then c.act else c.run)
  else k

/-! ## Neighbour ports (R35) -/

/-- The core one step away: 0 north, 1 east, 2 south, 3 west, with wrap-around; cores are 16y + x. -/
def neighbourCore (core dir : Nat) : Nat :=
  let x := core % 16
  let y := core / 16
  match dir with
  | 0 => 16 * ((y + 15) % 16) + x
  | 1 => 16 * y + (x + 1) % 16
  | 2 => 16 * ((y + 1) % 16) + x
  | _ => 16 * y + (x + 15) % 16

/-- The queue that a push in a direction enters: the opposite one. -/
def oppositeDir (dir : Nat) : Nat := (dir + 2) % 4

/-- The team of the same cluster on the core one step away. -/
def State.neighbourTeam (s : State) (g : Group) (dir : Nat) : Option Team :=
  match s.teamOf g with
  | none => none
  | some t => (s.clusterTeams t.cluster).find? (fun u => decide (u.core = neighbourCore t.core dir))

/-- The group that receives a push: same index, in that team. -/
def State.receiver (s : State) (g : Group) (dir : Nat) : Option Group :=
  (s.neighbourTeam g dir).bind (fun u => (s.teamGroups u.tid).find? (fun h => decide (h.index = g.index)))

def Group.queue (g : Group) (dir : Nat) : List NeighbourEntry := g.recv.getD dir []

/-- A push waits while the receiver's queue holds 8 entries, counting reserved ones, or its team is out of residency; an
exited receiver never holds it up. -/
def State.pushWaits (s : State) (g : Group) (dir : Nat) : Bool :=
  match s.receiver g dir with
  | none => (s.neighbourTeam g dir).any Team.away
  | some h => !h.exited && decide (8 ≤ (h.queue (oppositeDir dir)).length)

/-- The entry joins the receiver's queue; where the receiver has exited it is discarded. -/
def State.push (s : State) (g : Group) (dir : Nat) (e : NeighbourEntry) : State :=
  match s.receiver g dir with
  | none => s
  | some h => if h.exited then s else s.updGroup h.gid (fun h => { h with recv := h.recv.modify (oppositeDir dir) (· ++ [e]) })

/-- A destination register of a lane instruction: a v register, or a neighbour port toward a core that has a receiver. -/
def Ctx.useDst (c : Ctx) (f : Nat) : Use :=
  { legal := isV f || (isNeighbour f && (decide (c.act = 0) || (c.s.neighbourTeam c.g (f - 120)).isSome)),
    quota := decide (104 ≤ f ∨ f < c.g.quota) }

/-- A push and a pop need room and an entry only where a lane is active. -/
def Ctx.pushStalls (c : Ctx) (f : Nat) : Bool := isNeighbour f && decide (c.act ≠ 0) && c.s.pushWaits c.g (f - 120)

/-! ## Team ports (R36) -/

/-- Words a port still holds. -/
def Port.words (p : Port) : Nat := p.entries.foldl (fun n e => n + e.length) 0

/-- Depth of ports qsv, qmg, qh, qev in words. -/
def portDepth (i : Nat) : Nat := if i = 2 then 256 else 64

def Team.port (t : Team) (i : Nat) : Port := t.ports.getD i { entries := [], holder := none }
def Team.setPort (t : Team) (i : Nat) (p : Port) : Team := { t with ports := t.ports.set i p }

/-- The port has room for an entry and its team is resident. -/
def Team.hasRoom (t : Team) (i n : Nat) : Bool :=
  t.runs && decide ((t.port i).words + n ≤ portDepth i)

/-- An entry for a team port: pushed where there is room, else kept as a waiting notice. -/
def State.toPortFrom (s : State) (source : Option Nat) (tid i : Nat) (ws : List Word) : State :=
  match s.team? tid with
  | none => s
  | some t =>
    if t.residency = .freed then s
    else if t.hasRoom i ws.length && !s.notices.any (fun n => decide (n.team = tid ∧ n.port = i)) then
      s.updTeam tid (fun t => t.setPort i { t.port i with entries := (t.port i).entries ++ [ws] })
    else { s with notices := s.notices ++ [{ id := s.fresh, source := source, team := tid, port := i, words := ws }], fresh := s.fresh + 1 }

def State.toPort (s : State) (tid i : Nat) (ws : List Word) : State := s.toPortFrom none tid i ws

/-- A waiting notice enters its port. -/
def State.deliverNotice (s : State) (n : Notice) : State :=
  match s.team? n.team with
  | none => { s with notices := s.notices.filter (fun m => decide (m.id ≠ n.id)) }
  | some t =>
    if t.residency = .freed then { s with notices := s.notices.filter (fun m => decide (m.id ≠ n.id)) }
    else if t.hasRoom n.port n.words.length then
      { s.updTeam n.team (fun t => t.setPort n.port { t.port n.port with entries := (t.port n.port).entries ++ [n.words] }) with
        notices := s.notices.filter (fun m => decide (m.id ≠ n.id)) }
    else s

/-- One pop of a team port by a group: the word, or none where the pop waits (empty, or an entry another group holds). -/
def State.popTeam (s : State) (g : Group) (i : Nat) : Option (State × Word) :=
  match s.team? g.team with
  | none => none
  | some t =>
    let p := t.port i
    match p.entries with
    | (w :: more) :: rest =>
      if p.holder = none ∨ p.holder = some g.index then
        let p' : Port := if more.isEmpty then { entries := rest, holder := none } else { entries := more :: rest, holder := some g.index }
        let s' := s.updTeam g.team (fun t => t.setPort i p')
        let s' := if i = 0 then s' else match s'.notices.find? (fun n => decide (n.team = g.team ∧ n.port = i)) with
          | some n => s'.deliverNotice n
          | none => s'
        some (if i = 3 then s' else s'.closeRegion g.gid, w)
      else none
    | _ => none

/-- One pop of a neighbour queue: the head entry's words, or none where it is empty or not yet filled. -/
def State.popNeighbour (s : State) (g : Group) (dir : Nat) : Option (State × List Word) :=
  match ((s.group? g.gid).getD g).queue dir with
  | { op := none, words := ws } :: _ => some (s.updGroup g.gid (fun h => { h with recv := h.recv.modify dir List.tail }), ws)
  | _ => none

/-- A charged MOX is raised before the group's next access or synchronising operation performs (R393). -/
def Ctx.charged (c : Ctx) (k : Verdict) : Verdict :=
  match c.g.charged with
  | some w => .trap { kind := 0x18, sub := 4, info := c.run, addr := w }
  | none => k

/-! ## Sources -/

/-- A source register of a lane instruction, port pops included (R34); the continuation gets its value in each lane. -/
def Ctx.src (c : Ctx) (s : State) (f : Nat) (k : State → (Nat → Word) → Verdict) : Verdict :=
  if f < 104 then k s (fun l => c.readV l f)
  else if f < 120 then k s (fun _ => c.readS (f - 104))
  else if c.act = 0 then k s (fun _ => 0)
  else if f < 124 then
    match s.popNeighbour c.g (f - 120) with
    | none => .stall
    | some (s, ws) => k s (fun l => ws.getD l 0)
  else
    let go : Verdict := match s.popTeam c.g (f - 124) with
      | none => .stall
      | some (s, w) => k s (fun _ => w)
    if f = 127 then go else c.charged go

/-- A source pair of a lane instruction. -/
def Ctx.pair (c : Ctx) (f : Nat) (l : Nat) : BitVec 64 :=
  if f < 104 then c.readV l (f + 1) ++ c.readV l f else c.readS (f + 1 - 104) ++ c.readS (f - 104)

/-- A uniform source: an s register, or one pop of a team port. -/
def Ctx.usrc (c : Ctx) (s : State) (f : Nat) (k : State → Word → Verdict) : Verdict :=
  if f < 120 then k s (c.readS (f - 104))
  else
    let go : Verdict := match s.popTeam c.g (f - 124) with
      | none => .stall
      | some (s, w) => k s w
    if f = 127 then go else c.charged go

/-- An s pair. -/
def Ctx.spair (c : Ctx) (f : Nat) : BitVec 64 := c.readS (f + 1 - 104) ++ c.readS (f - 104)

/-! ## Results -/

/-- A register that an operation still has to receive a result for, while it waits. -/
def Waiting.writes (w : Waiting) (lane : Option Nat) (reg : Nat) : Bool :=
  let spans (dst n : Nat) : Bool := decide (dst ≤ reg ∧ reg < dst + n)
  match w with
  | .tagged kind size _ dst lanes =>
    lanes.any (fun l => decide (l.lane = lane)) && decide (kind < 3) && (spans dst (size / 4) || (decide (kind = 2) && spans (Config.predBase + 23) 1))
  | .wide load _ _ dst parts => load && parts.any (fun l => decide (l.lane = lane)) && spans dst 4
  | .bo _ _ dst => lane.isNone && spans dst 1
  | .ticket _ _ dst => lane.isNone && spans dst 1
  | .pointer _ _ dst => lane.isNone && spans dst 2
  | .tol _ _ dst => lane.isNone && spans dst 2
  | .form _ _ _ dst => lane.isNone && spans dst 1
  | .pageRequest dst => lane.isNone && spans dst 1
  | _ => false

/-- A short write over a long result in flight, one that stands or one still to come: which of the two is left in the end is free
(R128). -/
def State.overtake (s : State) (gid : Nat) (lane : Option Nat) (reg : Nat) : State :=
  let loses (o : LongOp) : Bool := Config.freeBit s.oracle (lane.getD 32) (reg + 256 * o.id + 128)
  let mark (o : LongOp) (r : RegWrite) : RegWrite := if r.lane = lane ∧ r.reg = reg ∧ !r.loses then { r with loses := loses o } else r
  { s with ops := s.ops.map (fun o =>
      if o.gid = gid then
        { o with results := o.results.map (mark o),
                 overtaken := if o.wait.writes lane reg && loses o then o.overtaken ++ [(lane, reg)] else o.overtaken }
      else o) }

/-- A short write of some lanes, over the long operations in flight of their group. -/
def State.overtakeLanes (s : State) (gid : Nat) (m : Lanes) (reg : Nat) : State :=
  if s.ops.any (fun o => decide (o.gid = gid)) then (lanesOf m).foldl (fun s l => s.overtake gid (some l) reg) s else s

/-- Writing a short lane result, bits chosen lane by lane: visible at once (latency 1) or after its encoded distance (R127). -/
def Ctx.writeAt (c : Ctx) (s : State) (latency reg : Nat) (mask : Nat → Word) (v : Nat → Word) : State :=
  (s.updGroup c.g.gid (fun g => g.updLanes c.act (fun l x =>
    if mask l = 0 then x
    else if latency ≤ 1 then x.putNow reg (mask l) (v l) else x.putLater latency c.cycle reg (mask l) (v l)))).overtakeLanes c.g.gid
      (c.act &&& maskOf (fun l => decide (mask l ≠ 0))) reg

def Ctx.write (c : Ctx) (s : State) (latency reg : Nat) (mask : Word) (v : Nat → Word) : State :=
  c.writeAt s latency reg (fun _ => mask) v

/-- A short result goes to its v register or into the neighbour queue. DESIGN CHOICE (assumption log 71): what a pushed word holds
outside the subfield that XMOD selects is 0, for the integer and the floating forms (R145, R156); R52 speaks of the rest of a
destination register and R35 of inactive lanes alone. -/
def Ctx.result (c : Ctx) (s : State) (latency f : Nat) (mask : Word) (v : Nat → Word) : Verdict :=
  if f < 104 then .done (c.write s latency f mask v)
  else if c.act = 0 then .done s
  else .done (s.push c.g (f - 120) { op := none, words := (List.range 32).map (fun l => if c.act.getLsbD l then v l &&& mask else 0) })

/-- A short result goes to a predicate. -/
def Ctx.resultP (c : Ctx) (s : State) (latency p : Nat) (v : Nat → Bool) : Verdict :=
  .done (c.write s latency (Config.predBase + p) 1 (fun l => if v l then 1 else 0))

/-- Both registers of a pair. -/
def Ctx.resultPair (c : Ctx) (s : State) (latency f : Nat) (v : Nat → BitVec 64) : Verdict :=
  .done (c.write (c.write s latency f (BitVec.allOnes 32) (fun l => (v l).truncate 32)) latency (f + 1) (BitVec.allOnes 32)
    (fun l => (v l >>> 32).truncate 32))

/-- Writing a uniform register: latency 1, so visible at once (R127, R194). -/
def Group.putS (g : Group) (r : Nat) (w : Word) : Group := { g with sregs := Sparse.set 0 g.sregs r w }

def Ctx.writeS (c : Ctx) (s : State) (f : Nat) (w : Word) : State :=
  (s.updGroup c.g.gid (fun g => g.putS (f - 104) w)).overtake c.g.gid none f

def Ctx.writeSPair (c : Ctx) (s : State) (f : Nat) (v : BitVec 64) : State :=
  c.writeS (c.writeS s f (v.truncate 32)) (f + 1) ((v >>> 32).truncate 32)

/-! ## Long operations (R128) -/

/-- The flag a long word attaches to: SETB for matrix and engine operations when it is not 15, else SETA. -/
def Ctx.flagNo (c : Ctx) (matrix : Bool) : Nat := if matrix && decide (c.cl.header.setb ≠ 15) then c.cl.header.setb else c.cl.header.seta

/-- The words of the instruction under way with its prefixes, for the withdrawn-access list (R66, R312). -/
def Ctx.rawWords (c : Ctx) : List Word :=
  let pre := ((c.cl.words.take c.cl.index).reverse.takeWhile (fun w => Decode.isPrefix w.toNat)).reverse
  (c.cl.words.getD c.cl.index 0) :: pre

/-- A new long operation in flight. -/
def Ctx.addOp (c : Ctx) (s : State) (flag : Nat) (lane : Bool) (results : List RegWrite) (wait : Waiting) (operands : List Word) : State :=
  let o : LongOp :=
    { id := s.fresh, gid := c.g.gid, flag := flag, header := c.cl.base, index := c.cl.index, mask := if lane then c.act else c.run,
      words := c.rawWords, evtag := c.g.evtag, operands := operands, results := results, wait := wait, arrived := false, held := false, again := false,
      cycle := c.cycle, overtaken := [] }
  { s with ops := s.ops ++ [o], fresh := s.fresh + 1 }

/-- Issuing a long operation: its flag rises by one, and issue waits while the flag stands at 63. -/
def Ctx.long (c : Ctx) (s : State) (matrix lane : Bool) (results : List RegWrite) (wait : Waiting) (operands : List Word) : Verdict :=
  let f := c.flagNo matrix
  if f = 15 then c.illegalInstruction lane
  else if 63 ≤ c.g.flag f then .stall
  else .done (c.addOp (s.updGroup c.g.gid (fun g => g.raise f)) f lane results wait operands)

/-- The results of a lane instruction for its active lanes. -/
def Ctx.laneResults (c : Ctx) (reg : Nat) (mask : Word) (v : Nat → Word) : List RegWrite :=
  (lanesOf c.act).map (fun l => { lane := some l, reg := reg, mask := mask, value := v l, loses := false })

/-- A long result with a destination register, or a reserved entry of a neighbour queue (R142). -/
def Ctx.longResult (c : Ctx) (s : State) (f : Nat) (mask : Word) (v : Nat → Word) : Verdict :=
  if f < 104 ∨ c.act = 0 then c.long s false true (c.laneResults f mask v) .none []
  else
    let ws := (List.range 32).map (fun l => if c.act.getLsbD l then v l &&& mask else 0)
    c.long (s.push c.g (f - 120) { op := some s.fresh, words := [] }) false true [] (.push (f - 120) ws) []

/-- Uniform results of a long operation. -/
def uniResult (f : Nat) (v : Word) : RegWrite := { lane := none, reg := f, mask := BitVec.allOnes 32, value := v, loses := false }

/-! ## Immediates (R132) -/

/-- The value under XIMM: SExt(X25) times 128 plus the instruction's own low seven bits. -/
def ximmValue (x : BitVec 25) (own : BitVec 7) : Word := x.signExtend 32 <<< 7 ||| own.setWidth 32

/-- An 11-bit immediate: its sign extension, or the XIMM value, which needs the bits above [6:0] to be zero. -/
def Ctx.imm11 (c : Ctx) (lane : Bool) (i : BitVec 11) (k : Word → Verdict) : Verdict :=
  match c.cl.ximm with
  | none => k (i.signExtend 32)
  | some x => if i.extractLsb' 7 4 = 0 then k (ximmValue x (i.truncate 7)) else c.illegalInstruction lane

def Ctx.imm18 (c : Ctx) (lane : Bool) (i : BitVec 18) (k : Word → Verdict) : Verdict :=
  match c.cl.ximm with
  | none => k (i.signExtend 32)
  | some x => if i.extractLsb' 7 11 = 0 then k (ximmValue x (i.truncate 7)) else c.illegalInstruction lane

def Ctx.imm7 (c : Ctx) (i : BitVec 7) : Word :=
  match c.cl.ximm with
  | none => i.signExtend 32
  | some x => ximmValue x i

/-! ## Lane instructions of one shape -/

/-- Two sources, one destination, a short result. -/
def laneBin (s : State) (latency : Nat) (d a b : BitVec 7) (f : Word → Word → Word) : Host.Outcome State Fault Refusal :=
  issue s true (fun c =>
    c.uses true [useSrc c.g.quota a.toNat, useSrc c.g.quota b.toNat, c.useDst d.toNat]
      (if c.pushStalls d.toNat then .stall else
        c.src (c.base true) a.toNat (fun s x => c.src s b.toNat (fun s y =>
          c.result s latency d.toNat (BitVec.allOnes 32) (fun l => f (x l) (y l))))))

/-- One source, one destination. -/
def laneUn (s : State) (latency : Nat) (d a : BitVec 7) (f : Word → Word) : Host.Outcome State Fault Refusal :=
  issue s true (fun c =>
    c.uses true [useSrc c.g.quota a.toNat, c.useDst d.toNat]
      (if c.pushStalls d.toNat then .stall else
        c.src (c.base true) a.toNat (fun s x => c.result s latency d.toNat (BitVec.allOnes 32) (fun l => f (x l)))))

/-- One source, an immediate, one destination. -/
def laneImm (s : State) (latency : Nat) (d a : BitVec 7) (i : BitVec 11) (f : Word → Word → Word) : Host.Outcome State Fault Refusal :=
  issue s true (fun c =>
    c.imm11 true i (fun v =>
      c.uses true [useSrc c.g.quota a.toNat, c.useDst d.toNat] (if c.pushStalls d.toNat then .stall else
        c.src (c.base true) a.toNat (fun s x => c.result s latency d.toNat (BitVec.allOnes 32) (fun l => f (x l) v)))))

/-- Two sources and the old destination, which is a v register (accumulating forms, R142). -/
def laneAcc (s : State) (latency : Nat) (d a b : BitVec 7) (f : Word → Word → Word → Word) : Host.Outcome State Fault Refusal :=
  issue s true (fun c =>
    c.uses true [useSrc c.g.quota a.toNat, useSrc c.g.quota b.toNat, useV c.g.quota d.toNat]
      (c.src (c.base true) a.toNat (fun s x => c.src s b.toNat (fun s y =>
        c.result s latency d.toNat (BitVec.allOnes 32) (fun l => f (x l) (y l) (c.readV l d.toNat))))))

/-- Two sources, a long result (the division forms, R146). -/
def laneLong (s : State) (d a b : BitVec 7) (f : Word → Word → Word) : Host.Outcome State Fault Refusal :=
  issue s true (fun c =>
    c.uses true [useSrc c.g.quota a.toNat, useSrc c.g.quota b.toNat, c.useDst d.toNat]
      (if c.pushStalls d.toNat then .stall else
        c.src (c.base true) a.toNat (fun s x => c.src s b.toNat (fun s y =>
          c.longResult s d.toNat (BitVec.allOnes 32) (fun l => f (x l) (y l))))))

/-- Predicates of each lane into a predicate (PLOG, R163). -/
def lanePred (s : State) (d a b : BitVec 7) (f : Bool → Bool → Bool) : Host.Outcome State Fault Refusal :=
  issue s true (fun c => c.resultP (c.base true) 1 d.toNat (fun l => f (c.readP l a.toNat) (c.readP l b.toNat)))

/-- Two uniform sources, one s register (R195). -/
def uniBin (s : State) (d a b : BitVec 7) (f : Word → Word → Word) : Host.Outcome State Fault Refusal :=
  issue s false (fun c =>
    c.uses false [useUni a.toNat, useUni b.toNat, useS d.toNat]
      (c.usrc (c.base false) a.toNat (fun s x => c.usrc s b.toNat (fun s y => .done (c.writeS s d.toNat (f x y))))))

end Sys2Proof.Machine
end

