-- ==== Sys2Proof/Machine/Numeric.lean ====
section
/-! DEFINITION. Number formats and rounding (R47 to R59): exact values, Widen, RoundTo in every mode, Narrow, the format slots,
and the special-function unit's exact functions (R171 to R173). -/
namespace Sys2Proof.Machine

/-- An exact value, or a special: a finite value is (-1)^neg times m times 2^e, zero keeping its sign. -/
inductive FVal where
  | nan
  | inf (neg : Bool)
  | fin (neg : Bool) (m : Nat) (e : Int)
deriving DecidableEq, Repr

/-- A floating-point format (R48): width, exponent and mantissa bits, bias; `ieee` has infinities and NaNs at the top
exponent, `hasNan` alone is E4M3. -/
structure Fmt where
  width : Nat
  mbits : Nat
  bias : Nat
  ieee : Bool
  hasNan : Bool
  canonical : Nat
deriving DecidableEq, Repr

def fp32 : Fmt := { width := 32, mbits := 23, bias := 127, ieee := true, hasNan := true, canonical := 0x7FC00000 }
def bf16 : Fmt := { width := 16, mbits := 7, bias := 127, ieee := true, hasNan := true, canonical := 0x7FC0 }
def fp16 : Fmt := { width := 16, mbits := 10, bias := 15, ieee := true, hasNan := true, canonical := 0x7E00 }
def e4m3 : Fmt := { width := 8, mbits := 3, bias := 7, ieee := false, hasNan := true, canonical := 0x7F }
def e5m2 : Fmt := { width := 8, mbits := 2, bias := 15, ieee := true, hasNan := true, canonical := 0x7E }
def e3m2 : Fmt := { width := 6, mbits := 2, bias := 3, ieee := false, hasNan := false, canonical := 0 }
def e2m3 : Fmt := { width := 6, mbits := 3, bias := 1, ieee := false, hasNan := false, canonical := 0 }
def e2m1 : Fmt := { width := 4, mbits := 1, bias := 1, ieee := false, hasNan := false, canonical := 0 }

/-- The largest finite magnitude's code. -/
def Fmt.maxCode (f : Fmt) : Nat :=
  if f.ieee then 2 ^ (f.width - 1) - 2 ^ f.mbits - 1 else if f.hasNan then 2 ^ (f.width - 1) - 2 else 2 ^ (f.width - 1) - 1

/-- Widen of a floating-point code (R48, R49). -/
def Fmt.widen (f : Fmt) (c : Nat) : FVal :=
  let c := c % 2 ^ f.width
  let neg := decide (2 ^ (f.width - 1) ≤ c)
  let mag := c % 2 ^ (f.width - 1)
  let m := mag % 2 ^ f.mbits
  let e := mag / 2 ^ f.mbits
  if f.maxCode < mag then (if f.ieee && decide (m = 0) then .inf neg else .nan)
  else if e = 0 then .fin neg m (1 - (f.bias : Int) - f.mbits)
  else .fin neg (m + 2 ^ f.mbits) (e - (f.bias : Int) - f.mbits)

/-- Number of bits of a number. -/
def natBits (n : Nat) : Nat := if n = 0 then 0 else n.log2 + 1

/-- m times 2^e, rounded to a whole number in a mode (R56, R57): codes 0 RNE, 1 RTZ, 2 RDN, 3 RUP, 4 RNA, 5 STOCH with r of
k bits. -/
def roundNat (mode : Nat) (neg : Bool) (k r m : Nat) (e : Int) : Nat :=
  if 0 ≤ e then m * 2 ^ e.toNat
  else
    let s := (-e).toNat
    let n := m / 2 ^ s
    let rem := m % 2 ^ s
    match mode with
    | 0 => if 2 ^ s < 2 * rem ∨ (2 ^ s = 2 * rem ∧ n % 2 = 1) then n + 1 else n
    | 1 => n
    | 2 => if neg && decide (rem ≠ 0) then n + 1 else n
    | 3 => if !neg && decide (rem ≠ 0) then n + 1 else n
    | 4 => if 2 ^ s ≤ 2 * rem then n + 1 else n
    | _ => (m * 2 ^ k + r * 2 ^ s) / 2 ^ (s + k)

/-- The draw bits STOCH uses for a target width (R57). -/
def stochBits (width : Nat) : Nat := if 32 ≤ width then 32 else if 16 ≤ width then 24 else if 8 ≤ width then 16 else 12

/-- r of R57: the top bits of a draw. -/
def stochR (width : Nat) (draw : BitVec 64) : Nat := draw.toNat / 2 ^ (64 - stochBits width)

/-- RoundTo a floating format (R56 to R58). -/
def Fmt.round (f : Fmt) (mode : Nat) (sat : Bool) (draw : BitVec 64) (x : FVal) : Nat :=
  let sign (neg : Bool) (c : Nat) : Nat := if neg then c + 2 ^ (f.width - 1) else c
  match x with
  | .nan => f.canonical
  | .inf neg => if f.ieee then sign neg (f.maxCode + 1) else if f.hasNan && !sat then f.canonical else sign neg f.maxCode
  | .fin neg 0 _ => sign neg 0
  | .fin neg m e =>
    let top : Int := e + natBits m - 1
    let q : Int := max top (1 - (f.bias : Int)) - f.mbits
    let n := roundNat mode neg (stochBits f.width) (stochR f.width draw) m (e - q)
    let code : Nat := ((q + f.mbits + f.bias).toNat * 2 ^ f.mbits + n) - 2 ^ f.mbits
    if code ≤ f.maxCode then sign neg code
    else if sat || !f.hasNan then sign neg f.maxCode
    else
      let toInf := match mode with
        | 1 => false
        | 2 => neg
        | 3 => !neg
        | _ => true
      if !toInf then sign neg f.maxCode else if f.ieee then sign neg (f.maxCode + 1) else f.canonical

/-- RNE without saturation (R56). -/
def Fmt.rne (f : Fmt) (x : FVal) : Nat := f.round 0 false 0 x

/-- An FP32 register's value, and rounding into one. -/
def f32 (w : Word) : FVal := fp32.widen w.toNat
def toF32 (x : FVal) : Word := BitVec.ofNat 32 (fp32.rne x)

/-! ## Exact arithmetic (R156) -/

def FVal.ofInt (i : Int) : FVal := .fin (decide (i < 0)) i.natAbs 0

def FVal.neg : FVal → FVal
  | .nan => .nan
  | .inf n => .inf (!n)
  | .fin n m e => .fin (!n) m e

def FVal.isNan : FVal → Bool
  | .nan => true
  | _ => false

def FVal.isZero : FVal → Bool
  | .fin _ 0 _ => true
  | _ => false

def FVal.isInf : FVal → Bool
  | .inf _ => true
  | _ => false

def FVal.sign : FVal → Bool
  | .nan => false
  | .inf n => n
  | .fin n _ _ => n

def FVal.mul : FVal → FVal → FVal
  | .nan, _ => .nan
  | _, .nan => .nan
  | .inf a, .inf b => .inf (xor a b)
  | .inf a, .fin b m _ => if m = 0 then .nan else .inf (xor a b)
  | .fin a m _, .inf b => if m = 0 then .nan else .inf (xor a b)
  | .fin a m e, .fin b n f => .fin (xor a b) (m * n) (e + f)

/-- A finite value scaled to an exponent that is no larger. -/
def scaled (neg : Bool) (m : Nat) (e q : Int) : Int :=
  let v : Int := (m * 2 ^ (e - q).toNat : Nat)
  if neg then -v else v

/-- The exact sum of terms, with the sign rule of an exact zero (R156). -/
def FVal.sum (rdn : Bool) (xs : List FVal) : FVal :=
  if xs.any FVal.isNan then .nan
  else if xs.any (fun x => x = .inf true) then (if xs.any (fun x => x = .inf false) then .nan else .inf true)
  else if xs.any (fun x => x = .inf false) then .inf false
  else
    let q : Int := xs.foldl (fun q x => match x with
      | .fin _ m e => if m = 0 then q else min q e
      | _ => q) 0
    let t : Int := xs.foldl (fun t x => match x with
      | .fin n m e => if m = 0 then t else t + scaled n m e q
      | _ => t) 0
    if t ≠ 0 then .fin (decide (t < 0)) t.natAbs q
    else if xs.all (fun x => x.isZero && x.sign) then .fin true 0 0
    else if xs.all (fun x => x.isZero && !x.sign) then .fin false 0 0
    else .fin rdn 0 0

def FVal.add (x y : FVal) : FVal := FVal.sum false [x, y]

/-- Order of two values that are no NaN; zeros are equal. -/
def FVal.lt : FVal → FVal → Bool
  | .inf a, .inf b => a && !b
  | .inf a, .fin _ _ _ => a
  | .fin _ _ _, .inf b => !b
  | .fin a m e, .fin b n f => decide (scaled a m e (min e f) < scaled b n f (min e f))
  | _, _ => false

def FVal.eqv (x y : FVal) : Bool := !x.isNan && !y.isNan && !x.lt y && !y.lt x

/-- The smaller and the larger operand, -0 below +0, a NaN giving way (R157). -/
def FVal.minimum (x y : FVal) : FVal :=
  if x.isNan then y else if y.isNan then x
  else if x.isZero && y.isZero then (if x.sign then x else y)
  else if x.lt y then x else y

def FVal.maximum (x y : FVal) : FVal :=
  if x.isNan then y else if y.isNan then x
  else if x.isZero && y.isZero then (if x.sign then y else x)
  else if x.lt y then y else x

/-- Bits of a quotient beyond any format's precision; the last bit is sticky. -/
def quotBits : Nat := 320

/-- m / n as a number with a sticky last bit: rounding it rounds the exact quotient. -/
def stickyDiv (m n : Nat) (shift : Nat) : Nat :=
  let t := m * 2 ^ shift
  2 * (t / n) + (if t % n = 0 then 0 else 1)

/-- The exact quotient for rounding (R156). -/
def FVal.div : FVal → FVal → FVal
  | .nan, _ => .nan
  | _, .nan => .nan
  | .inf _, .inf _ => .nan
  | .inf a, .fin b _ _ => .inf (xor a b)
  | .fin a _ _, .inf b => .fin (xor a b) 0 0
  | .fin a m e, .fin b n f =>
    if n = 0 then (if m = 0 then .nan else .inf (xor a b))
    else .fin (xor a b) (stickyDiv m n quotBits) (e - f - quotBits - 1)

/-- Rounding to an integer in a mode; a zero keeps its sign (R160). -/
def FVal.integral (mode : Nat) : FVal → FVal
  | .fin n m e => .fin n (roundNat mode n 0 0 m e) 0
  | x => x

/-- A finite value as an integer in a mode; the caller handles specials. -/
def FVal.toInt (mode k r : Nat) : FVal → Int
  | .fin n m e => let v : Int := roundNat mode n k r m e; if n then -v else v
  | _ => 0

def clampInt (lo hi x : Int) : Int := max lo (min hi x)

/-- RoundTo an integer target from a floating source: saturates always; a NaN gives 0 (R58). -/
def roundInt (signed : Bool) (width mode : Nat) (draw : BitVec 64) (x : FVal) : Int :=
  let lo : Int := if signed then -(2 ^ (width - 1) : Nat) else 0
  let hi : Int := if signed then (2 ^ (width - 1) : Nat) - 1 else (2 ^ width : Nat) - 1
  match x with
  | .nan => 0
  | .inf n => if n then lo else hi
  | x => clampInt lo hi (x.toInt mode (stochBits width) (stochR width draw))

/-! ## Element formats and slots (R47, R51 to R55) -/

/-- The floating format of a code of R47. -/
def fmtOf : Nat → Option Fmt
  | 0 => some fp32
  | 1 => some bf16
  | 2 => some fp16
  | 3 => some e4m3
  | 4 => some e5m2
  | 5 => some e3m2
  | 6 => some e2m3
  | 7 => some e2m1
  | _ => none

/-- Width and signedness of an integer format code. -/
def intFmt : Nat → Option (Nat × Bool)
  | 8 => some (8, true)
  | 9 => some (8, false)
  | 10 => some (4, true)
  | 11 => some (4, false)
  | 14 => some (32, true)
  | _ => none

/-- The low w bits of a number as a signed or unsigned integer. -/
def intOf (signed : Bool) (w n : Nat) : Int :=
  let n := n % 2 ^ w
  if signed && decide (2 ^ (w - 1) ≤ n) then (n : Int) - (2 ^ w : Nat) else n

/-- The low w bits of an integer. -/
def intBits (w : Nat) (i : Int) : Nat := (i % (2 ^ w : Nat)).toNat

/-- Storage bits of an element in memory and tiles (R52): six-bit elements take a byte. -/
def elemBits (code : Nat) : Nat :=
  match fmtOf code with
  | some f => if f.width = 6 then 8 else f.width
  | none => ((intFmt code).map (·.1)).getD 8

/-- Widen of a stored element of a format code. -/
def widenCode (code n : Nat) : FVal :=
  match fmtOf code with
  | some f => f.widen n
  | none =>
    match intFmt code with
    | some (w, s) => FVal.ofInt (intOf s w n)
    | none => .fin false 0 0

/-- The trit i of a TERN5 byte (R51). -/
def ternK (i : Nat) : Nat := [65536, 21846, 7282, 2428, 810, 270].getD i 0
def ternDigit (b i : Nat) : Nat := b * ternK i / 65536 - 3 * (b * ternK (i + 1) / 65536)
def trit (b i : Nat) : Int := if 242 < b then 0 else (ternDigit b i : Int) - 1

/-- E8M0 (R50). -/
def e8m0 (n : Nat) : FVal := if n % 256 = 255 then .nan else .fin false 1 ((n % 256 : Nat) - 127)

/-- Fields of a format slot (R53). -/
structure FormatSlot where
  elem : Nat
  scale : Nat
  geom : Nat
  asym : Bool
  zpw : Nat
  sstride : Nat
  strans : Bool
  zstride : Nat
deriving DecidableEq, Repr

def slotFields (v : BitVec 64) : FormatSlot :=
  let n := v.toNat
  { elem := n / 2 ^ 58 % 64, scale := n / 2 ^ 52 % 64, geom := n / 2 ^ 49 % 8, asym := decide (n / 2 ^ 48 % 2 = 1),
    zpw := n / 2 ^ 44 % 16, sstride := n / 2 ^ 28 % 2 ^ 16, strans := decide (n / 2 ^ 27 % 2 = 1), zstride := n / 2 ^ 12 % 2 ^ 15 }

/-- A slot that a launch accepts (R40, R53). -/
def slotLaunchable (v : BitVec 64) : Bool :=
  let f := slotFields v
  decide (f.elem < 15 ∧ f.scale < 15 ∧ f.geom < 6 ∧ v.toNat % 2 ^ 12 = 0)

/-- A well-formed slot (R54, and the field rules of R53). -/
def slotWellFormed (f : FormatSlot) : Bool :=
  let scaleOk := if f.geom = 0 then decide (f.scale = 0) else decide (f.scale = 13 ∨ f.scale = 2)
  let sym := !f.asym && decide (f.zpw = 0)
  if f.elem ≤ 2 ∨ f.elem = 14 then decide (f.geom = 0 ∧ f.scale = 0) && sym
  else if f.elem ≤ 7 then decide (f.geom ≤ 5) && scaleOk && sym
  else if f.elem = 8 ∨ f.elem = 10 then
    (decide (f.geom ≤ 5) && scaleOk && sym) ||
      (decide (1 ≤ f.geom ∧ f.geom ≤ 5 ∧ f.scale = 2) && f.asym && decide (f.zpw = elemBits f.elem))
  else if f.elem = 9 ∨ f.elem = 11 then
    decide (1 ≤ f.geom ∧ f.geom ≤ 5 ∧ f.scale = 2) && f.asym && decide (f.zpw = elemBits f.elem)
  else if f.elem = 12 then decide (f.geom ≤ 3) && scaleOk && sym
  else false

/-- The slot fs[n] of the issuing group's grid (R40). -/
def Ctx.slot (c : Ctx) (n : Nat) : FormatSlot := slotFields (((c.s.gridOf c.g).map (fun d => d.launch.slots.getD n 0)).getD 0)

/-- Widen of a scale (R50, R55). -/
def widenScale (code n : Nat) : FVal := if code = 13 then e8m0 n else fp16.widen n

/-- The value of a code q of a slot's block, with scale and zero point (R55). -/
def elementValue (f : FormatSlot) (q : FVal) (z : Int) (scale : FVal) : FVal :=
  if f.geom = 0 then q
  else if f.asym then (match q with
    | .fin n m e => (FVal.ofInt ((if n then -(m * 2 ^ e.toNat : Nat) else (m * 2 ^ e.toNat : Nat) : Int) - z)).mul scale
    | q => q.mul scale)
  else q.mul scale

/-! ## Operand modifiers (R52, R133) -/

/-- Width in bits of a width code. -/
def modWidth : Nat → Nat
  | 0 => 32
  | 1 => 8
  | 2 => 6
  | _ => 4

/-- The combination is legal under R52. -/
def modOk (w i t : Nat) : Bool :=
  match w with
  | 0 => decide (i = 0 ∧ t ≠ 3)
  | 1 => decide (i < 4)
  | 2 => decide (i < 5 ∧ 2 ≤ t)
  | _ => decide (t ≠ 3 ∧ i < 8)

/-- The floating format of a width code and interpretation A or B. -/
def modFmt (w t : Nat) : Fmt :=
  match w, t with
  | 0, _ => fp32
  | 1, 2 => e4m3
  | 1, _ => e5m2
  | 2, 2 => e3m2
  | 2, _ => e2m3
  | _, _ => e2m1

/-- A modifier's fields: width, index, interpretation. -/
structure Mod where
  w : Nat
  i : Nat
  t : Nat
deriving DecidableEq, Repr

def modOf (b : BitVec 7) : Mod := { w := b.toNat / 32, i := b.toNat / 4 % 8, t := b.toNat % 4 }
def XMod.dst (x : XMod) : Mod := { w := x.width.toNat, i := x.index.toNat, t := x.interp.toNat }
/-- The destination field, all of it, is zero. -/
def XMod.dstZero (x : XMod) : Bool := decide (x.width = 0 ∧ x.index = 0 ∧ x.interp = 0 ∧ x.round = 0) && !x.sat

/-- Bits of the subfield. -/
def Mod.field (m : Mod) (w : Word) : Nat := w.toNat / 2 ^ (modWidth m.w * m.i) % 2 ^ modWidth m.w
/-- The destination bits that Narrow writes: the subfield, and bits [31:30] for the 6-bit width (R52). -/
def Mod.mask (m : Mod) : Word :=
  BitVec.ofNat 32 ((2 ^ modWidth m.w - 1) * 2 ^ (modWidth m.w * m.i)) ||| (if m.w = 2 then 0xC0000000 else 0)
def Mod.place (m : Mod) (c : Nat) : Word := BitVec.ofNat 32 (c % 2 ^ modWidth m.w * 2 ^ (modWidth m.w * m.i))

/-- Widen of a floating subfield; a zero modifier is the full FP32 register. -/
def Mod.float (b : BitVec 7) (w : Word) : FVal := if b = 0 then f32 w else let m := modOf b; (modFmt m.w m.t).widen (m.field w)

/-- Widen of an integer subfield; `signed` is how a zero modifier takes the register (R145). -/
def Mod.int (b : BitVec 7) (signed : Bool) (w : Word) : Int :=
  if b = 0 then intOf signed 32 w.toNat else let m := modOf b; intOf (decide (m.t = 0)) (modWidth m.w) (m.field w)

/-- A source modifier of a floating, or of an integer, instruction is legal (R52, R133). -/
def floatModOk (b : BitVec 7) : Bool := let m := modOf b; decide (b = 0) || (modOk m.w m.i m.t && decide (2 ≤ m.t))
def intModOk (b : BitVec 7) : Bool := let m := modOf b; decide (b = 0) || (modOk m.w m.i m.t && decide (m.t < 2))
/-- A destination modifier is legal for a floating or an integer result; a field whose rounding or saturation alone is set
names the full width. -/
def XMod.floatDstOk (x : XMod) : Bool :=
  x.dstZero || (let m := x.dst; (modOk m.w m.i m.t && decide (2 ≤ m.t)))
def XMod.intDstOk (x : XMod) : Bool := x.dstZero || (let m := x.dst; modOk m.w m.i m.t && decide (m.t < 2))

/-- How a floating result is formed and where it goes: format, mode, saturation, mask, placing. -/
structure FloatDst where
  fmt : Fmt
  mode : Nat
  sat : Bool
  mask : Word
  shift : Nat
deriving DecidableEq, Repr

def fullDst : FloatDst := { fmt := fp32, mode := 0, sat := false, mask := BitVec.allOnes 32, shift := 0 }

def XMod.floatDst (x : XMod) : FloatDst :=
  if x.dstZero then fullDst
  else
    let m := x.dst
    { fmt := modFmt m.w m.t, mode := x.round.toNat, sat := x.sat, mask := m.mask, shift := modWidth m.w * m.i }

def FloatDst.place (d : FloatDst) (code : Nat) : Word := BitVec.ofNat 32 (code * 2 ^ d.shift)
def FloatDst.stoch (d : FloatDst) : Bool := decide (d.mode = 5)

/-! ## The lane generator (R41, R42) -/

/-- One step of the generator; the new state is the draw. -/
def genStep (s : BitVec 64) : BitVec 64 :=
  let s := s ^^^ (s <<< 13)
  let s := s ^^^ (s >>> 7)
  s ^^^ (s <<< 17)

/-- Every active lane draws once (R42). -/
def Ctx.drawn (c : Ctx) (s : State) : State := s.updGroup c.g.gid (fun g => g.updLanes c.act (fun _ l => { l with gen := genStep l.gen }))
/-- The draw of a lane under the issuing instruction. -/
def Ctx.draw (c : Ctx) (l : Nat) : BitVec 64 := genStep (c.g.lane l).gen

/-! ## Fixed-point evaluation of the special functions (R171 to R173, assumption log 15) -/

/-- Fraction bits of the evaluation. -/
def fixBits : Nat := 900
def fixOne : Nat := 2 ^ fixBits

/-- The sum of t(k) over k below a fuel, where each term comes from the one before. -/
def series (next : Nat → Int → Int) : Nat → Nat → Int → Int → Int
  | 0, _, _, acc => acc
  | fuel + 1, k, t, acc => series next fuel (k + 1) (next k t) (acc + t)

/-- e to a fixed-point argument in [0, 1), by its power series. -/
def fixExp (x : Int) : Int := series (fun k t => t * x / ((k + 1 : Nat) : Int) / (fixOne : Int)) 200 0 fixOne 0

/-- The sum of y^(2k+1) / (2k+1), with sign alternating or not. -/
def arcSeries (alt : Bool) (y2 : Int) : Nat → Nat → Int → Int → Int
  | 0, _, _, acc => acc
  | fuel + 1, k, p, acc =>
    let t := p / ((2 * k + 1 : Nat) : Int)
    arcSeries alt y2 fuel (k + 1) (p * y2 / (fixOne : Int)) (if alt && decide (k % 2 = 1) then acc - t else acc + t)

def fixAtanh (y : Int) (fuel : Nat) : Int := arcSeries false (y * y / (fixOne : Int)) fuel 0 y 0
def fixAtan (y : Int) (fuel : Nat) : Int := arcSeries true (y * y / (fixOne : Int)) fuel 0 y 0

def fixLn2 : Int := 2 * fixAtanh ((fixOne : Int) / 3) 300
def fixPi : Int := 16 * fixAtan ((fixOne : Int) / 5) 210 - 4 * fixAtan ((fixOne : Int) / 239) 70

/-- A finite value as fixed point, floored. -/
def toFix (neg : Bool) (m : Nat) (e : Int) : Int :=
  let k : Int := e + fixBits
  let v : Int := if 0 ≤ k then (m * 2 ^ k.toNat : Nat) else (m / 2 ^ (-k).toNat : Nat)
  if neg then -v else v

/-- A fixed-point number as a value; the last place stands for the rest of an inexact number. -/
def ofFix (x : Int) : FVal := .fin (decide (x < 0)) (2 * x.natAbs + 1) (-(fixBits : Int) - 1)

/-- 2 to a fixed-point power: a mantissa in [1, 2) and an exponent. -/
def fixExp2 (x : Int) : Int × Int :=
  let i := x / (fixOne : Int)
  let f := x % (fixOne : Int)
  (fixExp (f * fixLn2 / (fixOne : Int)), i)

/-- The value of 2 to a fixed-point power, exact at whole numbers. -/
def exp2Val (x : Int) : FVal :=
  if x % (fixOne : Int) = 0 then .fin false 1 (x / (fixOne : Int)) else let (m, i) := fixExp2 x; .fin false (2 * m.natAbs + 1) (i - fixBits - 1)

/-- ln of a mantissa in [1, 2). -/
def fixLn (m : Int) : Int := 2 * fixAtanh ((m - fixOne) * fixOne / (m + fixOne)) 300

/-- sin and cos of a fixed-point argument by their series. -/
def fixSin (x : Int) : Int :=
  let x2 := x * x / (fixOne : Int)
  series (fun k t => -(t * x2 / (fixOne : Int)) / (((2 * k + 2) * (2 * k + 3) : Nat) : Int)) 110 0 x 0
def fixCos (x : Int) : Int :=
  let x2 := x * x / (fixOne : Int)
  series (fun k t => -(t * x2 / (fixOne : Int)) / (((2 * k + 1) * (2 * k + 2) : Nat) : Int)) 110 0 fixOne 0

/-- sin (or cos) of an exact finite value, its argument reduced by quarter turns (R172). -/
def trigVal (cosine : Bool) (neg : Bool) (m : Nat) (e : Int) : FVal :=
  let x : Int := toFix false m e
  let quarter := fixPi / 2
  let k := (x + quarter / 2) / quarter
  let r := x - k * quarter
  let j := ((if cosine then k + 1 else k) % 4).toNat
  let v := match j with
    | 0 => fixSin r
    | 1 => fixCos r
    | 2 => -fixSin r
    | _ => -fixCos r
  ofFix (if neg && !cosine then -v else v)

/-- Sum of the erf series: x^(2k+1) / (k! (2k+1)), signs alternating. -/
def erfSeries (x2 : Int) : Nat → Nat → Int → Int → Int
  | 0, _, _, acc => acc
  | fuel + 1, k, p, acc =>
    erfSeries x2 fuel (k + 1) (-(p * x2 / (fixOne : Int)) / ((k + 1 : Nat) : Int)) (acc + p / ((2 * k + 1 : Nat) : Int))

/-- Integer square root by Newton's steps from above, on fuel. -/
def sqrtSteps (n : Nat) : Nat → Nat → Nat
  | 0, r => r
  | fuel + 1, r => let q := (r + n / r) / 2; if q < r then sqrtSteps n fuel q else r
def natSqrt (n : Nat) : Nat := if n = 0 then 0 else sqrtSteps n 4000 (2 ^ (n.log2 / 2 + 1))

/-- The square root of an exact value, with a sticky last bit. -/
def sqrtVal (m : Nat) (e : Int) : FVal :=
  let (m, e) : Nat × Int := if e % 2 = 0 then (m, e) else (2 * m, e - 1)
  let t := m * 2 ^ (2 * quotBits)
  let r := natSqrt t
  .fin false (2 * r + (if r * r = t then 0 else 1)) (e / 2 - quotBits - 1)

/-- x times Phi(x): Phi(x) = (1 + erf(x / sqrt 2)) / 2, and erf(z) is 2 / sqrt(pi) times its series. -/
def geluVal (neg : Bool) (m : Nat) (e : Int) : FVal :=
  let x := toFix neg m e
  if (20 * fixOne : Nat) < x then .fin false (m * 2 ^ 300 - 1) (e - 300)
  else if x < -(20 * fixOne : Nat) then .fin true 1 (-400)
  else
    let z := x * fixOne / (natSqrt (2 * fixOne * fixOne) : Int)
    let s := erfSeries (z * z / (fixOne : Int)) 900 0 z 0
    let erf := 2 * s * fixOne / (natSqrt (fixPi.toNat * fixOne) : Int)
    let phi := ((fixOne : Int) + erf)
    match ofFix phi with
    | .fin _ p q => .fin neg (m * p) (e + q - 1)
    | v => v

/-- The exact value of a special function at a finite nonzero source, away from the special operands of R172; its last bit
is sticky. Functions are numbered as the SFU minors (R171). -/
def sfuExact (fn : Nat) (neg : Bool) (m : Nat) (e : Int) : FVal :=
  let big : Bool := decide ((12 : Int) < e + natBits m)
  match fn with
  | 0 => if big then (if neg then .fin false 1 (-4000) else .fin false 1 4000) else exp2Val (toFix neg m e)
  | 1 => if big then (if neg then .fin false 1 (-4000) else .fin false 1 4000) else exp2Val (toFix neg m e * fixOne / fixLn2)
  | 2 =>
    let k : Int := e + natBits m - 1
    let y := fixLn (toFix false m (1 - (natBits m : Int)))
    ofFix (k * fixOne + y * fixOne / fixLn2)
  | 3 => (FVal.fin false 1 0).div (.fin neg m e)
  | 4 => match sqrtVal m e with
    | .fin _ r q =>
      let (m', e') : Nat × Int := if e % 2 = 0 then (m, e) else (2 * m, e - 1)
      let t := natSqrt (2 ^ (4 * quotBits) / m')
      if t * t * m' = 2 ^ (4 * quotBits) then .fin false (2 * t) (-(e' / 2) - 2 * quotBits - 1)
      else if r = 0 then .fin false 1 q else .fin false (2 * t + 1) (-(e' / 2) - 2 * quotBits - 1)
    | v => v
  | 5 => sqrtVal m e
  | 6 => trigVal false neg m e
  | 7 => trigVal true neg m e
  | 8 =>
    if decide ((6 : Int) < e + natBits m) then .fin neg (2 ^ 300 - 1) (-300)
    else
      let (a, i) := fixExp2 (2 * toFix false m e * fixOne / fixLn2)
      let t : Int := a * 2 ^ i.toNat
      .fin neg (stickyDiv (t - fixOne).natAbs (t + fixOne).natAbs quotBits) (-(quotBits : Int) - 1)
  | 9 =>
    if decide ((8 : Int) < e + natBits m) then (if neg then .fin false 1 (-400) else .fin false (2 ^ 300 - 1) (-300))
    else
      let (a, i) := fixExp2 (toFix true m e * fixOne / fixLn2)
      -- t = e^(-|x|) = a * 2^(i - fixBits), i ≤ 0: with d = 2^(fixBits - i), the result is d/(d+a) or a/(d+a)
      let d : Nat := 2 ^ (fixBits + (-i).toNat)
      let n : Nat := if neg then a.natAbs else d
      .fin false (stickyDiv n (d + a.natAbs) (quotBits + 400)) (-(quotBits : Int) - 401)
  | _ => geluVal neg m e

/-- Rounding to P significant bits with RNE, or to a multiple of 2^(1 - P) where the floor is 1 and the value below 1 (R173). -/
def toBits (p : Nat) (floor : Bool) : FVal → FVal
  | .fin n m e =>
    if m = 0 then .fin n m e
    else
      let top : Int := e + natBits m - 1
      let q : Int := if floor && decide (top < 0) then 1 - (p : Int) else top - p + 1
      .fin n (roundNat 0 n 0 0 m (e - q)) q
  | x => x

/-- P of R173 for a function and a count 1 to 3. -/
def sfuBits (fn n : Nat) : Nat :=
  let row : List Nat := match fn with
    | 0 => [8, 16, 21]
    | 1 => [8, 15, 21]
    | 2 => [7, 14, 20]
    | 3 => [8, 16, 22]
    | 4 => [7, 14, 21]
    | 5 => [7, 14, 21]
    | 6 => [6, 12, 19]
    | 7 => [6, 12, 19]
    | 8 => [6, 11, 18]
    | 9 => [6, 11, 18]
    | _ => [6, 10, 17]
  row.getD (n - 1) 0

/-- A power of two, as its exponent. -/
def powerOf2 (m : Nat) (e : Int) : Option Int := if m ≠ 0 ∧ 2 ^ m.log2 = m then some (e + m.log2) else none

/-- The special operands of R172: the exact result where the table names one. -/
def sfuSpecial (fn : Nat) (x : FVal) : Option FVal :=
  let one : FVal := .fin false 1 0
  let zero : FVal := .fin false 0 0
  match fn, x with
  | _, .nan => some .nan
  | 0, .inf n => some (if n then zero else .inf false)
  | 0, .fin n m e =>
    if m = 0 then some one
    else if 0 ≤ e ∧ e + natBits m ≤ 8 ∧ (if n then m * 2 ^ e.toNat ≤ 149 else m * 2 ^ e.toNat ≤ 127) then
      some (.fin false 1 (if n then -(m * 2 ^ e.toNat : Nat) else (m * 2 ^ e.toNat : Nat)))
    else if !n && !(x.lt (.fin false 128 0)) then some (.inf false)
    else if x.lt (.fin true 150 0) then some zero
    else none
  | 1, .inf n => some (if n then zero else .inf false)
  | 1, .fin _ m _ => if m = 0 then some one else if (FVal.lt (f32 0x42B17218) x) then some (.inf false) else none
  | 2, .inf n => some (if n then .nan else .inf false)
  | 2, .fin n m e =>
    if m = 0 then some (.inf true) else if n then some .nan
    else (powerOf2 m e).map FVal.ofInt
  | 3, .inf n => some (.fin n 0 0)
  | 3, .fin n m e => if m = 0 then some (.inf n) else (powerOf2 m e).map (fun k => .fin n 1 (-k))
  | 4, .inf n => some (if n then .nan else zero)
  | 4, .fin n m _ => if m = 0 then some (.inf n) else if n then some .nan else none
  | 5, .inf n => some (if n then .nan else .inf false)
  | 5, .fin n m e =>
    if m = 0 then some x else if n then some .nan
    else
      let (m', e') : Nat × Int := if e % 2 = 0 then (m, e) else (2 * m, e - 1)
      if natSqrt m' * natSqrt m' = m' then some (.fin false (natSqrt m') (e' / 2)) else none
  | 6, .inf _ => some .nan
  | 6, .fin _ m _ => if m = 0 then some x else none
  | 7, .inf _ => some .nan
  | 7, .fin _ m _ => if m = 0 then some one else none
  | 8, .inf n => some (.fin n 1 0)
  | 8, .fin _ m _ => if m = 0 then some x else none
  | 9, .inf n => some (if n then zero else one)
  | 9, .fin _ m _ => if m = 0 then some (.fin false 1 (-1)) else none
  | _, .inf n => some (if n then .fin true 0 0 else .inf false)
  | _, .fin _ m _ => if m = 0 then some x else none

/-- y of R173: the FP32 result of a function with a count. -/
def sfu (fn n : Nat) (x : FVal) : Word :=
  match sfuSpecial fn x with
  | some y => toF32 y
  | none =>
    match x with
    | .fin neg m e =>
      let y := sfuExact fn neg m e
      if n = 0 then toF32 y else toF32 (toBits (sfuBits fn n) (decide (fn = 2 ∨ fn = 6 ∨ fn = 7)) y)
    | y => toF32 y

/-- Exp2CR of R136. -/
def exp2CR (w : Word) : Word := sfu 0 0 (f32 w)

end Sys2Proof.Machine
end

