-- ==== Sys2Proof/Machine/Flags.lean ====
section
/-! DEFINITION. Every condition an instruction writes into a predicate: integer and floating comparisons, classes, votes over
lanes (R155, R159, R160, R199, R209). -/
namespace Sys2Proof.Machine

/-- The integer conditions of R155 on a pair of words. -/
def intCond (code : Nat) (a b : Word) : Bool :=
  match code with
  | 0 => decide (a = b)
  | 1 => decide (a ≠ b)
  | 2 => a.slt b
  | 3 => a.sle b
  | 4 => b.slt a
  | 5 => b.sle a
  | 6 => a.ult b
  | 7 => a.ule b
  | 8 => b.ult a
  | _ => b.ule a

/-- The same conditions on exact values (R145): signed and unsigned forms compare alike. -/
def exactCond (code : Nat) (a b : Int) : Bool :=
  match code with
  | 0 => decide (a = b)
  | 1 => decide (a ≠ b)
  | 2 => decide (a < b)
  | 3 => decide (a ≤ b)
  | 4 => decide (b < a)
  | 5 => decide (b ≤ a)
  | 6 => decide (a < b)
  | 7 => decide (a ≤ b)
  | 8 => decide (b < a)
  | _ => decide (b ≤ a)

/-- A full-width source is taken as signed for EQ, NE and LT to GE (R145). -/
def condSigned (code : Nat) : Bool := decide (code < 6)

/-- The floating conditions in the order of R138: EQ, NE, LT, LE, GT, GE, UNORD, ORD (R159). -/
def floatCond (code : Nat) (a b : FVal) : Bool :=
  let un := a.isNan || b.isNan
  match code with
  | 0 => a.eqv b
  | 1 => !a.eqv b
  | 2 => !un && a.lt b
  | 3 => !un && !b.lt a
  | 4 => !un && b.lt a
  | 5 => !un && !a.lt b
  | 6 => un
  | _ => !un

/-- FCLASS: the one-hot class of a value in its own format, `subBelow` being the exponent of the smallest normal (R160). -/
def floatClass (f : Fmt) (x : FVal) : Word :=
  match x with
  | .nan => 0x100
  | .inf n => if n then 0x1 else 0x80
  | .fin n m e =>
    if m = 0 then (if n then 0x8 else 0x10)
    else if e + natBits m - 1 < 1 - (f.bias : Int) then (if n then 0x4 else 0x20)
    else if n then 0x2 else 0x40

/-- BRA's test over the active lanes (R199). -/
def braTaken (mode : Nat) (act : Lanes) (p : Nat → Bool) : Bool :=
  match mode with
  | 0 => true
  | 1 => (lanesOf act).any p
  | 2 => (lanesOf act).all p
  | _ => !(lanesOf act).any p

end Sys2Proof.Machine
end

