-- ==== Sys2Proof/Machine/Translate.lean ====
section
/-! DEFINITION. Composed translation (R60, R291 to R298) and the consistency of memory (R84 to R94, R393): walks through every
stage, the checks of an access, regions, conflicts, releases and acquires. -/
namespace Sys2Proof.Machine

/-- What an access needs (R294). -/
inductive Acc where
  | r | w | x
deriving DecidableEq, Repr

/-- The permission bit of R345: R 0, W 1, X 2; it is also SUB of an access fault (R339). -/
def Acc.bit : Acc → Nat
  | .r => 0
  | .w => 1
  | .x => 2

/-- A failed translation: event kind and SUB, the level of the failing stage, its owner (0: the root stage). -/
structure XFault where
  kind : Nat
  sub : Nat
  stage : Nat
  owner : Nat
deriving DecidableEq, Repr

/-- A composed result: physical address, smallest page size, permissions, key slot (R294). -/
structure Xlat where
  phys : Nat
  size : Nat
  perms : BitVec 3
  key : Nat
deriving DecidableEq, Repr

/-! ## Walks -/

/-- Leaf size codes (R291). -/
def pageSize : Nat → Nat
  | 0 => 0x10000
  | 1 => 0x200000
  | 2 => 0x4000000
  | _ => 0x40000000

/-- The level whose entries hold leaves of a size code. -/
def leafLevel : Nat → Nat
  | 0 => 0
  | 1 => 1
  | 2 => 1
  | _ => 2

/-- Index of an address at a level (R291). -/
def tableIndex (level a : Nat) : Nat :=
  match level with
  | 0 => a / 2 ^ 16 % 32
  | 1 => a / 2 ^ 21 % 512
  | 2 => a / 2 ^ 30 % 512
  | _ => a / 2 ^ 39 % 512

def entryValid (e : Nat) : Bool := e.testBit 0
def entryLeaf (e : Nat) : Bool := e.testBit 1
def entryPerms (e : Nat) : BitVec 3 := BitVec.ofNat 3 (e / 4)
def entrySize (e : Nat) : Nat := e / 64 % 4
def entryAddr (e : Nat) : Nat := e / 2 ^ 12 % 2 ^ 36 * 2 ^ 12

/-- A malformed entry, seen alone (R292). -/
def entryMalformed (level e : Nat) : Bool :=
  decide (e / 2 ^ 48 ≠ 0 ∨ e / 2 ^ 8 % 16 ≠ 0 ∨ e / 2 ^ 5 % 2 ≠ 0) ||
  (if entryLeaf e then
    decide (level = 3 ∨ leafLevel (entrySize e) ≠ level ∨ entryAddr e % pageSize (entrySize e) ≠ 0)
  else decide (level = 0 ∨ entrySize e ≠ 0))

/-- A walk of one table: fuel is level + 1. `rd` reads the entry at an address of the parent's space. -/
def walkTable (x : Inset) (rd : Nat → Except XFault Nat) (a : Nat) : Nat → Nat → BitVec 3 → Except XFault Xlat
  | 0, _, _ => .error { kind := 0x11, sub := 1, stage := x.level, owner := x.id }
  | level + 1, table, perms => do
    let i := tableIndex level a
    let e ← rd (table + 8 * i)
    if !entryValid e then .error { kind := 0x11, sub := 0, stage := x.level, owner := x.id }
    else if entryMalformed level e then .error { kind := 0x11, sub := 1, stage := x.level, owner := x.id }
    else if entryLeaf e then do
      let group ← if entrySize e = 2 then (List.range 32).mapM (fun j => rd (table + 8 * (i / 32 * 32 + j))) else pure []
      if group.any (fun v => decide (v ≠ e)) then .error { kind := 0x11, sub := 1, stage := x.level, owner := x.id }
      else
        let size := pageSize (entrySize e)
        pure { phys := entryAddr e + a % size, size := size, perms := perms &&& entryPerms e, key := 0 }
    else walkTable x rd a level (entryAddr e) (perms &&& entryPerms e)

/-- The old values of an entry that the access uses, each by a free choice made for its leaf as a whole, newest last. -/
def keptValues (oracle phys : Nat) : Nat → List Projection → List Nat
  | _, [] => []
  | i, p :: rest =>
    (if p.entry ≤ phys ∧ phys < p.entry + 8 * p.span ∧ Config.freeBit oracle 64 (p.entry + 2 ^ 52 * i) then [p.value] else []) ++
      keptValues oracle phys (i + 1) rest

/-- An entry as a walk sees it: one that a kept projection or partial walk may still use reads as any of its old values or as its
new one, by free choice, until the PINV that covers it (R294, R296, R298). -/
def State.readEntry (s : State) (phys : Nat) : Nat := (keptValues s.oracle phys 0 s.projections).getLastD (s.mem.dword phys).toNat

/-- The first permission that an access needs and a stage does not give. -/
def lacking (needs : List Acc) (perms : BitVec 3) : Option Acc := needs.find? (fun n => !perms.getLsbD n.bit)

/-- The root stage: the range that holds the address (R294). A window on the inset's own package is this package's memory. -/
def rootRange (x : Inset) (a : Nat) : Option RootRange := x.ranges.find? (fun r => decide (r.base ≤ a ∧ a < r.base + r.length))
def localPhys (x : Inset) (a : Nat) : Nat :=
  match backing a with
  | .package k => if k = x.package then a % Config.packageSize else a
  | _ => a

/-- The composed walk through the stages of a chain, leaf first; the lowest stage fails that has no mapping or lacks a permission
of the access (R294, R295). -/
def State.compose (s : State) : List Inset → List Acc → Nat → Except XFault Xlat
  | [], _, a => pure { phys := a, size := Config.spaceEnd, perms := 7, key := 0 }
  | x :: rest, needs, a => do
    let rd (e : Nat) : Except XFault Nat := do
      let t ← State.compose s rest [.r] e
      pure (s.readEntry t.phys)
    let t ← walkTable x rd a 4 x.tbase 7
    match lacking needs t.perms with
    | some n => .error { kind := 0x13, sub := n.bit, stage := x.level, owner := x.id }
    | none =>
      if x.level = 1 then
        match rootRange x t.phys with
        | none => .error { kind := 0x11, sub := 0, stage := 0, owner := 0 }
        | some r =>
          match lacking needs r.perms with
          | some n => .error { kind := 0x13, sub := n.bit, stage := 0, owner := 0 }
          | none => pure { phys := localPhys x t.phys, size := t.size, perms := t.perms &&& r.perms, key := r.key }
      else do
        let u ← State.compose s rest needs t.phys
        pure { u with size := min t.size u.size, perms := t.perms &&& u.perms }

/-- Translation of an inset's address; the root's space is device physical space (R286, R294). -/
def State.translate (s : State) (inset : Nat) (needs : List Acc) (a : Nat) : Except XFault Xlat :=
  if inset = 0 then pure { phys := a, size := Config.spaceEnd, perms := 7, key := 0 }
  else s.compose (s.ancestors inset) needs a

/-- A physical address lies on a table page in use, which takes no store (R293). -/
def State.onTablePage (s : State) (phys n : Nat) : Bool :=
  s.insets.any (fun y => y.tablePages.any (fun p => decide (p.2 < phys + n ∧ phys < p.2 + 0x1000)))

/-- An access to another package waits while no path leads there (R352). -/
def State.unreachable (s : State) (phys : Nat) : Bool :=
  match backing phys with
  | .package k => !s.fabric.paths.any (fun p => decide (p.1 = k))
  | .host => !s.fabric.linkUp
  | _ => false

/-- The home package of a remote word may refuse the request, once a path leads there; what its Range Grant Table holds is not this
package's (R354, assumption log 16). -/
def State.remoteRefused (s : State) (phys : Nat) : Bool :=
  match backing phys with
  | .package k => !s.unreachable phys && Config.freeBit s.oracle 65 k
  | _ => false

/-- The failure of a write to a table page: in the writer's own leaf stage (R293). -/
def State.tableFault (s : State) (inset : Nat) : XFault :=
  { kind := 0x13, sub := 1, stage := ((s.inset? inset).map (·.level)).getD 0, owner := inset }

/-- A write would fall on a table page, whatever the stages grant (R293). -/
def State.writesTable (s : State) (inset : Nat) (needs : List Acc) (a n : Nat) : Bool :=
  needs.contains .w && (match s.translate inset [] a with
    | .ok t => s.onTablePage t.phys n
    | .error _ => false)

/-- The checks of one part of a page, of n bytes; its physical address. -/
def State.onePart (s : State) (inset : Nat) (needs : List Acc) (a n : Nat) : Except XFault Nat :=
  if 2 ^ 48 ≤ a then .error { kind := 0x10, sub := 0, stage := 0, owner := inset }
  else if s.writesTable inset needs a n then .error (s.tableFault inset)
  else match s.translate inset needs a with
    | .error f => .error f
    | .ok t =>
      if backing t.phys = .none then .error { kind := 0x11, sub := 0, stage := 0, owner := 0 }
      else if s.remoteRefused t.phys then .error { kind := 0x13, sub := (needs.headD .r).bit, stage := 0, owner := 0 }
      else .ok t.phys

/-- The checks of one access of n bytes at an inset address that needs some permissions, in the order of R60; the physical address
where all pass. -/
def State.accessAll (s : State) (inset : Nat) (needs : List Acc) (a n : Nat) : Except XFault Nat :=
  if 2 ^ 48 ≤ a then .error { kind := 0x10, sub := 0, stage := 0, owner := inset }
  else if a % n ≠ 0 then .error { kind := 0x12, sub := 0, stage := 0, owner := inset }
  else s.onePart inset needs a n

def State.access (s : State) (inset : Nat) (need : Acc) (a n : Nat) : Except XFault Nat := s.accessAll inset [need] a n

/-- The parts of a byte range in each smallest page; fuel bounds the pages. -/
def pageParts : Nat → Nat → Nat → List (Nat × Nat)
  | 0, _, _ => []
  | fuel + 1, a, n =>
    if n = 0 then []
    else
      let k := min n (0x10000 - a % 0x10000)
      (a, k) :: pageParts fuel (a + k) (n - k)

def partsOf (a n : Nat) : List (Nat × Nat) := pageParts (n / 0x10000 + 2) a n

/-- The checks of a byte range, page by page from its start: the physical pieces up to the first page that fails, and that failure with
its address. -/
def State.checkSpan (s : State) (inset : Nat) (need : Acc) (a n : Nat) : List (Nat × Nat) × Option (XFault × Nat) :=
  (partsOf a n).foldl (fun acc q => match acc.2 with
    | some _ => acc
    | none => match s.onePart inset [need] q.1 q.2 with
      | .ok p => (acc.1 ++ [(p, q.2)], none)
      | .error f => (acc.1, some (f, q.1))) ([], none)

/-- Part of a list of physical pieces. -/
def slicePieces : List (Nat × Nat) → Nat → Nat → List (Nat × Nat)
  | [], _, _ => []
  | (p, k) :: rest, off, n =>
    if n = 0 then []
    else if k ≤ off then slicePieces rest (off - k) n
    else
      let m := min n (k - off)
      (p + off, m) :: slicePieces rest 0 (n - m)

/-- Where in a list of pieces the first byte marked poisoned lies. -/
def Memory.poisonOffset (m : Memory) : List (Nat × Nat) → Option Nat
  | [] => none
  | (p, k) :: rest =>
    if m.poisoned p k then (List.range k).find? (fun i => m.poisoned (p + i) 1)
    else (m.poisonOffset rest).map (k + ·)

/-- The pieces form one run of physical addresses inside the vault of a core. -/
def piecesInVault (core : Nat) (ps : List (Nat × Nat)) : Bool := ps.all (fun p => inVault core p.1 p.2)

/-- The order of event kinds on one instruction: non-canonical, alignment, translation, access, then poison (R60). -/
def kindRank (k : Nat) : Nat := if k = 0x10 then 0 else if k = 0x12 then 1 else if k = 0x11 then 2 else if k = 0x13 then 3 else 4

/-- The event of a failed access. -/
def XFault.trap (f : XFault) (mask : Word) (a : Nat) : Trap :=
  { kind := f.kind, sub := f.sub, info := mask, addr := a, stage := f.stage, route := some f.owner }

/-! ## Regions, conflicts, releases (R84 to R94) -/

/-- The words an access of n bytes touches. -/
def wordsOf (a n : Nat) : List Nat := (List.range ((a % 4 + n + 3) / 4)).map (fun i => a / 4 * 4 + 4 * i)

/-- Conflict tracking covers the kind of memory: vaults, this package's HBM, other packages' memory (R84). -/
def tracked (a : Nat) : Bool := match backing a with
  | .host => false
  | .none => false
  | _ => true

/-- Conflict tracking covers a word: it leaves table words out (R294). -/
def State.tracks (s : State) (w : Nat) : Bool := tracked w && !s.onTablePage w 4

/-- An access to a word meets a range, one of the two a write. -/
def meetsRange (w : Nat) (write : Bool) (r : Nat × Nat × Bool) : Bool := decide (r.1 < w + 4 ∧ w < r.1 + r.2.1) && (write || r.2.2)

/-- The words of a command's region as a thread's access meets it: its ranges from issue, but for those that its write pointer has
released (R88, R230). -/
def Command.touches (c : Command) (w : Nat) (write : Bool) : Bool :=
  decide (c.state ≠ .done) && (c.region.any (meetsRange w write) || c.entries.any (fun e => e.ranges.any (meetsRange w write)))

/-- The same as another engine's access meets it: the entries of a chain that stand behind a wait are ordered by it (R257). -/
def Command.stands (c : Command) (w : Nat) (write : Bool) : Bool := decide (c.state ≠ .done) && c.region.any (meetsRange w write)

/-- A party a write happens before, its own group included (R82). -/
def PendingWrite.knownTo (p : PendingWrite) (id : Nat) : Bool := decide (p.gid = id) || p.known.contains id

/-- An access of a group to a tracked word meets another group's open region, or a pending write that does not happen before it
(R86, R91). -/
def State.meetsGroup (s : State) (g : Group) (w : Nat) (write : Bool) : Bool :=
  s.tracks w && (
    s.groups.any (fun h => decide (h.gid ≠ g.gid) && (h.writes.contains w || (write && h.reads.contains w))) ||
    s.pendingWrites.any (fun p => decide (p.word = w) && !p.knownTo g.gid))

/-- An access of a group to a tracked word conflicts (R86, R88). -/
def State.conflicts (s : State) (g : Group) (w : Nat) (write : Bool) : Bool :=
  s.meetsGroup g w write || (s.tracks w && s.commands.any (fun c => c.touches w write))

/-! ## Releases and acquires (R79, R81, R82) -/

/-- The party that a group is. -/
def State.party (s : State) (g : Group) : Party := { id := g.gid, team := g.team, cluster := ((s.teamOf g).map (·.cluster)).getD 0 }

/-- A scope that one party names covers another (R78); device and system scope cover every party of this package. -/
def Party.covers (scope : Nat) (p q : Party) : Bool :=
  match scope with
  | 0 => decide (p.id = q.id)
  | 1 => decide (p.team = q.team)
  | 2 => decide (p.cluster = q.cluster)
  | _ => true

/-- A release and an acquire of a scope synchronise: each scope covers both parties (R79). -/
def Release.reaches (r : Release) (p : Party) (scope : Nat) : Bool := r.owner.covers r.scope p && p.covers scope r.owner

/-- The write happens before all that the party does from now on. -/
def PendingWrite.learn (p : PendingWrite) (id : Nat) : PendingWrite := if p.knownTo id then p else { p with known := p.known ++ [id] }

def State.updPending (s : State) (f : PendingWrite → PendingWrite) : State := { s with pendingWrites := s.pendingWrites.map f }

/-- What happens before one party's present happens before another's: a command it issues, a group it lets go on (R81, R82). -/
def State.teach (s : State) (giver taker : Nat) : State := s.updPending (fun p => if p.knownTo giver then p.learn taker else p)

/-- Values that releases left at some places are overwritten, so no later access reads them. -/
def State.overwrite (s : State) (gone : Place → Bool) : State :=
  s.updPending (fun p => { p with released := p.released.filter (fun r => !gone r.place) })

/-- A release of all that happens before it, left at the places it writes (R81: a release is cumulative). -/
def State.publish (s : State) (owner : Party) (scope : Nat) (places : List Place) : State :=
  s.updPending (fun p => if p.knownTo owner.id then
    { p with released := p.released ++ places.map (fun l => { place := l, owner := owner, scope := scope }) } else p)

/-- An acquire of what the releases at the places it reads cover (R82). -/
def State.takeUp (s : State) (by_ : Party) (scope : Nat) (reads : Place → Bool) : State :=
  s.updPending (fun p => if p.released.any (fun r => reads r.place && r.reaches by_ scope) then p.learn by_.id else p)

/-- A plain access joins the group's open region; a soft boundary comes before one that would need a 257th line (R85, R90). -/
def State.record (s : State) (gid : Nat) (ws : List Nat) (write : Bool) : State :=
  let ws := ws.filter s.tracks
  match s.group? gid with
  | none => s
  | some g =>
    let lines := ((g.reads ++ g.writes ++ ws).map (· / 64)).eraseDups
    let s := if Config.regionLines < lines.length then s.softBoundary gid else s
    let s := if write then s.overwrite (ws.map Place.word).contains else s
    s.updGroup gid (fun g =>
      if write then { g with writes := ws.foldl (fun m w => NatSet.insert w m) g.writes }
      else { g with reads := ws.foldl (fun m w => NatSet.insert w m) g.reads })

/-- The write counts for the markers of the next system-scope release (R94). -/
def State.noteWrite (s : State) (gid phys : Nat) : State :=
  match backing phys with
  | .package k => s.updGroup gid (fun g => { g with written := g.written ||| (BitVec.ofNat 64 1 <<< k) })
  | _ => s

/-- At device and system scope every write to this package that happens before the release has performed first (R85). -/
def State.performAt (s : State) (gid scope : Nat) : State :=
  { s with pendingWrites := s.pendingWrites.filter (fun p => !(decide (3 ≤ scope) && p.pkg.isNone && p.knownTo gid)) }

/-- A release of a group at a scope, left at the places it writes: its region closes first (R85). -/
def State.release (s : State) (gid scope : Nat) (places : List Place) : State :=
  let s := (s.closeRegion gid).performAt gid scope
  match s.group? gid with
  | none => s
  | some g => s.publish (s.party g) scope places

/-- An acquire of a group at a scope, of the places it reads: its region closes first (R85). -/
def State.acquire (s : State) (gid scope : Nat) (reads : Place → Bool) : State :=
  let s := s.closeRegion gid
  match s.group? gid with
  | none => s
  | some g => s.takeUp (s.party g) scope reads

/-- A plain atomic is a synchronising access without a role of its own: a FENCE before it makes it a release of what that fence
covers, and one behind it makes an acquire of what it reads (R87). -/
def State.plainSync (s : State) (gid : Nat) (places : List Place) : State :=
  let s := s.closeRegion gid
  match s.group? gid with
  | none => s
  | some g => s.updPending (fun p =>
      { p with
        seen := p.seen ++ (p.released.filter (fun r => places.contains r.place)).map (fun r => (gid, r)),
        released := p.released.filter (fun r => !places.contains r.place) ++ (p.fenced.filter (fun f => decide (f.1 = gid))).flatMap
          (fun f => places.map (fun l => { place := l, owner := s.party g, scope := f.2 })) })

/-- The role that an ORD code gives an access that reads and writes its places (R80, R81). -/
def State.ordered (s : State) (gid order scope : Nat) (places : List Place) : State :=
  match order with
  | 0 => s.plainSync gid places
  | 1 => (s.acquire gid scope places.contains).overwrite places.contains
  | 2 => (s.overwrite places.contains).release gid scope places
  | _ => ((s.acquire gid scope places.contains).overwrite places.contains).release gid scope places

/-- FENCE at a scope: it acquires what plain atomics before it have read, and makes releases of those behind it (R87). -/
def State.fence (s : State) (gid scope : Nat) : State :=
  let s := (s.closeRegion gid).performAt gid scope
  match s.group? gid with
  | none => s
  | some g => s.updPending (fun p =>
      let p := if p.seen.any (fun e => decide (e.1 = gid) && e.2.reaches (s.party g) scope) then p.learn gid else p
      if p.knownTo gid then { p with fenced := p.fenced ++ [(gid, scope)] } else p)

/-- The packages whose markers a release at system scope must gather (R94). -/
def packagesOf (m : BitVec 64) : List Nat := (List.range 64).filter (fun k => m.getLsbD k)

/-- The paths to a package that stand (R352). -/
def State.pathsTo (s : State) (pkg : Nat) : List Nat := (s.fabric.paths.filter (fun p => decide (p.1 = pkg))).map (·.2)

/-- Markers go down every path to every package of a mask (R94), where each package has a path; without one they wait (R352). -/
def State.sendMarkers (s : State) (id : Nat) (m : BitVec 64) : Option State :=
  if s.markers.any (fun k => decide (k.1 = id)) ∨ (packagesOf m).any (fun k => (s.pathsTo k).isEmpty) then none
  else some { s with markers := s.markers ++ (packagesOf m).flatMap (fun k => (s.pathsTo k).map (fun p => (id, k, p))) }

/-- A release at system scope sends its markers first and performs once they are gathered (R94); narrower ones go on. -/
def Ctx.gathered (c : Ctx) (scope : Nat) (k : Verdict) : Verdict :=
  if scope ≠ 4 ∨ c.g.written = 0 then k
  else match c.s.sendMarkers c.g.gid c.g.written with
    | none => .stall
    | some s => .hold s

/-- A party of no group writes a word all the same, and charges the groups it meets (R393); a pending write that happens before
what the party does for a group is no conflict. -/
def State.charge (s : State) (ws : List Nat) (on : Option Nat) : State :=
  let pends (w gid : Nat) : Bool := s.pendingWrites.any (fun p => decide (p.word = w ∧ p.gid = gid) && !on.any p.knownTo)
  { s with groups := s.groups.map (fun g =>
      match ws.find? (fun w => s.tracks w && (g.reads.contains w || g.writes.contains w || pends w g.gid)) with
      | some w => if g.stop.isNone && !g.exited && g.charged.isNone then { g with charged := some w } else g
      | none => g) }

/-! ## Encryption of HBM lines (R378) -/

/-- Confidential mode (R350, R377): accesses of HBM through a root-stage range are enciphered. -/
def State.confidential (s : State) : Bool := s.ctl.straps.getLsbD 17

/-- The state of a key slot, 1 to 63 (R381). -/
def State.keySlot (s : State) (n : Nat) : KeySlot := (findKey s.security.keys n).getD .empty
def KeySlot.isLoaded : KeySlot → Bool
  | .loaded _ => true
  | _ => false

/-- The veil of a range of HBM that names a key (assumption log 10: the tweak is the range's own, and the newest veil over a byte counts). -/
def State.veilOf (s : State) (x : Inset) (r : RootRange) : Option Veil :=
  match s.keySlot r.key, backing (localPhys x r.base) with
  | .loaded k, .hbm => some { base := localPhys x r.base, size := r.length, key := k.toNat, tweak := r.tweak }
  | _, _ => none

/-- Ranges granted to an inset are enciphered from now on, what is stored in them standing as it is; ranges withdrawn are not (R378). -/
def State.veilRanges (s : State) (x : Inset) (rs : List RootRange) : State :=
  s.setMem { s.mem with veils := rs.filterMap (s.veilOf x) ++ s.mem.veils }
def State.unveilRanges (s : State) (x : Inset) (rs : List RootRange) : State :=
  s.setMem { s.mem with veils := (rs.filterMap (s.veilOf x)).foldl (fun vs v => vs.erase v) s.mem.veils }

end Sys2Proof.Machine
end

