-- ==== Sys2Proof/Machine/Records.lean ====
section
/-! DEFINITION. The eight words of a handler record (R338), the return of records from the queue of a freed team (R336), and the error log
(R373, R374). -/
namespace Sys2Proof.Machine

/-- The words of a record with its sequence number. -/
def Record.toWords (r : Record) (seq : Nat) : List Word :=
  [BitVec.ofNat 32 (r.kind * 2 ^ 24 + (if r.ack then 2 ^ 23 else 0) + r.sub % 16 * 2 ^ 16 + r.level % 8 * 2 ^ 12 + r.src % 4096),
   BitVec.ofNat 32 seq,
   BitVec.ofNat 32 (r.stage % 8 * 2 ^ 24 + r.grid % 2 ^ 24),
   BitVec.ofNat 32 (r.cluster % 2 ^ 20 * 2 ^ 12 + r.team % 16 * 2 ^ 8 + r.group % 32 * 8 + r.index % 8),
   r.evtag, r.info, BitVec.ofNat 32 r.addr, BitVec.ofNat 32 (r.addr / 2 ^ 32)]

/-- The record that eight words in the queue of an inset hold; what it acknowledges is not in the words, and the inset X to whose parent it
is addressed is given beside them (R300). -/
def Record.ofWords (ws : List Word) (inset : Nat) (x : Option Nat) : Record :=
  let w (i : Nat) : Nat := (ws.getD i 0).toNat
  { kind := w 0 / 2 ^ 24, ack := (ws.getD 0 0).getLsbD 23, sub := w 0 / 2 ^ 16 % 16, level := w 0 / 2 ^ 12 % 8, src := w 0 % 4096,
    stage := w 2 / 2 ^ 24 % 8, grid := w 2 % 2 ^ 24, cluster := w 3 / 2 ^ 12, team := w 3 / 2 ^ 8 % 16, group := w 3 / 8 % 32,
    index := w 3 % 8, evtag := ws.getD 4 0, info := ws.getD 5 0, addr := w 6 + 2 ^ 32 * w 7, route := x.getD inset,
    gid := none, op := none, seq := some (inset, w 1), atStart := false, dest := if x.isSome then none else some inset, awaits := false }

/-- The record an unpopped queue entry stands for: the outstanding one of its number, else the one its words hold. Its X is the inset on
the way from its source to the queue's inset that is a direct child of that (R300). -/
def State.recordBack (s : State) (inset : Nat) (ws : List Word) : Record :=
  match s.outstanding.find? (fun o => decide (o.inset = inset ∧ o.seq = (ws.getD 1 0).toNat)) with
  | some o => { o.record with seq := some (inset, o.seq) }
  | none => Record.ofWords ws inset (((s.ancestors ((ws.getD 0 0).toNat % 4096)).find? (fun y => decide (y.parent = inset))).map (·.id))

/-- The armed team of an inset is freed: its unpopped records return to the head of the event buffer, and the queue is no
longer armed (R336). -/
def State.disarmFreed (s : State) (t : Team) : State :=
  match s.insets.find? (fun x => decide (x.armed = some t.tid)) with
  | none => s
  | some x =>
    let back := ((t.port 2).entries.filter (fun ws => decide (ws.length = 8))).map (s.recordBack x.id)
    let nums := back.filterMap (fun r => r.seq.map (·.2))
    { s.updInset x.id (fun y => { y with armed := none }) with
      records := back ++ s.records,
      outstanding := s.outstanding.filter (fun o => !(decide (o.inset = x.id) && nums.contains o.seq)) }

/-! ## The error log (R373, R374) -/

/-- An error as a check finds it. -/
structure SoftError where
  array : Nat
  unit : Nat
  addr : Nat
  unc : Bool
  inset : Nat
  syndrome : Word
deriving DecidableEq, Repr

def logAddress (j : Nat) : Nat := Config.fleetBase + 0x1000 + 32 * (j % 1024)
/-- LOGWRITE (R365). -/
def State.logWrite (s : State) : Nat := (s.mem.word (Config.fleetBase + 0x100)).toNat

/-- The newest entry of the ring, where there is one. -/
def State.newestLog (s : State) : Option Nat :=
  let a := logAddress (s.logWrite + 1023)
  if s.mem.word (a + 4) = 0 then none else some a

/-- A detected error merges into the newest entry or takes the next one; the Security Core's own writes strike nothing. -/
def State.logError (s : State) (e : SoftError) : State :=
  let same (a : Nat) : Bool :=
    decide ((s.mem.word a).toNat / 2 ^ 28 = e.array ∧ (s.mem.word a).toNat / 2 ^ 20 % 2 ^ 8 = e.unit ∧ (s.mem.dword (a + 8)).toNat = e.addr)
  match s.newestLog.filter same with
  | some a => s.setMem (s.mem.putBytes (a + 4) (natBytes 4 (min 0xFFFFFFFF ((s.mem.word (a + 4)).toNat + 1))))
  | none =>
    let w := e.array * 2 ^ 28 + e.unit * 2 ^ 20 + (if e.unc then 2 ^ 19 else 0) + e.inset % 2 ^ 12
    let m := s.mem.putBytes (logAddress s.logWrite)
      (natBytes 4 w ++ natBytes 4 1 ++ natBytes 8 e.addr ++ natBytes 4 e.syndrome.toNat ++ natBytes 4 0 ++ natBytes 8 s.time)
    s.setMem (m.putBytes (Config.fleetBase + 0x100) (natBytes 4 (s.logWrite + 1)))

/-- An error on a link: its address is 0, and no inset is known to have met it; the number of the link and the syndrome are free. -/
def State.linkError (s : State) (array : Nat) (unc : Bool) (inset : Nat) : SoftError :=
  { array := array, unit := (Config.freeWord 7 s.oracle array).toNat % 256, addr := 0, unc := unc, inset := inset, syndrome := Config.freeWord 8 s.oracle array }

end Sys2Proof.Machine
end

