-- ==== Sys2Proof/Machine/Sync.lean ====
section
/-! DEFINITION. The Sync engines: atomic operations and buffers (R74 to R76, R183), barrier objects (R67, R68), tickets (R191),
barrier records (R187), the accesses that wait at a vault (R64, R65, R182), and the exit and freeing of groups and teams. -/
namespace Sys2Proof.Machine

/-! ## Atomic operations (R183) -/

/-- The new word of an atomic operation, by ATOM's codes; CAS compares with b and stores b1. -/
def atomicOp (code : Nat) (old b b1 : Word) : Word :=
  match code with
  | 0 => old + b
  | 1 => old - b
  | 2 => if old.slt b then old else b
  | 3 => if old.slt b then b else old
  | 4 => if old.ult b then old else b
  | 5 => if old.ult b then b else old
  | 6 => old &&& b
  | 7 => old ||| b
  | 8 => old ^^^ b
  | 9 => b
  | 10 => if old = b then b1 else old
  | 11 => toF32 ((f32 old).add (f32 b))
  | 12 => toF32 ((f32 old).minimum (f32 b))
  | _ => toF32 ((f32 old).maximum (f32 b))

/-- ATOM's code for an ARED code (R184, R138). -/
def aredCode (code : Nat) : Nat := [0, 2, 3, 4, 5, 6, 7, 8, 11, 12, 13].getD code 13

/-- One entry of a group drains: one indivisible access, which charges a conflict to the group it meets (R75, R393). DESIGN CHOICE
(assumption log 66): a word that has become poisoned since the ARED keeps its mark and takes no partial (R372). -/
def State.drainEntry (s : State) (gid : Nat) (e : AtomicEntry) : State :=
  let s := ((s.charge [e.phys] (some gid)).overwrite [Place.word e.phys].contains).noteWrite gid e.phys
  if s.mem.poisoned e.phys 4 then s
  else s.setMem (s.mem.putWord e.phys (atomicOp (aredCode e.op) (s.mem.word e.phys) e.sum 0))

/-- The groups of a team by scheduler, then logical slot (R75, R13). -/
def drainOrder (gs : List Group) : List Group :=
  (List.range 4).flatMap (fun k => (List.range 8).filterMap (fun j => gs.find? (fun g => decide (g.index = 4 * j + k))))

/-- Every entry of a team drains, the marks of the flush record fall, and each ARFLUSH of this flush point goes on to complete
(R75, R185). -/
def State.flushPoint (s : State) (tid : Nat) : State :=
  let gs := drainOrder (s.teamGroups tid)
  let drained (gid : Nat) : List Nat := (gs.filter (fun g => decide (g.gid = gid))).flatMap (fun g => g.atomics.map (·.phys))
  let s := (gs.flatMap (fun g => g.atomics.map (fun e => (g.gid, e)))).foldl (fun s e => s.drainEntry e.1 e.2) s
  { s with
    groups := s.groups.map (fun g => if g.team = tid then { g with atomics := [], overflow := 0, flushed := false } else g),
    ops := s.ops.map (fun o => if o.wait = .flushPoint ∧ gs.any (fun g => decide (g.gid = o.gid)) then { o with wait := .drained (drained o.gid) } else o) }

/-- A flush point is reached: every group of the team has flushed or exited (R75). -/
def State.checkFlush (s : State) (tid : Nat) : State :=
  let gs := s.teamGroups tid
  if gs.all (fun g => g.flushed || g.exited) && (gs.any (·.flushed) || gs.any (fun g => !g.atomics.isEmpty)) then s.flushPoint tid else s

/-! ## Barrier objects (R67 to R69) -/

def Memory.boErr (m : Memory) (a : Nat) : Bool := (m.word a).getLsbD 31
def Memory.boPosted (m : Memory) (a : Nat) : Bool := m.full (a + 4)
def boExpected (m : Memory) (a : Nat) : Int := (m.word (a + 4)).toInt
def boArrived (m : Memory) (a : Nat) : Int := (m.word (a + 8)).toInt

/-- PHASE rises by one, modulo 2^31, with the ERR bit given. -/
def nextPhase (w : Word) (err : Bool) : Word :=
  BitVec.ofNat 32 ((w.toNat % 2 ^ 31 + 1) % 2 ^ 31 + (if err then 2 ^ 31 else 0))

/-- The flip of R68. -/
def Memory.boFlip (m : Memory) (a : Nat) : Memory :=
  ((m.putWord a (nextPhase (m.word a) false)).putWord (a + 8) 0).setTag (a + 4) false

/-- Entry to the error phase; nothing in the error phase. -/
def Memory.boError (m : Memory) (a : Nat) (code : Word) : Memory :=
  if m.boErr a then m
  else ((m.putWord a (nextPhase (m.word a) true)).putWord (a + 12) code).setTag (a + 4) false

def Memory.boCheck (m : Memory) (a : Nat) : Memory :=
  if m.boPosted a && !m.boErr a && decide (boArrived m a = boExpected m a) then m.boFlip a else m

def Memory.boInit (m : Memory) (a : Nat) : Memory :=
  ((((((m.putWord a 0).putWord (a + 4) 0).putWord (a + 8) 0).putWord (a + 12) 0).setTag a true).setTag (a + 4) false).setTag (a + 8) true
    |>.setTag (a + 12) true

def Memory.boExpect (m : Memory) (a : Nat) (n : Word) : Memory :=
  if m.boErr a then m
  else if m.boPosted a then m.boError a 2
  else
    let m := (m.putWord (a + 4) n).setTag (a + 4) true
    if boArrived m a > n.toInt then m.boError a 1 else m.boCheck a

/-- An arrival of b bytes. A sum beyond 2^31 - 1 leaves ARRIVED as it was. -/
def Memory.boArrive (m : Memory) (a b : Nat) : Memory :=
  if m.boErr a then m
  else
    let sum := boArrived m a + (b : Int)
    if 2 ^ 31 ≤ sum then m.boError a 1
    else
      let m := m.putWord (a + 8) (BitVec.ofInt 32 sum)
      if m.boPosted a && decide (sum > boExpected m a) then m.boError a 1 else m.boCheck a

/-- The address of an object satisfies R67: aligned, in a vault-backed page. -/
def objectOk (align addr phys : Nat) : Bool := decide (addr % align = 0) && vaultBacked phys

/-! ## Tickets (R191) -/

/-- Notices whose ticket SERVING has reached leave for qev and are disarmed. -/
def State.ticketReached (s : State) (phys : Nat) : State :=
  let serving := s.mem.word (phys + 4)
  let hit := s.armedTickets.filter (fun t => decide (t.1 = phys ∧ t.2.1 = serving))
  let core := match backing phys with
    | .vault c => some c
    | _ => none
  hit.foldl (fun s t => s.toPortFrom core t.2.2 3 [BitVec.ofNat 32 (2 ^ 28 + t.2.1.toNat % 2 ^ 24)])
    { s with armedTickets := s.armedTickets.filter (fun t => !decide (t.1 = phys ∧ t.2.1 = serving)) }

/-- Words of the Sync engine of an object's vault that are armed or wait for room. -/
def State.ticketWords (s : State) (phys : Nat) : Nat :=
  (s.armedTickets.filter (fun t => decide (backing t.1 = backing phys))).length +
  (s.notices.filter (fun n => decide (n.source.isSome ∧ n.source.map (Backing.vault ·) = some (backing phys)))).length

/-! ## Accesses that wait at a vault (R64, R65, R182) -/

/-- The steps in which an operation that waits at a vault is served: one for each lane of a tagged access. -/
def Waiting.turns : Waiting → Nat
  | .tagged _ _ _ _ lanes => lanes.length
  | .bo _ _ _ => 1
  | .ticket _ _ _ => 1
  | .pointer _ _ _ => 1
  | .teamPhase _ => 1
  | .clusterPhase _ => 1
  | .flushPoint => 1
  | .drained _ => 2
  | _ => 0

/-- An access of the group has been issued and has not performed: its later accesses come after it, whichever run issues them
(R82, R176). -/
def State.unserved (s : State) (gid : Nat) : Bool :=
  s.ops.any (fun o => decide (o.gid = gid) && (match o.wait with
    | .flushPoint => false
    | .drained _ => false
    | .wide _ _ _ _ _ => true
    | w => decide (0 < w.turns)))

/-- The vaults whose tables an operation holds a place in (R182). DESIGN CHOICE (assumption log 67): an access whose lanes name
words of several vaults holds one place in each. -/
def State.waitVaults (s : State) (o : LongOp) : List Backing :=
  let g := s.group? o.gid
  match o.wait with
  | .tagged _ _ _ _ lanes => (lanes.map (fun l => backing l.address)).eraseDups
  | .bo a _ _ => [backing a]
  | .ticket a _ _ => [backing a]
  | .pointer a _ _ => [backing a]
  | .clusterPhase _ => [((g.bind s.clusterOf).map (fun c => Backing.vault (16 * c.ay + c.ax))).getD .none]
  | _ => [.vault ((g.map s.coreOf).getD 0)]

/-- The words of a tagged access, and its tags as one test (R63). -/
def tagWords (a size : Nat) : List Nat := if size = 8 then [a, a + 4] else [a]
def Memory.allFull (m : Memory) (a size : Nat) : Bool := (tagWords a size).all m.full
def Memory.allEmpty (m : Memory) (a size : Nat) : Bool := (tagWords a size).all (fun w => !m.full w)
def Memory.setTags (m : Memory) (a size : Nat) (full : Bool) : Memory := (tagWords a size).foldl (fun m w => m.setTag w full) m

/-- Kinds of R64 in the table's order: WAITFULL 0, TAKE 1, PEEKTAG 2, PUT 3, FILL 4, DRAIN 5. -/
def tagReady (m : Memory) (kind size : Nat) (l : TagLane) : Bool :=
  match kind with
  | 0 => m.allFull l.address size
  | 1 => m.allFull l.address size
  | 3 => m.allEmpty l.address size
  | _ => true

/-- The indivisible step of one lane: memory after it, and what the lane receives (R64, R181). -/
def tagStep (m : Memory) (kind size dst : Nat) (l : TagLane) : Memory × List RegWrite :=
  let data := ((List.range (size / 4)).map (fun i =>
    { lane := l.lane, reg := dst + i, mask := BitVec.allOnes 32, value := m.word (l.address + 4 * i), loses := false : RegWrite }))
  let stored := m.store l.address (natBytes size (l.lo.toNat + 2 ^ 32 * l.hi.toNat))
  match kind with
  | 0 => (m, data)
  | 1 => (m.setTags l.address size false, data)
  | 2 => (m, data ++ [{ lane := l.lane, reg := Config.predBase + 23, mask := 1, value := if m.allFull l.address size then 1 else 0, loses := false }])
  | 5 => (stored.setTags l.address size false, [])
  | _ => (stored.setTags l.address size true, [])

/-- The results of a wait that ends stand, and it waits no more. -/
def State.finishWait (s : State) (o : LongOp) (rs : List RegWrite) : State :=
  s.updOp o.id (fun o => { o with wait := .none, results := o.results ++ rs })

/-- An event that an issued operation meets after its issue: its group stops, and the operation is issued again on RESUME. The
record holds EVTAG as it stood at the issue (R44). -/
def State.lateTrap (s : State) (o : LongOp) (t : Trap) : State :=
  match s.group? o.gid with
  | none => s
  | some g =>
    if g.stop.isSome then s
    else
      (s.post { s.recordOf g o.index t true with evtag := o.evtag }).stopGroup o.gid
        { kind := t.kind, clauseStart := false, slot := none, after := true, run := (g.clause.map (·.run)).getD 0,
          index := o.index, length := (g.clause.map (·.header.len)).getD 1, late := some o.id }

/-- The group stands still at an event that this operation met after its issue. -/
def State.heldLate (s : State) (o : LongOp) : Bool := (s.group? o.gid).any (fun g => g.stop.any (fun st => decide (st.late = some o.id)))

/-- The party that an engine command is. -/
def State.commandParty (s : State) (c : Command) : Party := { id := c.id, team := c.team, cluster := ((s.team? c.team).map (·.cluster)).getD 0 }

/-- The command whose chain waits with an operation (R236). -/
def State.chainOf (s : State) (o : LongOp) : Option Command := s.commands.find? (fun c => decide (c.waiting = some o.id))

/-- A wait whose word carries poison ends in its event: no register receives poisoned data (R372). That of a chain stays, and
its engine meets the poison. -/
def State.servePoison (s : State) (o : LongOp) (a n : Nat) (k : Option State) : Option State :=
  if !s.mem.poisoned a n then k
  else if (s.chainOf o).isSome || (s.group? o.gid).any (fun g => g.stop.isSome) then none
  else some (s.lateTrap o { kind := 0x14, info := o.mask, addr := a })

/-- What an operation acquires as it is served: for its group, or for the command whose chain waits with it (R81, R235). -/
def State.opAcquires (s : State) (o : LongOp) (scope : Nat) (reads : Place → Bool) : State :=
  match s.chainOf o with
  | some c => s.takeUp (s.commandParty c) scope reads
  | none => s.acquire o.gid scope reads

/-- The role of a tagged access as its step performs (R64): what it acquires, or the release it leaves at its words. -/
def State.tagRole (s : State) (o : LongOp) (kind size scope : Nat) (l : TagLane) : State :=
  let places := (tagWords l.address size).map Place.word
  if 3 ≤ kind then
    let s := s.overwrite places.contains
    match s.chainOf o with
    | some c => s.publish (s.commandParty c) scope places
    | none => s.release o.gid scope places
  else if kind = 2 ∧ !s.mem.allFull l.address size then s
  else s.opAcquires o scope places.contains

/-- A barrier object's place in a phase that has ended. -/
def endedPhase (a : Nat) (now : Word) : Place → Bool
  | .object b ph => decide (b = a ∧ ph ≠ now)
  | _ => false

/-- ARFLUSH completes after the drain: a charged MOX comes first (R393), then it is a release of the drained values at device scope,
or at system scope, behind its markers, where one of them lies on another package (R75, R94). -/
def State.serveFlush (s : State) (o : LongOp) (ws : List Nat) : Option State :=
  match s.group? o.gid with
  | none => none
  | some g =>
    let far := ws.any (fun w => (packageOf w).isSome)
    if s.heldLate o then none
    else match (if g.stop.isNone && !g.exited then g.charged else none) with
    | some w => some (s.lateTrap o { kind := 0x18, sub := 4, info := o.mask, addr := w })
    | none =>
      if far && decide (g.written ≠ 0) then s.sendMarkers o.gid g.written
      else some ((s.finishWait o []).release o.gid (if far then 4 else 3) (ws.map .word))

/-- One waiting access is served where its condition holds; a lane of a tagged access at a time. -/
def State.serveOp (s : State) (o : LongOp) : Option State :=
  match o.wait, o.arrived with
  | .drained ws, _ => s.serveFlush o ws
  | _, false => none
  | .tagged kind size scope dst lanes, true =>
    match lanes.find? (tagReady s.mem kind size) with
    | none => none
    | some l =>
      let go : State :=
        let r := tagStep s.mem kind size dst l
        let rest := lanes.erase l
        ((s.tagRole o kind size scope l).setMem r.1).updOp o.id (fun o =>
          { o with wait := if rest.isEmpty then .none else .tagged kind size scope dst rest, results := o.results ++ r.2 })
      if kind < 3 then s.servePoison o l.address size (some go) else some go
  | .bo a last dst, true =>
    if s.mem.word a = last then none
    else s.servePoison o a 4 (some ((s.finishWait o [uniResult dst (s.mem.word a)]).opAcquires o 3 (endedPhase a (s.mem.word a))))
  | .ticket a turn dst, true =>
    let serving := s.mem.word (a + 4)
    if (serving - turn).toNat < 2 ^ 31 then
      let t := s.finishWait o [uniResult dst serving]
      s.servePoison o (a + 4) 4 (some (if serving = turn then t.acquire o.gid 3 [Place.word (a + 4)].contains else t))
    else none
  | .pointer a least dst, true =>
    let v := s.mem.dword a
    if least.ule v then
      s.servePoison o a 8 (some ((s.finishWait o [uniResult dst (v.truncate 32), uniResult (dst + 1) ((v >>> 32).truncate 32)]).opAcquires
        o 1 [Place.word a].contains))
    else none
  | .teamPhase p, true =>
    match (s.group? o.gid).bind s.teamOf with
    | some t =>
      if t.phase = p then none
      else some (((s.finishWait o []).acquire o.gid 1 [Place.team t.tid p].contains).updGroup o.gid
        (fun g => if g.pendTeam = some p then { g with pendTeam := none } else g))
    | none => none
  | .clusterPhase p, true =>
    match (s.group? o.gid).bind s.clusterOf with
    | some c =>
      if c.phase = p then none
      else some (((s.finishWait o []).acquire o.gid 2 [Place.cluster c.cid p].contains).updGroup o.gid
        (fun g => if g.pendCluster = some p then { g with pendCluster := none } else g))
    | none => none
  | _, true => none

def serveLoop : Nat → State → State
  | 0, s => s
  | fuel + 1, s =>
    match s.ops.findSome? s.serveOp with
    | none => s
    | some s' => serveLoop fuel s'

/-- Every waiting access whose condition has come true is served, in arrival order (R65). -/
def State.serve (s : State) : State := serveLoop (s.ops.foldl (fun n o => n + o.wait.turns) 0) s

/-- The next 8-byte part of a 16-byte access performs, with the access's role at its words (R179). -/
def State.widePart (s : State) (o : LongOp) (load : Bool) (order scope dst : Nat) (l : TagLane) (rest : List TagLane) : Option State :=
  let places := (tagWords l.address 8).map Place.word
  let d := dst + l.address / 8 % 2 * 2
  let data := [0, 1].map (fun i =>
    { lane := l.lane, reg := d + i, mask := BitVec.allOnes 32, value := s.mem.word (l.address + 4 * i), loses := false : RegWrite })
  let t := s.updOp o.id (fun o =>
    { o with wait := if rest.isEmpty then .none else .wide load order scope dst rest, results := if load then o.results ++ data else o.results })
  if load then s.servePoison o l.address 8 (some (if order = 0 then t else t.acquire o.gid scope places.contains))
  else
    let t := t.setMem (t.mem.store l.address (natBytes 8 (l.lo.toNat + 2 ^ 32 * l.hi.toNat)))
    some (if order = 0 then t else t.ordered o.gid order scope places).serve

/-! ## Barrier records (R187) -/

/-- A team barrier phase completes when every participant has arrived in it. -/
def State.checkTeamBarrier (s : State) (tid : Nat) : State :=
  match s.team? tid with
  | none => s
  | some t =>
    if !t.arrived.isEmpty && (s.teamGroups tid).all (fun g => g.exited || t.arrived.contains g.index) then
      s.updTeam tid (fun t => { t with phase := t.phase + 1, arrived := [] })
    else s

def State.checkClusterBarrier (s : State) (cid : Nat) : State :=
  match s.cluster? cid with
  | none => s
  | some c =>
    if !c.arrived.isEmpty && (s.clusterTeams cid).all (fun t => !t.away &&
        (s.teamGroups t.tid).all (fun g => g.exited || c.arrived.contains (t.index, g.index))) then
      s.updCluster cid (fun c => { c with phase := c.phase + 1, arrived := [] })
    else s

/-! ## The exit and the freeing of a group (R17, R29, R35) -/

/-- The image room of a team is free again (R312). -/
def State.dropImage (s : State) (t : Team) : State :=
  let x := (((s.cluster? t.cluster).bind (fun c => s.grid? c.grid)).map (·.inset)).getD 0
  s.updInset x (fun x => { x with images := x.images.filter (fun i => decide (t.imageSize = 0 ∨ i.1 ≠ t.image)) })

/-- A grid's teams, groups and clusters leave the state with it; no later grid acquires from its launch. -/
def State.dropGrid (s : State) (h : Nat) : State :=
  let cids := (s.gridClusters h).map (·.cid)
  let tids := (s.gridTeams h).map (·.tid)
  { s with grids := s.grids.filter (fun d => decide (d.handle ≠ h)), clusters := s.clusters.filter (fun c => decide (c.grid ≠ h)),
           teams := s.teams.filter (fun t => !cids.contains t.cluster),
           groups := s.groups.filter (fun g => !tids.contains g.team) }.overwrite (fun l => decide (l = Place.grid h))

/-- A grid that has completed leaves once its last team is freed (R29, R31). -/
def State.dropEnded (s : State) (h : Nat) : State :=
  if (s.grid? h).any (·.completed) && (s.gridTeams h).all (fun t => decide (t.residency = .freed ∧ t.missed = none)) then s.dropGrid h else s

/-- A team whose groups are all freed is freed: its ports, node table and records go with it. -/
def State.freeTeam (s : State) (tid : Nat) : State :=
  match s.team? tid with
  | none => s
  | some t =>
    if (s.teamGroups tid).all (·.freed) && decide (t.residency ≠ .freed) then
      ((((s.chargeTeam t).disarmFreed t).dropImage t).updTeam tid (fun t =>
        { t with residency := .freed, ports := [], tol := [], imageSize := 0 })).dropEnded (((s.cluster? t.cluster).map (·.grid)).getD 0)
    else s

/-- An exited group whose flags all read clear is freed. -/
def State.settle (s : State) (gid : Nat) : State :=
  match s.group? gid with
  | none => s
  | some g =>
    if g.exited && g.allClear && !g.freed then
      (((s.closeRegion gid).updGroup gid (fun g => { g with freed := true, clause := none, stop := none })).freeTeam g.team)
    else s

/-- What follows when a group's last lane has exited: its region closes, it leaves its barriers, its queues empty, its team may reach a
flush point, waits end, and it may be freed. -/
def State.groupExited (s : State) (gid : Nat) : State :=
  match s.group? gid with
  | none => s
  | some g =>
    if !g.exited then s
    else
      let t := s.team? g.team
      let tix := (t.map (·.index)).getD 0
      let cid := (t.map (·.cluster)).getD 0
      let s := (s.closeRegion gid).updGroup gid (fun g => { g with recv := g.recv.map (fun _ => []) })
      let s := s.updTeam g.team (fun t => { t with arrived := t.arrived.erase g.index })
      let s := s.updCluster cid (fun c => { c with arrived := c.arrived.erase (tix, g.index) })
      (((((s.checkTeamBarrier g.team).checkClusterBarrier cid).checkFlush g.team).serve).settle gid)

/-- Lanes exit: they leave every mask, which may complete, and every run (R23, R29). -/
def Group.exitLanes (g : Group) (m : Lanes) : Group :=
  let was := (List.range 8).filter (fun j => decide (g.rejoinMask j &&& m ≠ 0))
  let g := g.updLanes m (fun _ l => { l with exited := true, parked := none })
  let g := was.foldl Group.completeMask g
  { g with rejoin := g.rejoin.map (fun r => (r.1 &&& ~~~m, r.2)) }

end Sys2Proof.Machine
end

