-- ==== Sys2Proof/Machine/Control.lean ====
section
/-! DEFINITION. Uniform arithmetic (R194 to R198), branches and calls (R199 to R201), control and system forms (R202 to R205),
rejoin masks (R206) and the prefixes (R131 to R134). -/
namespace Sys2Proof.Machine

/-! ## Uniform arithmetic -/

def execUadd (d a b : BitVec 7) (s : State) : Host.Outcome State Fault Refusal := uniBin s d a b (· + ·)
def execUsub (d a b : BitVec 7) (s : State) : Host.Outcome State Fault Refusal := uniBin s d a b (· - ·)
def execUmul (d a b : BitVec 7) (s : State) : Host.Outcome State Fault Refusal := uniBin s d a b (· * ·)
def execUmulhu (d a b : BitVec 7) (s : State) : Host.Outcome State Fault Refusal :=
  uniBin s d a b (fun x y => BitVec.ofNat 32 (x.toNat * y.toNat / 2 ^ 32))
def execUaluUmin (d a b : BitVec 7) (s : State) : Host.Outcome State Fault Refusal := uniBin s d a b (fun x y => if x.ult y then x else y)
def execUaluUmax (d a b : BitVec 7) (s : State) : Host.Outcome State Fault Refusal := uniBin s d a b (fun x y => if x.ult y then y else x)
def execUaluAnd (d a b : BitVec 7) (s : State) : Host.Outcome State Fault Refusal := uniBin s d a b (· &&& ·)
def execUaluOr (d a b : BitVec 7) (s : State) : Host.Outcome State Fault Refusal := uniBin s d a b (· ||| ·)
def execUaluXor (d a b : BitVec 7) (s : State) : Host.Outcome State Fault Refusal := uniBin s d a b (· ^^^ ·)
def execUaluShl (d a b : BitVec 7) (s : State) : Host.Outcome State Fault Refusal := uniBin s d a b (fun x y => x <<< (y.toNat % 32))
def execUaluShr (d a b : BitVec 7) (s : State) : Host.Outcome State Fault Refusal := uniBin s d a b (fun x y => x >>> (y.toNat % 32))
def execUaluShra (d a b : BitVec 7) (s : State) : Host.Outcome State Fault Refusal :=
  uniBin s d a b (fun x y => x.sshiftRight (y.toNat % 32))

def execUaddi (d a : BitVec 7) (i : BitVec 11) (s : State) : Host.Outcome State Fault Refusal :=
  issue s false (fun c =>
    c.imm11 false i (fun v =>
      c.uses false [useUni a.toNat, useS d.toNat] (c.usrc (c.base false) a.toNat (fun s x => .done (c.writeS s d.toNat (x + v))))))

def execUmovi (d : BitVec 7) (i : BitVec 18) (s : State) : Host.Outcome State Fault Refusal :=
  issue s false (fun c =>
    c.imm18 false i (fun v => c.uses false [useS d.toNat] (.done (c.writeS (c.base false) d.toNat v))))

/-- UADDX and USUBX: pairs in, a pair out (R197). -/
def uniWide (s : State) (d a b : BitVec 7) (f : BitVec 64 → BitVec 64 → BitVec 64) : Host.Outcome State Fault Refusal :=
  issue s false (fun c =>
    c.uses false [useSPair a.toNat, useSPair b.toNat, useSPair d.toNat]
      (.done (c.writeSPair (c.base false) d.toNat (f (c.spair a.toNat) (c.spair b.toNat)))))

def execUaddx (d a b : BitVec 7) (s : State) : Host.Outcome State Fault Refusal := uniWide s d a b (· + ·)
def execUsubx (d a b : BitVec 7) (s : State) : Host.Outcome State Fault Refusal := uniWide s d a b (· - ·)

def execUmulw (d a b : BitVec 7) (s : State) : Host.Outcome State Fault Refusal :=
  issue s false (fun c =>
    c.uses false [useUni a.toNat, useUni b.toNat, useSPair d.toNat]
      (c.usrc (c.base false) a.toNat (fun s x => c.usrc s b.toNat (fun s y =>
        .done (c.writeSPair s d.toNat (x.setWidth 64 * y.setWidth 64))))))

def execUlea (d a b : BitVec 7) (sh : BitVec 2) (s : State) : Host.Outcome State Fault Refusal :=
  issue s false (fun c =>
    c.uses false [useSPair a.toNat, useUni b.toNat, useSPair d.toNat]
      (c.usrc (c.base false) b.toNat (fun s y =>
        .done (c.writeSPair s d.toNat (c.spair a.toNat + (y.signExtend 64 <<< sh.toNat))))))

def execUcmp (d a b : BitVec 7) (cc : BitVec 4) (s : State) : Host.Outcome State Fault Refusal :=
  issue s false (fun c =>
    c.uses false [useUni a.toNat, useUni b.toNat]
      (c.usrc (c.base false) a.toNat (fun s x => c.usrc s b.toNat (fun s y =>
        c.resultP s 1 d.toNat (fun _ => intCond cc.toNat x y)))))

def execUcmpi (d a : BitVec 7) (cc : BitVec 4) (i : BitVec 7) (s : State) : Host.Outcome State Fault Refusal :=
  issue s false (fun c =>
    c.uses false [useUni a.toNat]
      (c.usrc (c.base false) a.toNat (fun s x => c.resultP s 1 d.toNat (fun _ => intCond cc.toNat x (c.imm7 i)))))

/-! ## Branches and calls (R123, R130, R137, R199 to R201) -/

/-- The header a branch offset names, modulo 2^64 (R123). -/
def Clause.target (cl : Clause) (o : BitVec 18) : Nat := (BitVec.ofNat 64 cl.base + (o.signExtend 64 <<< 2)).toNat

/-- A target is refused where its word is no clause header; a fault on fetching it is left to the target's clause start. -/
def Ctx.checkTarget (c : Ctx) (lane : Bool) (t : Nat) (k : Verdict) : Verdict :=
  match c.s.access (((c.s.insetOf c.g).map (·.id)).getD 0) .x t 4 with
  | .error _ => k
  | .ok p => if (c.s.mem.word p).extractLsb' 25 7 = 0x7F#7 then k else c.illegalInstruction lane

/-- An indirect target must be canonical and aligned too (R201). -/
def Ctx.checkIndirect (c : Ctx) (t : Nat) (k : Verdict) : Verdict :=
  if 2 ^ 48 ≤ t ∨ t % 4 ≠ 0 then c.illegalInstruction false else c.checkTarget false t k

/-- The link of R201 in s14:s15. -/
def Ctx.writeLink (c : Ctx) (s : State) : State := c.writeSPair s 118 (BitVec.ofNat 64 c.cl.next)

/-- The run crosses a call or a return (R246). -/
def Ctx.crossCall (c : Ctx) (s : State) : State := s.updGroup c.g.gid (fun g => g.updLanes c.run (fun _ l => l.crossCall))

def execBra (p : BitVec 5) (m : BitVec 2) (o : BitVec 18) (s : State) : Host.Outcome State Fault Refusal :=
  issue s false (fun c =>
    let t := c.cl.target o
    c.checkTarget false t
      (if braTaken m.toNat c.run (fun l => p = 31 || c.readP l p.toNat) then .jump (c.base false) t c.run else .done (c.base false)))

/-- BRL: the only instruction that splits a run; each part is a new run with the source's deferred bit (R200). -/
def execBrl (p : BitVec 5) (o : BitVec 18) (s : State) : Host.Outcome State Fault Refusal :=
  issue s true (fun c =>
    let t := c.cl.target o
    let go := maskOf (fun l => c.act.getLsbD l && (p = 31 || c.readP l p.toNat))
    let rest := c.run &&& ~~~go
    c.checkTarget true t
      (if go = 0 then .done (c.base true)
      else if rest = 0 then .jump (c.base true) t c.run
      else
        let d := c.g.deferred c.cl.run
        .jump ((c.base true).updGroup c.g.gid (fun g => (g.splitRun go d).splitRun rest d)) t go))

def execCall (o : BitVec 18) (s : State) : Host.Outcome State Fault Refusal :=
  issue s false (fun c =>
    let t := c.cl.target o
    c.checkTarget false t (.jump (c.crossCall (c.writeLink (c.base false))) t c.run))

/-- RET and BRR: to the address a pair holds. -/
def uniJump (s : State) (a : BitVec 7) (link : Bool) : Host.Outcome State Fault Refusal :=
  issue s false (fun c =>
    c.uses false [useSPair a.toNat]
      (let t := (c.spair a.toNat).toNat
       c.checkIndirect t (.jump (c.crossCall (if link then c.writeLink (c.base false) else c.base false)) t c.run)))

def execRet (a : BitVec 7) (s : State) : Host.Outcome State Fault Refusal := uniJump s a false
def execBrr (a : BitVec 7) (s : State) : Host.Outcome State Fault Refusal := uniJump s a false
def execCallr (a : BitVec 7) (s : State) : Host.Outcome State Fault Refusal := uniJump s a true

/-! ## Control (R202) -/

def execNop (s : State) : Host.Outcome State Fault Refusal := issue s false (fun c => .done (c.base false))

/-- EXIT: the lanes leave, the word ends its clause, and what an exited group leaves behind follows. -/
def execExit (s : State) : Host.Outcome State Fault Refusal :=
  issue s false (fun c => .done (((c.base false).updGroup c.g.gid (fun g => g.exitLanes c.run)).groupExited c.g.gid))

def execYield (s : State) : Host.Outcome State Fault Refusal :=
  issue s false (fun c => .done ((c.base false).updGroup c.g.gid (fun g => g.setDeferred c.cl.run true)))

def execBrk (s : State) : Host.Outcome State Fault Refusal :=
  issue s false (fun c => .trapAfter { kind := 7, info := c.run, addr := c.cl.base })

def execTrap (a : BitVec 7) (s : State) : Host.Outcome State Fault Refusal :=
  issue s false (fun c =>
    c.uses false [useS a.toNat] (.trapAfter { kind := 8, info := c.readS (a.toNat - 104), addr := c.cl.base }))

/-! ## System forms (R44, R203 to R205) -/

/-- The model's number of a system register among the results of long operations. -/
def sysBase : Nat := 256

/-- The 64-bit system registers: the number of the low half, and the value. -/
def Ctx.sysWide (c : Ctx) (n : Nat) : Option (BitVec 64) :=
  let seed := ((c.s.gridOf c.g).map (·.launch.seed)).getD 0
  let stk := c.s.beside c.g.gid none (sysBase + 0x11) c.g.stkHi ++ c.s.beside c.g.gid none (sysBase + 0x10) c.g.stkLo
  match n with
  | 0x08 => some (BitVec.ofNat 64 c.cycle)
  | 0x0A => some (BitVec.ofNat 64 c.s.time)
  | 0x0C => some seed
  | 0x10 => some stk
  | _ => none

/-- The 32-bit system registers of R44; an unlisted number reads as zero. -/
def Ctx.sysWord (c : Ctx) (n : Nat) : Word :=
  let x := c.s.insetOf c.g
  let core := c.s.coreOf c.g
  let shape := (c.s.gridOf c.g).map (·.launch)
  let cl := c.s.clusterOf c.g
  match n with
  | 0x00 => BitVec.ofNat 32 (((c.s.gridOf c.g).map (·.handle)).getD 0)
  | 0x01 => BitVec.ofNat 32 ((x.map (·.level)).getD 0 * 2 ^ 12 + (x.map (·.id)).getD 0)
  | 0x02 => BitVec.ofNat 32 ((cl.map (·.ay)).getD 0 * 2 ^ 12 + (cl.map (·.ax)).getD 0 * 2 ^ 8 +
      (shape.map (·.height)).getD 0 * 2 ^ 4 + (shape.map (·.width)).getD 0)
  | 0x03 => BitVec.ofNat 32 (core % 16 / 8 * 2 ^ 8 + core / 16 * 2 ^ 4 + core % 16)
  | 0x04 => BitVec.ofNat 32 (c.g.tileQuota * 2 ^ 8 + c.g.quota)
  | 0x05 => c.run
  | 0x06 => c.g.exitMask
  | 0x12 => c.s.beside c.g.gid none (sysBase + 0x12) c.g.evtag
  | _ => 0

/-- SREAD: the value taken at issue, and the latch of high halves. -/
def Ctx.sysRead (c : Ctx) (n : Nat) : Word × List (Nat × Word) :=
  match c.sysWide n with
  | some v => (v.truncate 32, c.g.latch.filter (fun e => decide (e.1 ≠ n + 1)) ++ [(n + 1, (v >>> 32).truncate 32)])
  | none =>
    match (if n = 0 then none else c.sysWide (n - 1)) with
    | some v =>
      match findKey c.g.latch n with
      | some w => (w, c.g.latch.filter (fun e => decide (e.1 ≠ n)))
      | none => ((v >>> 32).truncate 32, c.g.latch)
    | none => (c.sysWord n, c.g.latch)

def execSread (d n : BitVec 7) (s : State) : Host.Outcome State Fault Refusal :=
  issue s false (fun c =>
    c.uses false [useS d.toNat]
      (let r := c.sysRead n.toNat
       c.long ((c.base false).updGroup c.g.gid (fun g => { g with latch := r.2 })) false false [uniResult d.toNat r.1] .none []))

/-- SWRITE: read-only and unlisted numbers ignore the write. -/
def execSwrite (a n : BitVec 7) (s : State) : Host.Outcome State Fault Refusal :=
  issue s false (fun c =>
    c.uses false [useUni a.toNat]
      (c.usrc (c.base false) a.toNat (fun s x =>
        c.long s false false (if n = 0x10 ∨ n = 0x11 ∨ n = 0x12 then [uniResult (sysBase + n.toNat) x] else []) .none [])))

/-- The register moves of a team under way: what the quota of a group will be after them (R204). -/
def State.quotaAfter (s : State) (g : Group) : Int :=
  s.ops.foldl (fun q o => match o.wait with
    | .quotaMove r m => (if o.gid = g.gid then q - 8 * (m : Int) else q) + (if r = g.gid then 8 * (m : Int) else 0)
    | _ => q) (g.quota : Int)

/-- The v registers that a long lane instruction names in its fields (R138): D, the A pair of an access, B, and as many registers as
a size names. A uniform instruction names v registers only in RDLANE and WRLANE. -/
def namedRegs (n : Nat) : List Nat :=
  let d := Decode.bits n 18 7
  let a := Decode.bits n 11 7
  let b := Decode.bits n 4 7
  let m := Decode.major n
  let run (f k : Nat) : List Nat := (List.range k).map (f + ·)
  let sized (z : Nat) : List Nat := run d (if z ≤ 2 then 1 else 2 ^ (z - 2))
  if m ∈ [26, 27, 28] then sized (Decode.bits n 8 3) ++ run a 2
  else if m ∈ [29, 30] then sized (2 + Decode.bits n 8 1) ++ run a 2
  else if m = 31 then d :: run a 2 ++ run b (if Decode.bits n 0 4 = 10 then 2 else 1)
  else if m = 32 then run a 2 ++ [b]
  else if m = 39 ∨ m = 40 then [d]
  else if m = 73 then (if Decode.bits n 0 4 = 3 then [a] else if Decode.bits n 0 4 = 4 then [d] else [])
  else if m < 64 then [d, a, b]
  else []

/-- An operation in flight of the group, but for its register moves, names a register from a number up (R16). -/
def State.namesFrom (s : State) (gid lo : Nat) : Bool :=
  s.ops.any (fun o => decide (o.gid = gid) && (namedRegs (o.words.headD 0).toNat).any (fun r => decide (lo ≤ r ∧ r < 104)))

def execRquota (a b : BitVec 7) (s : State) : Host.Outcome State Fault Refusal :=
  issue s false (fun c =>
    c.uses false [useUni a.toNat, useUni b.toNat]
      (c.usrc (c.base false) a.toNat (fun s x => c.usrc s b.toNat (fun s y =>
        match (s.teamGroups c.g.team).find? (fun h => decide (h.index = x.toNat)) with
        | none => c.illegalOperand false
        | some h =>
          let m := y.toNat
          let lo := s.quotaAfter c.g - 8 * (m : Int)
          if m = 0 ∨ h.gid = c.g.gid ∨ h.exited ∨ lo < 8 ∨ 104 < s.quotaAfter h + 8 * (m : Int) then c.illegalOperand false
          else if s.namesFrom c.g.gid lo.toNat then .stall
          else c.long s false false [] (.quotaMove h.gid m) []))))

/-- A lane's register in real time: short results whose latency has passed are seen (R205). -/
def Ctx.laneNow (c : Ctx) (k r : Nat) : Word :=
  let l := c.g.lane k
  let v := l.pend.foldl (fun v p => if p.reg = r ∧ p.cycle ≤ c.cycle then mergeBits v p.mask p.value else v) (l.reg r)
  c.s.beside c.g.gid (some k) r v

def execRdlane (d a b : BitVec 7) (s : State) : Host.Outcome State Fault Refusal :=
  issue s false (fun c =>
    c.uses false [useV c.g.quota a.toNat, useUni b.toNat, useS d.toNat]
      (c.usrc (c.base false) b.toNat (fun s y =>
        c.long s false false [uniResult d.toNat (c.laneNow (y.toNat % 32) a.toNat)] .none [])))

def execWrlane (d a b : BitVec 7) (s : State) : Host.Outcome State Fault Refusal :=
  issue s false (fun c =>
    c.uses false [useV c.g.quota d.toNat, useUni a.toNat, useUni b.toNat]
      (c.usrc (c.base false) a.toNat (fun s x => c.usrc s b.toNat (fun s y =>
        let k := y.toNat % 32
        let s := if (c.g.lane k).exited then s
          else (s.updGroup c.g.gid (fun g => g.updLane k (fun l => l.putNow d.toNat (BitVec.allOnes 32) x))).overtake c.g.gid (some k) d.toNat
        c.long s false false [] .none []))))

/-! ## Rejoin masks (R23, R206) -/

def execRjset (j : BitVec 7) (s : State) : Host.Outcome State Fault Refusal :=
  issue s false (fun c => .done ((c.base false).updGroup c.g.gid (fun g => g.setRejoin j.toNat (g.rejoinMask j.toNat ||| c.run) true)))

def execRjwait (j : BitVec 7) (s : State) : Host.Outcome State Fault Refusal :=
  issue s false (fun c => .done ((c.base false).updGroup c.g.gid (fun g =>
    if g.armed j.toNat then (g.updLanes c.run (fun _ l => { l with parked := some j.toNat })).completeMask j.toNat else g)))

def execRjclr (j : BitVec 7) (s : State) : Host.Outcome State Fault Refusal :=
  issue s false (fun c => .done ((c.base false).updGroup c.g.gid (fun g => g.setRejoin j.toNat 0 false)))

def execRjread (d j : BitVec 7) (s : State) : Host.Outcome State Fault Refusal :=
  issue s false (fun c => c.uses false [useS d.toNat] (.done (c.writeS (c.base false) d.toNat (c.g.rejoinMask j.toNat))))

/-! ## Prefixes (R131): no lane moves, the next word is met with the fields given -/

/-- A prefix joins the clause; it issues in the cycle of the word it modifies, and has no distance. -/
def prefixWord (s : State) (f : Clause → Clause) : Host.Outcome State Fault Refusal :=
  match s.issuer.bind s.group? with
  | none => .next s
  | some g =>
    match g.clause, g.stop with
    | some cl, none => .next (s.updGroup g.gid (fun g => { g with clause := some { f cl with index := cl.index + 1 } }))
    | _, _ => .next s

def execXimm (x : BitVec 25) (s : State) : Host.Outcome State Fault Refusal := prefixWord s (fun cl => { cl with ximm := some x })
def execXmod (a b : BitVec 7) (w : BitVec 2) (i : BitVec 3) (t : BitVec 2) (r : BitVec 3) (st : BitVec 1) (s : State) :
    Host.Outcome State Fault Refusal :=
  prefixWord s (fun cl => { cl with xmod := some { a := a, b := b, width := w, index := i, interp := t, round := r, sat := decide (st = 1) } })
def execXsco (sc : BitVec 3) (o : BitVec 2) (s : State) : Host.Outcome State Fault Refusal :=
  prefixWord s (fun cl => { cl with xsco := some (sc, o) })

end Sys2Proof.Machine
end

