-- ==== Sys2Proof/Machine/CrossLane.lean ====
section
/-! DEFINITION. The cross-lane instructions LPERM, LSENSE, LFOLD and SCAN (lane majors 33 to 36; R207 to R211). -/
namespace Sys2Proof.Machine

/-- The source lane of LPERM (R208). -/
def permLane (mode l k first : Nat) : Nat :=
  match mode with
  | 0 => k
  | 1 => (l + k) % 32
  | 2 => Nat.xor l k
  | _ => first

def execLperm (d a b : BitVec 7) (m : BitVec 4) (s : State) : Host.Outcome State Fault Refusal :=
  issue s true (fun c =>
    let q := c.g.quota
    let first := (lanesOf c.act).headD 0
    let usesB := if m.toNat = 3 then [] else [useNoPort q b.toNat]
    c.uses true ([useNoPort q a.toNat, useV q d.toNat] ++ usesB)
      (let src (r l : Nat) : Word := if r < 104 then c.readV l r else c.readS (r - 104)
       c.long (c.base true) false true (c.laneResults d.toNat (BitVec.allOnes 32) (fun l =>
         let j := permLane m.toNat l ((if m.toNat = 3 then 0 else src b.toNat l).toNat % 32) first
         src a.toNat (if c.act.getLsbD j then j else l))) .none []))

/-- LSENSE over predicates; PEERS over a register (R209). -/
def execLsense (d a : BitVec 7) (m : BitVec 4) (s : State) : Host.Outcome State Fault Refusal :=
  issue s true (fun c =>
    let q := c.g.quota
    let lanes := lanesOf c.act
    let set := maskOf (fun l => c.act.getLsbD l && c.readP l a.toNat)
    let toP (v : Bool) : List RegWrite := c.laneResults (Config.predBase + d.toNat) 1 (fun _ => if v then 1 else 0)
    match m.toNat with
    | 0 => c.long (c.base true) false true (toP (lanes.any (fun l => c.readP l a.toNat))) .none []
    | 1 => c.long (c.base true) false true (toP (lanes.all (fun l => c.readP l a.toNat))) .none []
    | 2 => c.uses true [useV q d.toNat] (c.long (c.base true) false true (c.laneResults d.toNat (BitVec.allOnes 32) (fun _ => set)) .none [])
    | 3 =>
      c.uses true [useNoPort q a.toNat, useV q d.toNat]
        (let v (l : Nat) : Word := if a.toNat < 104 then c.readV l a.toNat else c.readS (a.toNat - 104)
         c.long (c.base true) false true (c.laneResults d.toNat (BitVec.allOnes 32)
           (fun l => maskOf (fun k => c.act.getLsbD k && decide (v k = v l)))) .none [])
    | _ =>
      c.uses true [useV q d.toNat]
        (c.long (c.base true) false true
          (c.laneResults d.toNat (BitVec.allOnes 32) (fun _ => BitVec.ofNat 32 (lanes.filter (fun l => c.readP l a.toNat)).length)) .none []))

/-- One level of the tree of R59: neighbours combine, the lower position first; a single child passes on. -/
def foldPairs (f : Word → Word → Word) : List (Option Word) → List (Option Word)
  | some x :: some y :: rest => some (f x y) :: foldPairs f rest
  | some x :: none :: rest => some x :: foldPairs f rest
  | none :: y :: rest => y :: foldPairs f rest
  | rest => rest

/-- The tree over 32 positions: five levels. -/
def foldTree (f : Word → Word → Word) (xs : List (Option Word)) : Word :=
  ((foldPairs f (foldPairs f (foldPairs f (foldPairs f (foldPairs f xs))))).headD none).getD 0

/-- A NaN result is written as 0x7FC0_0000 (R210, R211). -/
def canonNan (w : Word) : Word := if (f32 w).isNan then 0x7FC00000 else w

def execLfold (d a : BitVec 7) (m : BitVec 4) (s : State) : Host.Outcome State Fault Refusal :=
  issue s true (fun c =>
    let q := c.g.quota
    c.uses true [useNoPort q a.toNat, useV q d.toNat]
      (let v (l : Nat) : Word := if a.toNat < 104 then c.readV l a.toNat else c.readS (a.toNat - 104)
       let t := foldTree (fun x y => atomicOp (aredCode m.toNat) x y 0) ((List.range 32).map (fun l => if c.act.getLsbD l then some (v l) else none))
       let r := if 8 ≤ m.toNat then canonNan t else t
       c.long (c.base true) false true (c.laneResults d.toNat (BitVec.allOnes 32) (fun _ => r)) .none []))

/-- The running sums of SCAN: for each lane the sum before it and the sum with it. -/
def scanSums (f : Word → Word → Word) (v : Nat → Word) : List Nat → Option Word → List (Nat × Option Word × Word)
  | [], _ => []
  | l :: rest, acc =>
    let sum := match acc with
      | none => v l
      | some x => f x (v l)
    (l, acc, sum) :: scanSums f v rest (some sum)

def execScan (d a : BitVec 7) (m : BitVec 4) (s : State) : Host.Outcome State Fault Refusal :=
  issue s true (fun c =>
    let q := c.g.quota
    c.uses true [useNoPort q a.toNat, useV q d.toNat]
      (let v (l : Nat) : Word := if a.toNat < 104 then c.readV l a.toNat else c.readS (a.toNat - 104)
       let float := decide (2 ≤ m.toNat)
       let sums := scanSums (fun x y => atomicOp (if float then 11 else 0) x y 0) v (lanesOf c.act) none
       let r (l : Nat) : Word := match sums.find? (fun e => decide (e.1 = l)) with
         | some e => let w := if m.toNat % 2 = 0 then e.2.2 else e.2.1.getD 0
                     if float then canonNan w else w
         | none => 0
       c.long (c.base true) false true (c.laneResults d.toNat (BitVec.allOnes 32) r) .none []))

end Sys2Proof.Machine
end

