-- ==== Sys2Proof/Machine/Memory.lean ====
section
/-! DEFINITION. Loads, stores, tagged accesses and atomics (lane majors 26 to 32, uniform majors 32 to 34; R176 to R184). -/
namespace Sys2Proof.Machine

/-! ## One instruction's accesses -/

/-- One lane's access: its lane, inset address and physical address. -/
structure Access where
  lane : Nat
  address : Nat
  phys : Nat
deriving DecidableEq, Repr

/-- The inset of the issuing group. -/
def Ctx.insetId (c : Ctx) : Nat := ((c.s.insetOf c.g).map (·.id)).getD 0

/-- The lanes an access performs in: the active lanes, or the lowest lane of the run for a uniform instruction. -/
def Ctx.accessLanes (c : Ctx) (lane : Bool) : List Nat := if lane then lanesOf c.act else (lanesOf c.run).take 1

/-- The lanes a failure names: those that failed, or the run of a uniform instruction (R339). -/
def Ctx.failMask (c : Ctx) (lane : Bool) (ls : List Nat) : Lanes := if lane then maskOf (fun l => ls.contains l) else c.run

/-- The address checks of every lane (R60): the kind that comes first among all lanes is raised, for the lanes of that kind. -/
def Ctx.checkAccess (c : Ctx) (lane : Bool) (needs : List Acc) (n : Nat) (addrs : List (Nat × Nat)) (k : List Access → Verdict) : Verdict :=
  let rs := addrs.map (fun e => (e, c.s.accessAll c.insetId needs e.2 n))
  let bad := rs.filterMap (fun r => match r.2 with
    | .error f => some (r.1, f)
    | .ok _ => none)
  match bad with
  | [] => k (rs.filterMap (fun r => match r.2 with
    | .ok p => some { lane := r.1.1, address := r.1.2, phys := p : Access }
    | .error _ => none))
  | b :: _ =>
    let rank := bad.foldl (fun m e => min m (kindRank e.2.kind)) (kindRank b.2.kind)
    let worst := bad.filter (fun e => decide (kindRank e.2.kind = rank))
    let first := worst.headD b
    .trap (first.2.trap (c.failMask lane (worst.map (·.1.1))) first.1.2)

/-- An event for the lanes whose access satisfies a test. -/
def Ctx.refuseWhere (c : Ctx) (lane : Bool) (kind sub : Nat) (as : List Access) (p : Access → Bool) (k : Verdict) : Verdict :=
  match as.filter p with
  | [] => k
  | a :: rest => .trap { kind := kind, sub := sub, info := c.failMask lane ((a :: rest).map (·.lane)), addr := a.address }

/-- Reads of data marked uncorrectable (R177, R372). -/
def Ctx.checkPoison (c : Ctx) (lane : Bool) (n : Nat) (as : List Access) (k : Verdict) : Verdict :=
  c.refuseWhere lane 0x14 0 as (fun a => c.s.mem.poisoned a.phys n) k

/-- MOX where an access conflicts (R86, R89); its address is the word's physical one. -/
def Ctx.checkConflict (c : Ctx) (lane : Bool) (sub n : Nat) (write : Bool) (as : List Access) (k : Verdict) : Verdict :=
  let hit (a : Access) : Bool := (wordsOf a.phys n).any (fun w => c.s.conflicts c.g w write)
  match as.filter hit with
  | [] => k
  | a :: rest =>
    .trap { kind := 0x18, sub := sub, info := c.failMask lane ((a :: rest).map (·.lane)),
            addr := ((wordsOf a.phys n).find? (fun w => c.s.conflicts c.g w write)).getD a.phys }

/-- Waiting before an access: a charged MOX comes first, earlier accesses of the group perform first, paths must exist. -/
def Ctx.ready (c : Ctx) (as : List Access) (k : Verdict) : Verdict :=
  c.charged (if c.s.unserved c.g.gid then .stall else if as.any (fun a => c.s.unreachable a.phys) then .stall else k)

/-- The 64-bit address pair of a lane or uniform instruction. -/
def Ctx.address (c : Ctx) (a l : Nat) : Nat := (c.pair a l).toNat

def useAddr (lane : Bool) (q a : Nat) : Use := if lane then usePair q a else useSPair a

/-- Registers that a size names (R178). -/
def sizeRegs (z : Nat) : Nat := if z ≤ 2 then 1 else 2 ^ (z - 2)

/-- The register group of a size: an aligned group of v registers, of s registers, or, for the data of a lane store, of either. -/
def useGroup (lane dest : Bool) (q f z : Nat) : Use :=
  let n := sizeRegs z
  if lane then (if dest ∨ isV f then useVs q f n else useSs f n) else useSs f n

/-- A register of a lane, or an s register. -/
def Ctx.reg (c : Ctx) (l f : Nat) : Word := if f < 104 then c.readV l f else c.readS (f - 104)

/-- The bytes a store of a size writes (R178). -/
def Ctx.storeData (c : Ctx) (l f z : Nat) : List Byte :=
  ((List.range (sizeRegs z)).flatMap (fun i => natBytes 4 (c.reg l (f + i)).toNat)).take (2 ^ z)

/-- The registers a load of a size writes: word i of the loaded bytes, zero-extended (R178). -/
def loadResults (lane : Bool) (m : Memory) (z : Nat) (a : Access) (f : Nat) : List RegWrite :=
  (List.range (sizeRegs z)).map (fun i =>
    { lane := if lane then some a.lane else none, reg := f + i, mask := BitVec.allOnes 32,
      value := BitVec.ofNat 32 (m.nat (a.phys + 4 * i) (min 4 (2 ^ z))), loses := false })

/-- Words written on other packages are noted for the next system-scope release (R94). -/
def State.touchWrites (s : State) (gid : Nat) (as : List Access) : State := as.foldl (fun s a => s.noteWrite gid a.phys) s

/-- The words of accesses of n bytes, as places of releases and acquires. -/
def accessPlaces (as : List Access) (n : Nat) : List Place := (as.flatMap (fun x => wordsOf x.phys n)).map Place.word

/-- The two 8-byte parts of each lane's 16-byte access, low half first; the data of a store, the order of the lanes (R179). -/
def Ctx.wideParts (c : Ctx) (lane : Bool) (f : Nat) (as : List Access) : List TagLane :=
  as.flatMap (fun x => [0, 1].map (fun i =>
    { lane := if lane then some x.lane else none, vaddr := x.address + 8 * i, address := x.phys + 8 * i,
      lo := c.reg x.lane (f + 2 * i), hi := c.reg x.lane (f + 2 * i + 1) }))

/-- What a 16-byte access waits for: its parts, of which other parties' accesses may fall between any two (R179). -/
def Ctx.wideWait (c : Ctx) (lane load : Bool) (order scope f : Nat) (as : List Access) : Waiting :=
  if as.isEmpty then .none else .wide load order scope f (c.wideParts lane f as)

/-! ## LD, ST, ULD, UST, LDNR (R178 to R180) -/

/-- A load: order plain (0) or acquire (1) at a scope. -/
def loadForm (s : State) (lane : Bool) (d a : BitVec 7) (z o k : Nat) : Host.Outcome State Fault Refusal :=
  issue s lane (fun c =>
    let q := c.g.quota
    if o = 2 ∨ o = 3 then c.illegalOperand lane
    else
      c.uses lane [useAddr lane q a.toNat, useGroup lane true q d.toNat z]
        (c.checkAccess lane [.r] (2 ^ z) ((c.accessLanes lane).map (fun l => (l, c.address a.toNat l))) (fun as =>
          c.checkPoison lane (2 ^ z) as (c.ready as
            (c.checkConflict lane (if o = 0 then 0 else 2) (2 ^ z) false as
              (let s := if o = 0 then (c.base lane).record c.g.gid (as.flatMap (fun x => wordsOf x.phys (2 ^ z))) false
                        else (c.base lane).acquire c.g.gid k (accessPlaces as (2 ^ z)).contains
               if z = 4 then c.long s false lane [] (c.wideWait lane true o k d.toNat as) []
               else c.long s false lane (as.flatMap (fun x => loadResults lane c.s.mem z x d.toNat)) .none []))))))

/-- A store: order plain (0) or release (2). -/
def storeForm (s : State) (lane : Bool) (d a : BitVec 7) (z o k : Nat) : Host.Outcome State Fault Refusal :=
  issue s lane (fun c =>
    let q := c.g.quota
    if o = 1 ∨ o = 3 then c.illegalOperand lane
    else
      c.uses lane [useAddr lane q a.toNat, useGroup lane false q d.toNat z]
        (c.checkAccess lane [.w] (2 ^ z) ((c.accessLanes lane).map (fun l => (l, c.address a.toNat l))) (fun as =>
          c.ready as
            (c.checkConflict lane (if o = 0 then 1 else 2) (2 ^ z) true as
              (let go : Verdict :=
                let s := if o = 0 then (c.base lane).record c.g.gid (as.flatMap (fun x => wordsOf x.phys (2 ^ z))) true
                         else if z = 4 then (c.base lane).closeRegion c.g.gid
                         else (c.base lane).ordered c.g.gid o k (accessPlaces as (2 ^ z))
                if z = 4 then c.long (s.touchWrites c.g.gid as) false lane [] (c.wideWait lane false o k d.toNat as) []
                else
                  let m := as.foldl (fun m x => m.store x.phys (c.storeData x.lane d.toNat z)) s.mem
                  c.long (((s.setMem m).touchWrites c.g.gid as).serve) false lane [] .none []
               if o = 0 then go else c.gathered k go)))))

def execLd (d a : BitVec 7) (z : BitVec 3) (o : BitVec 2) (k : BitVec 3) (s : State) : Host.Outcome State Fault Refusal :=
  loadForm s true d a z.toNat o.toNat k.toNat
def execSt (d a : BitVec 7) (z : BitVec 3) (o : BitVec 2) (k : BitVec 3) (s : State) : Host.Outcome State Fault Refusal :=
  storeForm s true d a z.toNat o.toNat k.toNat
def execUld (d a : BitVec 7) (z : BitVec 3) (o : BitVec 2) (k : BitVec 3) (s : State) : Host.Outcome State Fault Refusal :=
  loadForm s false d a z.toNat o.toNat k.toNat
def execUst (d a : BitVec 7) (z : BitVec 3) (o : BitVec 2) (k : BitVec 3) (s : State) : Host.Outcome State Fault Refusal :=
  storeForm s false d a z.toNat o.toNat k.toNat

/-- Where a lane of LDNR finds its data resident, its physical address (R180). -/
def Ctx.resident (c : Ctx) (n a : Nat) : Option Nat :=
  match c.s.access c.insetId .r a n with
  | .ok p => if c.s.mem.poisoned p n then none else some p
  | .error _ => none

def execLdnr (d a : BitVec 7) (z : BitVec 3) (o : BitVec 2) (k p : BitVec 3) (s : State) : Host.Outcome State Fault Refusal :=
  issue s true (fun c =>
    let q := c.g.quota
    let n := 2 ^ z.toNat
    let addrs := (lanesOf c.act).map (fun l => (l, c.address a.toNat l))
    if o = 2 ∨ o = 3 then c.illegalOperand true
    else
      c.uses true [useAddr true q a.toNat, useGroup true true q d.toNat z.toNat]
        (match addrs.filter (fun e => decide (e.2 % n ≠ 0)) with
         | e :: rest => .trap { kind := 0x12, info := c.failMask true ((e :: rest).map (·.1)), addr := e.2 }
         | [] =>
           let as := addrs.filterMap (fun e => (c.resident n e.2).map (fun ph => { lane := e.1, address := e.2, phys := ph : Access }))
           c.ready as
             (let s := if o = 0 then (c.base true).record c.g.gid (as.flatMap (fun x => wordsOf x.phys n)) false
                       else (c.base true).acquire c.g.gid k.toNat (accessPlaces as n).contains
              let miss := addrs.filter (fun e => !as.any (fun x => decide (x.lane = e.1)))
              let results := as.flatMap (fun x => (if z = 4 then [] else loadResults true c.s.mem z.toNat x d.toNat) ++
                  [{ lane := some x.lane, reg := Config.predBase + p.toNat, mask := 1, value := 1, loses := false }]) ++
                miss.flatMap (fun e => (List.range (sizeRegs z.toNat)).map (fun i =>
                  { lane := some e.1, reg := d.toNat + i, mask := BitVec.allOnes 32, value := 0, loses := false : RegWrite }) ++
                  [{ lane := some e.1, reg := Config.predBase + p.toNat, mask := 1, value := 0, loses := false }])
              c.long s false true results (if z = 4 then c.wideWait true true o.toNat k.toNat d.toNat as else .none) [])))

/-! ## LDT, STT (R63 to R66, R181) -/

/-- A tagged access of one of R64's kinds: checked at issue, performed after its arrival at the vault, and its role with it; but for
LDT.PEEKTAG, which may have none, its region closes at issue. -/
def tagForm (s : State) (kind : Nat) (d a : BitVec 7) (z : BitVec 1) (k : BitVec 3) : Host.Outcome State Fault Refusal :=
  issue s true (fun c =>
    let q := c.g.quota
    let load := decide (kind < 3)
    let zz := z.toNat + 2
    let n := 2 ^ zz
    c.uses true [useAddr true q a.toNat, useGroup true load q d.toNat zz]
      (c.checkAccess true [if load then .r else .w] n ((lanesOf c.act).map (fun l => (l, c.address a.toNat l))) (fun as =>
        c.refuseWhere true 0x15 0 as (fun x => !vaultBacked x.phys) (c.ready as
          (let go : Verdict :=
             let lanes : List TagLane := as.map (fun x =>
               { lane := some x.lane, vaddr := x.address, address := x.phys,
                 lo := if load then 0 else c.reg x.lane d.toNat,
                 hi := if load ∨ z = 0 then 0 else c.reg x.lane (d.toNat + 1) })
             let s := if kind = 2 then c.base true else (c.base true).closeRegion c.g.gid
             c.long (if load then s else s.touchWrites c.g.gid as) false true []
               (if lanes.isEmpty then .none else .tagged kind n k.toNat d.toNat lanes) []
           if load then go else c.gathered k.toNat go)))))

def execLdtWaitfull (d a : BitVec 7) (z : BitVec 1) (k : BitVec 3) (s : State) : Host.Outcome State Fault Refusal := tagForm s 0 d a z k
def execLdtTake (d a : BitVec 7) (z : BitVec 1) (k : BitVec 3) (s : State) : Host.Outcome State Fault Refusal := tagForm s 1 d a z k
def execLdtPeektag (d a : BitVec 7) (z : BitVec 1) (k : BitVec 3) (s : State) : Host.Outcome State Fault Refusal := tagForm s 2 d a z k
def execSttPut (d a : BitVec 7) (z : BitVec 1) (k : BitVec 3) (s : State) : Host.Outcome State Fault Refusal := tagForm s 3 d a z k
def execSttFill (d a : BitVec 7) (z : BitVec 1) (k : BitVec 3) (s : State) : Host.Outcome State Fault Refusal := tagForm s 4 d a z k
def execSttDrain (d a : BitVec 7) (z : BitVec 1) (k : BitVec 3) (s : State) : Host.Outcome State Fault Refusal := tagForm s 5 d a z k

/-! ## ATOM, UATOM (R183) -/

/-- The order and scope of XSCO, acq_rel at device scope without it (R80, R183). -/
def Ctx.xscoOrder (c : Ctx) : Nat × Nat :=
  match c.cl.xsco with
  | none => (3, 3)
  | some (sc, o) => (o.toNat, sc.toNat)

/-- The lanes perform in ascending position; each receives the word's old value. -/
def atomLanes (c : Ctx) (lane : Bool) (d b op : Nat) : List Access → Memory → List RegWrite → Memory × List RegWrite
  | [], m, rs => (m, rs)
  | x :: rest, m, rs =>
    let old := m.word x.phys
    let m' := m.putWord x.phys (atomicOp op old (c.reg x.lane b) (if op = 10 then c.reg x.lane (b + 1) else 0))
    atomLanes c lane d b op rest m'
      (rs ++ [{ lane := if lane then some x.lane else none, reg := d, mask := BitVec.allOnes 32, value := old, loses := false }])

/-- The B field: a register, a pair of consecutive registers for CAS. -/
def useAtomB (lane : Bool) (q b op : Nat) : Use :=
  if lane then (if op = 10 then usePair q b else useNoPort q b) else (if op = 10 then useSPair b else useS b)

def atomForm (s : State) (lane : Bool) (d a b : BitVec 7) (op : BitVec 4) : Host.Outcome State Fault Refusal :=
  issue s lane (fun c =>
    let q := c.g.quota
    let o := c.xscoOrder
    c.uses lane [useAddr lane q a.toNat, useAtomB lane q b.toNat op.toNat, useGroup lane true q d.toNat 2]
      (c.checkAccess lane [.r, .w] 4 ((c.accessLanes lane).map (fun l => (l, c.address a.toNat l))) (fun as =>
        c.refuseWhere lane 0x13 1 as (fun x => decide (backing x.phys = .host)) (c.checkPoison lane 4 as (c.ready as
          (c.checkConflict lane 2 4 true as
            (let go : Verdict :=
               let s := (c.base lane).ordered c.g.gid o.1 o.2 (accessPlaces as 4)
               let r := atomLanes c lane d.toNat b.toNat op.toNat as s.mem []
               c.long (((s.setMem r.1).touchWrites c.g.gid as).serve) false lane r.2 .none []
             if 2 ≤ o.1 then c.gathered o.2 go else go)))))))

def execAtom (d a b : BitVec 7) (o : BitVec 4) (s : State) : Host.Outcome State Fault Refusal := atomForm s true d a b o
def execUatom (d a b : BitVec 7) (o : BitVec 4) (s : State) : Host.Outcome State Fault Refusal := atomForm s false d a b o

/-! ## ARED (R74, R76, R184) -/

/-- The oldest entry drains early and counts (R76). -/
def State.drainOldest (s : State) (gid : Nat) : State :=
  match s.group? gid with
  | none => s
  | some g =>
    match g.atomics with
    | [] => s
    | e :: rest => (s.drainEntry gid e).updGroup gid (fun g => { g with atomics := rest, overflow := min 0xFFFFFF (g.overflow + 1) })

/-- One lane's contribution: combined into its entry, or a new entry, for which the oldest drains where 32 are held. -/
def State.contribute (s : State) (gid op : Nat) (x : Access) (v : Word) : State :=
  match s.group? gid with
  | none => s
  | some g =>
    if g.atomics.any (fun e => decide (e.address = x.address ∧ e.op = op)) then
      s.updGroup gid (fun g => { g with atomics := g.atomics.map (fun e =>
        if e.address = x.address ∧ e.op = op then { e with sum := atomicOp (aredCode op) e.sum v 0 } else e) })
    else
      let s := if 32 ≤ g.atomics.length then s.drainOldest gid else s
      s.updGroup gid (fun g => { g with atomics := g.atomics ++ [{ address := x.address, op := op, phys := x.phys, sum := v }] })

/-- The new keys of an ARED, in lane order. -/
def newKeys (g : Group) (op : Nat) (as : List Access) : Nat :=
  ((as.map (·.address)).eraseDups.filter (fun a => !g.atomics.any (fun e => decide (e.address = a ∧ e.op = op)))).length

/-- Before it contributes, an ARED short of entries drains as many of the oldest as it needs (R76). -/
def State.makeRoom (s : State) (gid : Nat) : Nat → State
  | 0 => s
  | n + 1 => (s.drainOldest gid).makeRoom gid n

def execAred (a b : BitVec 7) (o : BitVec 4) (s : State) : Host.Outcome State Fault Refusal :=
  issue s true (fun c =>
    let q := c.g.quota
    c.uses true [useAddr true q a.toNat, useNoPort q b.toNat]
      (c.checkAccess true [.r, .w] 4 ((lanesOf c.act).map (fun l => (l, c.address a.toNat l))) (fun as =>
        c.refuseWhere true 0x13 1 as (fun x => decide (backing x.phys = .host)) (c.checkPoison true 4 as
          (let short := (c.g.atomics.length + newKeys c.g o.toNat as) - 32
           let s := (c.base true).makeRoom c.g.gid (min short c.g.atomics.length)
           let s := as.foldl (fun s x => s.contribute c.g.gid o.toNat x (c.reg x.lane b.toNat)) s
           c.long s.serve false true [] .none [])))))

end Sys2Proof.Machine
end

