-- ==== Sys2Proof/Machine/Barrier.lean ====
section
/-! DEFINITION. Fences, barriers, atomic-buffer flushes, barrier objects, write pointers, tickets and deques (uniform majors 11 to
17; R185 to R193). -/
namespace Sys2Proof.Machine

/-! ## FENCE (R87, R186) -/

/-- FENCE performs as the group's earlier accesses have performed at its scope. -/
def execFence (k : BitVec 4) (s : State) : Host.Outcome State Fault Refusal :=
  issue s false (fun c =>
    c.charged (if c.s.unserved c.g.gid then .stall
      else c.gathered k.toNat (c.long ((c.base false).fence c.g.gid k.toNat) false false [] .none [])))

/-! ## Barriers (R187) -/

/-- A group's arrival in the current phase of its team's or cluster's barrier. -/
def State.arriveTeam (s : State) (g : Group) : State :=
  let ph := ((s.team? g.team).map (·.phase)).getD 0
  let s := s.updGroup g.gid (fun h => { h with pendTeam := some ph })
  (s.updTeam g.team (fun t => { t with arrived := t.arrived ++ [g.index] })).checkTeamBarrier g.team

def State.arriveCluster (s : State) (g : Group) : State :=
  let cid := ((s.team? g.team).map (·.cluster)).getD 0
  let tix := ((s.team? g.team).map (·.index)).getD 0
  let ph := ((s.cluster? cid).map (·.phase)).getD 0
  let s := s.updGroup g.gid (fun h => { h with pendCluster := some ph })
  (s.updCluster cid (fun c => { c with arrived := c.arrived ++ [(tix, g.index)] })).checkClusterBarrier cid

/-- The forms of BAR: arrive, wait, or both. An arrival while one is pending is an illegal operand; a wait without one acquires
nothing (R187). -/
def barForm (s : State) (cluster arrive wait : Bool) : Host.Outcome State Fault Refusal :=
  issue s false (fun c =>
    let pending := if cluster then c.g.pendCluster else c.g.pendTeam
    if arrive && pending.isSome then c.illegalOperand false
    else c.charged (if c.s.unserved c.g.gid then .stall
      else
        let cid := ((c.s.clusterOf c.g).map (·.cid)).getD 0
        let phase := if arrive then
            some (if cluster then ((c.s.clusterOf c.g).map (·.phase)).getD 0 else ((c.s.teamOf c.g).map (·.phase)).getD 0)
          else pending
        let b := match arrive, phase with
          | true, some p => (c.base false).release c.g.gid (if cluster then 2 else 1) [if cluster then .cluster cid p else .team c.g.team p]
          | false, some _ => (c.base false).closeRegion c.g.gid
          | _, none => c.base false
        let w : Waiting := match wait, phase with
          | true, some p => if cluster then .clusterPhase p else .teamPhase p
          | _, _ => .none
        match c.long b false false [] w [] with
        | .done s => .done ((if arrive then (if cluster then s.arriveCluster c.g else s.arriveTeam c.g) else s).serve)
        | v => v))

def execBarTeam (s : State) : Host.Outcome State Fault Refusal := barForm s false true true
def execBarCluster (s : State) : Host.Outcome State Fault Refusal := barForm s true true true
def execArriveTeam (s : State) : Host.Outcome State Fault Refusal := barForm s false true false
def execWaitTeam (s : State) : Host.Outcome State Fault Refusal := barForm s false false true
def execArriveCluster (s : State) : Host.Outcome State Fault Refusal := barForm s true true false
def execWaitCluster (s : State) : Host.Outcome State Fault Refusal := barForm s true false true

/-! ## ARFLUSH, ARSTAT (R185) -/

def execArflush (s : State) : Host.Outcome State Fault Refusal :=
  issue s false (fun c =>
    c.charged (match c.long ((c.base false).updGroup c.g.gid (fun g => { g with flushed := true })) false false [] .flushPoint [] with
      | .done s => .done ((s.checkFlush c.g.team).serve)
      | v => v))

def execArstat (d : BitVec 7) (s : State) : Host.Outcome State Fault Refusal :=
  issue s false (fun c =>
    c.uses false [useS d.toNat]
      (c.long (c.base false) false false
        [uniResult d.toNat (BitVec.ofNat 32 (c.g.atomics.length * 2 ^ 26 + c.g.overflow % 2 ^ 24))] .none []))

/-! ## One uniform access to an object of the Sync engines -/

/-- The checks of an object named by an s pair: address and place (event 0x16). -/
def Ctx.object (c : Ctx) (a : BitVec 7) (need : List Acc) (align : Nat) (k : Nat → Verdict) : Verdict :=
  let addr := (c.spair a.toNat).toNat
  if addr < 2 ^ 48 ∧ addr % align ≠ 0 then .trap { kind := 0x16, info := c.run, addr := addr }
  else c.checkAccess false need 1 [((lanesOf c.run).headD 0, addr)] (fun as =>
    match as with
    | [] => .stall
    | x :: _ =>
      if !objectOk align addr x.phys then .trap { kind := 0x16, info := c.run, addr := addr }
      else k x.phys)

/-- No word an object's operation reads may carry poison (R177, R372); the words from an object's base on. -/
def Ctx.cleanWords (c : Ctx) (a : BitVec 7) (p : Nat) (reads : List Nat) (k : Verdict) : Verdict :=
  match reads.find? (fun w => c.s.mem.poisoned w 4) with
  | some w => .trap { kind := 0x14, info := c.run, addr := (c.spair a.toNat).toNat + (w - p) }
  | none => k

/-- An object's operation performs after the group's earlier accesses, and conflicts on the words it reads and writes (R86). A wait
names none: it is checked as it arrives (R65). BOINIT, BOEXP and TKINIT are not synchronising (R188, R191), and R85 lists no plain
access among them; DESIGN CHOICE (assumption log 68): they are checked here all the same, with SUB 2, and join no region. -/
def Ctx.reach (c : Ctx) (p : Nat) (reads writes : List Nat) (k : Verdict) : Verdict :=
  c.ready [{ lane := 0, address := 0, phys := p }]
    (match (reads.find? (fun w => c.s.conflicts c.g w false)).orElse (fun _ => writes.find? (fun w => c.s.conflicts c.g w true)) with
     | some w => .trap { kind := 0x18, sub := 2, info := c.run, addr := w }
     | none => k)

/-- The words among some that an operation has changed, by value or tag. -/
def changedWords (m m' : Memory) (ws : List Nat) : List Nat := ws.filter (fun w => decide (m.word w ≠ m'.word w ∨ m.full w ≠ m'.full w))

/-- The places of a barrier object in any phase. -/
def objectPlace (p : Nat) : Place → Bool
  | .object b _ => decide (b = p)
  | _ => false

/-- The address operands of a wait, kept for its reissue (R66, R312). -/
def Ctx.waitOperands (c : Ctx) (a : BitVec 7) : List Word := [(c.spair a.toNat).truncate 32, ((c.spair a.toNat) >>> 32).truncate 32]

/-! ## Barrier objects (R188) -/

def execBoinit (a : BitVec 7) (s : State) : Host.Outcome State Fault Refusal :=
  issue s false (fun c =>
    c.uses false [useSPair a.toNat]
      (c.object a [.w] 16 (fun p => c.reach p [] (wordsOf p 16)
        (c.long (((c.base false).overwrite (objectPlace p)).setMem (c.s.mem.boInit p)).serve false false [] .none []))))

/-- BOEXP, BOARR and BOFAULT: an operation on the object with the value of an s register, which counts into the phase under way; it
conflicts on the words it changes (R188). -/
def boForm (s : State) (a b : BitVec 7) (signed release : Bool) (f : Memory → Nat → Word → Memory) : Host.Outcome State Fault Refusal :=
  issue s false (fun c =>
    c.uses false [useSPair a.toNat, useS b.toNat]
      (let n := c.readS (b.toNat - 104)
       if signed && n.slt 0 then c.illegalOperand false
       else c.object a [.w] 16 (fun p =>
         let m := f c.s.mem p n
         let reads := if c.s.mem.boErr p then [p] else [p, p + 4, p + 8]
         c.cleanWords a p reads (c.reach p reads (changedWords c.s.mem m (wordsOf p 16))
           (let s := if release then (c.base false).release c.g.gid 3 (if c.s.mem.boErr p then [] else [.object p (c.s.mem.word p)])
                     else c.base false
            c.long (s.setMem m).serve false false [] .none [])))))

def execBoexp (a b : BitVec 7) (s : State) : Host.Outcome State Fault Refusal := boForm s a b true false (fun m p n => m.boExpect p n)
def execBoarr (a b : BitVec 7) (s : State) : Host.Outcome State Fault Refusal := boForm s a b true true (fun m p n => m.boArrive p n.toNat)
def execBofault (a b : BitVec 7) (s : State) : Host.Outcome State Fault Refusal :=
  boForm s a b false true (fun m p n => m.boError p (0x80000000#32 ||| n))

def execBowait (d a b : BitVec 7) (s : State) : Host.Outcome State Fault Refusal :=
  issue s false (fun c =>
    c.uses false [useSPair a.toNat, useS b.toNat, useS d.toNat]
      (c.object a [.r] 16 (fun p => c.reach p [] []
        (c.long ((c.base false).closeRegion c.g.gid) false false [] (.bo p (c.readS (b.toNat - 104)) d.toNat) (c.waitOperands a)))))

/-- BOTEST: an acquire exactly where the word differs. -/
def execBotest (d a b : BitVec 7) (s : State) : Host.Outcome State Fault Refusal :=
  issue s false (fun c =>
    c.uses false [useSPair a.toNat, useS b.toNat, useS d.toNat]
      (c.object a [.r] 16 (fun p => c.cleanWords a p [p] (c.reach p [p] []
        (let w := c.s.mem.word p
         c.long (if w = c.readS (b.toNat - 104) then c.base false else (c.base false).acquire c.g.gid 3 (endedPhase p w))
           false false [uniResult d.toNat w] .none [])))))

/-! ## Write pointers (R189, R190) -/

/-- Both registers of a uniform long result. -/
def uniPair (d : Nat) (v : BitVec 64) : List RegWrite := [uniResult d (v.truncate 32), uniResult (d + 1) ((v >>> 32).truncate 32)]

/-- A write-pointer word: 8-aligned, in the issuing core's vault, else range not local. -/
def Ctx.writePointer (c : Ctx) (a : BitVec 7) (k : List Access → Nat → Verdict) : Verdict :=
  let addr := (c.spair a.toNat).toNat
  c.checkAccess false [.r] 1 [((lanesOf c.run).headD 0, addr)] (fun as =>
    match as with
    | [] => .stall
    | x :: _ =>
      if addr % 8 ≠ 0 ∨ !inVault (c.s.coreOf c.g) x.phys 8 then .trap { kind := 0x17, info := c.run, addr := addr }
      else k as x.phys)

/-- A running command's own writes to the word are no conflict (R70). -/
def Ctx.pointerConflict (c : Ctx) (p : Nat) (k : Verdict) : Verdict :=
  match (wordsOf p 8).find? (fun w => c.s.meetsGroup c.g w false) with
  | some w => .trap { kind := 0x18, sub := 2, info := c.run, addr := w }
  | none => k

def execWpread (d a : BitVec 7) (s : State) : Host.Outcome State Fault Refusal :=
  issue s false (fun c =>
    c.uses false [useSPair a.toNat, useSPair d.toNat]
      (c.writePointer a (fun as p =>
        c.cleanWords a p (wordsOf p 8) (c.ready as (c.pointerConflict p
          (c.long ((c.base false).acquire c.g.gid 1 [Place.word p].contains) false false (uniPair d.toNat (c.s.mem.dword p)) .none []))))))

def execWpwait (d a b : BitVec 7) (s : State) : Host.Outcome State Fault Refusal :=
  issue s false (fun c =>
    c.uses false [useSPair a.toNat, useSPair b.toNat, useSPair d.toNat]
      (c.writePointer a (fun as p =>
        c.ready as (c.long ((c.base false).closeRegion c.g.gid) false false [] (.pointer p (c.spair b.toNat) d.toNat) (c.waitOperands a)))))

/-! ## Tickets (R191) -/

def execTkinit (a : BitVec 7) (s : State) : Host.Outcome State Fault Refusal :=
  issue s false (fun c =>
    c.uses false [useSPair a.toNat]
      (c.object a [.w] 8 (fun p => c.reach p [] [p, p + 4]
        (c.long (((((c.base false).overwrite [Place.word (p + 4)].contains).setMem ((c.s.mem.putWord p 0).putWord (p + 4) 0)).ticketReached
          p).serve) false false [] .none []))))

def execTkget (d a b : BitVec 7) (s : State) : Host.Outcome State Fault Refusal :=
  issue s false (fun c =>
    c.uses false [useSPair a.toNat, useS b.toNat, useS d.toNat]
      (c.object a [.r, .w] 8 (fun p => c.cleanWords a p [p, p + 4] (c.reach p [p, p + 4] [p] (
        let next := c.s.mem.word p
        let serving := c.s.mem.word (p + 4)
        let arm := decide (next ≠ serving) && (c.readS (b.toNat - 104)).getLsbD 0
        if arm && decide (64 ≤ c.s.ticketWords p) then .stall
        else
          let s := if next = serving then (c.base false).acquire c.g.gid 3 [Place.word (p + 4)].contains else c.base false
          let s := s.setMem (s.mem.putWord p (next + 1))
          let s := if arm then { s with armedTickets := s.armedTickets ++ [(p, next, c.g.team)] } else s
          c.long s false false [uniResult d.toNat next] .none [])))))

def execTkwait (d a b : BitVec 7) (s : State) : Host.Outcome State Fault Refusal :=
  issue s false (fun c =>
    c.uses false [useSPair a.toNat, useS b.toNat, useS d.toNat]
      (c.object a [.r] 8 (fun p => c.reach p [] []
        (c.long (c.base false) false false [] (.ticket p (c.readS (b.toNat - 104)) d.toNat) (c.waitOperands a)))))

def execTknext (d a : BitVec 7) (s : State) : Host.Outcome State Fault Refusal :=
  issue s false (fun c =>
    c.uses false [useSPair a.toNat, useS d.toNat]
      (c.object a [.r, .w] 8 (fun p =>
        let next := c.s.mem.word p
        let serving := c.s.mem.word (p + 4)
        c.cleanWords a p [p, p + 4] (c.reach p [p, p + 4] (if serving = next then [] else [p + 4]) (
        if serving = next then c.long (c.base false) false false [uniResult d.toNat serving] .none []
        else
          let s := (c.base false).ordered c.g.gid 2 3 [.word (p + 4)]
          c.long (((s.setMem (s.mem.putWord (p + 4) (serving + 1))).ticketReached p).serve) false false
            [uniResult d.toNat (serving + 1)] .none [])))))

/-! ## Deques (R193) -/

/-- The deque capability of the grid; without it major 15 is a reserved encoding. -/
def Ctx.deque (c : Ctx) (k : Verdict) : Verdict :=
  if ((c.s.gridOf c.g).map (·.launch.deque)).getD false then k else c.illegalInstruction false

/-- The OWNER word of the issuing team. -/
def Ctx.ownerWord (c : Ctx) : Word :=
  BitVec.ofNat 32 (((c.s.clusterOf c.g).map (·.index)).getD 0 % 2 ^ 20 + ((c.s.teamOf c.g).map (·.index)).getD 0 % 16 * 2 ^ 20)

/-- The capacity of the deque at an address. -/
def dequeCap (m : Memory) (p : Nat) : Nat := 2 ^ ((m.word (p + 8)).toNat % 32)
def emptyMark : BitVec 64 := BitVec.allOnes 64

/-- The physical address of a byte of a range, from its pieces. -/
def pieceAt : List (Nat × Nat) → Nat → Nat
  | [], _ => 0
  | (p, n) :: rest, off => if off < n then p + off else pieceAt rest (off - n)

/-- A deque of a capacity lies wholly in the vault of its header (event 0x16); the pieces of its range. -/
def Ctx.dequeRange (c : Ctx) (a : BitVec 7) (p cap : Nat) (k : List (Nat × Nat) → Verdict) : Verdict :=
  let addr := (c.spair a.toNat).toNat
  let r := c.s.checkSpan c.insetId .w addr (32 + 8 * cap)
  match r.2 with
  | some f => .trap (f.1.trap c.run f.2)
  | none =>
    if (match backing p with
      | .vault v => r.1.all (fun x => inVault v x.1 x.2)
      | _ => false) then k r.1
    else .trap { kind := 0x16, info := c.run, addr := addr }

/-- What a DQ form does: the memory after it, its results, and the words beside the header's that it reads, and all that it writes. -/
structure DequeEffect where
  mem : Memory
  results : List RegWrite
  reads : List Nat := []
  writes : List Nat := []
deriving DecidableEq, Repr

/-- The words of a deque's header (R193). -/
def dequeHeader (p : Nat) : List Nat := wordsOf p 16

/-- A DQ form on an initialised deque, acq_rel at device scope; its effect gets the physical address of the entry of an index. -/
def dqForm (s : State) (us : List Use) (a : BitVec 7) (owner : Bool) (f : Ctx → Memory → Nat → (Word → Nat) → DequeEffect) :
    Host.Outcome State Fault Refusal :=
  issue s false (fun c =>
    c.deque (c.uses false (useSPair a.toNat :: us)
      (c.object a [.r, .w] 32 (fun p => c.cleanWords a p (dequeHeader p) (
        let cap := dequeCap c.s.mem p
        c.dequeRange a p cap (fun ps =>
          if owner && decide (c.s.mem.word (p + 12) ≠ c.ownerWord) then c.illegalOperand false
          else
            let r := f c c.s.mem p (fun i => pieceAt ps (32 + 8 * (i.toNat % cap)))
            c.cleanWords a p r.reads (c.reach p (dequeHeader p ++ r.reads) r.writes
              (c.long ((((c.base false).ordered c.g.gid 3 3 [.word p]).setMem r.mem).serve) false false r.results .none []))))))))

def execDqinit (a b : BitVec 7) (s : State) : Host.Outcome State Fault Refusal :=
  issue s false (fun c =>
    c.deque (c.uses false [useSPair a.toNat, useS b.toNat]
      (let cap := (c.readS (b.toNat - 104)).toNat % 32
       if cap < 4 ∨ 16 < cap then c.illegalOperand false
       else c.object a [.w] 32 (fun p => c.dequeRange a p (2 ^ cap) (fun _ => c.reach p [] (wordsOf p 32)
         (let m := ((((c.s.mem.putWord p 0).putWord (p + 4) 0).putWord (p + 8) (BitVec.ofNat 32 cap)).putWord (p + 12)
              c.ownerWord).store (p + 16) (List.replicate 16 0)
          c.long ((((c.base false).ordered c.g.gid 3 3 [.word p]).setMem m).serve) false false [] .none []))))))

def execDqpush (d a b : BitVec 7) (s : State) : Host.Outcome State Fault Refusal :=
  dqForm s [useSPair b.toNat, useS d.toNat] a true (fun c m p entry =>
    let v := c.spair b.toNat
    let top := m.word p
    let bottom := m.word (p + 4)
    if v = emptyMark then { mem := m, results := [uniResult d.toNat 2] }
    else if (bottom - top).toNat = dequeCap m p then { mem := m, results := [uniResult d.toNat 1] }
    else { mem := (m.putDword (entry bottom) v.toNat).putWord (p + 4) (bottom + 1), results := [uniResult d.toNat 0],
           writes := (p + 4) :: wordsOf (entry bottom) 8 })

def execDqpop (d a : BitVec 7) (s : State) : Host.Outcome State Fault Refusal :=
  dqForm s [useSPair d.toNat] a true (fun _ m p entry =>
    let top := m.word p
    let bottom := m.word (p + 4)
    if bottom = top then { mem := m, results := uniPair d.toNat emptyMark }
    else { mem := m.putWord (p + 4) (bottom - 1), results := uniPair d.toNat (m.dword (entry (bottom - 1))),
           reads := wordsOf (entry (bottom - 1)) 8, writes := [p + 4] })

def execDqsteal (d a : BitVec 7) (s : State) : Host.Outcome State Fault Refusal :=
  dqForm s [useSPair d.toNat] a false (fun _ m p entry =>
    let top := m.word p
    let bottom := m.word (p + 4)
    if bottom = top then { mem := m, results := uniPair d.toNat emptyMark }
    else { mem := m.putWord p (top + 1), results := uniPair d.toNat (m.dword (entry top)), reads := wordsOf (entry top) 8, writes := [p] })

end Sys2Proof.Machine
end

