-- ==== Sys2Proof/Machine/Clauses.lean ====
section
/-! DEFINITION. The steps of groups that are no instruction: clause starts (R18 to R21, R126, R137, R391), the completion of long
operations (R128), arrivals at the vaults (R65), rejoin deadlock (R24), parity errors (R35), flush markers (R94), and whose turn it is to move (R19, R25). -/
namespace Sys2Proof.Machine

/-! ## CLAUSE_START -/

/-- A group may start a clause: its team runs, and no engine command of it waits at its issue (R14, R30, R311, R322). -/
def State.mayIssue (s : State) (g : Group) : Bool := !s.atIssue g.gid && s.teamRuns g

/-- How the clause of a run stands: it may start, meets an event, or waits for a way to its memory (R340, R352). -/
inductive Fetch where
  | clause (h : ClauseHeader) (words : List Word)
  | event (t : Trap)
  | wait
deriving DecidableEq, Repr

/-- The word at an address, fetched with X permission (R391). DESIGN CHOICE (assumption log 72): a write that is not ordered before the
clause start is seen here as memory stands, all words of the clause at one moment, where R391 lets each word be read old or as
written. The failure is an event, or a memory that no path leads to. -/
def State.fetchWord (s : State) (inset a : Nat) (mask : Lanes) : Except Fetch Word :=
  match s.access inset .x a 4 with
  | .error f => .error (.event (f.trap mask a))
  | .ok p =>
    if s.unreachable p then .error .wait
    else if s.mem.poisoned p 4 then .error (.event { kind := 0x14, info := mask, addr := a })
    else .ok (s.mem.word p)

def State.fetchWords (s : State) (inset a : Nat) (mask : Lanes) : Nat → Except Fetch (List Word)
  | 0 => .ok []
  | n + 1 => do
    let w ← s.fetchWord inset a mask
    let rest ← s.fetchWords inset (a + 4) mask n
    .ok (w :: rest)

/-- Fetching the clause at a program counter; what is no legal clause, or stands short of the counter's index, is malformed. -/
def State.fetch (s : State) (inset base index : Nat) (mask : Lanes) : Fetch :=
  let bad : Fetch := .event { kind := 1, info := mask, addr := base }
  match s.fetchWord inset base mask with
  | .error f => f
  | .ok h0 =>
    if !Decode.isHeader h0.toNat then bad
    else match s.fetchWords inset (base + 4) mask (Decode.bits h0.toNat 2 3 + 2) with
      | .error f => f
      | .ok [] => bad
      | .ok (h1 :: ws) =>
        match Decode.clause h0.toNat h1.toNat (ws.map (·.toNat)) with
        | some h => if index < h.len then .clause h ws else bad
        | none => bad

/-- A word of a major that reads ports is no reserved encoding: its minor is listed, and its unused fields are zero (R125, R138, R139). -/
def readsPorts (n : Nat) : Bool :=
  let k := Decode.bits n 0 4
  let b := Decode.bits n 4 7
  let d := Decode.bits n 18 7
  match Decode.major n with
  | 1 => decide (k < 12 ∧ (k < 4 ∨ 7 < k ∨ b = 0))
  | 6 => decide (Decode.bits n 5 4 = 0)
  | 7 => decide (k < 4)
  | 8 => decide (k < 9 ∨ k = 11 ∨ k = 15)
  | 9 => decide (k < 4 ∧ k ≠ 1 ∧ b = 0 ∧ (k ≠ 3 ∨ d = 0))
  | 12 => decide (k < 10 ∧ d < 24)
  | 13 => decide (Decode.bits n 7 4 < 10 ∧ d < 24)
  | 14 => decide (k < 6)
  | 15 => decide (k < 4)
  | 16 => decide (k < 8 ∧ d < 24)
  | 17 => decide (k < 7 ∧ b = 0)
  | 18 => decide (k < 12)
  | 19 => decide (k < 8)
  | 20 => decide (k < 8 ∧ b = 0)
  | 21 => decide (k % 2 = 0)
  | 22 => decide (k % 2 = 0)
  | 23 => decide (k % 4 = 0 ∧ b = 0)
  | 24 => decide (k < 11)
  | 64 => decide (k < 12)
  | 67 => decide (k % 4 = 3 ∨ k < 4)
  | 68 => decide (k < 10 ∧ d < 24)
  | 69 => decide (Decode.bits n 7 4 < 10 ∧ d < 24)
  | 73 => decide (k < 5 ∧ ((k ≠ 1 ∧ k ≠ 2) ∨ d = 0))
  | 83 => decide (k < 3 ∧ Decode.bits n 4 3 = 0)
  | 91 => decide (k < 5 ∧ (k ≠ 1 ∨ d = 0) ∧ (k ≠ 2 ∨ b = 0))
  | 95 => decide (k = 2)
  | _ => true

/-- A prefix word is no reserved encoding (R133, R134). -/
def prefixLegal (n : Nat) : Bool :=
  match Decode.major n with
  | 124 => decide (Decode.bits n 0 20 = 0 ∧ Decode.bits n 22 3 < 5)
  | 125 => decide (Decode.bits n 1 3 < 6)
  | _ => true

/-- Fields of a word that pop queue ports, and the neighbour port it pushes (R18, R34). A reserved encoding names none. -/
def wordPorts (n : Nat) : List Nat × Option Nat :=
  let d := Decode.bits n 18 7
  let a := Decode.bits n 11 7
  let b := Decode.bits n 4 7
  let m := Decode.major n
  let push := if isNeighbour d then some d else none
  let named (f : Nat) : Bool := if m < 64 then isPort f else decide (124 ≤ f)
  let ab := [a, b].filter named
  let one (f : Nat) := [f].filter named
  if !readsPorts n then ([], none)
  else if m ∈ [0, 1, 11, 14, 18, 22, 24] then (ab, push)
  else if m ∈ [2, 3, 4, 5, 6, 9, 17, 20] then (one a, push)
  else if m ∈ [7, 12, 15, 16, 19, 21] then (ab, none)
  else if m = 23 then (one a, none)
  else if m = 8 then (if Decode.bits n 0 4 < 2 then ([], none) else (one b, none))
  else if m = 13 then (one a, none)
  else if m = 10 then ([], push)
  else if m = 64 ∨ m = 68 then (ab, none)
  else if m = 65 ∨ m = 69 then (one a, none)
  else if m = 67 then ((if Decode.bits n 0 4 = 2 then ab else if Decode.bits n 0 4 < 2 then [] else one b), none)
  else if m = 73 then
    (match Decode.bits n 0 4 with
     | 1 => one a
     | 2 => ab
     | 3 => one b
     | 4 => ab
     | _ => [], none)
  else if m = 83 then (one (Decode.bits n 7 7), none)
  else if m = 91 then ((if Decode.bits n 0 4 % 2 = 0 ∧ Decode.bits n 0 4 < 4 then one a else ab), none)
  else if m = 95 then (ab, none)
  else ([], none)

/-- A queue holds as many entries, or words, as the first instruction of a clause pops from it. -/
def State.portReady (s : State) (g : Group) (pops : List Nat) (f : Nat) : Bool :=
  let n := (pops.filter (fun x => decide (x = f))).length
  if isNeighbour f then decide (n ≤ ((g.queue (f - 120)).takeWhile (fun e => e.op.isNone)).length)
  else match s.teamOf g with
    | none => false
    | some t =>
      let p := t.port (f - 124)
      decide (n ≤ p.words) && (decide (p.holder = none) || decide (p.holder = some g.index))

/-- The first instruction of a clause may issue: WAIT is clear and its queue ports are ready (R18). -/
def State.mayStart (s : State) (g : Group) (run : Lanes) (index : Nat) (h : ClauseHeader) (ws : List Word) : Bool :=
  let first := ((List.range ws.length).find? (fun i => decide (index ≤ i) && !Decode.isPrefix (ws.getD i 0).toNat)).getD 0
  let n := (ws.getD first 0).toNat
  let ticked := g.updLanes run (fun _ l => l.tick (h.distance first))
  let act := if Decode.isUniform n then run else run &&& s.guardMask ticked h first
  let legal := (List.range first).all (fun i => decide (i < index) || prefixLegal (ws.getD i 0).toNat)
  let ports := if legal then wordPorts n else ([], none)
  (decide (0 < index) || (List.range 12).all (fun f => !h.wait.getLsbD f || decide (g.flag f = 0))) &&
  (decide (act = 0) || (ports.1.all (s.portReady g ports.1) &&
    (match ports.2 with
     | some d => !s.pushWaits g (d - 120)
     | none => true)))

/-- A run's lowest counter, its lanes, and how its clause stands. -/
structure Candidate where
  run : Nat
  lanes : Lanes
  pc : Nat × Nat
  fetched : Fetch
deriving DecidableEq, Repr

/-- The runs of R20 that may start a clause or meet an event there; a run in the middle of a clause goes on with it. -/
def State.candidates (s : State) (g : Group) : List Candidate :=
  let all := g.runs.filterMap (fun r =>
    let m := g.runMask r.id
    match lanesOf m with
    | [] => none
    | l :: _ =>
      let pc := ((g.lane l).header, (g.lane l).index)
      some { run := r.id, lanes := m, pc := pc, fetched := s.fetch (((s.insetOf g).map (·.id)).getD 0) pc.1 pc.2 m : Candidate })
  let mid := all.filter (fun c => decide (0 < c.pc.2))
  (if mid.isEmpty then all else mid).filter (fun c => match c.fetched with
    | .clause h ws => s.mayStart g c.lanes c.pc.2 h ws
    | .event _ => true
    | .wait => false)

/-- The candidate with the lowest counter, compared as the pair (address, index) (R123). -/
def lowest : List Candidate → Option Candidate
  | [] => none
  | c :: rest =>
    match lowest rest with
    | none => some c
    | some d => if c.pc.1 < d.pc.1 ∨ (c.pc.1 = d.pc.1 ∧ c.pc.2 ≤ d.pc.2) then some c else some d

/-- The armed breakpoint slot at which a run stops before its clause; a run resumed there starts the clause (R331). -/
def State.breakpointAt (s : State) (g : Group) (c : Candidate) : Option Nat :=
  if 0 < c.pc.2 ∨ ((g.run? c.run).bind (·.passed)).isSome then none
  else match s.insetOf g with
    | none => none
    | some x => (List.range 4).find? (fun i => decide (x.breakpoints.getD i none = some c.pc.1))

/-- The streak count and the deferrals at a clause start (R21). -/
def Group.countStart (g : Group) (run : Nat) (hint : Bool) : Group :=
  let others := g.runs.any (fun r => decide (r.id ≠ run) && !r.deferred && decide (g.runMask r.id ≠ 0))
  let n := if decide (g.lastRun = some run) && others then g.streak + 1 else 1
  let g := if 64 ≤ n then { g.setDeferred run true with streak := 0, lastRun := some run } else { g with streak := n, lastRun := some run }
  if hint then g.setDeferred run true else g

/-- An event at a clause start: Post and Stop, no instruction of the clause takes effect (R137). -/
def State.clauseEvent (s : State) (g : Group) (c : Candidate) (t : Trap) (slot : Option Nat) (length : Nat) : State :=
  (s.post { s.recordOf g c.pc.2 t true with atStart := true }).stopGroup g.gid
    { kind := t.kind, clauseStart := true, slot := slot, after := false, run := c.run, index := c.pc.2, length := length, late := none }

/-- The acquires of forms whose flags a clause waits on take effect at its start (R323). -/
def State.acquireForms (s : State) (gid : Nat) (wait : Nat → Bool) : State :=
  let due := (((s.group? gid).map (·.acquiring)).getD []).filter wait
  if due.isEmpty then s
  else (s.acquire gid 4 (fun l => due.any (fun f => decide (l = Place.form gid f)))).updGroup gid (fun g =>
    { g with acquiring := g.acquiring.filter (fun f => !wait f) })

/-- CLAUSE_START: a run is chosen by lowest counter first; its clause is fetched and starts, or its event is taken. -/
def execClauseStart (gid : Nat) (s : State) : Host.Outcome State Fault Refusal :=
  match s.group? gid with
  | none => .next s
  | some g =>
    if g.stop.isSome ∨ g.clause.isSome ∨ g.exited ∨ !s.mayIssue g then .next s
    else
      let cs := s.candidates g
      let undeferred := cs.filter (fun c => !g.deferred c.run)
      let g' := if undeferred.isEmpty then { g with runs := g.runs.map (fun (r : Run) => { r with deferred := false }) } else g
      match lowest (if undeferred.isEmpty then cs else undeferred) with
      | none => .next s
      | some c =>
        let s := s.updGroup gid (fun _ => g')
        match c.fetched with
        | .event t => .next (s.clauseEvent g' c t none 1)
        | .wait => .next s
        | .clause h ws =>
          match s.breakpointAt g' c with
          | some i => .next (s.clauseEvent g' c { kind := 7, sub := 1, info := c.lanes, addr := c.pc.1 } (some i) h.len)
          | none =>
            let cl : Clause := { run := c.run, base := c.pc.1, header := h, words := ws, index := c.pc.2, ximm := none, xmod := none, xsco := none }
            let g'' := if 0 < c.pc.2 then g' else g'.countStart c.run h.yieldHint
            .next ((s.updGroup gid (fun _ => { g'' with clause := some cl })).acquireForms gid (fun f => decide (c.pc.2 = 0) && h.wait.getLsbD f))

/-! ## LONG_OP_COMPLETE (R128) -/

/-- One result is written: to a lane's register or predicate, to an s register, or to a system register. -/
def Group.putResult (g : Group) (r : RegWrite) : Group :=
  if r.loses then g
  else match r.lane with
    | some l => g.updLane l (fun x => x.putNow r.reg r.mask r.value)
    | none =>
      if r.reg = 256 + 0x10 then { g with stkLo := r.value }
      else if r.reg = 256 + 0x11 then { g with stkHi := r.value }
      else if r.reg = 256 + 0x12 then { g with evtag := r.value }
      else g.putS (r.reg - 104) r.value

/-- A lane holds no register from a number up: they read as zero, and no short result to one is under way. -/
def Lane.below (l : Lane) (q : Nat) : Lane :=
  { l with regs := l.regs.filter (fun e => decide (e.1 < q)), pend := l.pend.filter (fun p => decide (p.reg < q ∨ 104 ≤ p.reg)) }

/-- The register move of R16: the giver's highest blocks go, the receiver's new ones read as zero; its completion is a release at
team scope. -/
def State.moveQuota (s : State) (giver receiver blocks : Nat) : State :=
  let s := s.updGroup giver (fun g =>
    let q := g.quota - 8 * blocks
    { g with quota := q, lanes := g.lanes.map (fun l => l.below q) })
  (s.updGroup receiver (fun g => { g with quota := g.quota + 8 * blocks, lanes := g.lanes.map (fun l => l.below g.quota) })).release giver 1 []

/-- A move lands once those of the team before it have (R204), and no other operation in flight of the giver names a register that
moves (R16). -/
def State.moveReady (s : State) (o : LongOp) (blocks : Nat) : Bool :=
  let team (gid : Nat) : Option Nat := (s.group? gid).map (·.team)
  let lo := (((s.group? o.gid).map (·.quota)).getD 0) - 8 * blocks
  !s.ops.any (fun p => decide (p.id < o.id ∧ team p.gid = team o.gid) && (match p.wait with
    | .quotaMove _ _ => true
    | _ => false)) && !s.namesFrom o.gid lo

/-- The words of a reserved entry arrive in the receiver's queue (R142). -/
def State.fillPush (s : State) (g : Group) (op dir : Nat) (ws : List Word) : State :=
  match s.receiver g dir with
  | none => s
  | some h => s.updGroup h.gid (fun h => { h with recv := h.recv.modify (oppositeDir dir) (fun q =>
      q.map (fun e => if e.op = some op then { op := none, words := ws } else e)) })

/-- The operation's own effect, where nothing is waited for any more; none while it still waits. -/
def State.landed (s : State) (o : LongOp) : Option State :=
  match o.wait with
  | .none => some s
  | .quotaMove r m => if s.moveReady o m then some (s.moveQuota o.gid r m) else none
  | .push dir ws => some (match s.group? o.gid with
    | some g => s.fillPush g o.id dir ws
    | none => s)
  | _ => none

/-- Completion: the results stand, the flag falls by one, and an exited group may be freed. -/
def State.completeOp (s : State) (o : LongOp) : State :=
  let rs := o.results.filter (fun r => !o.overtaken.contains (r.lane, r.reg))
  ((s.updGroup o.gid (fun g => (rs.foldl Group.putResult g).lower o.flag)).dropOp o.id).settle o.gid

/-! ## REJOIN_DEADLOCK, NEIGHBOUR_PARITY_ERROR -/

/-- Every lane that has not exited is parked, and no mask can complete (R24). -/
def execRejoinDeadlock (gid : Nat) (s : State) : Host.Outcome State Fault Refusal :=
  match s.group? gid with
  | none => .next s
  | some g =>
    let m := g.parkMask
    if g.stop.isNone ∧ m ≠ 0 ∧ g.lanes.all (fun l => l.exited || l.parked.isSome) ∧ (List.range 8).all (fun j => !g.canComplete j) then
      .next ((s.post (s.recordOf g 0 { kind := 6, info := m, addr := (g.lane ((lanesOf m).headD 0)).header } true)).stopGroup gid
        { kind := 6, clauseStart := true, slot := none, after := false, run := 0, index := 0, length := 1, late := none })
    else .next s

/-- The places of the entries that have arrived in a queue, newest first. -/
def arrivedEntries (q : List NeighbourEntry) : List Nat := ((List.range q.length).filter (fun i => (q[i]?).any (fun e => e.op.isNone))).reverse

/-- A parity error on a neighbour link: it is logged (R373), the entry is not delivered, and its group stops (R35). Which of the entries that have arrived
it is, is free, since a reserved one fills behind later ones; a group that has stopped already stays so, and its parent is told. -/
def execNeighbourParityError (gid : Nat) (dir : BitVec 2) (s : State) : Host.Outcome State Fault Refusal :=
  match s.group? gid with
  | none => .next s
  | some g =>
    let places := arrivedEntries (g.queue dir.toNat)
    let s := s.logError (s.linkError 8 true (((s.insetOf g).map (·.id)).getD 0xFFF))
    match (places.find? (fun i => Config.freeBit s.oracle 66 i)).orElse (fun _ => places.head?) with
    | none => .next s
    | some i =>
      if g.exited then .next s
      else
        let s := s.updGroup gid (fun g => { g with recv := g.recv.modify dir.toNat (fun q => q.eraseIdx i) })
        let live := maskOf (fun l => (g.lane l).live)
        let run := ((g.clause.map (·.run)).orElse (fun _ => (g.runs.head?).map (·.id))).getD 0
        let s := s.post (s.recordOf g ((g.clause.map (·.index)).getD 0) { kind := 0x19, info := live } true)
        if g.stop.isSome then .next s
        else .next (s.stopGroup gid
          { kind := 0x19, clauseStart := g.clause.isNone, slot := none, after := true, run := run,
            index := (g.clause.map (·.index)).getD 0, length := (g.clause.map (·.header.len)).getD 1, late := none })

/-! ## TAGGED_ACCESS_ARRIVAL (R65, R182) -/

/-- Physical words a waiting access names, and whether it writes them (R86). -/
def Waiting.words : Waiting → List Nat × Bool
  | .tagged kind size _ _ lanes => (lanes.flatMap (fun l => wordsOf l.address size), decide (3 ≤ kind))
  | .bo a _ _ => ([a], false)
  | .ticket a _ _ => ([a + 4], false)
  | .pointer a _ _ => (wordsOf a 8, false)
  | _ => ([], false)

/-- The access conflicts as it arrives; a write pointer is judged against groups alone. -/
def State.arrivalConflict (s : State) (g : Group) (w : Waiting) : Option Nat :=
  let ws := w.words
  match w with
  | .pointer _ _ _ => ws.1.find? (fun a => s.meetsGroup g a false)
  | _ => ws.1.find? (fun a => s.conflicts g a ws.2)

/-- A read that waits meets poison as it arrives; the lanes of a tagged access that do. -/
def State.arrivalPoison (s : State) (w : Waiting) : Option Nat :=
  match w with
  | .tagged kind size _ _ lanes => if kind < 3 then (lanes.find? (fun l => s.mem.poisoned l.address size)).map (·.address) else none
  | w => if w.words.2 then none else w.words.1.find? (fun a => s.mem.poisoned a 4)

/-- Places held in the table of a vault: one for each operation that waits there (R182). -/
def State.tablePlaces (s : State) (v : Backing) : Nat :=
  (s.ops.filter (fun o => o.arrived && decide (0 < o.wait.turns) && (s.waitVaults o).contains v)).length

/-- The lanes of an access that is issued again, translated anew; the kind that comes first among them fails (R60, R66). -/
def State.resolveLanes (s : State) (inset : Nat) (need : Acc) (size : Nat) (lanes : List TagLane) : Except Trap (List TagLane) :=
  let bad := lanes.filterMap (fun l => match s.access inset need l.vaddr size with
    | .error f => some (l, f)
    | .ok _ => none)
  let mask (ls : List TagLane) : Lanes := maskOf (fun i => ls.any (fun l => decide (l.lane = some i)))
  match bad with
  | b :: _ =>
    let rank := bad.foldl (fun m e => min m (kindRank e.2.kind)) (kindRank b.2.kind)
    let worst := bad.filter (fun e => decide (kindRank e.2.kind = rank))
    let first := worst.headD b
    .error (first.2.trap (mask (worst.map (·.1))) first.1.vaddr)
  | [] =>
    let ls := lanes.map (fun l => match s.access inset need l.vaddr size with
      | .ok p => { l with address := p }
      | .error _ => l)
    match ls.filter (fun l => !vaultBacked l.address) with
    | [] => .ok ls
    | b :: rest => .error { kind := 0x15, info := mask (b :: rest), addr := b.vaddr }

/-- An object that a wait issued again names: its address as read at issue, translated anew. -/
def State.resolveObject (s : State) (inset : Nat) (o : LongOp) (ok : Nat → Nat → Bool) (kind : Nat) (w : Nat → Waiting) : Except Trap Waiting :=
  let addr := (o.operands.getD 0 0).toNat + 2 ^ 32 * (o.operands.getD 1 0).toNat
  match s.access inset .r addr 1 with
  | .error f => .error (f.trap o.mask addr)
  | .ok p => if ok addr p then .ok (w p) else .error { kind := kind, info := o.mask, addr := addr }

/-- What an access issued again waits for, with the addresses of now; an access issued once keeps its own. -/
def State.resolve (s : State) (g : Group) (o : LongOp) : Except Trap Waiting :=
  let inset := ((s.insetOf g).map (·.id)).getD 0
  if !o.again then .ok o.wait
  else match o.wait with
  | .tagged kind size scope dst lanes => match s.resolveLanes inset (if kind < 3 then .r else .w) size lanes with
    | .error t => .error t
    | .ok ls => .ok (.tagged kind size scope dst ls)
  | .bo _ last dst => s.resolveObject inset o (objectOk 16) 0x16 (fun p => .bo p last dst)
  | .ticket _ turn dst => s.resolveObject inset o (objectOk 8) 0x16 (fun p => .ticket p turn dst)
  | .pointer _ least dst =>
    s.resolveObject inset o (fun a p => decide (a % 8 = 0) && inVault (s.coreOf g) p 8) 0x17 (fun p => .pointer p least dst)
  | w => .ok w

/-- The vault's part of an arrival: room in its table, the check for conflicts, and the service of what waits. -/
def State.arrive (s : State) (g : Group) (o : LongOp) : State :=
  let vs := s.waitVaults o
  let before := s.ops.any (fun p => p.held && decide (p.id < o.id) && (s.waitVaults p).any vs.contains &&
    decide ((s.group? p.gid).map s.coreOf = some (s.coreOf g)))
  if o.held && before then s
  else if vs.any (fun v => decide (Config.vaultWaits ≤ s.tablePlaces v)) then s.updOp o.id (fun p => { p with held := true, wait := o.wait })
  else match s.arrivalConflict g o.wait, s.arrivalPoison o.wait with
    | _, some a => s.lateTrap o { kind := 0x14, info := o.mask, addr := a }
    | some w, none => s.lateTrap o { kind := 0x18, sub := 2, info := o.mask, addr := w }
    | none, none =>
      let o' := { o with arrived := true, held := false, again := false }
      let others := s.ops.filter (fun p => decide (p.id ≠ o.id))
      ({ s with ops := others ++ [o'] }).serve

/-- An access arrives: checked once, then served or queued behind those already there. -/
def execTaggedAccessArrival (op : Nat) (s : State) : Host.Outcome State Fault Refusal :=
  match s.op? op with
  | none => .next s
  | some o =>
    match s.group? o.gid with
    | none => .next s
    | some g =>
      if o.wait.turns = 0 ∨ o.arrived ∨ g.stop.any (fun st => decide (st.late = some op)) then .next s
      else match s.resolve g o with
        | .error t => .next (s.lateTrap o t)
        | .ok w => .next (s.arrive g { o with wait := w })

/-! ## FLUSH_MARKER_GATHERED, QSV_NOTICE_PUSH -/

/-- With its last marker gathered, a release's earlier writes have arrived on every path: it goes on (R94). -/
def State.allGathered (s : State) (op : Nat) : State :=
  if s.markers.any (fun m => decide (m.1 = op)) then s
  else ({ (s.updGroup op (fun g => { g with written := 0 })).updCommand op (fun c => { c with packages := 0 }) with
    pendingWrites := s.pendingWrites.filter (fun p => !(decide (p.gid = op) && p.pkg.isSome)) }).serve

/-- A marker of a release is gathered at a package: the first of its markers there whose path stands (R94, R352). -/
def execFlushMarkerGathered (op pkg : Nat) (s : State) : Host.Outcome State Fault Refusal :=
  match s.markers.find? (fun m => decide (m.1 = op ∧ m.2.1 = pkg) && (s.pathsTo pkg).contains m.2.2) with
  | none => .next s
  | some m => .next (({ s with markers := s.markers.erase m }).allGathered op)

/-- A page notice has entered its port: its team is told of the page (R102). -/
def State.tell (s : State) (tid word : Nat) : State :=
  let core := (s.team? tid).map (·.core)
  { s with surveys := s.surveys.modify (word / 2 ^ 19 % 8) (fun v => { v with staging := v.staging.map (fun t =>
      if t.slot = word / 2 ^ 16 % 8 ∧ t.page = word % 2 ^ 16 ∧ some t.core = core then { t with told := t.told ++ [tid] } else t) }) }

/-- A waiting notice is pushed once its team's port has room (R102). -/
def execQsvNoticePush (notice : Nat) (s : State) : Host.Outcome State Fault Refusal :=
  match s.notices.find? (fun n => decide (n.id = notice)) with
  | none => .next s
  | some n =>
    if s.notices.any (fun m => decide (m.id < n.id ∧ m.team = n.team ∧ m.port = n.port)) then .next s
    else
      let t := s.deliverNotice n
      let entered := !t.notices.any (fun m => decide (m.id = n.id)) && (t.team? n.team).any (fun u => decide (u.residency ≠ .freed))
      .next (if n.port = 0 ∧ entered then t.tell n.team (n.words.headD 0).toNat else t)

/-! ## Whose turn it is (R19, R25) -/

/-- A group inside a clause that could issue. -/
def State.inClause (s : State) (g : Group) : Bool := g.clause.isSome && g.stop.isNone && s.mayIssue g

/-- A group that could start a clause. -/
def State.betweenClauses (s : State) (g : Group) : Bool := g.clause.isNone && g.stop.isNone && !g.exited && s.mayIssue g

/-- When the group last issued on the pipe of its next word; between clauses, on the pipe that it has left alone for longer. -/
def Group.recency (g : Group) : Nat :=
  match g.clause with
  | some cl => if Decode.isUniform (cl.words.getD cl.index 0).toNat then g.lastUniform else g.lastLane
  | none => min g.lastLane g.lastUniform

/-- A group among others, the one that issued least recently first; ties keep their order. -/
def insertMover (g : Group) : List Group → List Group
  | [] => [g]
  | h :: rest => if g.recency < h.recency then g :: h :: rest else h :: insertMover g rest

/-- The groups that could move, the one that issued least recently first (R19): where the agenda names no move, the first of them that
can issue does, so a group that stays able to issue is passed over by each other one once at most (R25). Ties fall by the order of
placement: the cycle of an issue reaches no value (R13). -/
def State.movers (s : State) : List Nat :=
  ((s.groups.filter (fun g => s.inClause g || s.betweenClauses g)).foldl (fun gs g => insertMover g gs) []).map (·.gid)

end Sys2Proof.Machine
end

