-- ==== Sys2Proof/Machine/Tiles.lean ====
section
/-! DEFINITION. Tiles: configuration, moves to and from memory and lanes, the matrix instructions whose B stands in a tile, and
the row operations (uniform majors 18 to 21, lane majors 39 and 40; R212 to R226). A tile instruction acts on its tiles at
its issue, which is issue order (R213); its flag falls with its completion. -/
namespace Sys2Proof.Machine

/-! ## Tiles and their configuration (R38, R39, R212) -/

/-- A tile control register, its fields read apart: element width code, row bytes, rows. -/
structure TileCfg where
  valid : Bool
  ew : Nat
  rowb : Nat
  rows : Nat
deriving DecidableEq, Repr

def tileCfg (w : Word) : TileCfg :=
  { valid := w.getLsbD 31, ew := w.toNat / 2 ^ 16 % 4, rowb := w.toNat / 2 ^ 8 % 128 + 1, rows := w.toNat % 32 + 1 }

def Group.tc (g : Group) (t : Nat) : Word := Sparse.get 0 g.tileCtl t
def Group.cfg (g : Group) (t : Nat) : TileCfg := tileCfg (g.tc t)

/-- Bits of an element width code. -/
def ewBits (ew : Nat) : Nat := 4 * 2 ^ ew

/-- A value TCONF accepts: reserved bits zero, and the row a whole number of elements where VALID is 1. -/
def tcLegal (w : Word) : Bool :=
  let f := tileCfg w
  decide (w.toNat / 2 ^ 18 % 2 ^ 13 = 0 ∧ w.toNat / 2 ^ 15 % 2 = 0 ∧ w.toNat / 2 ^ 5 % 8 = 0) &&
  (!f.valid || decide (f.ew = 0) || decide (8 * f.rowb % ewBits f.ew = 0))

/-- A byte of a tile: row r begins at byte 128 r. -/
def Group.tileByte (g : Group) (t i : Nat) : Byte := Sparse.get 0 g.tiles (4096 * t + i)

/-- The bytes of one row, from offset lo. -/
def Group.rowBytes (g : Group) (t r lo n : Nat) : List Byte := (List.range n).map (fun i => g.tileByte t (128 * r + lo + i))
def Group.rowWord (g : Group) (t r c : Nat) : Word := BitVec.ofNat 32 (bytesNat (g.rowBytes t r (4 * c) 4))

/-- The tile rewritten byte by byte. -/
def Group.setTile (g : Group) (t : Nat) (f : Nat → Byte) : Group :=
  let lo := 4096 * t
  let cells := (List.range 4096).filterMap (fun i => if f i = 0 then none else some (lo + i, f i))
  { g with tiles := g.tiles.filter (fun e => decide (e.1 < lo)) ++ cells ++ g.tiles.filter (fun e => decide (lo + 4096 ≤ e.1)) }

/-- Some rows' bytes from an offset replaced; a row with no list keeps its bytes. -/
def Group.setRows (g : Group) (t lo : Nat) (rows : Nat → Option (List Byte)) : Group :=
  let all := (List.range 32).map rows
  g.setTile t (fun i =>
    let old := g.tileByte t i
    match all.getD (i / 128) none with
    | none => old
    | some bs => if lo ≤ i % 128 then (bs.getD (i % 128 - lo) old) else old)

/-- Words of rows as bytes. -/
def wordsBytes (ws : List Word) : List Byte := ws.flatMap (fun w => natBytes 4 w.toNat)

/-! ## The checks -/

/-- Tile numbers a tile instruction's word names (R213, R214); the scale tile of a matrix instruction among them. -/
def wordTiles (n : Nat) : List Nat :=
  let m := Decode.major n
  if m = 82 then (if Decode.bits n 0 4 = 1 then [Decode.bits n 11 7] else [Decode.bits n 18 7])
  else if m = 83 then [Decode.bits n 21 4]
  else if m = 84 then
    [Decode.bits n 21 4, Decode.bits n 17 4] ++ (if Decode.bits n 0 4 = 3 then [Decode.bits n 13 4] else [Decode.bits n 13 4, Decode.bits n 4 4])
  else if m = 85 then [Decode.bits n 21 4, Decode.bits n 17 4, Decode.bits n 13 4]
  else if m = 39 ∨ m = 40 then [Decode.bits n 14 4]
  else []

/-- An operation in flight of the group names one of the tiles; `streams` asks only for matrix streams, which act later than
their issue. -/
def State.tileBusy (s : State) (gid : Nat) (ts : List Nat) (streams : Bool) : Bool :=
  s.ops.any (fun o => decide (o.gid = gid) && (wordTiles ((o.words.headD 0).toNat)).any ts.contains &&
    (!streams || (match o.wait with
      | .stream _ => true
      | _ => false)))

/-- Tiles at or above the quota (event 4), then what is no legal operand (event 2), then the interlock of R213. -/
def Ctx.tileUse (c : Ctx) (lane : Bool) (ts : List Nat) (ok : Bool) (k : Verdict) : Verdict :=
  if ts.any (fun t => decide (c.g.tileQuota ≤ t)) then .trap { kind := 4, info := if lane then c.act else c.run, addr := c.cl.base }
  else if !ok then c.illegalOperand lane
  else if c.s.tileBusy c.g.gid ts true then .stall
  else k

/-! ## TC (R214, R215) -/

def execTconf (n a : BitVec 7) (s : State) : Host.Outcome State Fault Refusal :=
  issue s false (fun c =>
    c.uses false [useS a.toNat]
      (let w := c.readS (a.toNat - 104)
       c.tileUse false [n.toNat] (tcLegal w)
         (if c.s.tileBusy c.g.gid [n.toNat] false then .stall
          else c.long ((c.base false).updGroup c.g.gid (fun g => { g with tileCtl := Sparse.set 0 g.tileCtl n.toNat w })) true false [] .none [])))

def execTcread (d n : BitVec 7) (s : State) : Host.Outcome State Fault Refusal :=
  issue s false (fun c =>
    c.uses false [useS d.toNat]
      (c.tileUse false [n.toNat] true (c.long (c.base false) true false [uniResult d.toNat (c.g.tc n.toNat)] .none [])))

def execTzero (n : BitVec 7) (s : State) : Host.Outcome State Fault Refusal :=
  issue s false (fun c =>
    c.tileUse false [n.toNat] true
      (c.long ((c.base false).updGroup c.g.gid (fun g => g.setTile n.toNat (fun _ => 0))) true false [] .none []))

/-! ## TMEM (R216, R217) -/

/-- The memory rows of a TMEM form: inset address and length of each. -/
def tmemRows (form : Nat) (f : TileCfg) (base stride : Nat) : List (Nat × Nat) :=
  if form = 2 then (List.range (8 * f.rowb / ewBits f.ew)).map (fun c => ((base + c * stride) % 2 ^ 64, f.rows * (ewBits f.ew / 8)))
  else (List.range f.rows).map (fun r => ((base + r * stride) % 2 ^ 64, f.rowb))

/-- Every row's physical pieces, or the failures with their addresses. -/
def State.tmemRanges (s : State) (inset : Nat) (need : Acc) (rows : List (Nat × Nat)) : List (List (Nat × Nat)) × List (Nat × XFault) :=
  rows.foldl (fun acc r =>
    let q := s.checkSpan inset need r.1 r.2
    match q.2 with
    | none => (acc.1 ++ [q.1], acc.2)
    | some f => (acc.1, acc.2 ++ [(f.2, f.1)])) ([], [])

/-- The pieces of each tile row: a row of memory, or, for TLDT, element r of each run of memory (R216). -/
def tileRows (form : Nat) (f : TileCfg) (ranges : List (List (Nat × Nat))) : List (List (Nat × Nat)) :=
  let e := ewBits f.ew / 8
  if form = 2 then (List.range f.rows).map (fun r => ranges.flatMap (fun ps => slicePieces ps (r * e) e)) else ranges

/-- Base or stride is misaligned: a row that is non-canonical comes first (R60). -/
def tmemMisaligned (run : Word) (rows : List (Nat × Nat)) (base : Nat) : Trap :=
  match (rows.flatMap (fun r => partsOf r.1 r.2)).find? (fun q => decide (2 ^ 48 ≤ q.1)) with
  | some q => { kind := 0x10, info := run, addr := q.1 }
  | none => { kind := 0x12, info := run, addr := ((rows.find? (fun r => decide (r.1 % 4 ≠ 0))).map (·.1)).getD base }

/-- The words of a row's pieces. -/
def pieceWords (ps : List (Nat × Nat)) : List Nat := ps.flatMap (fun p => wordsOf p.1 p.2)
def Memory.pieceBytes (m : Memory) (ps : List (Nat × Nat)) : List Byte := ps.flatMap (fun p => m.bytes p.1 p.2)

/-- Bytes stored over the pieces of a range. -/
def Memory.storePieces (m : Memory) : List (Nat × Nat) → List Byte → Memory
  | [], _ => m
  | p :: rest, bs => (m.store p.1 (bs.take p.2)).storePieces rest (bs.drop p.2)

/-- The tile after its first rows have been loaded. -/
def Group.loadTile (g : Group) (t : Nat) (rows : List (List Byte)) : Group :=
  g.setRows t 0 (fun r => if r < rows.length then some (rows.getD r []) else none)

/-- Word by word, a tile holds its old value or the loaded one (R217). -/
def Group.mixTile (old new : Group) (t oracle : Nat) : Group :=
  old.setTile t (fun i => if Config.freeBit oracle 70 (i / 4) then new.tileByte t i else old.tileByte t i)

/-- A store of some rows of a tile; `last` is stored word by word or not, by free choice (R217). -/
def Memory.storeRows (m : Memory) (g : Group) (t : Nat) (ranges : List (List (Nat × Nat))) : Memory :=
  (List.range ranges.length).foldl (fun m r =>
    let ps := ranges.getD r []
    m.storePieces ps (g.rowBytes t r 0 (ps.foldl (fun n p => n + p.2) 0))) m

def Memory.mixWords (m new : Memory) (ws : List Nat) (oracle : Nat) : Memory :=
  ws.foldl (fun m w => if Config.freeBit oracle 71 w then m.store w (new.bytes w 4) else m) m

/-- TLD (form 0), TST (1), TLDT (2): every row is checked before any byte moves; a conflict stops at its row. -/
def tmem (s : State) (form : Nat) (t : BitVec 4) (p k : BitVec 7) : Host.Outcome State Fault Refusal :=
  issue s false (fun c =>
    c.uses false [useSPair p.toNat, useUni k.toNat]
      (c.usrc (c.base false) k.toNat (fun popped stride =>
       let f := c.g.cfg t.toNat
       let base := (c.spair p.toNat).toNat
       let stride := stride.toNat
       let write := decide (form = 1)
       c.tileUse false [t.toNat] (f.valid && (decide (form ≠ 2) || decide (f.ew ≠ 0)))
         (let rows := tmemRows form f base stride
          if base % 4 ≠ 0 ∨ stride % 4 ≠ 0 then .trap (tmemMisaligned c.run rows base)
          else
            let rs := c.s.tmemRanges c.insetId (if write then .w else .r) rows
            match rs.2 with
            | e :: rest =>
              let rank := rest.foldl (fun m x => min m (kindRank x.2.kind)) (kindRank e.2.kind)
              let worst := ((e :: rest).find? (fun x => decide (kindRank x.2.kind = rank))).getD e
              .trap (worst.2.trap c.run worst.1)
            | [] =>
              let ranges := tileRows form f rs.1
              let as : List Access := ranges.flatMap (fun ps => ps.map (fun q => { lane := 0, address := base, phys := q.1 }))
              c.ready as
                (let clash := (List.range ranges.length).find? (fun r =>
                   (pieceWords (ranges.getD r [])).any (fun w => c.s.conflicts c.g w write))
                 let n := clash.getD ranges.length
                 let moved := ranges.take n
                 let words := moved.flatMap pieceWords
                 let s := popped.record c.g.gid words write
                 if write then
                   let m := s.mem.storeRows c.g t.toNat moved
                   let s' := ((s.setMem m).touchWrites c.g.gid as).serve
                   match clash with
                   | none => c.long s' true false [] .none []
                   | some r =>
                     let ws := (pieceWords (ranges.getD r [])).filter (fun w => !c.s.conflicts c.g w true)
                     let whole := s'.mem.storeRows c.g t.toNat (ranges.take (r + 1))
                     .trapPart (s'.setMem (s'.mem.mixWords whole ws c.s.oracle))
                       { kind := 0x18, sub := 1, info := c.run, addr := ((pieceWords (ranges.getD r [])).find? (fun w => c.s.conflicts c.g w true)).getD 0 }
                 else
                   let loaded := c.g.loadTile t.toNat (ranges.map s.mem.pieceBytes)
                   let put (h : Group) : Group := { h with tiles := loaded.tiles }
                   let mixed (h : Group) : Group := h.mixTile loaded t.toNat c.s.oracle
                   let bad := (rows.zip rs.1).findSome? (fun e => (s.mem.poisonOffset e.2).map (e.1.1 + ·))
                   match bad, clash with
                   | some a, _ => .trapPart (c.s.updGroup c.g.gid mixed) { kind := 0x14, info := c.run, addr := a }
                   | none, none => c.long (s.updGroup c.g.gid put) true false [] .none []
                   | none, some r =>
                     let before := c.g.loadTile t.toNat (moved.map s.mem.pieceBytes)
                     .trapPart (s.updGroup c.g.gid (fun h => ({ h with tiles := before.tiles }).mixTile
                         (c.g.loadTile t.toNat ((ranges.take (r + 1)).map s.mem.pieceBytes)) t.toNat c.s.oracle))
                       { kind := 0x18, sub := 0, info := c.run, addr := ((pieceWords (ranges.getD r [])).find? (fun w => c.s.conflicts c.g w false)).getD 0 })))))

def execTld (t : BitVec 4) (p k : BitVec 7) (s : State) : Host.Outcome State Fault Refusal := tmem s 0 t p k
def execTst (t : BitVec 4) (p k : BitVec 7) (s : State) : Host.Outcome State Fault Refusal := tmem s 1 t p k
def execTldt (t : BitVec 4) (p k : BitVec 7) (s : State) : Host.Outcome State Fault Refusal := tmem s 2 t p k

/-! ## TRD, TWR (R218) -/

/-- n consecutive v registers, wherever they begin. -/
def useRun (q f n : Nat) : Use := { legal := isV f, quota := decide (104 ≤ f ∨ f + n ≤ q) }

def execTrd (d : BitVec 7) (t : BitVec 4) (col n : BitVec 5) (s : State) : Host.Outcome State Fault Refusal :=
  issue s true (fun c =>
    let k := n.toNat + 1
    let f := c.g.cfg t.toNat
    c.uses true [useRun c.g.quota d.toNat k]
      (c.tileUse true [t.toNat] (f.valid && decide (4 * (col.toNat + k) ≤ f.rowb))
        (c.long (c.base true) true true (((lanesOf c.act).filter (fun l => decide (l < f.rows))).flatMap (fun l =>
          (List.range k).map (fun j => { lane := some l, reg := d.toNat + j, mask := BitVec.allOnes 32,
                                         value := c.g.rowWord t.toNat l (col.toNat + j), loses := false }))) .none [])))

def execTwr (d : BitVec 7) (t : BitVec 4) (col n : BitVec 5) (s : State) : Host.Outcome State Fault Refusal :=
  issue s true (fun c =>
    let k := n.toNat + 1
    let f := c.g.cfg t.toNat
    c.uses true [useRun c.g.quota d.toNat k]
      (c.tileUse true [t.toNat] (f.valid && decide (4 * (col.toNat + k) ≤ f.rowb))
        (c.long ((c.base true).updGroup c.g.gid (fun g => g.setRows t.toNat (4 * col.toNat) (fun l =>
          if c.act.getLsbD l && decide (l < f.rows) then some (wordsBytes ((List.range k).map (fun j => c.readV l (d.toNat + j)))) else none)))
          true true [] .none [])))

/-! ## Matrix operands (R219, R220) -/

/-- Contraction length of an element code. -/
def matrixK (elem : Nat) : Nat := if elem = 7 ∨ elem = 10 ∨ elem = 11 ∨ elem = 12 then 64 else if elem = 1 ∨ elem = 2 then 16 else 32

/-- The shape of an operand tile; MMAT's B differs in 16-bit formats. -/
def operandShape (elem : Nat) (transposed : Bool) : TileCfg :=
  if elem = 12 then { valid := true, ew := 1, rowb := 13, rows := 32 }
  else if elem = 7 ∨ elem = 10 ∨ elem = 11 then { valid := true, ew := 0, rowb := 32, rows := 32 }
  else if elem = 1 ∨ elem = 2 then
    (if transposed then { valid := true, ew := 2, rowb := 64, rows := 16 } else { valid := true, ew := 2, rowb := 32, rows := 32 })
  else { valid := true, ew := 1, rowb := 32, rows := 32 }

def accShape : TileCfg := { valid := true, ew := 3, rowb := 128, rows := 32 }

/-- Element codes the forms MMA and MMAB (0), MMAQ (1) and MMAT (2) take. -/
def matrixElem (form elem : Nat) : Bool :=
  match form with
  | 1 => decide (8 ≤ elem ∧ elem ≤ 11)
  | 2 => decide ((3 ≤ elem ∧ elem ≤ 6) ∨ elem = 8 ∨ elem = 1 ∨ elem = 2)
  | _ => decide ((3 ≤ elem ∧ elem ≤ 8) ∨ elem = 10 ∨ elem = 12 ∨ elem = 1 ∨ elem = 2)

def intAccumulator (f : FormatSlot) : Bool := decide (f.geom = 0 ∧ (f.elem = 8 ∨ f.elem = 10 ∨ f.elem = 12))

/-- Block length along the contraction. -/
def blockLen (geom : Nat) : Nat := [0, 32, 64, 128, 16, 32].getD geom 0
def scaleBlocks (f : FormatSlot) : Nat := max 1 (matrixK f.elem / blockLen f.geom)

/-- The code of element k of a packed row. -/
def rowCode (elem : Nat) (row : List Byte) (k : Nat) : Nat :=
  if elem = 12 then (intBits 2 (trit (row.getD (k / 5) 0).toNat (k % 5)))
  else
    let w := elemBits elem
    if w = 4 then (row.getD (k / 2) 0).toNat / 2 ^ (4 * (k % 2)) % 16
    else bytesNat ((row.drop (k * (w / 8))).take (w / 8))

/-- The exact integer, and the value, of a code as an element. -/
def elemInt (elem code : Nat) : Int :=
  if elem = 12 then intOf true 2 code else match intFmt elem with
    | some (w, sg) => intOf sg w code
    | none => 0
def elemVal (elem code : Nat) : FVal := if elem = 12 then FVal.ofInt (elemInt 12 code) else widenCode elem code

/-- The scale of block b of row i (side 0, A) or column j (side 1, B). -/
def scaleWord (g : Group) (st side i b : Nat) : Word := g.rowWord st (2 * b + side) i
def scaleOf (f : FormatSlot) (w : Word) : FVal := widenScale f.scale (w.toNat % 2 ^ 16)

/-- Element values of one side of a product: 32 rows of K values, each with its block scale. -/
def sideValues (g : Group) (f : FormatSlot) (st side : Nat) (codes : List (List Nat)) : List (List FVal) :=
  (List.range 32).map (fun i => (List.range (matrixK f.elem)).map (fun k =>
    let q := elemVal f.elem ((codes.getD i []).getD k 0)
    if f.geom = 0 then q else q.mul (scaleOf f (scaleWord g st side i (k / blockLen f.geom)))))

def rowCodes (elem : Nat) (row : List Byte) : List Nat := (List.range (matrixK elem)).map (rowCode elem row)

/-- Codes of the 32 rows of an operand tile. -/
def tileCodes (g : Group) (elem t : Nat) : List (List Nat) :=
  (List.range 32).map (fun r => rowCodes elem (g.rowBytes t r 0 (operandShape elem false).rowb))

/-- MMAT: column j of the tile is row j of Bᵀ. -/
def tileCodesT (g : Group) (elem t : Nat) : List (List Nat) :=
  let w := elemBits elem / 8
  (List.range 32).map (fun j => (List.range (matrixK elem)).map (fun k => bytesNat (g.rowBytes t k (j * w) w)))

/-- One element of D after an instruction: the exact sum with D, rounded once; or modulo 2^32 (R222). -/
def mmaElement (f : FormatSlot) (d : Word) (a b : List FVal) (ai bi : List Int) : Word :=
  if intAccumulator f then d + BitVec.ofInt 32 ((ai.zip bi).foldl (fun s p => s + p.1 * p.2) 0)
  else toF32 (FVal.sum false (f32 d :: (a.zip b).map (fun p => p.1.mul p.2)))

/-- D of MMA, MMAT and MMAB, from the codes of both sides. -/
def mmaResult (g : Group) (f : FormatSlot) (td st : Nat) (ac bc : List (List Nat)) : Group :=
  let av := sideValues g f st 0 ac
  let bv := sideValues g f st 1 bc
  let ai := ac.map (fun r => r.map (elemInt f.elem))
  let bi := bc.map (fun r => r.map (elemInt f.elem))
  g.setRows td 0 (fun i => some (wordsBytes ((List.range 32).map (fun j =>
    mmaElement f (g.rowWord td i j) (av.getD i []) (bv.getD j []) (ai.getD i []) (bi.getD j [])))))

/-- D of MMAQ: three roundings in its fixed order (R224). -/
def mmaqElement (f : FormatSlot) (d wa wb : Word) (qa qb : List Int) : Word :=
  let (w, sg) := (intFmt f.elem).getD (8, true)
  let za := intOf sg w (wa.toNat / 2 ^ 16 % 2 ^ 8)
  let zb := intOf sg w (wb.toNat / 2 ^ 16 % 2 ^ 8)
  let dot := (qa.zip qb).foldl (fun s p => s + p.1 * p.2) 0
  let x := dot - zb * qa.foldl (· + ·) 0 - za * qb.foldl (· + ·) 0 + (matrixK f.elem : Int) * za * zb
  let y := toF32 ((FVal.ofInt x).mul (scaleOf f wa))
  let y := toF32 ((f32 y).mul (scaleOf f wb))
  toF32 ((f32 d).add (f32 y))

def mmaqResult (g : Group) (f : FormatSlot) (td st : Nat) (ac bc : List (List Nat)) : Group :=
  let qa := ac.map (fun r => r.map (elemInt f.elem))
  let qb := bc.map (fun r => r.map (elemInt f.elem))
  g.setRows td 0 (fun i => some (wordsBytes ((List.range 32).map (fun j =>
    mmaqElement f (g.rowWord td i j) (scaleWord g st 0 i 0) (scaleWord g st 1 j 0) (qa.getD i []) (qb.getD j [])))))

/-- The slot and the tiles of a matrix instruction fit (R219, R220, R222, R224). `st` is the scale-tile field. -/
def matrixOk (g : Group) (f : FormatSlot) (form td ta : Nat) (tb : Option Nat) (st : Nat) : Bool :=
  slotWellFormed f && matrixElem form f.elem &&
  (if form = 1 then f.asym && decide (f.scale = 2 ∧ 1 ≤ f.geom ∧ f.geom ≤ 3 ∧ matrixK f.elem ≤ blockLen f.geom) else !f.asym) &&
  decide (g.cfg td = accShape ∧ g.cfg ta = operandShape f.elem false ∧ td ≠ ta) &&
  (match tb with
    | some b => decide (g.cfg b = operandShape f.elem (form = 2) ∧ td ≠ b)
    | none => true) &&
  (if f.geom = 0 then decide (st = 0)
   else decide ((g.cfg st).valid ∧ (g.cfg st).ew = 3 ∧ (g.cfg st).rowb = 128 ∧ 2 * scaleBlocks f ≤ (g.cfg st).rows ∧ td ≠ st))

/-- All 32 lanes stand in the issuing run, else illegal convergence (R221). -/
def Ctx.converged (c : Ctx) (k : Verdict) : Verdict :=
  if c.run = BitVec.allOnes 32 then k else .trap { kind := 5, info := c.run, addr := c.cl.base }

/-- MMA, MMAQ and MMAT. -/
def matrix (s : State) (form : Nat) (d a b : BitVec 4) (sl : BitVec 3) (u : BitVec 6) : Host.Outcome State Fault Refusal :=
  issue s false (fun c =>
    let f := c.slot sl.toNat
    let st := u.toNat % 16
    let ts := [d.toNat, a.toNat, b.toNat] ++ (if f.geom = 0 then [] else [st])
    c.converged (c.tileUse false ts (matrixOk c.g f form d.toNat a.toNat (some b.toNat) st)
      (let ac := tileCodes c.g f.elem a.toNat
       let bc := if form = 2 then tileCodesT c.g f.elem b.toNat else tileCodes c.g f.elem b.toNat
       c.long ((c.base false).updGroup c.g.gid (fun g =>
         if form = 1 then mmaqResult g f d.toNat st ac bc else mmaResult g f d.toNat st ac bc)) true false [] .none [])))

def execMma (d a b : BitVec 4) (sl : BitVec 3) (u : BitVec 6) (s : State) : Host.Outcome State Fault Refusal := matrix s 0 d a b sl u
def execMmaq (d a b : BitVec 4) (sl : BitVec 3) (u : BitVec 6) (s : State) : Host.Outcome State Fault Refusal := matrix s 1 d a b sl u
def execMmat (d a b : BitVec 4) (sl : BitVec 3) (u : BitVec 6) (s : State) : Host.Outcome State Fault Refusal := matrix s 2 d a b sl u

/-! ## TOPS (R225, R226) -/

/-- A tile with EW 32-bit. -/
def is32 (f : TileCfg) : Bool := f.valid && decide (f.ew = 3)
/-- A tile that holds a vector of R rows in word column c. -/
def holdsVector (f : TileCfg) (rows c : Nat) : Bool := is32 f && decide (rows ≤ f.rows ∧ 4 * (c + 1) ≤ f.rowb)

def rowWords (g : Group) (t r w : Nat) : List Word := (List.range w).map (g.rowWord t r)

/-- A row operation into a vector: TRMAX, TRSUM. -/
def rowReduce (s : State) (d a : BitVec 4) (u : BitVec 6) (f : List Word → Option Word → Word) : Host.Outcome State Fault Refusal :=
  issue s false (fun c =>
    let fa := c.g.cfg a.toNat
    let col := u.toNat % 32
    let acc := u.getLsbD 5
    c.tileUse false [d.toNat, a.toNat] (is32 fa && holdsVector (c.g.cfg d.toNat) fa.rows col)
      (c.long ((c.base false).updGroup c.g.gid (fun g => g.setRows d.toNat (4 * col) (fun i =>
        if i < fa.rows then
          some (wordsBytes [f (rowWords g a.toNat i (fa.rowb / 4)) (if acc then some (g.rowWord d.toNat i col) else none)])
        else none))) true false [] .none []))

def execTrmax (d a _b : BitVec 4) (_sl : BitVec 3) (u : BitVec 6) (s : State) : Host.Outcome State Fault Refusal :=
  rowReduce s d a u (fun xs old =>
    match (match old with
      | some w => xs ++ [w]
      | none => xs) with
    | [] => 0
    | x :: rest => toF32 (rest.foldl (fun m y => m.maximum (f32 y)) (f32 x)))

def execTrsum (d a _b : BitVec 4) (_sl : BitVec 3) (u : BitVec 6) (s : State) : Host.Outcome State Fault Refusal :=
  rowReduce s d a u (fun xs old =>
    let sum := canonNan (foldTree (fun x y => toF32 ((f32 x).add (f32 y))) (xs.map some))
    match old with
    | some w => toF32 ((f32 w).add (f32 sum))
    | none => sum)

/-- A row operation with a vector: TRSCL, TEXP2, TMASK; the function gets the column, the element and v(i). -/
def rowMap (s : State) (d a b : BitVec 4) (u : BitVec 6) (f : Nat → Word → Word → Word) : Host.Outcome State Fault Refusal :=
  issue s false (fun c =>
    let fa := c.g.cfg a.toNat
    let col := u.toNat % 32
    c.tileUse false [d.toNat, a.toNat, b.toNat] (is32 fa && decide (c.g.cfg d.toNat = fa) && holdsVector (c.g.cfg b.toNat) fa.rows col)
      (c.long ((c.base false).updGroup c.g.gid (fun g => g.setRows d.toNat 0 (fun i =>
        if i < fa.rows then
          some (wordsBytes ((List.range (fa.rowb / 4)).map (fun j => f j (g.rowWord a.toNat i j) (g.rowWord b.toNat i col))))
        else none))) true false [] .none []))

def execTrscl (d a b : BitVec 4) (_sl : BitVec 3) (u : BitVec 6) (s : State) : Host.Outcome State Fault Refusal :=
  rowMap s d a b u (fun _ x v =>
    if u.getLsbD 5 then
      (if (f32 x).isNan then 0x7FC00000 else if (f32 v).isZero then 0 else toF32 ((f32 x).div (f32 v)))
    else toF32 ((f32 x).mul (f32 v)))

def execTexp2 (d a b : BitVec 4) (_sl : BitVec 3) (u : BitVec 6) (s : State) : Host.Outcome State Fault Refusal :=
  rowMap s d a b u (fun _ x v => if x = 0xFF800000 then 0 else exp2CR (toF32 ((f32 x).add (f32 v).neg)))

def execTmask (d a b : BitVec 4) (_sl : BitVec 3) (u : BitVec 6) (s : State) : Host.Outcome State Fault Refusal :=
  rowMap s d a b u (fun j x v => if v.toInt ≤ (j : Int) then 0xFF800000 else x)

def execTmov (d a _b : BitVec 4) (_sl : BitVec 3) (u : BitVec 6) (s : State) : Host.Outcome State Fault Refusal :=
  issue s false (fun c =>
    let fa := c.g.cfg a.toNat
    let fd := c.g.cfg d.toNat
    let w := u.toNat % 32
    c.tileUse false [d.toNat, a.toNat] (fa.valid && fd.valid && decide (fd.rows ≤ fa.rows ∧ 4 * w + fd.rowb ≤ fa.rowb))
      (c.long ((c.base false).updGroup c.g.gid (fun g => g.setRows d.toNat 0 (fun i =>
        if i < fd.rows then some (g.rowBytes a.toNat i (4 * w) fd.rowb) else none))) true false [] .none []))

/-- The element width code of a format's elements in a tile (R52). -/
def elemEw (elem : Nat) : Nat := match elemBits elem with
  | 4 => 0
  | 8 => 1
  | 16 => 2
  | _ => 3

/-- RoundTo an element format (R56 to R58). -/
def roundElem (elem mode : Nat) (sat : Bool) (draw : BitVec 64) (x : FVal) : Nat :=
  match fmtOf elem with
  | some f => f.round mode sat draw x
  | none => match intFmt elem with
    | some (w, sg) => intBits w (roundInt sg w mode draw x)
    | none => 0

/-- The states a generator takes: the first n draws, and the state after them (R42). -/
def draws : Nat → BitVec 64 → List (BitVec 64)
  | 0, _ => []
  | n + 1, g => genStep g :: draws n (genStep g)

/-- Putting element codes into a packed row from element lo on. -/
def packRow (w lo : Nat) (row : List Byte) (codes : List Nat) : List Byte :=
  let n := bytesNat row
  let out := (List.range codes.length).foldl (fun acc i =>
    let pos := w * (lo + i)
    let old := acc / 2 ^ pos % 2 ^ w
    acc - old * 2 ^ pos + (codes.getD i 0 % 2 ^ w) * 2 ^ pos) n
  natBytes row.length out

def execTcvt (d a _b : BitVec 4) (sl : BitVec 3) (u : BitVec 6) (s : State) : Host.Outcome State Fault Refusal :=
  issue s false (fun c =>
    let f := c.slot sl.toNat
    let e := f.elem
    let w := elemBits e
    let mode := u.toNat / 8
    let sat := u.getLsbD 2
    let p := u.toNat % 2
    let fa := c.g.cfg a.toNat
    let fd := c.g.cfg d.toNat
    let slotOk := slotWellFormed f && decide (f.geom = 0 ∧ e ≠ 12)
    let wide (x : TileCfg) : Bool := is32 x && decide (x.rowb = 128)
    let narrow (x : TileCfg) : Bool := x.valid && decide (x.ew = elemEw e ∧ 32 * (p + 1) * w ≤ 8 * x.rowb)
    if u.getLsbD 1 then
      c.tileUse false [d.toNat, a.toNat] (slotOk && narrow fa && wide fd && decide (fd.rows = fa.rows))
        (c.long ((c.base false).updGroup c.g.gid (fun g => g.setRows d.toNat 0 (fun i =>
          if i < fa.rows then
            some (wordsBytes ((List.range 32).map (fun k => toF32 (widenCode e (rowCode e (g.rowBytes a.toNat i 0 fa.rowb) (32 * p + k))))))
          else none))) true false [] .none [])
    else
      c.tileUse false [d.toNat, a.toNat] (slotOk && wide fa && narrow fd && decide (fd.rows = fa.rows))
        (let put (g : Group) : Group := g.setRows d.toNat 0 (fun i =>
           if i < fa.rows then
             let ds := draws 32 (g.lane i).gen
             some (packRow w (32 * p) (g.rowBytes d.toNat i 0 fd.rowb) ((List.range 32).map (fun k =>
               roundElem e mode sat (ds.getD k 0) (f32 (g.rowWord a.toNat i k)))))
           else none)
         let draw (g : Group) : Group := if mode = 5 then
             g.updLanes (maskOf (fun i => decide (i < fa.rows))) (fun _ l => { l with gen := (draws 32 l.gen).getLastD l.gen }) else g
         c.long ((c.base false).updGroup c.g.gid (fun g => draw (put g))) true false [] .none []))

end Sys2Proof.Machine
end

