-- ==== Sys2Proof/Machine/Engines.lean ====
section
/-! DEFINITION. Engine commands: the FE words of the copy, gather, chain and collective engines and MMAB's stream (uniform majors
22 to 25 and 84; R223, R227 to R238), and the engines' own steps (R70 to R72, R88, R228, R360). -/
namespace Sys2Proof.Machine

/-! ## Descriptors and ranges (R227, R71, R230) -/

/-- The first register of a descriptor of n registers. -/
def useDesc (d n : Nat) : Use := { legal := decide (104 ≤ d ∧ d + n ≤ 120), quota := true }

/-- The descriptor as read at issue. -/
def Ctx.desc (c : Ctx) (d : BitVec 7) (n : Nat) : List Word := (List.range n).map (fun i => c.readS (d.toNat - 104 + i))

def descWord (ws : List Word) (i : Nat) : Nat := (ws.getD i 0).toNat
def descPair (ws : List Word) (i : Nat) : Nat := descWord ws i + 2 ^ 32 * descWord ws (i + 1)

def Span.empty : Span := { base := 0, length := 0, pieces := some [] }

/-- How a range stands that is to lie wholly in a core's vault. -/
inductive VaultSide where
  | inside (pieces : List (Nat × Nat))
  | outside
  | fault (f : XFault) (addr : Nat)
deriving DecidableEq, Repr

/-- A range as it is translated at issue, page by page. DEDUCED (assumption log 74): the first page outside the vault ends the
translation, so that a later page's fault is not met (R230 with R363). -/
def State.vaultSide (s : State) (core inset : Nat) (need : Acc) (a n : Nat) : VaultSide :=
  let r := s.checkSpan inset need a n
  if !piecesInVault core r.1 then .outside
  else match r.2 with
    | some f => .fault f.1 f.2
    | none => .inside r.1

/-- A range that must lie wholly in the issuing core's vault (R71). -/
def Ctx.localSpan (c : Ctx) (need : Acc) (a n : Nat) (k : Span → Verdict) : Verdict :=
  match c.s.vaultSide (c.s.coreOf c.g) c.insetId need a n with
  | .outside => .trap { kind := 0x17, info := c.run, addr := a }
  | .fault f x => .trap (f.trap c.run x)
  | .inside ps => k { base := a, length := n, pieces := some ps }

/-- The two ends of a copy as judged at issue, with the pieces they have then. -/
structure CopyEnds where
  src : Span
  dst : Span
  reads : List (Nat × Nat)
  writes : List (Nat × Nat)
deriving DecidableEq, Repr

/-- The ends of a copy: alignment, overlap as named, and the vault side (R230). -/
def Ctx.copyEnds (c : Ctx) (sa sn da dn : Nat) : Except Trap CopyEnds :=
  if sa % 4 ≠ 0 ∨ da % 4 ≠ 0 ∨ (0 < sn ∧ 0 < dn ∧ sa < da + dn ∧ da < sa + sn) then .error { kind := 2, info := c.run, addr := c.cl.base }
  else
    let core := c.s.coreOf c.g
    match c.s.vaultSide core c.insetId .w da dn, c.s.vaultSide core c.insetId .r sa sn with
    | .inside dp, _ => .ok { src := { base := sa, length := sn, pieces := none }, dst := { base := da, length := dn, pieces := some dp },
                             reads := (c.s.checkSpan c.insetId .r sa sn).1, writes := dp }
    | _, .inside sp => .ok { src := { base := sa, length := sn, pieces := some sp }, dst := { base := da, length := dn, pieces := none },
                             reads := sp, writes := (c.s.checkSpan c.insetId .w da dn).1 }
    | .fault f x, _ => .error (f.trap c.run x)
    | .outside, .fault f x => .error (f.trap c.run x)
    | .outside, .outside => .error { kind := 0x17, info := c.run, addr := sa }

/-- The two ends of a copy command. The continuation gets both ends and the pieces they have at issue. -/
def Ctx.copySpans (c : Ctx) (sa sn da dn : Nat) (k : Span → Span → List (Nat × Nat) → List (Nat × Nat) → Verdict) : Verdict :=
  match c.copyEnds sa sn da dn with
  | .error t => .trap t
  | .ok e => k e.src e.dst e.reads e.writes

/-- A vault of this package holds the address. -/
def ownVault (phys : Nat) : Bool :=
  match backing phys with
  | .vault _ => true
  | _ => false

/-- A word or object a command names: it translates, and is aligned in a vault-backed page, else the event given; in another package's
vault it is not local (R67, R71). -/
def Ctx.named (c : Ctx) (need : Acc) (addr align kind : Nat) (k : Nat → Verdict) : Verdict :=
  if addr < 2 ^ 48 ∧ addr % align ≠ 0 then .trap { kind := kind, info := c.run, addr := addr }
  else match c.s.access c.insetId need addr 1 with
  | .error f => .trap (f.trap c.run addr)
  | .ok p =>
    if !objectOk align addr p then .trap { kind := kind, info := c.run, addr := addr }
    else if ownVault p then k p
    else .trap { kind := 0x17, info := c.run, addr := addr }

/-- A word of the issuing core's own vault: misaligned it is an illegal operand, elsewhere range not local. -/
def Ctx.localWord (c : Ctx) (need : Acc) (addr n : Nat) (k : Nat → Verdict) : Verdict :=
  if addr % n ≠ 0 then c.illegalOperand false
  else match c.s.access c.insetId need addr n with
    | .error f => .trap (f.trap c.run addr)
    | .ok p => if inVault (c.s.coreOf c.g) p n then k p else .trap { kind := 0x17, info := c.run, addr := addr }

/-- The barrier object of field A. -/
def Ctx.objectA (c : Ctx) (a : BitVec 7) (k : Nat → Verdict) : Verdict := c.named .w (c.spair a.toNat).toNat 16 0x16 k

/-! ## The command (R228) -/

/-- Ranges read and ranges written, marked. -/
def marked (reads writes : List (Nat × Nat)) : List (Nat × Nat × Bool) :=
  reads.map (fun p => (p.1, p.2, false)) ++ writes.map (fun p => (p.1, p.2, true))

/-- Ranges of the issuing vault, and the region of all ranges. -/
def Command.withRanges (cm : Command) (reads writes : List (Nat × Nat)) : Command :=
  let all := marked reads writes
  { cm with ranges := all.filter (fun r => inVault cm.core r.1 r.2.1), region := all }

/-- A command of the issuing group, without ranges; INFO of its engine faults holds major and variant (R339). -/
def Ctx.newCommand (c : Ctx) (kind channel info : Nat) (desc : List Word) (object : Option Nat) : Command :=
  let origin := c.s.recordOf c.g c.cl.index { kind := if kind = 10 then 0x21 else 0x20, info := BitVec.ofNat 32 info } false
  { id := c.s.fresh, core := c.s.coreOf c.g, gid := c.g.gid, grid := ((c.s.gridOf c.g).map (·.handle)).getD 0, inset := c.insetId,
    team := c.g.team, kind := kind, channel := channel, desc := desc, object := object, wp := none, ranges := [], region := [],
    state := .issued, order := 0, src := Span.empty, dst := Span.empty, list := Span.empty, progress := 0, inner := 0, delivered := 0,
    entries := [], begun := false, waiting := none, targets := [], stopAt := none, sequence := 0, matched := false, buffer := [],
    packages := 0, run := c.run, origin := origin }

/-- Some range of the command lies on another package. -/
def Command.remote (cm : Command) : Bool := (cm.region ++ cm.entries.flatMap (·.ranges)).any (fun r => (packageOf r.1).isSome)

/-- The issue of a command: a release of the issuer's writes at device scope, or system scope, which happen before all that the
command does (R81); the command then waits to be accepted. DESIGN CHOICE (assumption log 75): SVPART and MMAB are commands here as
the others are, so that their issue is such a release too. -/
def Ctx.command (c : Ctx) (cm : Command) : Verdict :=
  let scope := if cm.remote then 4 else 3
  c.charged (if c.s.unserved c.g.gid then .stall
    else c.gathered scope
      (let s := ((c.base false).release c.g.gid scope []).teach c.g.gid cm.id
       c.long { s with commands := s.commands ++ [cm], fresh := s.fresh + 1 } true false [] (.accept cm.id) []))

/-! ## CPY, CPYC, CPYM (R229 to R232) -/

/-- Greatest byte count of a command. -/
def lenMax : Nat := 0x7FFFFFFC

/-- The write-pointer word, where the form names one. -/
def Ctx.copyPointer (c : Ctx) (named : Bool) (addr : Nat) (k : Option Nat → Verdict) : Verdict :=
  if named then c.localWord .w addr 8 (fun p => k (some p)) else k none

def wpRange (wp : Option Nat) : List (Nat × Nat) := (wp.map (fun p => [(p, 8)])).getD []

def execCpy (d a : BitVec 7) (w ch : BitVec 1) (s : State) : Host.Outcome State Fault Refusal :=
  issue s false (fun c =>
    let n := if w = 1 then 7 else 5
    c.uses false [useDesc d.toNat n, useSPair a.toNat]
      (let ws := c.desc d n
       let len := descWord ws 4
       if len % 4 ≠ 0 ∨ lenMax < len then c.illegalOperand false
       else c.objectA a (fun obj => c.copyPointer (decide (w = 1)) (descPair ws 5) (fun wp =>
         c.copySpans (descPair ws 0) len (descPair ws 2) len (fun src dst sp dp =>
           c.command { (c.newCommand 0 ch.toNat (22 * 16) ws (some obj)).withRanges sp (dp ++ wpRange wp) with wp := wp, src := src, dst := dst })))))

/-- Bytes of n packed elements of a format (R51, R52). -/
def packedBytes (elem n : Nat) : Nat := if elem = 12 then n / 5 else n * elemBits elem / 8

def execCpyc (d a : BitVec 7) (w ch : BitVec 1) (s : State) : Host.Outcome State Fault Refusal :=
  issue s false (fun c =>
    let n := if w = 1 then 8 else 6
    c.uses false [useDesc d.toNat n, useSPair a.toNat]
      (let ws := c.desc d n
       let count := descWord ws 4
       let k := descWord ws 5
       let sf := c.slot (k % 8)
       let df := c.slot (k / 16 % 8)
       let slotOk (f : FormatSlot) : Bool := slotWellFormed f && decide (f.geom = 0)
       if k / 2 ^ 12 ≠ 0 ∨ k / 2 ^ 7 % 2 ≠ 0 ∨ k / 2 ^ 3 % 2 ≠ 0 ∨ 4 < k / 2 ^ 8 % 8 ∨ !slotOk sf ∨ !slotOk df ∨ df.elem = 12 ∨
          count % (if sf.elem = 12 then 40 else 8) ≠ 0 then c.illegalOperand false
       else c.objectA a (fun obj => c.copyPointer (decide (w = 1)) (descPair ws 6) (fun wp =>
         c.copySpans (descPair ws 0) (packedBytes sf.elem count) (descPair ws 2) (packedBytes df.elem count) (fun src dst sp dp =>
           c.command { (c.newCommand 2 ch.toNat (22 * 16 + 2) ws (some obj)).withRanges sp (dp ++ wpRange wp) with wp := wp, src := src, dst := dst })))))

/-- The cores that hold teams of a cluster of the grid resident on this package; a team that has been freed leaves its cluster
resident (R29, R232). -/
def State.partitionCores (s : State) (grid index : Nat) : List Nat :=
  match s.clusters.find? (fun c => decide (c.grid = grid ∧ c.index = index)) with
  | none => []
  | some cl =>
    let ts := s.clusterTeams cl.cid
    if ts.all (fun t => t.runs || decide (t.residency = .freed)) then (ts.filter (·.runs)).map (·.core) else []

/-- The destinations of a multicast: all of them, or the first mask bit that leaves the partition. -/
def Ctx.targets (c : Ctx) (ws : List Word) (grid len : Nat) : List Nat → List Target → Except Nat (List Target)
  | [], acc => .ok acc
  | i :: rest, acc =>
    let addr := (descPair ws 2 + i * descWord ws 5) % 2 ^ 64
    let r := c.s.checkSpan c.insetId .w addr len
    let cores := c.s.partitionCores grid (descWord ws 7 + i)
    if r.2.isNone && cores.any (fun k => piecesInVault k r.1) then
      c.targets ws grid len rest (acc ++ [{ bit := i, dst := { base := addr, length := len, pieces := some r.1 }, progress := 0, object := none }])
    else .error i

/-- The object of each destination, with .rbo. -/
def Ctx.targetObjects (c : Ctx) (rbo : Word) : List Target → List Target → (List Target → Verdict) → Verdict
  | [], acc, k => k acc
  | t :: rest, acc, k =>
    let addr := (((t.dst.base : Int) + rbo.toInt) % (2 ^ 64 : Nat)).toNat
    c.named .w addr 16 0x16 (fun p => c.targetObjects rbo rest (acc ++ [{ t with object := some p }]) k)

def execCpym (d a : BitVec 7) (r ch : BitVec 1) (s : State) : Host.Outcome State Fault Refusal :=
  issue s false (fun c =>
    let n := if r = 1 then 9 else 8
    c.uses false [useDesc d.toNat n, useSPair a.toNat]
      (let ws := c.desc d n
       let len := descWord ws 4
       let sa := descPair ws 0
       let bits := (List.range 16).filter (fun i => (ws.getD 6 0).getLsbD i)
       let clash (i : Nat) : Bool :=
         let da := (descPair ws 2 + i * descWord ws 5) % 2 ^ 64
         decide (0 < len ∧ sa < da + len ∧ da < sa + len)
       if len % 4 ≠ 0 ∨ lenMax < len ∨ descWord ws 5 % 64 ≠ 0 ∨ descWord ws 6 / 2 ^ 16 ≠ 0 ∨ descWord ws 7 / 2 ^ 20 ≠ 0 ∨
          0x7FFFFFFF < len * bits.length ∨ sa % 4 ≠ 0 ∨ descWord ws 2 % 4 ≠ 0 ∨ bits.any clash then c.illegalOperand false
       else c.objectA a (fun obj => c.localSpan .r sa len (fun src =>
         match c.targets ws (((c.s.gridOf c.g).map (·.handle)).getD 0) len bits [] with
         | .error i => .trap { kind := 0x22, info := BitVec.ofNat 32 i, addr := descPair ws 2 }
         | .ok ts =>
           let go (ts : List Target) : Verdict :=
             c.command { (c.newCommand 1 ch.toNat (22 * 16 + 1) ws (some obj)).withRanges (src.pieces.getD [])
                 (ts.flatMap (fun t => t.dst.pieces.getD [])) with
               src := src, targets := ts.map (fun t => { t with dst := { t.dst with pieces := none } }) }
           if r = 1 then c.targetObjects (ws.getD 8 0) ts [] go else go ts))))

/-! ## GATH, SCAT (R233) -/

def gather (s : State) (scatter : Bool) (d a : BitVec 7) : Host.Outcome State Fault Refusal :=
  issue s false (fun c =>
    c.uses false [useDesc d.toNat 9, useSPair a.toNat]
      (let ws := c.desc d 9
       let rowb := descWord ws 3
       let idx := descPair ws 4
       let count := descWord ws 6
       let buf := descPair ws 7
       if descWord ws 2 % 4 ≠ 0 ∨ rowb % 4 ≠ 0 ∨ rowb < 4 ∨ 65536 < rowb ∨ 65536 < count ∨ lenMax < count * rowb ∨ idx % 4 ≠ 0 ∨ buf % 4 ≠ 0 then
         c.illegalOperand false
       else c.objectA a (fun obj => c.localSpan .r idx (4 * count) (fun list =>
         c.localSpan (if scatter then .r else .w) buf (count * rowb) (fun b =>
           let cm := c.newCommand (if scatter then 4 else 3) 0 (23 * 16 + (if scatter then 1 else 0)) ws (some obj)
           let lp := list.pieces.getD []
           let bp := b.pieces.getD []
           let cm := if scatter then cm.withRanges (lp ++ bp) [] else cm.withRanges lp bp
           c.command { cm with list := list, src := if scatter then b else Span.empty, dst := if scatter then Span.empty else b })))))

def execGath (d a : BitVec 7) (s : State) : Host.Outcome State Fault Refusal := gather s false d a
def execScat (d a : BitVec 7) (s : State) : Host.Outcome State Fault Refusal := gather s true d a

/-! ## What an engine meets on its way (R86, R88, R228) -/

/-- Why an access of an engine does not perform. -/
inductive EngineFail where
  | fault (f : XFault) (addr : Nat)
  | poison (addr : Nat)
  | conflict (word : Nat)
  | overlap (addr : Nat)
  /-- No path leads to the memory for the moment (R352). -/
  | wait
deriving DecidableEq, Repr

/-- An access of a command conflicts (R86, R88): with a group's region, a pending write that does not happen before what the command
does, or another command's region, but for the vault ranges of commands of one core. -/
def State.engineConflict (s : State) (c : Command) (w : Nat) (write : Bool) : Bool :=
  s.tracks w && (
    s.groups.any (fun h => h.writes.contains w || (write && h.reads.contains w)) ||
    s.pendingWrites.any (fun p => decide (p.word = w) && !p.knownTo c.id) ||
    s.commands.any (fun d => decide (d.id ≠ c.id) && !(decide (d.core = c.core) && inVault c.core w 4) && d.stands w write))

/-- The physical pieces of n bytes of a span: those of the issue, or translated as the engine reaches them. -/
def State.reach (s : State) (c : Command) (need : Acc) (sp : Span) (off n : Nat) : Except EngineFail (List (Nat × Nat)) :=
  match sp.pieces with
  | some ps =>
    let q := slicePieces ps off n
    if need = .w && q.any (fun p => s.onTablePage p.1 p.2) then .error (.fault (s.tableFault c.inset) (sp.base + off)) else .ok q
  | none =>
    let r := s.checkSpan c.inset need (sp.base + off) n
    match r.2 with
    | some f => .error (.fault f.1 f.2)
    | none => if r.1.any (fun p => s.unreachable p.1) then .error .wait else .ok r.1

def State.engineClash (s : State) (c : Command) (ps : List (Nat × Nat)) (write : Bool) : Option Nat :=
  (pieceWords ps).find? (fun w => s.engineConflict c w write)

/-- The engine reads bytes of a span; tags stay out of it (R230). -/
def State.readSpan (s : State) (c : Command) (sp : Span) (off n : Nat) : Except EngineFail (List Byte) := do
  let ps ← s.reach c .r sp off n
  match s.mem.poisonOffset ps, s.engineClash c ps false with
  | some i, _ => .error (.poison (sp.base + off + i))
  | none, some w => .error (.conflict w)
  | none, none => .ok (s.mem.pieceBytes ps)

/-- The engine writes bytes of a span. -/
def State.writeSpan (s : State) (c : Command) (sp : Span) (off : Nat) (bs : List Byte) : Except EngineFail State := do
  let ps ← s.reach c .w sp off bs.length
  match s.engineClash c ps true with
  | some w => .error (.conflict w)
  | none =>
    let s := ps.foldl (fun s p => s.noteWrite c.gid p.1) (s.setMem (s.mem.storePieces ps bs))
    let pk := ps.foldl (fun (m : BitVec 64) p => match packageOf p.1 with
      | some k => m ||| (BitVec.ofNat 64 1 <<< k)
      | none => m) 0
    .ok (s.updCommand c.id (fun c => { c with packages := c.packages ||| pk }))

/-! ## Counting, ending and completing -/

/-- n more bytes of a command have been delivered: 1 unit per 256 of them (R366). -/
def State.deliver (s : State) (c : Command) (n : Nat) : State :=
  (s.updCommand c.id (fun c => { c with delivered := c.delivered + n })).chargeUnits c.inset ((c.delivered + n) / 256 - c.delivered / 256)

def State.arriveObject (s : State) (obj : Option Nat) (n : Nat) : State :=
  match obj with
  | some p => s.setMem (s.mem.boArrive p n)
  | none => s

def State.errorObject (s : State) (obj : Option Nat) (code : Word) : State :=
  match obj with
  | some p => s.setMem (s.mem.boError p code)
  | none => s

/-- One more, or one less, piece of asynchronous work of a grid on a core (R30). -/
def Grid.count (d : Grid) (core : Nat) : Nat := Sparse.get 0 d.counters core
def State.countWork (s : State) (grid core : Nat) (up : Bool) : State :=
  s.updGrid grid (fun d => { d with counters := Sparse.set 0 d.counters core (if up then d.count core + 1 else d.count core - 1) })

/-- The command leaves its engine: its entries go, the operation that waits for it goes on, a wait it holds is withdrawn. -/
def State.leaveEngine (s : State) (c : Command) : State :=
  let s := if c.state = .issued then s else s.countWork c.grid c.core false
  { s with
    commands := s.commands.filter (fun d => decide (d.id ≠ c.id)),
    ops := (s.ops.filter (fun o => decide (some o.id ≠ c.waiting))).map (fun o =>
      if o.wait = .accept c.id ∨ o.wait = .stream c.id then { o with wait := .none } else o) }

/-- The remainder below 256 bytes is charged at the end (R366). -/
def State.chargeRest (s : State) (c : Command) : State := if c.delivered % 256 = 0 then s else s.chargeUnits c.inset 1

/-- Ending a command early: the bytes delivered count as one arrival, then the object enters the error phase (R228). Each
unfinished destination of a multicast does the same with its own object. -/
def State.endCommand (s : State) (c : Command) (code : Word) (count : Bool) : State :=
  let s := (c.targets.filter (fun t => decide (t.progress < t.dst.length))).foldl (fun s t =>
    (if count then s.arriveObject t.object t.progress else s).errorObject t.object code) s
  let s := (if count && decide (c.kind ≠ 10) then s.arriveObject c.object c.delivered else s).errorObject c.object code
  ((s.chargeRest c).leaveEngine c).serve

/-- A failed access ends the command, with its record (R228, R233, R360, R88). -/
def State.failCommand (s : State) (c : Command) (f : EngineFail) : State :=
  let engine := decide (c.kind ≠ 10)
  match f with
  | .wait => s
  | .fault f a =>
    let access := decide (f.kind = 0x13)
    (s.endCommand c (if access then 4 else 3) true).post
      { c.origin with sub := if engine && access then 1 else 0, stage := f.stage, addr := a, route := f.owner }
  | .poison a => (s.endCommand c 5 true).post { c.origin with sub := if engine then 2 else 0, addr := a }
  | .overlap a => (s.endCommand c 8 true).post { c.origin with sub := 3, addr := a }
  | .conflict w => (s.endCommand c 7 true).post { c.origin with kind := 0x18, ack := true, sub := 3, info := c.run, addr := w }

/-- Nothing is left for a command to move. -/
def Command.finished (c : Command) : Bool :=
  if c.kind = 1 then c.targets.all (fun t => decide (t.dst.length ≤ t.progress))
  else if c.kind = 3 ∨ c.kind = 4 then decide (descWord c.desc 6 ≤ c.progress)
  else if c.kind = 5 then c.entries.isEmpty
  else if 6 ≤ c.kind ∧ c.kind ≤ 9 then c.matched && decide (c.dst.length ≤ c.progress)
  else if 10 ≤ c.kind then decide (c.src.length ≤ c.progress)
  else decide (c.dst.length ≤ c.progress)

/-- D of a matrix stream: its B, row r of 32 at r × ROWB(TA), takes the place of a tile (R223). -/
def Group.streamResult (g : Group) (c : Command) : Group :=
  let w (i : Nat) : Nat := descWord c.desc i
  let f := slotFields (BitVec.ofNat 64 (descPair c.desc 4))
  let rowb := (g.cfg (w 1)).rowb
  mmaResult g f (w 0) (w 2) (tileCodes g f.elem (w 1))
    ((List.range 32).map (fun r => rowCodes f.elem ((c.buffer.drop (r * rowb)).take rowb)))

/-- The command completes: a matrix stream writes D; the bytes count as one arrival; its entries are freed (R228). -/
def State.completeCommand (s : State) (c : Command) : State :=
  let s := if c.kind = 10 then s.updGroup c.gid (fun g => g.streamResult c) else s
  let s := s.arriveObject c.object (if c.kind = 10 then c.src.length else c.delivered)
  ((s.chargeRest c).leaveEngine c).serve

/-! ## MMAB (R223) -/

/-- A matrix stream lies wholly in the issuing core's vault as far as it translates; a page that does not is met by the stream (R223). -/
def Ctx.streamSpan (c : Ctx) (a n : Nat) (k : Span → List (Nat × Nat) → Verdict) : Verdict :=
  let ps := (c.s.checkSpan c.insetId .r a n).1
  if piecesInVault (c.s.coreOf c.g) ps then k { base := a, length := n, pieces := none } ps
  else .trap { kind := 0x17, info := c.run, addr := a }

def execMmab (d a b : BitVec 4) (sl : BitVec 3) (u : BitVec 6) (s : State) : Host.Outcome State Fault Refusal :=
  issue s false (fun c =>
    let f := c.slot sl.toNat
    let n := u.toNat % 16
    let ok := decide (u.toNat < 16 ∧ n % 2 = 0 ∧ n ≤ 12)
    let ts := [d.toNat, a.toNat] ++ (if f.geom = 0 then [] else [b.toNat])
    c.converged (c.tileUse false ts (ok && matrixOk c.g f 0 d.toNat a.toNat none b.toNat)
      (let base := (c.spair (104 + n)).toNat
       let len := 32 * (c.g.cfg a.toNat).rowb
       if 2 ^ 48 ≤ base then .trap { kind := 0x10, info := c.run, addr := base }
       else if base % 64 ≠ 0 then .trap { kind := 0x12, info := c.run, addr := base }
       else c.streamSpan base len (fun src ps => c.named .w (c.spair (104 + n + 2)).toNat 16 0x16 (fun obj =>
         let slot := ((c.s.gridOf c.g).map (fun g => g.launch.slots.getD sl.toNat 0)).getD 0
         let desc := [BitVec.ofNat 32 d.toNat, BitVec.ofNat 32 a.toNat, BitVec.ofNat 32 b.toNat, 0, slot.truncate 32, (slot >>> 32).truncate 32]
         c.command { (c.newCommand 10 0 0 desc (some obj)).withRanges ps [] with src := src })))))

/-! ## CHAIN (R234 to R236) -/

/-- One entry of 32 bytes. -/
def entryWord (bs : List Byte) (i j : Nat) : Nat := bytesNat ((bs.drop (32 * i + 4 * j)).take 4)

/-- The list up to its count or its first END, entry by entry; what stands behind is not read. -/
def readList (rd : Nat → Except EngineFail (List Byte)) : List Nat → List Byte → Except EngineFail (List Byte)
  | [], acc => .ok acc
  | i :: rest, acc => do
    let bs ← rd i
    if entryWord bs 0 0 % 8 = 0 then .ok (acc ++ bs) else readList rd rest (acc ++ bs)

/-- The entries checked one by one, up to the first END; the continuation gets them with the ranges they read and write. -/
def Ctx.chainEntries (c : Ctx) (bs : List Byte) : List Nat → Nat → List ChainEntry → (List ChainEntry → Verdict) → Verdict
  | [], _, acc, k => k acc
  | i :: rest, total, acc, k =>
    let n := entryWord bs i 1
    let x := entryWord bs i 2 + 2 ^ 32 * entryWord bs i 3
    let y := entryWord bs i 4 + 2 ^ 32 * entryWord bs i 5
    let op := entryWord bs i 0 % 8
    let e : ChainEntry := { op := op, n := n, x := x, y := BitVec.ofNat 64 y, v := BitVec.ofNat 32 (entryWord bs i 6), px := 0, py := 0,
                            src := Span.empty, dst := Span.empty, ranges := [] }
    if 8 ≤ entryWord bs i 0 ∨ entryWord bs i 7 ≠ 0 then c.illegalOperand false
    else match op with
      | 0 => k acc
      | 1 =>
        if n % 4 ≠ 0 ∨ lenMax < total + n then c.illegalOperand false
        else match c.copyEnds x n y n with
          | .error _ => c.illegalOperand false
          | .ok q => c.chainEntries bs rest (total + n) (acc ++ [{ e with src := q.src, dst := q.dst, ranges := marked q.reads q.writes }]) k
      | 2 => c.named .r x 16 0x16 (fun p => c.chainEntries bs rest total (acc ++ [{ e with px := p }]) k)
      | 3 => c.named .w x 16 0x16 (fun p => c.chainEntries bs rest total (acc ++ [{ e with px := p }]) k)
      | 4 =>
        if x % 4 ≠ 0 then .trap { kind := 0x12, info := c.run, addr := x }
        else c.named .w x 4 0x17 (fun p => c.chainEntries bs rest total (acc ++ [{ e with px := p }]) k)
      | 5 =>
        if x % 4 ≠ 0 then .trap { kind := 0x12, info := c.run, addr := x }
        else c.named .r x 4 0x17 (fun p => c.localWord .w y 4 (fun q =>
          c.chainEntries bs rest total (acc ++ [{ e with px := p, py := q, ranges := marked [] [(q, 4)] }]) k))
      | 6 => c.localWord .r x 8 (fun p => c.chainEntries bs rest total (acc ++ [{ e with px := p }]) k)
      | _ => c.localWord .w x 8 (fun p => c.chainEntries bs rest total (acc ++ [{ e with px := p, ranges := marked [] [(p, 8)] }]) k)

/-- An entry that waits for another party. -/
def ChainEntry.waits (e : ChainEntry) : Bool := decide (e.op = 2 ∨ 4 ≤ e.op ∧ e.op ≤ 6)

/-- The ranges of the entries before the next wait. DEDUCED (assumption log 76): R88 records a command's whole ranges from issue, and
R257 lets a WAITBO of the chain order a second step behind a command that is still running; so another engine meets an entry's
ranges once the waits before it have ended, and a thread meets them from issue. -/
def openRanges (es : List ChainEntry) : List (Nat × Nat × Bool) := (es.takeWhile (fun e => !e.waits)).flatMap (·.ranges)

/-- The ranges and the region of a chain (R236). -/
def Command.withEntries (cm : Command) (es : List ChainEntry) : Command :=
  { cm with entries := es, ranges := (es.flatMap (·.ranges)).filter (fun r => inVault cm.core r.1 r.2.1), region := openRanges es }

def execChain (d a : BitVec 7) (s : State) : Host.Outcome State Fault Refusal :=
  issue s false (fun c =>
    c.uses false [useDesc d.toNat 3, useSPair a.toNat]
      (let ws := c.desc d 3
       let addr := descPair ws 0
       let n := descWord ws 2
       if addr % 32 ≠ 0 ∨ n < 1 ∨ 8 < n then c.illegalOperand false
       else c.objectA a (fun obj => c.localSpan .r addr (32 * n) (fun list =>
         let cm := c.newCommand 5 0 (24 * 16) ws (some obj)
         let ends (op x : Nat) : Verdict := c.command { cm with
           entries := [{ op := op, n := 0, x := x, y := 0, v := 0, px := 0, py := 0, src := Span.empty, dst := Span.empty, ranges := [] }] }
         let s := ((c.base false).release c.g.gid 3 []).teach c.g.gid cm.id
         match readList (fun i => s.readSpan cm list (32 * i) 32) (List.range n) [] with
         | .error (.poison p) => ends 8 p
         | .error (.conflict w) => ends 9 w
         | .error _ => .stall
         | .ok bs => c.chainEntries bs (List.range (bs.length / 32)) 0 [] (fun es => c.command (cm.withEntries es))))))

/-! ## Collectives (R237, R238) -/

/-- Teams of the issuing cluster. -/
def Ctx.clusterSize (c : Ctx) : Nat := ((c.s.gridOf c.g).map (fun d => d.launch.width * d.launch.height)).getD 1

/-- Bytes of an element of the four formats a collective takes. -/
def collBytes (fmt : Nat) : Nat := if fmt = 1 ∨ fmt = 2 then 2 else 4

def collective (s : State) (variant : Nat) (d a : BitVec 7) : Host.Outcome State Fault Refusal :=
  issue s false (fun c =>
    c.uses false [useDesc d.toNat 6, useSPair a.toNat]
      (let ws := c.desc d 6
       let n := descWord ws 4
       let k := descWord ws 5
       let t := c.clusterSize
       let fmt := k % 64
       let root := k / 2 ^ 16 % 256
       let bytes := n * collBytes fmt
       if k / 2 ^ 24 ≠ 0 ∨ k / 2 ^ 10 % 64 ≠ 0 ∨ k / 2 ^ 6 % 4 ≠ 0 ∨ k / 2 ^ 8 % 4 = 3 ∨ !(fmt ≤ 2 ∨ fmt = 14) ∨ n < 1 ∨ 2 ^ 20 < n ∨ bytes % 4 ≠ 0 ∨
          (if variant = 3 then t ≤ root else root ≠ 0) ∨ descPair ws 0 % 4 ≠ 0 ∨ descPair ws 2 % 4 ≠ 0 then c.illegalOperand false
       else c.objectA a (fun obj =>
         c.localSpan .r (descPair ws 0) (if variant = 2 then t * bytes else bytes) (fun src =>
           c.localSpan .w (descPair ws 2) (if variant = 1 then t * bytes else bytes) (fun dst =>
             c.command { (c.newCommand (6 + variant) 0 (25 * 16 + variant) ws (some obj)).withRanges (src.pieces.getD []) (dst.pieces.getD []) with
               src := src, dst := dst })))))

def execAllred (d a : BitVec 7) (s : State) : Host.Outcome State Fault Refusal := collective s 0 d a
def execAllgath (d a : BitVec 7) (s : State) : Host.Outcome State Fault Refusal := collective s 1 d a
def execRedscat (d a : BitVec 7) (s : State) : Host.Outcome State Fault Refusal := collective s 2 d a
def execBcast (d a : BitVec 7) (s : State) : Host.Outcome State Fault Refusal := collective s 3 d a

/-- One step of a reduction on FP32 words, or INT32. -/
def reduceStep (fmt op : Nat) (acc x : Word) : Word :=
  if fmt = 14 then (if op = 0 then acc + x else if op = 1 then (if acc.slt x then acc else x) else (if acc.slt x then x else acc))
  else if op = 0 then toF32 ((f32 acc).add (f32 x))
  else if op = 1 then toF32 ((f32 acc).minimum (f32 x))
  else toF32 ((f32 acc).maximum (f32 x))

/-- The reduction of one element position, x in team order; its bytes in the format. -/
def reduceElement (fmt op : Nat) (codes : List Nat) : List Byte :=
  let xs := codes.map (fun n => if collBytes fmt = 2 then toF32 (widenCode fmt n) else BitVec.ofNat 32 n)
  let acc := match xs with
    | [] => 0
    | x :: rest => rest.foldl (reduceStep fmt op) x
  if collBytes fmt = 2 then natBytes 2 (roundElem fmt 0 false 0 (f32 acc)) else natBytes 4 acc.toNat

/-- The reduction of n elements from element lo of each source. -/
def reduceSources (fmt op lo n : Nat) (sources : List (List Byte)) : List Byte :=
  let b := collBytes fmt
  (List.range n).flatMap (fun j => reduceElement fmt op (sources.map (fun s => bytesNat ((s.drop ((lo + j) * b)).take b))))

/-- What a team's DST receives, from the sources in team order. -/
def collectiveBytes (kind t : Nat) (desc : List Word) (sources : List (List Byte)) : List Byte :=
  let n := descWord desc 4
  let k := descWord desc 5
  match kind with
  | 6 => reduceSources (k % 64) (k / 2 ^ 8 % 4) 0 n sources
  | 7 => sources.flatten
  | 8 => reduceSources (k % 64) (k / 2 ^ 8 % 4) (t * n) n sources
  | _ => sources.getD (k / 2 ^ 16 % 256) []

/-! ## ENGINE_COMMAND_ACCEPT, ENGINE_COMMAND_START (R30, R72, R228) -/

/-- The command holds a scoreboard entry. -/
def Command.accepted (c : Command) : Bool := decide (c.state = .accepted ∨ c.state = .running)

/-- A grid's asynchronous work on a core (R30): engine commands and Survey partials, and stores that have not performed. Remote signals
act within the step that sends them and count nothing behind it. -/
def State.workOn (s : State) (d : Grid) (core : Nat) : Nat :=
  d.count core + (s.pendingWrites.filter (fun p => decide (p.grid = d.handle ∧ p.core = core))).length

/-- The grid holds a counter entry of the core: it has work there, or a team seated there. -/
def State.holdsEntry (s : State) (core : Nat) (d : Grid) : Bool :=
  decide (0 < s.workOn d core) || (s.gridTeams d.handle).any (fun t => t.seated && decide (t.core = core))

/-- A counter entry of the core is held by the grid, or free for it (R11, R30). -/
def State.entryFor (s : State) (handle core : Nat) : Bool :=
  (s.grid? handle).any (s.holdsEntry core) || decide ((s.grids.filter (s.holdsEntry core)).length < Config.gridCounters)

/-- A scoreboard entry and a grid counter entry are free for the command. -/
def State.engineRoom (s : State) (c : Command) : Bool :=
  decide ((s.commands.filter (fun d => decide (d.core = c.core) && d.accepted)).length < Config.scoreboard) && s.entryFor c.grid c.core

/-- The k-th collective a team has issued (R237). -/
def State.nextCollective (s : State) (tid : Nat) : Nat := ((s.team? tid).map (·.collectives)).getD 0 + 1

/-- ENGINE_COMMAND_ACCEPT: the entries are taken and the flag may fall; a command of no bytes completes. -/
def execEngineCommandAccept (cmd : Nat) (s : State) : Host.Outcome State Fault Refusal :=
  match s.command? cmd with
  | none => .next s
  | some c =>
    if c.state ≠ .issued ∨ !s.engineRoom c then .next s
    else
      let coll := decide (6 ≤ c.kind ∧ c.kind ≤ 9)
      let c' := { c with state := .accepted, order := s.fresh, sequence := if coll then s.nextCollective c.team else 0 }
      let s := if coll then s.updTeam c.team (fun t => { t with collectives := t.collectives + 1 }) else s
      let s := ({ s with fresh := s.fresh + 1 }.updCommand cmd (fun _ => c')).countWork c.grid c.core true
      let wait : Waiting := if 10 ≤ c.kind then .stream cmd else .none
      let s := { s with ops := s.ops.map (fun o => if o.wait = .accept cmd then { o with wait := wait } else o) }
      if c'.finished && decide (c.kind ≠ 5 ∧ c.kind ≠ 11) then
        let s := c.targets.foldl (fun s t => s.arriveObject t.object 0) s
        .next (s.completeCommand c')
      else .next s

/-- Two ranges overlap in 64-byte lines, one of them written. -/
def rangesClash (a b : Nat × Nat × Bool) : Bool :=
  decide (0 < a.2.1 ∧ 0 < b.2.1 ∧ a.1 / 64 ≤ (b.1 + b.2.1 - 1) / 64 ∧ b.1 / 64 ≤ (a.1 + a.2.1 - 1) / 64) && (a.2.2 || b.2.2)

/-- No older command of the core conflicts with it (R72). -/
def State.mayBegin (s : State) (c : Command) : Bool :=
  !s.commands.any (fun d => decide (d.core = c.core ∧ d.id ≠ c.id ∧ d.order < c.order) && d.accepted &&
    d.ranges.any (fun a => c.ranges.any (rangesClash a)))

/-- ENGINE_COMMAND_START: a command begins once no older one of its core conflicts; a collective begins at its match. -/
def execEngineCommandStart (cmd : Nat) (s : State) : Host.Outcome State Fault Refusal :=
  match s.command? cmd with
  | none => .next s
  | some c =>
    if c.state = .accepted ∧ s.mayBegin c ∧ !(6 ≤ c.kind ∧ c.kind ≤ 9) then .next (s.updCommand cmd (fun c => { c with state := .running }))
    else .next s

/-! ## ENGINE_ACCESS (R70, R228 to R236) -/

/-- Bytes of a region leave its write set once counted (R230). -/
def cutRange (a n : Nat) (r : Nat × Nat × Bool) : List (Nat × Nat × Bool) :=
  if r.2.2 && decide (a < r.1 + r.2.1 ∧ r.1 < a + n) then
    [(r.1, a - r.1, true), (a + n, r.1 + r.2.1 - (a + n), true)].filter (fun q => decide (0 < q.2.1))
  else [r]

/-- A write-pointer step: the word rises by the bytes just delivered, and their lines are released (R70, R230). -/
def State.pointerStep (s : State) (c : Command) (dst : Span) (off n : Nat) : Except EngineFail State :=
  match c.wp with
  | none => .ok s
  | some w => do
    let ps ← s.reach c .w dst off n
    match s.engineClash c [(w, 8)] true with
    | some x => .error (.conflict x)
    | none =>
      .ok ((s.setMem (s.mem.putDword w ((s.mem.dword w).toNat + n))).updCommand c.id (fun c =>
        { c with region := ps.foldl (fun rs (p : Nat × Nat) => rs.flatMap (cutRange p.1 p.2)) c.region }))

/-- The next bytes of a range: a line's worth from its start, so that only the last step is shorter (R70). -/
def lineStep (dst : Span) (off : Nat) : Nat := min (dst.length - off) 64

/-- One step of a copy between two spans, from the bytes that it needs. -/
def State.copyStep (s : State) (c : Command) (src dst : Span) (off : Nat) (from_ : Nat → Nat → Nat × Nat)
    (f : Nat → Nat → List Byte → List Byte) : Except EngineFail State := do
  let n := lineStep dst off
  let q := from_ off n
  let bs ← s.readSpan c src q.1 q.2
  let s ← s.writeSpan c dst off (f off n bs)
  let s ← s.pointerStep c dst off n
  .ok ((s.updCommand c.id (fun c => { c with progress := c.progress + n })).deliver c n)

/-- Element formats of a converting copy: source and destination. -/
def State.copyFormats (s : State) (c : Command) : Nat × Nat :=
  let slot (n : Nat) : Nat := (slotFields (((s.grid? c.grid).map (fun d => d.launch.slots.getD n 0)).getD 0)).elem
  (slot (descWord c.desc 5 % 8), slot (descWord c.desc 5 / 16 % 8))

/-- Source bytes of destination bytes off to off + n (R231). -/
def convertFrom (se de off n : Nat) : Nat × Nat :=
  let j0 := off * 8 / elemBits de
  let j1 := (off + n) * 8 / elemBits de
  if se = 12 then (j0 / 5, (j1 + 4) / 5 - j0 / 5)
  else (j0 * elemBits se / 8, (j1 * elemBits se + 7) / 8 - j0 * elemBits se / 8)

/-- One element converted: between integers the low bits without SAT, else rounded and clamped (R58, R231). -/
def convertElem (se de mode : Nat) (sat : Bool) (code : Nat) : Nat :=
  match intFmt de, decide (se = 12) || (intFmt se).isSome with
  | some (w, _), true => if sat then roundElem de mode sat 0 (elemVal se code) else intBits w (elemInt se code)
  | _, _ => roundElem de mode sat 0 (elemVal se code)

/-- Converted elements, packed. -/
def convertBytes (se de mode : Nat) (sat : Bool) (off n : Nat) (bs : List Byte) : List Byte :=
  let j0 := off * 8 / elemBits de
  let count := n * 8 / elemBits de
  let first := if se = 12 then j0 / 5 * 5 else j0 * elemBits se / 8 * 8 / elemBits se
  packRow (elemBits de) 0 (List.replicate n 0) ((List.range count).map (fun j => convertElem se de mode sat (rowCode se bs (j0 - first + j))))

/-- A multicast's next line: one destination moves, chosen freely among the unfinished ones; the source is read once (R232). -/
def State.multicastStep (s : State) (c : Command) : Except EngineFail State :=
  let open_ := c.targets.filter (fun t => decide (t.progress < c.stopAt.getD t.dst.length))
  match (open_.find? (fun t => Config.freeBit s.oracle 72 t.bit)).orElse (fun _ => open_.head?) with
  | none =>
    let off := c.stopAt.getD 0
    match s.readSpan c c.src off ((c.targets.head?.map (fun t => lineStep t.dst off)).getD 0) with
    | .error f => .error f
    | .ok _ => .ok (s.updCommand c.id (fun c => { c with stopAt := none }))
  | some t =>
    let off := t.progress
    let n := lineStep t.dst off
    match (if off < c.buffer.length then .ok [] else s.readSpan c c.src off n) with
    | .error .wait => .error .wait
    | .error _ => .ok (s.updCommand c.id (fun c => { c with stopAt := some off }))
    | .ok more => do
      let buf := c.buffer ++ more
      let s ← s.writeSpan c t.dst off ((buf.drop off).take n)
      let done := decide (off + n = t.dst.length)
      let s := if done then s.arriveObject t.object t.dst.length else s
      .ok ((s.updCommand c.id (fun c => { c with
        buffer := buf, targets := c.targets.map (fun u => if u.bit = t.bit then { u with progress := off + n } else u) })).deliver c n)

/-- A gather or scatter reads the next index and translates its row, or moves the next line of the row (R233). -/
def State.gatherStep (s : State) (c : Command) : Except EngineFail State := do
  let scatter := decide (c.kind = 4)
  let rowb := descWord c.desc 3
  let bufSpan := if scatter then c.src else c.dst
  let bufp := bufSpan.pieces.getD []
  let c ← (if c.inner ≠ 0 then .ok c else do
    let bs ← s.readSpan c c.list (4 * c.progress) 4
    let row := (descPair c.desc 0 + bytesNat bs * descWord c.desc 2) % 2 ^ 64
    let ps := (s.checkSpan c.inset (if scatter then .w else .r) row rowb).1
    if ps.any (fun p => inVault c.core p.1 p.2 && bufp.any (fun b => decide (p.1 < b.1 + b.2 ∧ b.1 < p.1 + p.2))) then .error (.overlap row)
    else
      let sp : Span := { base := row, length := rowb, pieces := none }
      let c := { c with region := c.region ++ ps.map (fun (p : Nat × Nat) => (p.1, p.2, scatter)) }
      .ok (if scatter then { c with dst := sp } else { c with src := sp }) : Except EngineFail Command)
  let s := s.updCommand c.id (fun _ => c)
  let dof := if scatter then c.inner else c.progress * rowb + c.inner
  let sof := if scatter then c.progress * rowb + c.inner else c.inner
  let n := min (rowb - c.inner) (64 - (c.dst.base + dof) % 64)
  let bs ← s.readSpan c c.src sof n
  let s ← s.writeSpan c c.dst dof bs
  let s := s.updCommand c.id (fun c =>
    if c.inner + n = rowb then { c with progress := c.progress + 1, inner := 0 } else { c with inner := c.inner + n })
  .ok (s.deliver c n)

/-- The entry under way has completed; behind a wait, the region takes in the entries up to the next. -/
def State.nextEntry (s : State) (c : Command) : State :=
  let more := match c.entries with
    | e :: rest => if e.waits then e.ranges ++ openRanges rest else []
    | [] => []
  { s with ops := s.ops.filter (fun o => decide (some o.id ≠ c.waiting)) }.updCommand c.id (fun c =>
    { c with entries := c.entries.tail, region := c.region ++ more, begun := false, waiting := none, progress := 0 })

/-- What the wait of a chain entry has received, once it has been served. -/
def State.served (s : State) (c : Command) : Option (List RegWrite) :=
  match c.waiting.bind s.op? with
  | some o => if o.wait = .none then some o.results else none
  | none => none

def readValue (rs : List RegWrite) : Word := ((rs.head?).map (fun r => r.value)).getD 0

/-- The words an entry reads of what another party writes carry poison: their address in the issuing inset's space. -/
def State.entryPoison (s : State) (e : ChainEntry) : Option Nat :=
  (s.mem.poisonOffset [(e.px, if e.op = 2 ∨ e.op = 5 then 4 else if e.op = 6 then 8 else 0)]).map (e.x + ·)

/-- The next step of the entry under way, with its role at device scope (R235). An entry marked 8 or 9 is a list that met poison or a
conflict. -/
def State.chainStep (s : State) (c : Command) (e : ChainEntry) : Except EngineFail State :=
  let p := s.commandParty c
  match (if (s.served c).isSome then none else s.entryPoison e) with
  | some a => .error (.poison a)
  | none =>
  match e.op with
  | 1 =>
    if e.dst.length ≤ c.progress then .ok (s.nextEntry c)
    else do
      let s ← s.copyStep c e.src e.dst c.progress (fun o n => (o, n)) (fun _ _ bs => bs)
      .ok (if e.dst.length ≤ ((s.command? c.id).map (·.progress)).getD 0 then s.nextEntry c else s)
  | 2 =>
    match s.served c with
    | none => .error .wait
    | some rs =>
      if (readValue rs).getLsbD 31 then
        .ok (s.endCommand c (s.mem.word (e.px + 12)) true)
      else .ok (s.nextEntry c)
  | 3 =>
    match s.engineClash c [(e.px, 16)] true with
    | some w => .error (.conflict w)
    | none => .ok (((s.publish p 3 [.object e.px (s.mem.word e.px)]).setMem (s.mem.boArrive e.px e.n)).nextEntry c)
  | 5 =>
    match s.served c with
    | none => .error .wait
    | some rs =>
      match s.engineClash c [(e.py, 4)] true with
      | some w => .error (.conflict w)
      | none => .ok ((s.setMem (s.mem.putWord e.py (readValue rs))).nextEntry c)
  | 7 =>
    match s.engineClash c [(e.px, 8)] true with
    | some w => .error (.conflict w)
    | none => .ok (((s.publish p 3 [.word e.px]).setMem (s.mem.putDword e.px ((s.mem.dword e.px).toNat + e.n))).nextEntry c)
  | 8 => .error (.poison e.x)
  | 9 => .error (.conflict e.x)
  | _ =>
    match s.served c with
    | none => .error .wait
    | some _ => .ok (s.nextEntry c)

/-- A stream of a matrix instruction, or of a Survey partial, reads its next line into the unit (R223, R242). -/
def State.streamStep (s : State) (c : Command) : Except EngineFail State := do
  let n := lineStep c.src c.progress
  let bs ← s.readSpan c c.src c.progress n
  .ok ((s.updCommand c.id (fun c => { c with progress := c.progress + n, buffer := c.buffer ++ bs })).deliver c n)

/-- One access of a running command. -/
def State.engineStep (s : State) (c : Command) : Except EngineFail State :=
  match c.kind with
  | 0 => s.copyStep c c.src c.dst c.progress (fun o n => (o, n)) (fun _ _ bs => bs)
  | 1 => s.multicastStep c
  | 2 =>
    let f := s.copyFormats c
    let k := descWord c.desc 5
    s.copyStep c c.src c.dst c.progress (convertFrom f.1 f.2) (convertBytes f.1 f.2 (k / 2 ^ 8 % 8) (k.testBit 11))
  | 3 => s.gatherStep c
  | 4 => s.gatherStep c
  | 5 => match c.entries, c.begun with
    | e :: _, true => s.chainStep c e
    | _, _ => .error .wait
  | 10 => s.streamStep c
  | 11 => s.streamStep c
  | _ =>
    if !c.matched then .error .wait
    else do
      let n := lineStep c.dst c.progress
      let s ← s.writeSpan c c.dst c.progress ((c.buffer.drop c.progress).take n)
      .ok ((s.updCommand c.id (fun c => { c with progress := c.progress + n })).deliver c n)

/-- ENGINE_ACCESS: the next access performs, or the fault it meets ends the command; a full event buffer holds it (R301). -/
def execEngineAccess (cmd : Nat) (s : State) : Host.Outcome State Fault Refusal :=
  match s.command? cmd with
  | none => .next s
  | some c =>
    if c.state ≠ .running ∨ c.finished then .next s
    else match s.engineStep c with
      | .ok s' => .next s'.serve
      | .error f => if s.bufferFull then .next s else .next (s.failCommand c f)

/-! ## CHAIN_ENTRY_START (R236) -/

/-- The wait that an entry holds in its vault's table. -/
def ChainEntry.wait (e : ChainEntry) : Option Waiting :=
  let lane : TagLane := { lane := none, vaddr := e.x, address := e.px, lo := e.v, hi := 0 }
  match e.op with
  | 2 => some (.bo e.px e.v 0)
  | 4 => some (.tagged 3 4 3 0 [lane])
  | 5 => some (.tagged 1 4 3 0 [lane])
  | 6 => some (.pointer e.px e.y 0)
  | _ => none

/-- The access of a waiting entry conflicts as it arrives. -/
def State.entryConflict (s : State) (c : Command) (e : ChainEntry) : Option Nat :=
  match e.op with
  | 2 => s.engineClash c [(e.px, 16)] false
  | 4 => s.engineClash c [(e.px, 4)] true
  | 5 => s.engineClash c [(e.px, 4)] false
  | 6 => (wordsOf e.px 8).find? (fun w => s.tracks w && (s.groups.any (fun h => h.writes.contains w) ||
      s.pendingWrites.any (fun p => decide (p.word = w) && !p.knownTo c.id)))
  | _ => none

/-- CHAIN_ENTRY_START: the next entry begins; a wait takes its place in its vault's table, if there is one. -/
def execChainEntryStart (cmd : Nat) (s : State) : Host.Outcome State Fault Refusal :=
  match s.command? cmd with
  | none => .next s
  | some c =>
    match c.entries with
    | [] => .next s
    | e :: _ =>
      if c.kind ≠ 5 ∨ c.state ≠ .running ∨ c.begun then .next s
      else match e.wait with
        | none => .next (s.updCommand cmd (fun c => { c with begun := true, progress := 0 }))
        | some w =>
          let o : LongOp := { id := s.fresh, gid := 0, flag := 15, header := 0, index := 0, mask := 0, words := [], evtag := c.origin.evtag,
                              operands := [], results := [], wait := w, arrived := true, held := false, again := false, cycle := s.cycle, overtaken := [] }
          if Config.vaultWaits < s.tablePlaces (backing e.px) + 1 then .next s
          else match s.entryPoison e, s.entryConflict c e with
            | some a, _ => if s.bufferFull then .next s else .next (s.failCommand c (.poison a))
            | none, some x => if s.bufferFull then .next s else .next (s.failCommand c (.conflict x))
            | none, none =>
              let s := { s with ops := s.ops ++ [o], fresh := s.fresh + 1 }.updCommand cmd (fun c => { c with begun := true, waiting := some o.id })
              .next s.serve

/-! ## COLLECTIVE_MATCH (R237) -/

/-- The command of a team in the k-th collective. -/
def State.participant (s : State) (k tid : Nat) : Option Command :=
  s.commands.find? (fun c => decide (c.team = tid ∧ c.sequence = k ∧ 6 ≤ c.kind ∧ c.kind ≤ 9 ∧ !c.matched) && c.accepted)

/-- The team's groups have all exited before its k-th collective. -/
def State.leftBefore (s : State) (k : Nat) (t : Team) : Bool := decide (t.collectives < k) && !t.away && (s.teamGroups t.tid).all (·.exited)

/-- Two commands of one collective agree in variant, N, OP, FMT and ROOT. -/
def Command.agrees (c d : Command) : Bool :=
  decide (c.kind = d.kind ∧ descWord c.desc 4 = descWord d.desc 4 ∧ descWord c.desc 5 = descWord d.desc 5)

/-- COLLECTIVE_MATCH: the k-th commands of every team are there: they agree and go on, or all are cancelled. -/
def execCollectiveMatch (cmd : Nat) (s : State) : Host.Outcome State Fault Refusal :=
  match s.command? cmd with
  | none => .next s
  | some c =>
    if !(6 ≤ c.kind ∧ c.kind ≤ 9) ∨ c.state ≠ .accepted then .next s
    else
      let cid := ((s.team? c.team).map (·.cluster)).getD 0
      let t := ((s.grid? c.grid).map (fun d => d.launch.width * d.launch.height)).getD 0
      let teams := (List.range t).filterMap (fun i => (s.clusterTeams cid).find? (fun u => decide (u.index = i)))
      let there := teams.filterMap (fun u => s.participant c.sequence u.tid)
      let cancel (s : State) (cs : List Command) : State := cs.foldl (fun s d => s.endCommand d 7 false) s
      if teams.any (s.leftBefore c.sequence) then .next (cancel s there)
      else if there.length < teams.length then .next s
      else if there.any (fun d => !c.agrees d) then
        if s.bufferFull then .next s else .next ((cancel s there).post { c.origin with kind := 0x23, sub := 0, info := 0 })
      else if there.any (fun d => !s.mayBegin d) then .next s
      else
        let reads := there.map (fun d => (d, s.readSpan d d.src 0 d.src.length))
        match reads.find? (fun r => match r.2 with
          | .error _ => true
          | .ok _ => false) with
        | some (d, .error f) =>
          if s.bufferFull ∨ f = .wait then .next s
          else .next ((cancel s (there.filter (fun e => decide (e.id ≠ d.id)))).failCommand d f)
        | _ =>
          let sources := reads.map (fun r => match r.2 with
            | .ok bs => bs
            | .error _ => [])
          .next ((List.range there.length).foldl (fun s i =>
            match there[i]? with
            | some d => s.updCommand d.id (fun d => { d with state := .running, matched := true, buffer := collectiveBytes d.kind i d.desc sources })
            | none => s) s)

end Sys2Proof.Machine
end

