-- ==== Sys2Proof/Machine/Survey.lean ====
section
/-! DEFINITION. Page-major attention (R95 to R111) and the SV instructions (uniform major 26, R239 to R243): sweeps,
subscriptions, commits, staging and notices, partials in page order, finishing and cancelling. -/
namespace Sys2Proof.Machine

/-! ## Sweeps and handles (R96, R239, R240) -/

def Sweep.pagesAddr (w : Sweep) : Nat := descPair w.desc 1
def Sweep.count (w : Sweep) : Nat := descWord w.desc 3 % 2 ^ 16 + 1
def Sweep.tokens (w : Sweep) : Nat := descWord w.desc 0 / 2 ^ 16 % 256 + 1
def Sweep.dim (w : Sweep) : Nat := 32 * 2 ^ (descWord w.desc 0 / 16 % 4)

def sweepHandle (unit sequence : Nat) : Nat := unit * 2 ^ 13 + sequence

def State.survey (s : State) (u : Nat) : Survey := s.surveys.getD u Survey.reset
def State.updSurvey (s : State) (u : Nat) (f : Survey → Survey) : State := { s with surveys := s.surveys.modify u f }

/-- Where a handle's sweep stands. -/
inductive SweepPlace where
  | running | pending | last
deriving DecidableEq, Repr

/-- The sweep a handle names for grids of an inset: running, pending, or the unit's most recently finished one (R243). -/
def State.findSweep (s : State) (inset handle : Nat) : Option (SweepPlace × Sweep) :=
  let u := s.survey (handle / 2 ^ 13)
  let here (w : Sweep) : Bool := decide (w.sequence = handle % 2 ^ 13 ∧ w.inset = inset)
  match u.running.filter here, u.pending.filter here, u.last.filter here with
  | some w, _, _ => some (.running, w)
  | none, some w, _ => some (.pending, w)
  | none, none, some w => some (.last, w)
  | none, none, none => none

/-- The running or pending sweep of a unit changed. -/
def State.updSweep (s : State) (u : Nat) (p : SweepPlace) (f : Sweep → Sweep) : State :=
  s.updSurvey u (fun v => match p with
    | .running => { v with running := v.running.map f }
    | .pending => { v with pending := v.pending.map f }
    | .last => v)

def Sweep.updSub (w : Sweep) (i : Nat) (f : Subscription → Subscription) : Sweep := { w with subs := w.subs.modify i f }

/-! ## Which page comes next (R99 to R101, R108) -/

/-- Position of a page in a list. -/
def listIndex (p : Nat) : List Nat → Option Nat
  | [] => none
  | q :: rest => if q = p then some 0 else (listIndex p rest).map (· + 1)

/-- The next page that R100 delivers to a query: listed among the pages that the unit has not passed, at a position below the limit. -/
def Sweep.nextPage (w : Sweep) (q : Subscription) : Option Nat :=
  if q.finished then none
  else match q.list.find? (fun p => decide (w.next ≤ p)) with
    | none => none
    | some p => if (listIndex p q.list).getD 0 * w.tokens < q.limit then some p else none

/-- The lowest page that is still to be delivered to a query. -/
def Sweep.lowestPage (w : Sweep) : Option Nat :=
  (w.subs.filterMap w.nextPage).foldl (fun m p => some (match m with
    | none => p
    | some q => min p q)) none

/-- Positions of the queries in the subscriber set of a page. -/
def Sweep.subscribers (w : Sweep) (p : Nat) : List Nat :=
  (List.range w.subs.length).filter (fun i => match w.subs[i]? with
    | some q => decide (w.nextPage q = some p)
    | none => false)

/-- Reservations a query holds: pages due that are no holes. -/
def Subscription.reserved (q : Subscription) : Nat := q.due.length - q.masked.length

/-- Merge entries in use: accumulators of unfinished queries, and hold entries (R108). -/
def Sweep.entries (w : Sweep) : Nat := w.subs.foldl (fun n q => if q.finished then n else n + 1 + q.reserved) 0

/-- A notice of the unit waits for its port, which holds back every later page (R102). -/
def State.noticeWaits (s : State) (u : Nat) : Bool :=
  s.notices.any (fun n => decide (n.port = 0 ∧ ((n.words.headD 0).toNat / 2 ^ 19) % 8 = u))

/-- Slots of a ring in use on a core, by whichever sweep: a page of a cancelled one holds its slot until it lands (R110). -/
def Survey.slotsUsed (v : Survey) (core : Nat) (slots : List Nat) : List Nat :=
  (List.range 8).filter (fun k => v.staging.any (fun t => decide (t.core = core ∧ some t.phys = slots[k]?)))

/-- Staging slots and merge reservations are there for a page's subscriber set (R101, R108). -/
def Survey.room (v : Survey) (w : Sweep) (qs : List Nat) : Bool :=
  let subs := qs.filterMap (fun i => w.subs[i]?)
  subs.all (fun q => decide ((v.slotsUsed q.core q.slots).length < 8 ∧ q.reserved < 16)) && decide (w.entries + qs.length ≤ 4032)

/-- How the next page of the running sweep stands: nobody is to get one, it waits, it is a hole, it meets a fault, or its
64 KiB are there. -/
inductive NextPage where
  | nobody
  | waits
  | hole (p : Nat)
  | fails (p : Nat) (code : Word) (addr : Nat)
  | ready (p : Nat) (bytes : List Byte)
deriving DecidableEq, Repr

/-- FAULT code of a failed translation (R69). -/
def faultCode (f : XFault) : Word := if f.kind = 0x13 then 4 else 3

/-- The bytes of a range, or the fault reading it meets: code and address. -/
def State.fetchRange (s : State) (inset a n : Nat) : Except (Word × Nat) (List Byte) :=
  let r := s.checkSpan inset .r a n
  match r.2 with
  | some f => .error (faultCode f.1, f.2)
  | none => if r.1.any (fun p => s.mem.poisoned p.1 p.2) then .error (5, a) else .ok (s.mem.pieceBytes r.1)

/-- A range cannot be reached for the moment: no path leads to some part of it (R340, R352). -/
def State.rangeWaits (s : State) (inset : Nat) (need : Acc) (a n : Nat) : Bool := (s.checkSpan inset need a n).1.any (fun p => s.unreachable p.1)

def State.nextPage (s : State) (u : Nat) (w : Sweep) : NextPage :=
  let v := s.survey u
  match w.lowestPage with
  | none => .nobody
  | some p =>
    let room := v.room w (w.subscribers p) && !s.noticeWaits u
    let addr := w.pagesAddr + 8 * p
    if s.rangeWaits w.inset .r addr 8 then .waits
    else match s.fetchRange w.inset addr 8 with
    | .error e => if room then .fails p e.1 addr else .waits
    | .ok bs =>
      let e := bytesNat bs
      if e = 0 then .hole p
      else if !room then .waits
      else if e / 2 ^ 48 ≠ 0 ∨ e % 2 ^ 16 ≠ 0 then .fails p 3 addr
      else if s.rangeWaits w.inset .r e 0x10000 then .waits
      else match s.fetchRange w.inset e 0x10000 with
        | .error x => .fails p x.1 e
        | .ok page => .ready p page

/-! ## Merging and finishing (R107, R109) -/

def nonFinite (w : Word) : Bool := decide (w.toNat / 2 ^ 23 % 256 = 255)

def maskedPartial (dim : Nat) : Accumulator := { m := 0xFF800000, l := 0, o := List.replicate dim 0, nonfinite := false }

/-- A partial that sets NONFINITE. -/
def Accumulator.bad (b : Accumulator) : Bool :=
  (f32 b.m).isNan || decide (b.m = 0x7F800000) || nonFinite b.l || b.o.any nonFinite

/-- Merging a partial into an accumulator. DESIGN CHOICE (assumption log 80): a fully masked partial goes through R107's formula as any
other, which makes a -0 in a.l or a.o +0, where R95 calls the accumulator unchanged. -/
def Accumulator.merge (a b : Accumulator) : Accumulator :=
  let m := toF32 ((f32 a.m).maximum (f32 b.m))
  let weight (x : Word) : Word := if x = 0xFF800000 then 0 else exp2CR (toF32 ((f32 x).add (f32 m).neg))
  let alpha := weight a.m
  let beta := weight b.m
  let line (x y : Word) : Word := toF32 ((f32 (toF32 ((f32 x).mul (f32 alpha)))).add ((f32 y).mul (f32 beta)))
  let l := line a.l b.l
  let o := (a.o.zip b.o).map (fun p => line p.1 p.2)
  { m := m, l := l, o := o, nonfinite := nonFinite l || o.any nonFinite }

/-- The accumulator after the next partial of its query. -/
def mergePartial (acc : Option Accumulator) (b : Accumulator) : Accumulator :=
  match acc with
  | none => { b with nonfinite := b.bad }
  | some a => if a.nonfinite then a else if b.bad then { a with nonfinite := true } else a.merge b

/-- Element codes of the five output formats (R97). -/
def outputBytes (fmt : Nat) : Nat := if fmt = 0 then 4 else if fmt ≤ 2 then 2 else 1

/-- The output elements of a finished query, with its NONFINITE (2) or MASKED (1) flag. -/
def Subscription.result (q : Subscription) (dim : Nat) : List Nat × Nat :=
  let f := (fmtOf q.format).getD fp32
  match q.acc with
  | none => (List.replicate dim 0, 1)
  | some a =>
    if a.nonfinite then (List.replicate dim f.canonical, 2)
    else if (f32 a.l).isZero then (List.replicate dim 0, 1)
    else (a.o.map (fun o => f.rne ((f32 o).div (f32 a.l))), 0)

/-- Output bytes written line by line until a fault; the fault's code. -/
def State.writeLines (s : State) (inset : Nat) : Nat → Nat → List Byte → State × Option Word
  | 0, _, _ => (s, none)
  | fuel + 1, a, bs =>
    if bs.isEmpty then (s, none)
    else
      let n := min bs.length (64 - a % 64)
      let r := s.checkSpan inset .w a n
      match r.2 with
      | some f => (s, some (faultCode f.1))
      | none => ((s.charge (pieceWords r.1) none).setMem (s.mem.storePieces r.1 (bs.take n))).writeLines inset fuel (a + n) (bs.drop n)

/-- The qmg notice of a query to the team that issued its SVSUB (R109). -/
def State.mergeNotice (s : State) (u : Nat) (w : Sweep) (q : Subscription) (flags : Nat) : State :=
  s.toPort q.owner 1 [BitVec.ofNat 32 (flags * 2 ^ 16 + q.query), BitVec.ofNat 32 (u * 2 ^ 16 + sweepHandle u w.sequence)]

/-- A query is finished: its entries are freed. -/
def State.endQuery (s : State) (u i : Nat) : State :=
  s.updSweep u .running (fun w => w.updSub i (fun q => { q with finished := true, due := [], masked := [], held := [], acc := none }))

/-- A query's output is written and counted, and its notice pushed (R109). -/
def State.finishQuery (s : State) (u : Nat) (w : Sweep) (i : Nat) (q : Subscription) : State :=
  let r := q.result w.dim
  let bytes := r.1.flatMap (natBytes (outputBytes q.format))
  let out := s.writeLines w.inset (bytes.length + 1) q.output bytes
  let s := match out.2 with
    | some code => out.1.errorObject (some q.object) code
    | none => out.1.arriveObject (some q.object) bytes.length
  ((s.mergeNotice u w q (r.2 + (if out.2.isSome then 4 else 0))).endQuery u i).serve

/-- SVCLOSE was issued for the sweep, and all its accepted queries have finished. -/
def Sweep.over (w : Sweep) : Bool := w.closed && w.subs.all (·.finished)

/-- A sweep that is over closes, running or pending (R96). -/
def State.checkClose (s : State) (u : Nat) : State :=
  let s := match (s.survey u).running with
    | none => s
    | some w =>
      if w.over then s.updSurvey u (fun v => { v with running := none, last := some { w with next := if w.cancelled then w.next else w.count } })
      else s
  match (s.survey u).pending with
  | none => s
  | some w => if w.over then s.updSurvey u (fun v => { v with pending := none, last := some w }) else s

/-- A query's output can be written: a path leads to it (R340, R352). -/
def State.outputUp (s : State) (w : Sweep) (q : Subscription) : Bool :=
  !s.rangeWaits w.inset .w q.output (w.dim * outputBytes q.format)

/-- A query with nothing left to merge and nothing left to be delivered finishes, once a page was delivered to it or the unit has
passed its last one (R100, R109); one that is barred does not (R106). -/
def State.checkQuery (s : State) (u i : Nat) : State :=
  match (s.survey u).running with
  | none => s
  | some w =>
    match w.subs[i]? with
    | none => s
    | some q =>
      if !q.finished && q.due.isEmpty && decide (w.nextPage q = none) && (q.served || decide (q.list.getLastD 0 < w.next)) && !q.barred && s.outputUp w q then
        (s.finishQuery u w i q).checkClose u
      else s

def State.checkQueries (s : State) (u n : Nat) : State := (List.range n).foldl (fun s i => s.checkQuery u i) s

/-- The next partial of a query in page order is merged, where it is there. -/
def State.mergeNext (s : State) (u i : Nat) : Option State :=
  match (s.survey u).running with
  | none => none
  | some w =>
    match w.subs[i]? with
    | none => none
    | some q =>
      match q.due with
      | [] => none
      | p :: rest =>
        match findKey q.held p with
        | none => none
        | some b =>
          let acc := mergePartial q.acc b
          some ((s.updSweep u .running (fun w => w.updSub i (fun q =>
            { q with acc := some acc, due := rest, masked := q.masked.erase p, held := q.held.filter (fun e => decide (e.1 ≠ p)) }))).checkQuery u i)

def State.mergeAll (s : State) (u i : Nat) : Nat → State
  | 0 => s
  | n + 1 => match s.mergeNext u i with
    | none => s
    | some s' => s'.mergeAll u i n

/-- The slot of a page no longer waits for a query. -/
def Survey.settleSlot (v : Survey) (w : Sweep) (i page : Nat) : Survey :=
  let posted := v.staging.map (fun t => if t.sweep = w.sequence ∧ t.page = page then { t with owed := t.owed.erase i } else t)
  { v with staging := posted.filter (fun t => !t.landed || !t.owed.isEmpty) }

/-- A partial is posted: it waits in its hold entry, and its staging slot may free (R105, R108). -/
def State.postPartial (s : State) (u i p : Nat) (b : Accumulator) : State :=
  let s := s.updSweep u .running (fun w => w.updSub i (fun q => if q.finished then q else { q with held := q.held ++ [(p, b)] }))
  match (s.survey u).running with
  | none => s
  | some w =>
    s.updSurvey u (fun v => v.settleSlot w i p)

/-! ## Events of the units -/

/-- SWEEP_START: a pending sweep starts once the unit runs none (R96). -/
def execSweepStart (unit : BitVec 3) (s : State) : Host.Outcome State Fault Refusal :=
  let v := s.survey unit.toNat
  match v.running, v.pending with
  | none, some w => .next ((s.updSurvey unit.toNat (fun v => { v with running := some w, pending := none })).checkClose unit.toNat)
  | _, _ => .next s

/-- A page is committed: its subscribers are due it. -/
def Sweep.commit (w : Sweep) (p : Nat) (hole : Bool) : Sweep :=
  let qs := w.subscribers p
  { w with
    highest := some p, next := max w.next (p + 1), committed := if hole then w.committed else w.committed + 1,
    subs := w.subs.mapIdx (fun i q => if qs.contains i then
      { q with due := q.due ++ [p], served := true, masked := if hole then q.masked ++ [p] else q.masked } else q) }

/-- The lowest slot of a core's ring that is free. -/
def lowestFree (used : List Nat) : Nat := ((List.range 8).find? (fun k => !used.contains k)).getD 0

/-- The unit passes a page that nobody is to get: it is skipped for good, and queries whose last listed page has been passed complete
(R100). -/
def State.passPage (s : State) (u : Nat) (w : Sweep) : State :=
  (s.updSweep u .running (fun w => { w with next := min (w.next + 1) w.count })).checkQueries u w.subs.length

/-- PAGE_COMMIT: the next page that has subscribers is fetched once and sent to their cores, and the pages before it are skipped; with
nobody to get a page, the unit passes the next one. -/
def execPageCommit (unit : BitVec 3) (s : State) : Host.Outcome State Fault Refusal :=
  let u := unit.toNat
  let v := s.survey u
  match v.running with
  | none => .next s
  | some w =>
    match s.nextPage u w with
    | .nobody => .next (s.passPage u w)
    | .ready p bytes =>
      let qs := w.subscribers p
      let cores := (qs.filterMap (fun i => (w.subs[i]?).map (fun q => q.core))).eraseDups
      let stage (core : Nat) : Staging :=
        let mine := qs.filter (fun i => decide ((w.subs[i]?).map (fun q => q.core) = some core))
        let ring := (((mine.head?).bind (fun i => w.subs[i]?)).map (fun q => q.slots)).getD []
        let slot := lowestFree (v.slotsUsed core ring)
        { sweep := w.sequence, core := core, slot := slot, page := p, bytes := bytes, landed := false, owed := mine, told := [],
          phys := ring.getD slot 0 }
      .next ((s.updSurvey u (fun v => { v with
        running := some { w.commit p false with fetched := w.fetched + 1 }, staging := v.staging ++ cores.map stage })).checkQueries u w.subs.length)
    | _ => .next s

/-- HOLE_COMMIT: a hole counts as merged with a fully masked partial (R95). -/
def execHoleCommit (unit : BitVec 3) (s : State) : Host.Outcome State Fault Refusal :=
  let u := unit.toNat
  match (s.survey u).running with
  | none => .next s
  | some w =>
    match s.nextPage u w with
    | .hole p =>
      let qs := w.subscribers p
      let s := s.updSurvey u (fun v => { v with running := some (w.commit p true) })
      let s := qs.foldl (fun s i => s.postPartial u i p (maskedPartial w.dim)) s
      .next ((qs.foldl (fun s i => s.mergeAll u i (w.count + 1)) s).checkQueries u w.subs.length)
    | _ => .next s

/-- A destination team has been freed (R102). -/
def State.teamGone (s : State) (tid : Nat) : Bool := match s.team? tid with
  | some t => decide (t.residency = .freed)
  | none => true

/-- PAGE_ARRIVAL: the oldest page on its way to a core lands in its slot, and its notices go to the teams (R102, R393). -/
def execPageArrival (unit : BitVec 3) (core : BitVec 8) (s : State) : Host.Outcome State Fault Refusal :=
  let u := unit.toNat
  let v := s.survey u
  match v.staging.find? (fun t => decide (t.core = core.toNat) && !t.landed) with
  | none => .next s
  | some t =>
    let s := (s.charge (wordsOf t.phys 0x10000) none).setMem (s.mem.store t.phys t.bytes)
    let here := v.running.filter (fun w => decide (w.sequence = t.sweep))
    match here with
    | none => .next (s.updSurvey u (fun v => { v with staging := v.staging.erase t })).serve
    | some w =>
      let s := s.updSurvey u (fun v => { v with staging := v.staging.map (fun x => if x = t then { t with landed := true, bytes := [] } else x) })
      let teams := (t.owed.filterMap (fun i => (w.subs[i]?).map (fun q => q.team))).eraseDups
      let subsOf (tid : Nat) : Word := t.owed.foldl (fun m i => match w.subs[i]? with
        | some q => if q.team = tid then m ||| (1 <<< q.number) else m
        | none => m) 0
      let w0 := u * 2 ^ 19 + t.slot * 2 ^ 16 + t.page
      let notify (s : State) (tid : Nat) : State :=
        let words := [BitVec.ofNat 32 w0, subsOf tid]
        let s' : State := s.toPort tid 0 words
        if decide (s'.notices = s.notices) && !s.teamGone tid then s'.tell tid w0 else s'
      .next (teams.foldl notify s).serve

/-- PAGE_FETCH_FAULT: nothing is sent; every subscriber of the page finishes with FAULT (R103). DESIGN CHOICE (assumption log 81):
SVSTAT counts the page neither as fetched nor as skipped. -/
def execPageFetchFault (unit : BitVec 3) (s : State) : Host.Outcome State Fault Refusal :=
  let u := unit.toNat
  match (s.survey u).running with
  | none => .next s
  | some w =>
    match s.nextPage u w with
    | .fails p code addr =>
      if s.bufferFull then .next s
      else
        let qs := w.subscribers p
        let s := s.updSurvey u (fun v => { v with running := some (w.commit p false) })
        let s := qs.foldl (fun s i => match w.subs[i]? with
          | some q => ((s.errorObject (some q.object) code).mergeNotice u w q 4).endQuery u i
          | none => s) s
        let s := match s.inset? w.inset with
          | some x => s.post (insetRecord x 0x24 0 (BitVec.ofNat 32 (u * 2 ^ 16 + p)) addr)
          | none => s
        .next (((s.checkQueries u w.subs.length).checkClose u).serve)
    | _ => .next s

/-- The pages of which a freed team has received no notice count as fully masked (R102); a slot whose notice it left unpopped stays
held (R281). -/
def State.maskFreed (s : State) (u i : Nat) : State :=
  match (s.survey u).running with
  | none => s
  | some w =>
    match w.subs[i]? with
    | none => s
    | some q =>
      if s.teamGone q.team then
        let owed := (s.survey u).staging.filter (fun t => decide (t.sweep = w.sequence) && t.landed && t.owed.contains i && !t.told.contains q.team)
        owed.foldl (fun s t => s.postPartial u i t.page (maskedPartial w.dim)) s
      else s

/-- PARTIAL_MERGE: the next partial of a query in page order is merged (R107). -/
def execPartialMerge (unit : BitVec 3) (sub : Nat) (s : State) : Host.Outcome State Fault Refusal :=
  let s' := s.maskFreed unit.toNat sub
  match s'.mergeNext unit.toNat sub with
  | none => .next (s'.checkQuery unit.toNat sub)
  | some t => .next t

/-! ## SVPART and its taking (R105, R106, R242) -/

/-- Bytes of a partial record of the unit its first word names. -/
def State.partialBytes (s : State) (w0 : Nat) : Nat :=
  16 + (((s.survey (w0 / 2 ^ 21 % 8)).running).map (fun w => 4 * w.dim)).getD 0

def execSvpart (d : BitVec 7) (s : State) : Host.Outcome State Fault Refusal :=
  issue s false (fun c =>
    c.uses false [useDesc d.toNat 2]
      (let ws := c.desc d 2
       let addr := descPair ws 0
       let lane := (lanesOf c.run).headD 0
       c.checkAccess false [.r] 16 [(lane, addr)] (fun as =>
         let w0 := c.s.mem.word ((as.head?.map (·.phys)).getD 0)
         let n := c.s.partialBytes w0.toNat
         let r := c.s.checkSpan c.insetId .r addr n
         match r.2 with
         | some f => .trap (f.1.trap c.run f.2)
         | none =>
           let cm := c.newCommand 11 0 0 ws none
           let origin := { cm.origin with kind := 0x25, sub := 0, info := 0, addr := addr }
           if piecesInVault (c.s.coreOf c.g) r.1 then
             c.command { (cm.withRanges r.1 []) with src := { base := addr, length := n, pieces := some r.1 }, origin := origin }
           else c.command { cm with origin := origin, desc := ws ++ [w0] })))

/-- The query a partial is for: of the running sweep, destined to the team that posted it, with the local number. -/
def Sweep.subOf (w : Sweep) (tid number : Nat) : Option Nat :=
  (List.range w.subs.length).find? (fun i => match w.subs[i]? with
    | some q => decide (q.team = tid ∧ q.number = number)
    | none => false)

/-- A notice delivered the page to the query of a sweep, and its partial has not been posted. -/
def Survey.delivered (v : Survey) (w : Sweep) (i page tid : Nat) : Bool :=
  v.staging.any (fun t => decide (t.sweep = w.sequence ∧ t.page = page) && t.landed && t.owed.contains i && t.told.contains tid)

/-- The unit takes a partial record: it is posted, or refused with an event, and the query it names cannot finish then (R106). One of a
query that a fetch fault has ended, or of a cancelled sweep, is discarded (R103, R110). -/
def State.takePartial (s : State) (c : Command) : State :=
  let bs := c.buffer
  let word (i : Nat) : Nat := bytesNat ((bs.drop (4 * i)).take 4)
  let w0 := if bs.isEmpty then descWord c.desc 2 else word 0
  let u := w0 / 2 ^ 21 % 8
  let p := w0 % 2 ^ 16
  let number := w0 / 2 ^ 16 % 32
  let v := s.survey u
  let formed (w : Sweep) : Bool := decide (bs.length = 16 + 4 * w.dim ∧ w0 / 2 ^ 24 = 0 ∧ word 3 = 0)
  let here (o : Option Sweep) : Option (Sweep × Nat) := o.bind (fun w => (w.subOf c.team number).map (fun i => (w, i)))
  let late := (here v.last).filter (fun x => formed x.1 && v.delivered x.1 x.2 p c.team)
  match here v.running, late with
  | some (w, i), _ =>
    if formed w && v.delivered w i p c.team then
      s.postPartial u i p
        { m := BitVec.ofNat 32 (word 1), l := BitVec.ofNat 32 (word 2),
          o := (List.range w.dim).map (fun j => BitVec.ofNat 32 (word (4 + j))), nonfinite := false }
    else match late with
      | some (w, i) => s.updSurvey u (fun v => v.settleSlot w i p)
      | none => (s.post c.origin).updSweep u .running (fun w => w.updSub i (fun q => { q with barred := true }))
  | none, some (w, i) => s.updSurvey u (fun v => v.settleSlot w i p)
  | none, none => if v.running.isNone && (v.last.map (·.cancelled)).getD false && !bs.isEmpty then s else s.post c.origin

/-- ENGINE_COMMAND_COMPLETE (R228, R94): after the last byte, and after the command's own markers, the arrival counts; a Survey
partial goes to its unit. -/
def execEngineCommandComplete (cmd : Nat) (s : State) : Host.Outcome State Fault Refusal :=
  match s.command? cmd with
  | none => .next s
  | some c =>
    if c.state ≠ .running ∨ !c.finished then .next s
    else if c.kind = 11 then (if s.bufferFull then .next s else .next ((s.takePartial c).leaveEngine c))
    else if c.packages ≠ 0 then .next ((s.sendMarkers cmd c.packages).getD s)
    else .next (s.completeCommand c)

/-! ## SVSWEEP, SVSUB (R96 to R99, R240, R241) -/

def execSvsweep (d : BitVec 7) (s : State) : Host.Outcome State Fault Refusal :=
  issue s false (fun c =>
    c.uses false [useDesc d.toNat 5]
      (let ws := c.desc d 5
       let w0 := descWord ws 0
       let u := w0 % 8
       if w0 / 2 ^ 11 % 32 ≠ 0 ∨ w0 / 2 ^ 6 % 4 ≠ 0 ∨ w0 / 8 % 2 ≠ 0 ∨ descWord ws 3 / 2 ^ 16 ≠ 0 ∨ descWord ws 1 % 8 ≠ 0 then c.illegalOperand false
       else
         let v := c.s.survey u
         let s := c.base false
         if v.running.isSome && v.pending.isSome then c.long s true false [uniResult d.toNat (6 <<< 24)] .none []
         else
           let w : Sweep := { sequence := v.sequence, inset := c.insetId, desc := ws, next := 0, highest := none, fetched := 0, committed := 0,
                              closed := false, cancelled := false, subs := [] }
           let s := State.checkClose (u := u) <| s.updSurvey u (fun v => { v with
             sequence := if v.sequence = 8191 then 1 else v.sequence + 1,
             running := if v.running.isSome then v.running else if v.pending.isSome then v.pending else some w,
             pending := if v.running.isSome ∨ v.pending.isSome then some w else none })
           c.long s true false [uniResult d.toNat (BitVec.ofNat 32 (sweepHandle u v.sequence))] .none []))

/-- The destination team of a subscription: of the issuer's own cluster, else of the grid's lowest cluster, on that core (R102). -/
def Ctx.destination (c : Ctx) (core : Nat) : Option Nat :=
  let holds (t : Team) : Bool := decide (t.core = core ∧ t.residency ≠ .freed)
  let own := (((c.s.clusterOf c.g).map (fun cl => c.s.clusterTeams cl.cid)).getD []).find? holds
  let grid := ((c.s.gridOf c.g).map (·.handle)).getD 0
  let byIndex := (c.s.gridClusters grid).filterMap (fun cl => ((c.s.clusterTeams cl.cid).find? holds).map (fun t => (cl.index, t.tid)))
  match own with
  | some t => some t.tid
  | none => (byIndex.foldl (fun (m : Option (Nat × Nat)) e => match m with
      | none => some e
      | some b => if e.1 < b.1 then some e else m) none).map (·.2)

/-- Strictly rising, and below a bound. -/
def risingBelow (n : Nat) (xs : List Nat) : Bool := xs.Pairwise (· < ·) && xs.all (· < n)

/-- The physical slots of a staging ring that lies in a core's vault (R97). DESIGN CHOICE (assumption log 78): the ring is translated at
acceptance, without a permission, and the subscription keeps these slots. -/
def State.ringSlots (s : State) (inset core ring : Nat) : Option (List Nat) :=
  let ps := (List.range 8).filterMap (fun i => match s.translate inset [] (ring + 0x10000 * i) with
    | .ok t => if inVault core t.phys 0x10000 then some t.phys else none
    | .error _ => none)
  if ring % 0x10000 = 0 ∧ ring + 0x80000 ≤ 2 ^ 48 ∧ ps.length = 8 then some ps else none

/-- The status of a subscription (R98, R99). DESIGN CHOICE (assumption log 77): one to a running sweep all of whose merge entries are taken
is accepted, and its accumulator stands beyond the 4,032. -/
def subStatus (sw : Option (SweepPlace × Sweep)) (v : Survey) (list : List Nat) (core ring : Nat) (slots : Option (List Nat)) : Nat :=
  match sw with
  | none => 3
  | some (p, w) =>
    if w.closed ∨ p = .last then 3
    else if !risingBelow w.count list then 4
    else if slots = none ∨ w.subs.any (fun q => decide (q.core = core ∧ q.ring ≠ ring)) then 5
    else if 2016 ≤ w.subs.length ∨ 32 ≤ (w.subs.filter (fun q => decide (q.core = core))).length ∨
        4096 ≤ (((v.running.map (·.subs)).getD [] ++ (v.pending.map (·.subs)).getD []).filter (fun q => !q.finished)).length then 2
    else match w.highest with
      | some h => if list.headD 0 ≤ h then 1 else 0
      | none => 0

def execSvsub (d a : BitVec 7) (s : State) : Host.Outcome State Fault Refusal :=
  issue s false (fun c =>
    c.uses false [useDesc d.toNat 9, useSPair a.toNat]
      (let ws := c.desc d 9
       let handle := descWord ws 0 % 2 ^ 16
       let fmt := descWord ws 6 / 2 ^ 24 % 64
       let core := 16 * (descWord ws 3 / 16 % 16) + descWord ws 3 % 16
       let n := descWord ws 3 / 2 ^ 16 + 1
       let la := descPair ws 1
       let out := descPair ws 7
       let ring := descPair ws 4
       match c.destination core with
       | none => c.illegalOperand false
       | some tid =>
         if descWord ws 3 / 2 ^ 8 % 256 ≠ 0 ∨ descWord ws 6 / 2 ^ 30 ≠ 0 ∨ 4 < fmt ∨ out % outputBytes fmt ≠ 0 ∨ la % 2 ≠ 0 then c.illegalOperand false
         else c.objectA a (fun obj =>
           let r := c.s.checkSpan c.insetId .r la (2 * n)
           match r.2 with
           | some f => .trap (f.1.trap c.run f.2)
           | none =>
             if r.1.any (fun p => c.s.mem.poisoned p.1 p.2) then .trap { kind := 0x14, info := c.run, addr := la }
             else
               let bs := c.s.mem.pieceBytes r.1
               let list := (List.range n).map (fun i => bytesNat ((bs.drop (2 * i)).take 2))
               let sw := c.s.findSweep c.insetId handle
               let u := handle / 2 ^ 13
               let slots := c.s.ringSlots c.insetId core ring
               let status := subStatus sw (c.s.survey u) list core ring slots
               let s := c.base false
               match sw, status with
               | some (p, w), 0 =>
                 let q : Subscription :=
                   { query := descWord ws 0 / 2 ^ 16, number := (w.subs.filter (fun q => decide (q.team = tid))).length, list := list, core := core,
                     team := tid, ring := ring, slots := slots.getD [], limit := descWord ws 6 % 2 ^ 24, format := fmt, output := out,
                     object := obj, owner := c.g.team, acc := none, due := [], masked := [], held := [], served := false, finished := false,
                     barred := false }
                 c.long (s.updSweep u p (fun w => { w with subs := w.subs ++ [q] })) true false
                   [uniResult d.toNat (BitVec.ofNat 32 (q.number * 2 ^ 16))] .none []
               | _, _ => c.long s true false [uniResult d.toNat (BitVec.ofNat 32 (status * 2 ^ 24))] .none [])))

/-! ## SVCLOSE, SVCANCEL, SVSTAT (R110, R243) -/

/-- A form with a handle in the first of n descriptor registers. -/
def handleForm (s : State) (d : BitVec 7) (n : Nat) (f : Ctx → Nat → Option (SweepPlace × Sweep) → State → State × List Word) :
    Host.Outcome State Fault Refusal :=
  issue s false (fun c =>
    c.uses false [useDesc d.toNat n]
      (let h := (c.readS (d.toNat - 104)).toNat
       if h / 2 ^ 16 ≠ 0 then c.illegalOperand false
       else
         let r := f c (h / 2 ^ 13) (c.s.findSweep c.insetId h) (c.base false)
         c.long r.1 true false ((List.range r.2.length).map (fun i => uniResult (d.toNat + i) (r.2.getD i 0))) .none []))

def closedStatus : Word := 0x03000000

def execSvclose (d : BitVec 7) (s : State) : Host.Outcome State Fault Refusal :=
  handleForm s d 1 (fun _ u sw s => match sw with
    | some (p, w) =>
      if w.closed ∨ p = .last then (s, [closedStatus])
      else ((s.updSweep u p (fun w => { w with closed := true })).checkClose u, [0])
    | none => (s, [closedStatus]))

/-- Ending a sweep at once: unfinished queries end with a code, with a CANCELLED notice or without (R110). DESIGN CHOICE (assumption log
79): its page notices that still wait for their port go, and those in the port stay. -/
def State.cancelSweep (s : State) (u : Nat) (p : SweepPlace) (w : Sweep) (code : Word) (notify : Bool) : State :=
  let open_ := (List.range w.subs.length).filterMap (fun i => match w.subs[i]? with
    | some q => if q.finished then none else some q
    | none => none)
  let s := open_.foldl (fun s q => s.errorObject (some q.object) code) s
  let w' := { w with closed := true, cancelled := true, subs := w.subs.map (fun q => { q with finished := true, due := [], masked := [], held := [], acc := none }) }
  let drop (n : Notice) : Bool := decide (p = .running ∧ n.port = 0 ∧ ((n.words.headD 0).toNat / 2 ^ 19) % 8 = u)
  let s := { s with notices := s.notices.filter (fun n => !drop n) }
  let kept (v : Survey) : List Staging := v.staging.filter (fun t => decide (t.sweep ≠ w.sequence) || !t.landed)
  let s := s.updSurvey u (fun v => match p with
    | .running => { v with running := none, last := some w', staging := kept v }
    | .pending => { v with pending := none, last := some w' }
    | .last => v)
  (if notify then open_.foldl (fun s q => s.mergeNotice u w q 8) s else s).serve

def execSvcancel (d : BitVec 7) (s : State) : Host.Outcome State Fault Refusal :=
  handleForm s d 1 (fun _ u sw s => match sw with
    | some (.last, _) => (s, [closedStatus])
    | some (p, w) => (s.cancelSweep u p w 7 true, [0])
    | none => (s, [closedStatus]))

/-- State code of R243. -/
def sweepState (p : SweepPlace) (w : Sweep) : Nat := match p with
  | .pending => 0
  | .running => if w.closed then 2 else 1
  | .last => 3

def execSvstat (d : BitVec 7) (s : State) : Host.Outcome State Fault Refusal :=
  handleForm s d 4 (fun _ _ sw s => (s, match sw with
    | some (p, w) => [BitVec.ofNat 32 (sweepState p w), BitVec.ofNat 32 w.fetched, BitVec.ofNat 32 (w.next - w.committed), BitVec.ofNat 32 w.subs.length]
    | none => [closedStatus, 0, 0, 0]))

def execSvstatDesc (d : BitVec 7) (s : State) : Host.Outcome State Fault Refusal :=
  handleForm s d 5 (fun _ _ sw s => (s, match sw with
    | some (_, w) => [0, w.desc.getD 0 0, w.desc.getD 3 0, w.desc.getD 4 0, w.desc.getD 1 0]
    | none => [closedStatus, 0, 0, 0, 0]))

/-- A revoke ends the sweeps that insets of its subtree started (R110, R327). -/
def State.revokeSweeps (s : State) (gone : List Nat) : State :=
  (List.range 8).foldl (fun s u =>
    let v := s.survey u
    let s := match v.pending with
      | some w => if gone.contains w.inset then s.cancelSweep u .pending w 6 false else s
      | none => s
    match v.running with
    | some w => if gone.contains w.inset then s.cancelSweep u .running w 6 false else s
    | none => s) s

end Sys2Proof.Machine
end

