-- ==== Sys2Proof/Machine/Tolerance.lean ====
section
/-! DEFINITION. The Tolerance unit (R112 to R119) and the TOL instructions (uniform major 27, R244), which the unit takes in the
order of their arrival (R116). -/
namespace Sys2Proof.Machine

/-! ## The node table (R113 to R115) -/

def tolSet (n : Nat) (v : TolNode) : List (Nat × TolNode) → List (Nat × TolNode)
  | [] => [(n, v)]
  | (k, w) :: rest => if n < k then (n, v) :: (k, w) :: rest else if n = k then (n, v) :: rest else (k, w) :: tolSet n v rest

def tolShareOf (k : Nat) : Nat := [0, 16, 26, 32, 38].getD k 0

/-- A requirement raises a node's tolerance, or leaves it. -/
def tolRaise (need : Nat) (n : Nat) (t : List (Nat × TolNode)) : List (Nat × TolNode) :=
  match findKey t n with
  | none => t
  | some v => if v.tau < need then tolSet n { v with tau := need, tight := true } t else t

/-- One node's demand on its operands. -/
def tolPass (j : Nat) (t : List (Nat × TolNode)) : List (Nat × TolNode) :=
  match findKey t j with
  | none => t
  | some v =>
    let share : Int := (v.tau + tolShareOf v.operands.length : Nat)
    v.operands.foldl (fun t o => tolRaise (clampInt 0 4095 (share + o.2)).toNat o.1 t) t

/-- Nodes n down to 0, each after its consumers (R115). -/
def tolDescend : Nat → List (Nat × TolNode) → List (Nat × TolNode)
  | 0, t => tolPass 0 t
  | n + 1, t => tolDescend n (tolPass (n + 1) t)

def tolDemand (n need : Nat) (t : List (Nat × TolNode)) : List (Nat × TolNode) := tolDescend n (tolRaise need n t)

/-- The word of R114. -/
def tolWord (v : TolNode) : Word :=
  let share := if v.operands.isEmpty then v.tau else min 4095 (v.tau + tolShareOf v.operands.length)
  BitVec.ofNat 32 (2 ^ 31 + (if v.tight then 2 ^ 30 else 0) + v.operands.length * 2 ^ 27 + share * 2 ^ 12 + v.tau)

def tolMask (t : List (Nat × TolNode)) : BitVec 64 := t.foldl (fun m e => if e.2.tight then m ||| (1 <<< e.1) else m) 0

/-! ## FMTSEL, ITERSEL (R118, R119) -/

/-- Rank and error exponent of a format code. -/
def formatRank : Nat → Nat × Nat
  | 12 => (0, 4095)
  | 7 => (1, 32)
  | 10 => (2, 48)
  | 11 => (2, 48)
  | 5 => (3, 48)
  | 6 => (4, 64)
  | 4 => (5, 48)
  | 3 => (6, 64)
  | 8 => (7, 112)
  | 9 => (7, 112)
  | 1 => (8, 128)
  | 2 => (9, 176)
  | 0 => (10, 384)
  | _ => (11, 496)

/-- Candidates of a mask by rank, the lower code first within one. -/
def formatOrder : List Nat := [12, 7, 10, 11, 5, 6, 4, 3, 8, 9, 1, 2, 0, 14]

def formatSelect (tau : Nat) (mask : Word) : Word :=
  let cands := formatOrder.filter (fun c => mask.getLsbD c)
  match cands.find? (fun c => decide (tau ≤ (formatRank c).2)) with
  | some c => BitVec.ofNat 32 c
  | none =>
    let top := cands.foldl (fun m c => max m (formatRank c).1) 0
    BitVec.ofNat 32 (2 ^ 31 + (cands.find? (fun c => decide ((formatRank c).1 = top))).getD 0)

/-- Error exponents for counts 1, 2, 3 and full accuracy. -/
def iterTable : List (List Nat) :=
  [[128, 256, 336, 368], [120, 240, 328, 360], [112, 224, 320, 352], [128, 256, 352, 368], [112, 224, 336, 360], [112, 224, 336, 368],
   [96, 192, 304, 352], [96, 192, 304, 352], [96, 176, 288, 352], [96, 176, 288, 352], [96, 160, 272, 352]]

def iterSelect (index tau : Nat) : Word :=
  let e := iterTable.getD index []
  match (List.range 3).find? (fun i => decide (tau ≤ e.getD i 0)) with
  | some i => BitVec.ofNat 32 (i + 1)
  | none => if tau ≤ e.getD 3 0 then 0 else 0x80000000

/-! ## The instructions at issue (R244) -/

/-- The sensitivities in a κ word are laid out with zeros elsewhere; only the first n of its two fields are in use. -/
def kappaOk (w : Word) (n : Nat) : Bool :=
  decide (w.toNat / 2 ^ 28 = 0 ∧ w.toNat / 2 ^ 12 % 16 = 0) && (decide (2 ≤ n) || decide (w.toNat / 2 ^ 16 = 0))

/-- The operands of TOLNODE: its word, its κ words, and k. -/
def nodeWordsOk (w k0 k1 : Word) (k : Nat) : Bool :=
  decide (k ≤ 4 ∧ w.toNat / 64 % 4 = 0 ∧ w.toNat / 2 ^ (8 + 6 * k) = 0) &&
    (List.range k).all (fun i => decide (w.toNat / 2 ^ (8 + 6 * i) % 64 < w.toNat % 64)) && kappaOk k0 k && kappaOk k1 (k - 2)

/-- The cases of R113, R115, R118, R119 and R244 that depend on the operands alone (R116). -/
def tolOk (minor : Nat) (ws : List Word) : Bool :=
  let w (i : Nat) : Word := ws.getD i 0
  match minor with
  | 0 => nodeWordsOk (w 0) (w 1) (w 2) (w 3).toNat
  | 1 => decide ((w 0).toNat < 64 ∧ (w 1).toNat < 4096)
  | 2 => decide ((w 0).toNat < 64)
  | 3 => decide (w 1 ≠ 0 ∧ (w 1).toNat < 2 ^ 15) && !(w 1).getLsbD 13
  | 4 => decide ((w 0).toNat ≤ 10)
  | _ => true

/-- A TOL instruction goes to the unit with the operands it read. -/
def Ctx.tol (c : Ctx) (s : State) (minor dst : Nat) (ws : List Word) : Verdict :=
  if tolOk minor ws then c.long s true false [] (.tol ws minor dst) ws else c.illegalOperand false

def execTolnode (k a b : BitVec 7) (s : State) : Host.Outcome State Fault Refusal :=
  issue s false (fun c =>
    let k := k.toNat
    c.uses false [useUni a.toNat, if k = 0 then { legal := decide (b.toNat = 0), quota := true } else useSPair b.toNat]
      (c.usrc (c.base false) a.toNat (fun s w =>
        c.tol s 0 0 [w, if k = 0 then 0 else c.readS (b.toNat - 104), if k ≤ 2 then 0 else c.readS (b.toNat + 1 - 104), BitVec.ofNat 32 k])))

def execDemand (a b : BitVec 7) (s : State) : Host.Outcome State Fault Refusal :=
  issue s false (fun c =>
    c.uses false [useUni a.toNat, useUni b.toNat]
      (c.usrc (c.base false) a.toNat (fun s n => c.usrc s b.toNat (fun s t => c.tol s 1 0 [n, t]))))

def execTolget (d a : BitVec 7) (s : State) : Host.Outcome State Fault Refusal :=
  issue s false (fun c =>
    c.uses false [useUni a.toNat, useS d.toNat] (c.usrc (c.base false) a.toNat (fun s n => c.tol s 2 d.toNat [n])))

def execFmtsel (d a b : BitVec 7) (s : State) : Host.Outcome State Fault Refusal :=
  issue s false (fun c =>
    c.uses false [useUni a.toNat, useUni b.toNat, useS d.toNat]
      (c.usrc (c.base false) a.toNat (fun s t => c.usrc s b.toNat (fun s m => c.tol s 3 d.toNat [t, m]))))

def execItersel (d a b : BitVec 7) (s : State) : Host.Outcome State Fault Refusal :=
  issue s false (fun c =>
    c.uses false [useUni a.toNat, useUni b.toNat, useS d.toNat]
      (c.usrc (c.base false) a.toNat (fun s n => c.usrc s b.toNat (fun s t => c.tol s 4 d.toNat [n, t]))))

def execTolchk (d : BitVec 7) (s : State) : Host.Outcome State Fault Refusal :=
  issue s false (fun c => c.uses false [useSPair d.toNat] (c.tol (c.base false) 5 d.toNat []))

def execTolclr (a : BitVec 7) (s : State) : Host.Outcome State Fault Refusal :=
  issue s false (fun c => c.uses false [useSPair a.toNat] (c.tol (c.base false) 6 0 [c.readS (a.toNat - 104), c.readS (a.toNat + 1 - 104)]))

def execTolclrAll (s : State) : Host.Outcome State Fault Refusal := issue s false (fun c => c.tol (c.base false) 7 0 [])

/-! ## TOL_UNIT_TAKE (R116) -/

/-- A sensitivity of 12 bits. -/
def kappa (ws : List Word) (i : Nat) : Int :=
  (BitVec.ofNat 12 ((ws.getD (1 + i / 2) 0).toNat / 2 ^ (16 * (i % 2)))).toInt

/-- What the unit does with an instruction: the table after it and the results, or none where the table makes it illegal. -/
def tolTake (minor dst : Nat) (ws : List Word) (t : List (Nat × TolNode)) : Option (List (Nat × TolNode) × List RegWrite) :=
  let w (i : Nat) : Nat := (ws.getD i 0).toNat
  match minor with
  | 0 =>
    let n := w 0 % 64
    let ops := (List.range (w 3)).map (fun i => (w 0 / 2 ^ (8 + 6 * i) % 64, kappa ws i))
    if (findKey t n).isSome ∨ ops.any (fun o => (findKey t o.1).isNone) then none
    else some (tolSet n { operands := ops, tau := 0, tight := false } t, [])
  | 1 => if (findKey t (w 0)).isNone then none else some (tolDemand (w 0) (w 1) t, [])
  | 2 => some (t, [uniResult dst (((findKey t (w 0)).map tolWord).getD 0)])
  | 3 => some (t, [uniResult dst (formatSelect (w 0 % 4096) (ws.getD 1 0))])
  | 4 => some (t, [uniResult dst (iterSelect (w 0) (w 1 % 4096))])
  | 5 => some (t, uniPair dst (tolMask t))
  | 6 => some (t.map (fun e => if ((ws.getD 1 0) ++ (ws.getD 0 0)).getLsbD e.1 then (e.1, { e.2 with tight := false }) else e), [])
  | _ => some ([], [])

/-- An instruction that the table makes illegal changes nothing: its flag falls and its group stops; where the group has
stopped already, no acknowledgement of the record is legal. -/
def State.tolRefuse (s : State) (o : LongOp) (minor dst : Nat) (ws : List Word) : State :=
  match s.group? o.gid with
  | none => s.dropOp o.id
  | some g =>
    let t : Trap := { kind := 2, info := o.mask, addr := o.header }
    if g.stop.isSome then ((s.post { s.passing g o.index t with evtag := o.evtag }).dropOp o.id).updGroup o.gid (fun g => g.lower o.flag)
    else (((s.lateTrap o t).updOp o.id (fun o => { o with wait := .tol ws minor dst, held := true })).updGroup o.gid (fun g => g.lower o.flag))

/-- The order in which the unit takes instructions: by the cycle of their arrival, and within a cycle by logical position (R13, R116). -/
def State.tolOrder (s : State) (o : LongOp) : Nat :=
  let i := ((s.group? o.gid).map (·.index)).getD 0
  32 * o.cycle + 8 * (i % 4) + i / 4

/-- An operation at the unit of a team; a refused one is held until its group is told to issue it again. -/
def State.atUnit (s : State) (team : Nat) (o : LongOp) : Bool :=
  decide ((s.group? o.gid).map (·.team) = some team) && !o.held && (match o.wait with
    | .tol _ _ _ => true
    | _ => false)

/-- The instruction that the unit of a team takes next. -/
def State.tolNext (s : State) (team : Nat) : Option LongOp :=
  (s.ops.filter (s.atUnit team)).foldl (fun b o => match b with
    | some p => if s.tolOrder o < s.tolOrder p then some o else b
    | none => some o) none

/-- TOL_UNIT_TAKE: the unit of a team takes the first instruction that has arrived; what arrives after that arrives in a later
cycle. -/
def execTolUnitTake (team : Nat) (s : State) : Host.Outcome State Fault Refusal :=
  match s.tolNext team with
  | none => .next s
  | some o =>
    match o.wait with
    | .tol ws minor dst =>
      let table := ((s.team? team).map (·.tol)).getD []
      let s' : State := { s with cycle := max s.cycle (o.cycle + 1) }
      match (if tolOk minor ws then tolTake minor dst ws table else none) with
      | some (t, rs) => .next ((s'.updTeam team (fun u => { u with tol := t })).finishWait o rs)
      | none => if s.bufferFull then .next s else .next (s'.tolRefuse o minor dst ws)
    | _ => .next s

end Sys2Proof.Machine
end

