-- ==== Sys2Proof/Machine/Insets.lean ====
section
/-! DEFINITION. The inset tree (R286 to R290): reading and writing a space, creation blocks and grants, shares; translation
tables as MAPG, UNMAPG and PINV change them, and pins (R291 to R298, R332, R333). -/
namespace Sys2Proof.Machine

/-! ## Status codes (R317) -/

def codeNoChild : Nat := 0x01
def codeState : Nat := 0x02
def codeLimit : Nat := 0x03
def codeDepth : Nat := 0x04
def codeNoSpace : Nat := 0x05
def codePinned : Nat := 0x06
def codeArmed : Nat := 0x07
def codeNotArmed : Nat := 0x08
def codeNoRec : Nat := 0x09
def codeBlocked : Nat := 0x0A
def codeMismatch : Nat := 0x0B
def codeFault : Nat := 0x0C

/-- The lowest of the codes that apply; 0 where none does. -/
def lowestCode : List Nat → Nat
  | [] => 0
  | c :: rest => if c = 0 then lowestCode rest else if lowestCode rest = 0 then c else min c (lowestCode rest)

/-- The result word of a form: its status in [31:24], its result field below (R316). -/
def statusWord (code result : Nat) : Word := BitVec.ofNat 32 (code * 2 ^ 24 + result % 2 ^ 24)

/-! ## Spaces -/

/-- Why bytes of a space cannot be read; `wait` while no path or link leads to one of them (R340, R352). -/
inductive SpaceFail where
  | fault (f : XFault) (addr : Nat)
  | poison (addr : Nat)
  | wait
deriving DecidableEq, Repr

/-- Part of a range of a space cannot be reached as things stand, so an access of the device to it waits (R340, R352). -/
def State.spaceDown (s : State) (inset : Nat) (need : Acc) (a n : Nat) : Bool := (s.checkSpan inset need a n).1.any (fun p => s.unreachable p.1)

/-- Bytes of an inset's space (0: device physical space), read by the device: untracked, tags left alone. -/
def State.readSpace (s : State) (inset a n : Nat) : Except SpaceFail (List Byte) :=
  let r := s.checkSpan inset .r a n
  if r.1.any (fun p => s.unreachable p.1) then .error .wait
  else match r.2, s.mem.poisonOffset r.1 with
    | some f, _ => .error (.fault f.1 f.2)
    | none, some i => .error (.poison (a + i))
    | none, none => .ok (s.mem.pieceBytes r.1)

/-- Bytes written to a space up to the first part that fails, and that failure. -/
def State.writeSpace (s : State) (inset a : Nat) (bs : List Byte) : State × Option (XFault × Nat) :=
  let r := s.checkSpan inset .w a bs.length
  ((s.setMem (s.mem.storePieces r.1 (bs.take (r.1.foldl (fun n p => n + p.2) 0)))).serve, r.2)

/-- Little-endian fields of a block. -/
def blockDword (bs : List Byte) (o : Nat) : Nat := bytesNat ((bs.drop o).take 8)
def blockWord (bs : List Byte) (o : Nat) : Nat := bytesNat ((bs.drop o).take 4)

/-! ## The tree (R286, R287) -/

/-- The live direct child of p with an identifier. -/
def State.child? (s : State) (p id : Nat) : Option Inset := (s.inset? id).filter (fun x => decide (x.parent = p))

def State.children (s : State) (p : Nat) : List Inset := s.insets.filter (fun x => decide (x.parent = p))

def State.levelOf (s : State) (p : Nat) : Nat := ((s.inset? p).map (·.level)).getD 0

/-- The lowest free identifier. -/
def State.freeId (s : State) : Option Nat :=
  (List.range 0xFFF).find? (fun i => decide (0 < i) && (s.inset? i).isNone)

/-- The lowest free entry among 1 to 63 of a share table. -/
def State.freeShare (s : State) (p : Nat) : Option Nat :=
  (List.range 64).find? (fun i => decide (0 < i) && !(s.children p).any (fun x => decide (x.share = i)))

/-! ## Creation blocks (R320) -/

/-- An inset creation block; `reserved` tells that a reserved field is nonzero. -/
structure Block where
  tbase : Nat
  saveBase : Nat
  saveSize : Nat
  cw : Nat
  lw : Nat
  qslots : Nat
  iquota : Nat
  sys : Bool
  cores : BitVec 256
  lrec : Nat
  reserved : Bool
deriving DecidableEq, Repr

def Block.ofBytes (bs : List Byte) : Block :=
  { tbase := blockDword bs 0, saveBase := blockDword bs 8, saveSize := blockWord bs 0x10, cw := blockWord bs 0x14 / 2 ^ 16,
    lw := blockWord bs 0x14 % 2 ^ 16, qslots := blockWord bs 0x18 / 2 ^ 24, iquota := blockWord bs 0x18 % 2 ^ 11,
    sys := (blockWord bs 0x1C).testBit 0, cores := BitVec.ofNat 256 (bytesNat ((bs.drop 0x20).take 32)), lrec := blockDword bs 0x40,
    reserved := decide (blockWord bs 0x18 / 2 ^ 11 % 2 ^ 13 ≠ 0 ∨ blockWord bs 0x1C / 2 ≠ 0) || ((bs.drop 0x48).take 56).any (fun b => decide (b ≠ 0)) }

/-- The same fields as bytes, as a checkpoint image lays them out (R325); identifier, parent and FROZEN bit in +0x48 on. -/
def insetBytes (x : Inset) (parent : Nat) : List Byte :=
  natBytes 8 x.tbase ++ natBytes 8 x.saveBase ++ natBytes 4 x.saveSize ++ natBytes 4 (x.cw * 2 ^ 16 + x.lw) ++
  natBytes 4 (x.qslots * 2 ^ 24 + x.iquota) ++ natBytes 4 (if x.sys then 1 else 0) ++ natBytes 32 x.cores.toNat ++ natBytes 8 0 ++
  natBytes 4 x.id ++ natBytes 4 parent ++ natBytes 4 (if x.frozen then 1 else 0) ++ natBytes 44 0

/-- The fields of a block within their limits. -/
def Block.ok (b : Block) : Bool :=
  !b.reserved && decide (b.tbase % 0x1000 = 0 ∧ b.tbase < 2 ^ 48 ∧ b.saveBase % 0x10000 = 0 ∧ b.saveBase + b.saveSize ≤ 2 ^ 48 ∧
    b.saveSize % 0x10000 = 0 ∧ 0 < b.saveSize ∧ 0 < b.cw ∧ 0 < b.lw ∧ b.qslots ≤ 128 ∧ b.iquota ≤ 1024 ∧ b.lrec % 128 = 0)

/-! ## Grants (R288, R289) -/

/-- Cores an inset holds with its whole subtree. -/
def State.totalCores (s : State) (x : Nat) : BitVec 256 := (s.subtree x).foldl (fun m y => m ||| y.cores) 0

/-- What is left of a parent's own grants: cores, queue slots, inset quota. -/
def State.ownCores (s : State) (p : Nat) : BitVec 256 :=
  if p = 0 then ~~~(s.insets.foldl (fun m (y : Inset) => m ||| y.cores) (0 : BitVec 256)) else ((s.inset? p).map (·.cores)).getD 0
def State.ownSlots (s : State) (p : Nat) : Nat :=
  (if p = 0 then 128 else ((s.inset? p).map (·.qslots)).getD 0) - (s.children p).foldl (fun n x => n + x.qslots) 0
def State.ownQuota (s : State) (p : Nat) : Nat :=
  (if p = 0 then 1024 else ((s.inset? p).map (·.iquota)).getD 0) - (s.children p).foldl (fun n x => n + 1 + x.iquota) 0

/-- An entry of a share table that no row of the manual sets: the weights of an inset's own grids (assumption log 17). -/
def ownWeight : Nat := 1

/-! ## Tables in use, pins (R293, R298) -/

/-- The physical address of a parent-space address, whatever its permissions. -/
def State.physOf (s : State) (p a : Nat) : Option Nat :=
  match s.translate p [] a with
  | .ok t => if backing t.phys = .none then none else some t.phys
  | .error _ => none

/-- The valid pointers of a table whose page lies at a physical address: an entry that no byte of memory lists is not valid. -/
def Memory.pointers (m : Memory) (ph : Nat) : List Nat :=
  ((m.cells.filter (fun c => decide (ph ≤ c.1 ∧ c.1 < ph + 0x1000 ∧ c.1 % 8 = 0))).map (fun c => (m.dword c.1).toNat)).filter
    (fun e => entryValid e && !entryLeaf e)

/-- Pages of the tables reachable from a table: address in the parent's space and physical address. -/
def State.reachable (s : State) (p : Nat) : Nat → Nat → List (Nat × Nat)
  | 0, table => match s.physOf p (table / 0x1000 * 0x1000) with
    | some ph => [(table / 0x1000 * 0x1000, ph)]
    | none => []
  | level + 1, table =>
    match s.physOf p table with
    | none => []
    | some ph => (table, ph) :: (s.mem.pointers ph).flatMap (fun e => s.reachable p level (entryAddr e))

/-- A physical page that may hold tables: HBM or a vault of this package (R293). -/
def tableMemory (ph : Nat) : Bool := match backing ph with
  | .hbm => true
  | .vault _ => true
  | _ => false

/-- The status of a creation (R320): the lowest code that applies. DEDUCED (assumption log 85): a table page reachable from TBASE that
R293 does not allow is beyond the limits. -/
def State.creationCode (s : State) (p : Nat) (b : Block) : Nat :=
  lowestCode [
    if b.ok && decide (b.cores &&& ~~~s.ownCores p = 0 ∧ b.qslots ≤ s.ownSlots p) && (s.reachable p 3 b.tbase).all (fun t => tableMemory t.2) then 0
    else codeLimit,
    if 5 ≤ s.levelOf p then codeDepth else 0,
    if s.freeId.isNone ∨ 1024 ≤ s.insets.length ∨ (s.freeShare p).isNone ∨ s.ownQuota p < 1 + b.iquota then codeNoSpace else 0]

/-- Table pages that walks have come to use since they were last looked for take no store from now on (R293, R362). DEDUCED (assumption
log 85): a page's first use is when the tables of a live inset reach it. -/
def State.learnTables (s : State) : State :=
  { s with insets := s.insets.map (fun x => { x with tablePages := (x.tablePages ++ s.reachable x.parent 3 x.tbase).eraseDups }) }

/-- The ranges of p's space that its live children have pinned: save areas and table pages. -/
def State.pins (s : State) (p : Nat) : List (Nat × Nat) :=
  (s.children p).flatMap (fun x => (x.saveBase, x.saveSize) :: x.tablePages.map (fun t => (t.1, 0x1000)))

def State.pinned (s : State) (p a n : Nat) : Bool := (s.pins p).any (fun r => decide (r.1 < a + n ∧ a < r.1 + r.2))

/-! ## Creating an inset -/

/-- The new inset takes its grants out of the parent's; it starts neither frozen nor armed (R320). -/
def State.createInset (s : State) (p : Nat) (b : Block) : State × Inset :=
  let id := s.freeId.getD 0
  let x : Inset :=
    { id := id, level := s.levelOf p + 1, parent := p, tbase := b.tbase, saveBase := b.saveBase, saveSize := b.saveSize, cw := b.cw, lw := b.lw,
      qslots := b.qslots, iquota := b.iquota, sys := b.sys, cores := b.cores, share := (s.freeShare p).getD 0, ownCw := ownWeight,
      ownLw := ownWeight, frozen := false, shed := false, ganged := false, revoking := false, armed := none, nextSeq := 0, breakpoints := List.replicate 4 none,
      ranges := [], subtree := 0, package := 0, packages := ((s.inset? p).map (·.packages)).getD 0, held := none, e := 0, l := 0, ownE := 0,
      ownL := 0, balance := 0, slowed := ((s.inset? p).map (·.slowed)).getD false, buckets := [], images := [],
      tablePages := (s.reachable p 3 b.tbase).eraseDups, saveCounter := 0, sealing := false, pendingBreaks := [] }
  ({ s with insets := s.insets.map (fun y => if y.id = p then { y with cores := y.cores &&& ~~~b.cores } else y) ++ [x] }, x)

/-! ## Effective shares (R290) -/

/-- The sum of the weights of a table's valid entries. -/
def State.weightSum (s : State) (p : Nat) (own : Inset → Nat) (w : Inset → Nat) : Nat :=
  (((s.inset? p).map own).getD 0) + (s.children p).foldl (fun n x => n + w x) 0

/-- The share of an inset among its ancestors, from the root's 2^32 down; fuel bounds the levels. -/
def State.shareOf (s : State) (own w : Inset → Nat) : Nat → Nat → Nat
  | 0, _ => 0
  | fuel + 1, id =>
    if id = 0 then 2 ^ 32
    else match s.inset? id with
      | none => 0
      | some x => State.shareOf s own w fuel x.parent * w x / s.weightSum x.parent own w

/-- Every inset's shares, from the tables as they stand. -/
def State.reshare (s : State) : State :=
  { s with insets := s.insets.map (fun x =>
      let e := s.shareOf (·.ownCw) (·.cw) 7 x.id
      let l := s.shareOf (·.ownLw) (·.lw) 7 x.id
      { x with e := e, l := l, ownE := e * x.ownCw / s.weightSum x.id (·.ownCw) (·.cw), ownL := l * x.ownLw / s.weightSum x.id (·.ownLw) (·.lw) }) }

/-! ## MAPG (R332) -/

/-- What a MAPG asks for: child addresses, parent addresses, SIZE, the permission bits of R291, and the pool. -/
structure MapReq where
  size : Nat
  perms : BitVec 3
  va : Nat
  pa : Nat
  count : Nat
  pool : Nat
  npool : Nat
deriving DecidableEq, Repr

/-- One entry that a MAP form writes: its address; its value, or none for a page that becomes a new table; its old value, and the
child address that it maps. -/
structure EntryWrite where
  addr : Nat
  value : Option Nat
  old : Nat
  va : Nat
deriving DecidableEq, Repr

/-- The entries a MAPG is to write, in order; the pool pages used, the codes met, and a read that faulted. -/
structure Plan where
  writes : List EntryWrite
  used : Nat
  codes : List Nat
  fault : Option (XFault × Nat)
deriving DecidableEq, Repr

/-- An entry as the plan leaves it: written by it, in a new table, or read from memory. -/
def Plan.read (pl : Plan) (s : State) (p a : Nat) : Except (XFault × Nat) Nat :=
  match (pl.writes.filter (fun w => decide (w.addr ≤ a ∧ a < w.addr + (if w.value.isSome then 8 else 0x1000)))).getLast? with
  | some w => .ok (w.value.getD 0)
  | none => match s.translate p [.r] a with
    | .ok t => .ok (s.readEntry t.phys)
    | .error f => .error (f, a)

def Plan.fail (pl : Plan) (code : Nat) : Plan := { pl with codes := pl.codes ++ [code] }

/-- Walking down to the table that holds a page's entry, with new tables where none stands. -/
def Plan.descend (s : State) (p : Nat) (m : MapReq) (va leaf : Nat) : Nat → Nat → Plan → Plan × Option Nat
  | 0, table, pl => (pl, some table)
  | k + 1, table, pl =>
    let a := table + 8 * tableIndex (leaf + k + 1) va
    match pl.read s p a with
    | .error f => ({ pl with fault := pl.fault.orElse (fun _ => some f) }, none)
    | .ok e =>
      if entryValid e then (if entryLeaf e then (pl.fail codeState, none) else Plan.descend s p m va leaf k (entryAddr e) pl)
      else if m.npool ≤ pl.used then (pl.fail codeNoSpace, none)
      else
        let page := m.pool + 0x1000 * pl.used
        Plan.descend s p m va leaf k page { pl with
          writes := pl.writes ++ [⟨page, none, 0, va⟩, ⟨a, some (page + 0x1D), e, va⟩], used := pl.used + 1 }

/-- The entries of one page at the table of its leaf level. -/
def leafEntries (size va table : Nat) : List Nat :=
  let i := tableIndex (leafLevel size) va
  if size = 2 then (List.range 32).map (fun j => table + 8 * (i / 32 * 32 + j)) else [table + 8 * i]

/-- One entry of a page. -/
def Plan.leaf (s : State) (y : Inset) (va size value : Nat) (pl : Plan) (a : Nat) : Plan :=
  match pl.read s y.parent a with
  | .error f => { pl with fault := pl.fault.orElse (fun _ => some f) }
  | .ok e =>
    if entryValid e && !entryLeaf e then pl.fail codeState
    else if entryValid e && s.pinned y.id va (pageSize size) then pl.fail codePinned
    else { pl with writes := pl.writes ++ [⟨a, some value, e, va⟩] }

/-- The plan for one page more. -/
def Plan.page (s : State) (y : Inset) (m : MapReq) (pl : Plan) (i : Nat) : Plan :=
  let va := m.va + i * pageSize m.size
  let value := m.pa + i * pageSize m.size + m.size * 64 + m.perms.toNat * 4 + 3
  match Plan.descend s y.parent m va (leafLevel m.size) (3 - leafLevel m.size) y.tbase pl with
  | (pl, none) => pl
  | (pl, some table) => (leafEntries m.size va table).foldl (Plan.leaf s y va m.size value) pl

/-- Every part of a parent range is mapped with at least the permissions. -/
def State.mapped (s : State) (p : Nat) (perms : BitVec 3) (a n : Nat) : Bool :=
  (partsOf a n).all (fun q => match s.translate p [] q.1 with
    | .ok t => decide (t.perms &&& perms = perms ∧ backing t.phys ≠ .none)
    | .error _ => false)

/-- A page that may hold tables: HBM or a vault of this package (R293). -/
def State.tableBacked (s : State) (p a : Nat) : Bool :=
  ((s.physOf p a).map tableMemory).getD false

/-- A kind of memory takes pages of a size code (R61). -/
def Backing.takes (b : Backing) (size : Nat) : Bool :=
  match b with
  | .hbm => decide (size ≠ 2)
  | .vault _ => decide (size ≠ 3)
  | .none => false
  | _ => decide (size ≤ 1)

/-- What backs an address: the kind of memory, and the vault where it is one. -/
def backer (ph : Nat) : Backing × Option Nat := (backing ph, if vaultBacked ph then some (ph / Config.vaultSize) else none)

/-- A page is backed by one kind of memory, one vault where it is a vault, that takes pages of its size (R61). -/
def State.pageBacked (s : State) (p size a : Nat) : Bool :=
  match s.physOf p a with
  | none => false
  | some ph =>
    (backing ph).takes size && (partsOf a (pageSize size)).all (fun q => decide ((s.physOf p q.1).map backer = some (backer ph)))

/-- The limits of a MAPG: alignment, the parent's own mappings, the pool's backing; DEDUCED (assumption log 84): what R61 says of the pages
that it maps. -/
def State.mapLimits (s : State) (y : Inset) (m : MapReq) : Bool :=
  let n := m.count * pageSize m.size
  decide (m.va % pageSize m.size = 0 ∧ m.pa % pageSize m.size = 0 ∧ m.va + n ≤ 2 ^ 48 ∧ m.pa + n ≤ 2 ^ 48) &&
  s.mapped y.parent m.perms m.pa n && (List.range m.count).all (fun i => s.pageBacked y.parent m.size (m.pa + i * pageSize m.size)) &&
  (List.range m.npool).all (fun i => s.tableBacked y.parent (m.pool + 0x1000 * i))

/-- What a MAP form did: its status, its result field, and an access of its own that faulted. -/
structure MapResult where
  state : State
  code : Nat
  result : Nat
  fault : Option (XFault × Nat)
deriving DecidableEq, Repr

/-- The range and the entries that an old entry at a child address stood for: the leaf of a group of 32 stands for all of it, so an old
walk sees the group as it was. -/
def staleOf (y va entry old : Nat) : Projection :=
  let size := pageSize (entrySize old)
  if entryLeaf old && decide (entrySize old = 2) then
    { inset := y, base := va / size * size, size := size, entry := entry / 256 * 256, span := 32, value := old }
  else { inset := y, base := if entryLeaf old then va / size * size else va, size := size, entry := entry, span := 1, value := old }

/-- An entry whose old value a kept projection or partial walk may still use (R298); a group of 32 is kept once. DESIGN CHOICE (assumption
log 73): what the caches hold is kept as replaced entries, without the bounds of R296 (2,048 projections a core, 65,536 a die), which
no partial walk counts under. -/
def State.addStale (s : State) (y va entry old : Nat) : State :=
  let p := staleOf y va entry old
  if entryValid old ∧ !s.projections.contains p then { s with projections := s.projections ++ [p] } else s

/-- Writing the entries of a plan up to the first write that faults. -/
def State.applyPlan (s : State) (y : Inset) : List EntryWrite → Option (XFault × Nat) → State × Option (XFault × Nat)
  | [], bad => (s, bad)
  | _ :: _, some f => (s, some f)
  | w :: rest, none =>
    match s.translate y.parent [.w] w.addr with
    | .error f => (s, some (f, w.addr))
    | .ok t =>
      let s := match w.value with
        | none => (s.setMem (s.mem.store t.phys (List.replicate 0x1000 0))).updInset y.id (fun x =>
            { x with tablePages := (x.tablePages ++ [(w.addr, t.phys)]).eraseDups })
        | some v => (s.setMem (s.mem.putDword t.phys v)).addStale y.id w.va t.phys w.old
      State.applyPlan s y rest none

/-- The vault ranges of new mappings, in this package or another, are zeroed and their tags filled (R63). -/
def State.fillVaults (s : State) (p a n : Nat) : State :=
  (partsOf a n).foldl (fun s q => match s.physOf p q.1 with
    | some ph => if vaultBacked ph then s.setMem (s.mem.zeroFill ph q.2) else s
    | none => s) s

/-- Saves and restores that waited on a fault in an ancestor's stage start again (R313). -/
def State.retryImages (s : State) (y : Nat) : State :=
  { s with teams := s.teams.map (fun t => if t.imageFault = some y then { t with imageFault := none } else t) }

/-- The same after each MAPG that an inset completes, on whichever child and with whatever status (R313, R314). DEDUCED (assumption log
86): the ancestor to whom the fault of a child's stage is posted is that child's parent. -/
def State.retryUnder (s : State) (p : Nat) : State := (s.children p).foldl (fun s y => s.retryImages y.id) s

/-- MAPG on an inset's table. -/
def State.mapPages (s : State) (y : Inset) (m : MapReq) : MapResult :=
  let pl := (List.range m.count).foldl (Plan.page s y m) { writes := [], used := 0, codes := [], fault := none }
  let code := lowestCode ((if s.mapLimits y m then 0 else codeLimit) :: pl.codes)
  if code ≠ 0 then { state := s, code := code, result := 0, fault := none }
  else match pl.fault with
    | some f => { state := s, code := codeFault, result := 0, fault := some f }
    | none =>
      match s.applyPlan y pl.writes none with
      | (s, some f) => { state := s.learnTables, code := codeFault, result := 0, fault := some f }
      | (s, none) =>
        { state := (s.fillVaults y.parent m.pa (m.count * pageSize m.size)).learnTables, code := 0, result := pl.used, fault := none }

/-! ## UNMAPG (R333) -/

/-- The entries of a page as it is mapped now, with their values: a valid leaf of the size, else a code. -/
def Plan.unmapPage (s : State) (y : Inset) (size va : Nat) (pl : Plan) (i : Nat) : Plan :=
  let va := va + i * pageSize size
  let none_ : MapReq := { size := size, perms := 0, va := va, pa := 0, count := 0, pool := 0, npool := 0 }
  match Plan.descend s y.parent none_ va (leafLevel size) (3 - leafLevel size) y.tbase pl with
  | (pl, none) => { pl with codes := pl.codes.map (fun _ => codeState) }
  | (pl, some table) => (leafEntries size va table).foldl (fun pl a =>
      match pl.read s y.parent a with
      | .error f => { pl with fault := pl.fault.orElse (fun _ => some f) }
      | .ok e =>
        if !entryValid e || !entryLeaf e || decide (entrySize e ≠ size) then pl.fail codeState
        else { pl with writes := pl.writes ++ [⟨a, some 0, e, va⟩] }) pl

/-- UNMAPG on an inset's table: its entries are cleared, or nothing changes. -/
def State.unmapPages (s : State) (y : Inset) (size va count : Nat) : MapResult :=
  let n := count * pageSize size
  let aligned := decide (va % pageSize size = 0 ∧ va + n ≤ 2 ^ 48)
  let pl := (List.range count).foldl (Plan.unmapPage s y size va) { writes := [], used := 0, codes := [], fault := none }
  let code := lowestCode ((if aligned then 0 else codeLimit) :: (if s.pinned y.id va n then codePinned else 0) :: pl.codes)
  if code ≠ 0 then { state := s, code := code, result := 0, fault := none }
  else match pl.fault with
    | some f => { state := s, code := codeFault, result := 0, fault := some f }
    | none =>
      match s.applyPlan y pl.writes none with
      | (s, some f) => { state := s, code := codeFault, result := 0, fault := some f }
      | (s, none) => { state := s, code := 0, result := 0, fault := none }

/-! ## PINV (R297) -/

/-- The stale entries of an inset's table that cover part of a range. -/
def State.staleIn (s : State) (y a n : Nat) : List Projection :=
  s.projections.filter (fun p => decide (p.inset = y ∧ p.base < a + n ∧ a < p.base + p.size))

/-- The physical pieces that a stale leaf mapped. -/
def State.stalePieces (s : State) (p : Nat) (q : Projection) : List (Nat × Nat) :=
  if !entryLeaf q.value then []
  else (partsOf (entryAddr q.value) (pageSize (entrySize q.value))).filterMap (fun r => (s.physOf p r.1).map (fun ph => (ph, r.2)))

/-- Physical pieces of an engine command that were translated at its issue. -/
def Command.issuePieces (c : Command) : List (Nat × Nat) :=
  (c.region.map (fun r => (r.1, r.2.1))) ++ (c.object.map (fun p => (p, 16))).toList ++ (c.wp.map (fun p => (p, 8))).toList ++
  c.targets.filterMap (fun t => t.object.map (fun p => (p, 16))) ++ c.entries.map (fun e => (e.px, 16)) ++ c.entries.map (fun e => (e.py, 4))

/-- Physical addresses of a waiting access. -/
def Waiting.addresses : Waiting → List Nat
  | .tagged _ _ _ _ lanes => lanes.map (·.address)
  | .bo a _ _ => [a]
  | .ticket a _ _ => [a]
  | .pointer a _ _ => [a]
  | .wide _ _ _ _ parts => parts.map (·.address)
  | _ => []

/-- A group of the subtree of an inset. -/
def State.groupUnder (s : State) (y gid : Nat) : Bool := ((s.group? gid).bind s.insetOf).any (fun x => s.under y x.id)

/-- An access of the subtree that meets some physical bytes has still to perform: of a command, a waiting operation, a store under way
or an entry of an atomic buffer (R297). -/
def State.accessUnder (s : State) (y : Nat) (meets : Nat × Nat → Bool) : Bool :=
  s.commands.any (fun c => s.under y c.inset && c.issuePieces.any meets) ||
  s.ops.any (fun o => !o.again && s.groupUnder y o.gid && o.wait.addresses.any (fun p => meets (p, 1))) ||
  s.pendingWrites.any (fun p => (s.grids.any (fun d => decide (d.handle = p.grid) && s.under y d.inset)) && meets (p.word, 4)) ||
  s.groups.any (fun g => s.groupUnder y g.gid && g.atomics.any (fun e => meets (e.phys, 4)))

/-- Physical pieces of a range of an inset's space, as its own stage and those above map it now. -/
def State.mappedPieces (s : State) (y a n : Nat) : List (Nat × Nat) := (partsOf a n).filterMap (fun r => (s.physOf y r.1).map (fun ph => (ph, r.2)))

/-- An access of the subtree that used a mapping of the range, one replaced or one that stands, has still to perform. -/
def State.oldAccess (s : State) (y : Inset) (a n : Nat) : Bool :=
  let ps := (s.staleIn y.id a n).flatMap (s.stalePieces y.parent) ++ s.mappedPieces y.id a n
  s.accessUnder y.id (fun q => ps.any (fun p => decide (p.1 < q.1 + q.2 ∧ q.1 < p.1 + p.2)))

/-- The work of R297 for a range: nothing keeps an old entry of it any longer. -/
def State.pinv (s : State) (y a n : Nat) : State :=
  { s with projections := s.projections.filter (fun p => !decide (p.inset = y ∧ p.base < a + n ∧ a < p.base + p.size)) }

end Sys2Proof.Machine
end

