-- ==== Sys2Proof/Machine/Launch.lean ====
section
/-! DEFINITION. Launch records (R302 to R304), the placement of clusters (R7 to R14, R26, R41, R43, R309), the completion of
grids (R30 to R32), and user queues (R305 to R308, R346). -/
namespace Sys2Proof.Machine

/-! ## The launch record (R302) -/

def launchOf (bs : List Byte) : Launch :=
  let w := blockWord bs
  { entry := blockDword bs 0, args := blockDword bs 8, width := w 0x10 / 2 ^ 24 % 16 + 1, height := w 0x10 / 2 ^ 28 + 1, threads := w 0x10 % 2 ^ 11,
    clusters := w 0x14 % 2 ^ 20 + 1, deque := (w 0x18).testBit 18, restart := (w 0x18).testBit 17, coop := (w 0x18).testBit 16,
    tiles := w 0x18 / 2 ^ 8 % 32, quota := w 0x18 % 128, cycles := w 0x1C, seed := BitVec.ofNat 64 (blockDword bs 0x20), cbo := blockDword bs 0x28,
    nkind := w 0x30 / 2 ^ 28, tag := w 0x30 % 2 ^ 28, serial := (w 0x34).testBit 31, imgCount := w 0x34 % 16, imgList := blockDword bs 0x38,
    slots := (List.range 8).map (fun i => BitVec.ofNat 64 (blockDword bs (0x40 + 8 * i))) }

/-- A reserved field is nonzero. -/
def launchReserved (bs : List Byte) : Bool :=
  let w := blockWord bs
  decide (w 0x10 / 2 ^ 11 % 2 ^ 13 ≠ 0 ∨ w 0x14 / 2 ^ 20 ≠ 0 ∨ w 0x18 / 2 ^ 19 ≠ 0 ∨ w 0x18 / 2 ^ 13 % 8 ≠ 0 ∨ w 0x18 / 2 ^ 7 % 2 ≠ 0 ∨
    w 0x34 / 16 % 2 ^ 27 ≠ 0)

/-- Groups of a team (R8). -/
def Launch.groups (l : Launch) : Nat := (l.threads + 31) / 32
/-- Teams of a cluster (R9). -/
def Launch.teams (l : Launch) : Nat := l.width * l.height

/-- The limits of R7, R12 and R302. -/
def Launch.ok (l : Launch) : Bool :=
  decide (l.entry < 2 ^ 48 ∧ l.entry % 4 = 0 ∧ 1 ≤ l.threads ∧ l.threads ≤ 1024 ∧ l.teams ≤ 12 ∧ l.teams * l.threads ≤ 4096 ∧
    8 ≤ l.quota ∧ l.quota ≤ 104 ∧ l.quota % 8 = 0 ∧ l.quota / 8 * l.groups ≤ Config.coreBlocks ∧ l.tiles ≤ 16 ∧
    l.tiles * l.groups ≤ Config.coreTiles ∧ l.imgCount ≤ 8 ∧ l.imgList % 8 = 0)

/-! ## Resources of a core (R11, R13, R30) -/

/-- What groups (index, quota, tiles) need on a core: blocks, tiles, and slots on each scheduler. -/
structure Need where
  blocks : Nat
  tiles : Nat
  slots : List Nat
deriving DecidableEq, Repr

def needOf (gs : List (Nat × Nat × Nat)) : Need :=
  { blocks := gs.foldl (fun n g => n + g.2.1 / 8) 0, tiles := gs.foldl (fun n g => n + g.2.2) 0,
    slots := (List.range 4).map (fun k => (gs.filter (fun g => decide (g.1 % 4 = k))).length) }

/-- The groups of a new team. -/
def Launch.shape (l : Launch) : List (Nat × Nat × Nat) := (List.range l.groups).map (fun i => (i, l.quota, l.tiles))

/-- The groups that hold resources on a core. -/
def State.coreGroups (s : State) (core : Nat) : List Group :=
  (s.teams.filter (fun t => t.seated && decide (t.core = core))).flatMap (fun t => (s.teamGroups t.tid).filter (fun g => !g.freed))

/-- Physical slots of a scheduler that are free. -/
def State.freeSlots (s : State) (core k : Nat) : List Nat :=
  let used := ((s.coreGroups core).filter (fun g => decide (g.index % 4 = k))).map (·.slot)
  (List.range 8).filter (fun i => !used.contains i)

/-- How often a need goes into what is free. -/
def timesIn (free need : Nat) : Nat := if need = 0 then Config.coreBlocks else free / need

/-- How many teams of a grid with one need can become resident on a core now: it is awake, with blocks, tiles and slots free, and a grid
counter entry free or held by the grid. -/
def State.room (s : State) (d : Grid) (core : Nat) (n : Need) : Nat :=
  let gs := s.coreGroups core
  if s.power.pstate ≠ 0 ∨ !s.power.rows.getLsbD (core / 16) ∨ !s.entryFor d.handle core then 0
  else (List.range 4).foldl (fun k i => min k (timesIn (s.freeSlots core i).length (n.slots.getD i 0)))
    (min (timesIn (Config.coreBlocks - gs.foldl (fun m g => m + g.quota / 8) 0) n.blocks)
      (timesIn (Config.coreTiles - gs.foldl (fun m g => m + g.tileQuota) 0) n.tiles))

/-- A team of a grid can become resident on a core. -/
def State.fits (s : State) (d : Grid) (core : Nat) (n : Need) : Bool := decide (0 < s.room d core n)

/-- The cores of a rectangle, in team order (R9). -/
def rectangle (ax ay w h : Nat) : List Nat :=
  (List.range h).flatMap (fun y => (List.range w).map (fun x => 16 * ((ay + y) % 16) + (ax + x) % 16))

/-- Every team of a cluster fits on its core of the rectangle at an anchor (16y + x), inside a mask; a team that needs nothing fits
anywhere. -/
def State.fitsAt (s : State) (d : Grid) (mask : BitVec 256) (needs : List (Option Need)) (a : Nat) : Bool :=
  ((rectangle (a % 16) (a / 16) d.launch.width d.launch.height).zip needs).all (fun (q : Nat × Option Need) => mask.getLsbD q.1 && (match q.2 with
    | some n => s.fits d q.1 n
    | none => true))

/-- The anchors of the rectangles on which a cluster fits, by y, then x (R309). -/
def State.anchors (s : State) (d : Grid) (mask : BitVec 256) (needs : List (Option Need)) : List Nat :=
  (List.range 256).filter (s.fitsAt d mask needs)

/-! ## Starting a cluster (R8 to R10, R41, R43) -/

/-- The first state of a lane's generator (R41). -/
def seedLane (seed : BitVec 64) (index : Nat) : BitVec 64 :=
  let x := seed ^^^ BitVec.ofNat 64 ((index + 1) * 0x100000001)
  if x = 0 then 1 else x

/-- The global lane index (R10). -/
def laneIndex (l : Launch) (cluster team group lane : Nat) : Nat := (cluster * l.teams + team) * 1024 + 32 * group + lane

def startLane (l : Launch) (cluster team group lane : Nat) : Lane :=
  let i := laneIndex l cluster team group lane
  let regs := Sparse.set 0 (Sparse.set 0 [] 0 (BitVec.ofNat 32 (32 * group + lane))) 1 (BitVec.ofNat 32 i)
  { header := l.entry, index := 0, exited := decide (l.threads ≤ 32 * group + lane), parked := none, run := 1, regs := regs, preds := 0,
    gen := seedLane l.seed i, clock := 0, pend := [] }

def startGroup (l : Launch) (cluster team tid index slot : Nat) : Group :=
  let args := BitVec.ofNat 64 l.args
  let put (m : List (Nat × Word)) (r : Nat) (w : Word) := Sparse.set 0 m r w
  let sregs := put (put (put (put (put (put [] 0 (args.truncate 32)) 1 ((args >>> 32).truncate 32)) 2 (BitVec.ofNat 32 cluster)) 3 (BitVec.ofNat 32 team))
    4 (BitVec.ofNat 32 index)) 5 (BitVec.ofNat 32 l.threads)
  { gid := tid + 1 + index, team := tid, index := index, slot := slot, quota := l.quota, tileQuota := l.tiles,
    lanes := (List.range 32).map (startLane l cluster team index), sregs := sregs, flags := List.replicate 12 0,
    rejoin := List.replicate 8 (0, false), tiles := [], tileCtl := [], stkLo := 0, stkHi := 0, evtag := 0, latch := [],
    runs := [{ id := 1, deferred := false, passed := none }], streak := 0, lastRun := none, clause := none, stop := none, stepping := false,
    lastIssue := 0, lastLane := 0, lastUniform := 0, recv := List.replicate 4 [], atomics := [], overflow := 0, flushed := false, pendTeam := none,
    pendCluster := none, reads := [], writes := [], written := 0, charged := none, freed := false, acquiring := [] }

/-- The groups of a team that starts on a core, each in the lowest free slot of its scheduler (R13). -/
def State.startGroups (s : State) (l : Launch) (cluster team tid core : Nat) : List Group :=
  (List.range l.groups).map (fun i => startGroup l cluster team tid i ((s.freeSlots core (i % 4)).getD (i / 4) 0))

def emptyPorts : List Port := List.replicate 4 { entries := [], holder := none }

def startTeam (cid tid index core cycle : Nat) : Team :=
  { tid := tid, cluster := cid, index := index, core := core, ports := emptyPorts, phase := 0, arrived := [], tol := [], collectives := 0,
    residency := .resident, since := cycle, bound := none, image := 0, imageSize := 0, reason := 0, imageFault := none, imageCounter := 0,
    refused := false, acks := [], kept := [], missed := none }

/-- One cluster becomes resident on a rectangle: a key for the cluster, and 33 for each team and its groups. Its groups acquire from
the launch (R92). -/
def State.startCluster (s : State) (d : Grid) (index ax ay : Nat) : State :=
  let l := d.launch
  let cid := s.fresh
  let cores := rectangle ax ay l.width l.height
  let tid (i : Nat) : Nat := cid + 1 + 33 * i
  let teams := (List.range l.teams).map (fun i => startTeam cid (tid i) i (cores.getD i 0) s.cycle)
  let groups := (List.range l.teams).flatMap (fun i => s.startGroups l index i (tid i) (cores.getD i 0))
  { s.updGrid d.handle (fun d => { d with placed := d.placed + 1 }) with
    clusters := s.clusters ++ [{ cid := cid, grid := d.handle, index := index, ax := ax, ay := ay, phase := 0, arrived := [] }],
    teams := s.teams ++ teams, groups := s.groups ++ groups, fresh := s.fresh + 1 + 33 * l.teams,
    pendingWrites := s.pendingWrites.map (fun p =>
      if p.released.any (fun r => decide (r.place = .grid d.handle)) then { p with known := p.known ++ groups.map (·.gid) } else p) }

/-- n clusters of a grid, all or none (R26): the first placement, by ascending anchors, at which they all fit. -/
def State.placeFrom (s : State) (h : Nat) (mask : BitVec 256) : Nat → Nat → Option State
  | 0, _ => some s
  | n + 1, least =>
    match s.grid? h with
    | none => none
    | some d =>
      ((s.anchors d mask (List.replicate d.launch.teams (some (needOf d.launch.shape)))).filter (fun a => decide (least ≤ a))).findSome? (fun a =>
        (s.startCluster d d.placed (a % 16) (a / 16)).placeFrom h mask n a)

/-- The same, after a look at whether the cores of the mask have room for so many teams at all. -/
def State.placeClusters (s : State) (h : Nat) (mask : BitVec 256) (n : Nat) : Option State :=
  match s.grid? h with
  | none => none
  | some d =>
    let room := ((List.range 256).filter mask.getLsbD).foldl (fun k c => k + s.room d c (needOf d.launch.shape)) 0
    if room < n * d.launch.teams then none else s.placeFrom h mask n 0

/-- A cooperative grid fits whole on granted cores that hold nothing (R26, R309). -/
def State.coopFits (s : State) (d : Grid) (mask : BitVec 256) : Bool :=
  let empty := { s with teams := [], groups := [], clusters := [], grids := [d], power := { s.power with rows := BitVec.allOnes 16, pstate := 0 } }
  (empty.placeClusters d.handle mask d.launch.clusters).isSome

/-! ## Launching (R303, R304, R318, R359) -/

/-- Copying one image entry part by part: 0, or the status of a copy that faults; none where it waits for its memory to be reached. -/
def State.copyImage (s : State) (inset : Nat) : Nat → Nat → Nat → Nat → State × Option Nat
  | 0, _, _, _ => (s, some 0)
  | fuel + 1, src, dst, n =>
    if n = 0 then (s, some 0)
    else
      let k := min n (min (0x10000 - src % 0x10000) (0x10000 - dst % 0x10000))
      match s.readSpace inset src k, s.spaceDown inset .w dst k with
      | .error .wait, _ => (s, none)
      | .error _, _ => (s, some 0x23)
      | .ok _, true => (s, none)
      | .ok bs, false => match s.writeSpace inset dst bs with
        | (s, some _) => (s, some 0x23)
        | (s, none) => s.copyImage inset fuel (src + k) (dst + k) (n - k)

/-- The image entries in list order: 0, or the status that refuses the launch; none where a copy waits. -/
def State.copyImages (s : State) (inset list : Nat) : Nat → Nat → State × Option Nat
  | 0, _ => (s, some 0)
  | k + 1, i =>
    match s.readSpace inset (list + 24 * i) 24 with
    | .error .wait => (s, none)
    | .error _ => (s, some 0x23)
    | .ok e =>
      let n := blockDword e 16
      if n % 4 ≠ 0 then (s, some 0x20)
      else match s.copyImage inset (n / 0x8000 + 4) (blockDword e 0) (blockDword e 8) n with
        | (s, some 0) => s.copyImages inset list k (i + 1)
        | r => r

/-- The next grid handle (R359), past those of the grids that have not left the device, nor all their writes performed. -/
def State.nextHandle (s : State) : Nat :=
  let at_ (i : Nat) : Nat := (s.handles + i) % 0xFFFFFF + 1
  let held (h : Nat) : Bool := (s.grid? h).isSome || s.pendingWrites.any (fun p => decide (p.grid = h))
  at_ (((List.range (s.grids.length + s.pendingWrites.length + 1)).find? (fun i => !held (at_ i))).getD 0)

/-- The steps of R303 on a record: the state after any image copies, the completion object, and the status (0 accepted; none while a
copy waits). -/
def State.checkLaunch (s : State) (x : Inset) (queued : Bool) (d : Grid) (reserved : Bool) : State × Option Nat × Option Nat :=
  let l := d.launch
  let object : Option Nat := match s.access x.id .w l.cbo 1 with
    | .ok p => if objectOk 16 l.cbo p then some p else none
    | .error _ => none
  if reserved || !l.ok || (decide (l.cbo ≠ 0) && object.isNone) then (s, none, some 0x20)
  else if l.slots.any (fun v => !slotLaunchable v) then (s, none, some 0x21)
  else if 3 ≤ l.nkind ∨ (queued ∧ l.nkind = 1) then (s, none, some 0x24)
  else if l.coop && !s.coopFits d x.cores then (s, none, some 0x22)
  else
    let r := s.copyImages x.id l.imgList l.imgCount 0
    (r.1, if l.cbo = 0 then none else object, r.2)

/-- A launch record as read: its grid is accepted and takes a handle, or it is refused, with its record to the parent (R318); none while
an image copy waits for its memory to be reached (R340, R352), with nothing done. -/
def State.launch (s : State) (x : Inset) (record : Nat) (bs : List Byte) (queue : Option (Nat × Nat × Nat)) (gate : Option (Nat × Nat × Nat))
    (team : Option Nat) : Option (State × Nat × Nat) :=
  let h := s.nextHandle
  let d : Grid :=
    { handle := h, inset := x.id, launch := launchOf bs, record := record, object := none, placed := 0, notifyTeam := team, queue := queue,
      counters := [], gate := gate, order := s.fresh, completed := false }
  match s.checkLaunch x queue.isSome d (launchReserved bs) with
  | (_, _, none) => none
  | (s, object, some 0) => some ({ s with grids := s.grids ++ [{ d with object := object }], handles := h, fresh := s.fresh + 1 }, 0, h)
  | (s, _, some code) => some (s.post (insetRecord x 0x30 0 (BitVec.ofNat 32 code) record), code, 0)

/-! ## Queue control blocks (R305, R306) -/

/-- A queue control block as read. -/
structure Qcb where
  ring : Nat
  inset : Nat
  logsize : Nat
  err : Bool
  age : Nat
  prio : Nat
  read : Nat
  write : Nat
  cring : Nat
  cidx : Nat
  upper : Nat
  reserved : Bool
deriving DecidableEq, Repr

def Qcb.ofBytes (bs : List Byte) : Qcb :=
  let w := blockWord bs
  { ring := blockDword bs 0, inset := w 8 / 2 ^ 16 % 2 ^ 12, logsize := w 8 % 32, err := (w 0xC).testBit 16, age := w 0xC / 2 ^ 8 % 2 ^ 8,
    prio := w 0xC % 2 ^ 8, read := w 0x10, write := w 0x14, cring := blockDword bs 0x18, cidx := w 0x20, upper := w 0xC / 2 ^ 17 % 2 ^ 7,
    reserved := decide (w 8 / 2 ^ 28 ≠ 0 ∨ w 8 / 2 ^ 5 % 2 ^ 11 ≠ 0 ∨ w 0xC / 2 ^ 17 ≠ 0) || ((bs.drop 0x24).take 28).any (fun b => decide (b ≠ 0)) }

/-- The block is well formed for its owner. -/
def Qcb.ok (q : Qcb) (inset : Nat) : Bool :=
  !q.reserved && decide (4 ≤ q.logsize ∧ q.logsize ≤ 16 ∧ q.ring % 128 = 0 ∧ q.cring % 8 = 0 ∧ q.inset = inset)

def State.readQcb (s : State) (inset qcb : Nat) : Option Qcb :=
  match s.readSpace inset qcb 64 with
  | .ok bs => some (Qcb.ofBytes bs)
  | .error _ => none

/-- The block of a queue cannot be reached as things stand, so the device's work on it waits (R340, R352). -/
def State.blockDown (s : State) (inset qcb : Nat) : Bool := s.spaceDown inset .r qcb 64 || s.spaceDown inset .w qcb 64

/-- The device writes a field of a control block; a write that faults changes nothing. -/
def State.writeQcb (s : State) (inset qcb off : Nat) (bs : List Byte) : State := (s.writeSpace inset (qcb + off) bs).1

/-- AGE and the byte that holds ERR, whose other bits are reserved and stay. -/
def qcbState (q : Qcb) (err : Bool) (age : Nat) : List Byte := natBytes 2 (age % 2 ^ 8 + 2 ^ 8 * (q.upper * 2 + (if err then 1 else 0)))

/-- The device writes AGE and ERR of a block; PRIO stays the program's. -/
def State.writeState (s : State) (inset qcb : Nat) (err : Bool) (age : Nat) : State :=
  match s.readQcb inset qcb with
  | some q => s.writeQcb inset qcb 0xD (qcbState q err age)
  | none => s

/-- The slot that holds a queue. -/
def State.slotOf (s : State) (inset qcb : Nat) : Option Slot := s.slots.find? (fun q => decide (q.inset = inset ∧ q.qcb = qcb))
def State.updSlot (s : State) (n : Nat) (f : Slot → Slot) : State := { s with slots := s.slots.map (fun q => if q.slot = n then f q else q) }

/-- READ, WRITE and ERR of a queue: of its slot where it is mapped, else of its block. -/
def State.queueLevel (s : State) (inset qcb : Nat) : Option (Nat × Nat × Bool) :=
  match s.slotOf inset qcb with
  | some q => some (q.read, q.write, q.err)
  | none => (s.readQcb inset qcb).map (fun q => (q.read, q.write, q.err))

/-- (a - b) modulo 2^32. -/
def idxDiff (a b : Nat) : Nat := (a + 2 ^ 32 - b % 2 ^ 32) % 2 ^ 32

/-- READ of a queue advances by one (R307). -/
def State.advanceRead (s : State) (inset qcb : Nat) : State :=
  match s.slotOf inset qcb with
  | some q => s.updSlot q.slot (fun q => { q with read := (q.read + 1) % 2 ^ 32 })
  | none => match s.readQcb inset qcb with
    | some q => s.writeQcb inset qcb 0x10 (natBytes 4 (q.read + 1))
    | none => s

/-- The address of a queue's next completion entry, where it has a ring (R305). -/
def State.completionSlot (s : State) (inset qcb : Nat) : Option (Nat × Qcb) :=
  (s.readQcb inset qcb).bind (fun q =>
    let shape := ((s.slotOf inset qcb).map (fun t => (t.cring, t.logsize))).getD (q.cring, q.logsize)
    if shape.1 = 0 then none else some (shape.1 + 8 * (q.cidx % 2 ^ shape.2), q))

/-- The completion entry of a record that has one cannot be written as things stand. -/
def State.completionDown (s : State) (inset qcb : Nat) : Bool :=
  s.blockDown inset qcb || (s.completionSlot inset qcb).any (fun e => s.spaceDown inset .w e.1 8)

/-- An entry of a queue's completion ring (R305): TAG below the status; a queue without a ring gets none. -/
def State.completionEntry (s : State) (inset qcb tag status : Nat) : State :=
  match s.completionSlot inset qcb with
  | none => s
  | some (a, q) => match s.writeSpace inset a (natBytes 8 (tag + status * 2 ^ 32)) with
    | (s, none) => s.writeQcb inset qcb 0x20 (natBytes 4 (q.cidx + 1))
    | (_, some _) => s

/-! ## CLUSTER_PLACEMENT (R309) -/

/-- Every record a LAUNCHQ waits for has been placed or refused, and its grid has ended (R319). -/
def State.gateOpen (s : State) (d : Grid) : Bool :=
  match d.gate with
  | none => true
  | some (qcb, first, n) =>
    (match s.queueLevel d.inset qcb with
      | some l => decide (n ≤ idxDiff l.1 first)
      | none => false) &&
    !s.grids.any (fun e => match e.queue with
      | some (i, q, idx) => !e.completed && decide (i = d.inset ∧ q = qcb ∧ idxDiff idx first < n)
      | none => false)

/-- The grid's queue is unmapped and its block cannot be reached, so that its READ could not advance. -/
def State.queueDown (s : State) (d : Grid) : Bool := d.queue.any (fun q => (s.slotOf q.1 q.2.1).isNone && s.blockDown q.1 q.2.1)

/-- The grid has a cluster to place and may be dispatched. -/
def State.dispatchable (s : State) (d : Grid) : Bool :=
  decide (d.placed < d.launch.clusters) && s.running d.inset && s.gateOpen d && !s.queueDown d

/-- Grid a is considered before grid b: larger balance, then lower identifier, then older. -/
def State.before (s : State) (a b : Grid) : Bool :=
  let bal (d : Grid) : Int := ((s.inset? d.inset).map (·.balance)).getD 0
  decide (bal b < bal a ∨ (bal a = bal b ∧ (a.inset < b.inset ∨ (a.inset = b.inset ∧ a.order < b.order))))

def State.insertGrid (s : State) (d : Grid) : List Grid → List Grid
  | [] => [d]
  | e :: rest => if s.before d e then d :: e :: rest else e :: s.insertGrid d rest

/-- One grid's next cluster, or all clusters of a cooperative grid. -/
def State.placeNext (s : State) (d : Grid) : Option State :=
  s.placeClusters d.handle (((s.inset? d.inset).map (·.cores)).getD 0) (if d.launch.coop then d.launch.clusters - d.placed else 1)

/-- A queue's record is placed with its last cluster. -/
def State.notePlaced (s : State) (h : Nat) : State :=
  match s.grid? h with
  | some d => if d.placed = d.launch.clusters then (match d.queue with
      | some (i, q, _) => s.advanceRead i q
      | none => s) else s
  | none => s

def execClusterPlacement (s : State) : Host.Outcome State Fault Refusal :=
  let order := (s.grids.filter s.dispatchable).foldl (fun ds d => s.insertGrid d ds) []
  match order.findSome? (fun d => (s.placeNext d).map (fun t => t.notePlaced d.handle)) with
  | some t => .next t
  | none => .next s

/-! ## GRID_COMPLETE (R31, R304) -/

/-- Every group of a team has exited: of one that is seated, or of one that was saved so. -/
def State.teamExited (s : State) (t : Team) : Bool :=
  let gs := s.teamGroups t.tid ++ t.kept
  decide (t.residency = .freed) || (!gs.isEmpty && gs.all (·.exited))

/-- Every cluster is placed, every group has exited, and every counter of the grid is zero: no store of it is under way, no command,
no partial. -/
def State.gridDone (s : State) (d : Grid) : Bool :=
  decide (d.placed = d.launch.clusters ∧ d.completed = false) && (s.gridTeams d.handle).all s.teamExited && d.counters.isEmpty &&
  !s.pendingWrites.any (fun p => decide (p.grid = d.handle))

/-- The flip of R31, which an object in the error phase does not take; it releases what happens before the grid's end. -/
def State.flipObject (s : State) (d : Grid) : State :=
  match d.object with
  | none => s
  | some p =>
    if s.mem.boErr p then s
    else
      let gs := (s.gridTeams d.handle).flatMap (fun t => s.teamGroups t.tid)
      (gs.foldl (fun s g => s.publish (s.party g) 3 [.object p (s.mem.word p)]) s).setMem (s.mem.boFlip p)

/-- The notice that the record directs (R192, R304). -/
def State.completionNotice (s : State) (d : Grid) : State :=
  match d.launch.nkind, d.queue, d.notifyTeam with
  | 2, some (i, q, _), _ => s.completionEntry i q d.launch.tag 0
  | 1, _, some t => s.toPort t 3 [BitVec.ofNat 32 (2 ^ 29 + d.launch.tag)]
  | _, _, _ => s

/-- The notice that a grid's record directs cannot be written as things stand. -/
def State.noticeDown (s : State) (d : Grid) : Bool :=
  decide (d.launch.nkind = 2) && d.queue.any (fun q => s.completionDown q.1 q.2.1)

def execGridComplete (handle : Nat) (s : State) : Host.Outcome State Fault Refusal :=
  match s.grid? handle with
  | none => .next s
  | some d =>
    if s.gridDone d && !s.noticeDown d then
      .next (((((s.flipObject d).completionNotice d).updGrid handle (fun d => { d with completed := true })).dropEnded handle).serve)
    else .next s

/-! ## Doorbells (R307, R346) -/

/-- An overrun stops a queue: ERR is set where the queue stands, and its record posted. -/
def State.overrun (s : State) (x : Inset) (qcb value : Nat) : State :=
  let s := match s.slotOf x.id qcb with
    | some q => s.updSlot q.slot (fun q => { q with err := true })
    | none => s.writeState x.id qcb true (((s.readQcb x.id qcb).map Qcb.age).getD 0)
  s.post (insetRecord x 0x31 0 (BitVec.ofNat 32 value) qcb)

/-- An ignored write counts in DBERR, which saturates. -/
def State.countIgnored (s : State) : State := { s with ctl := { s.ctl with dberr := min 0xFFFFFFFF (s.ctl.dberr + 1) } }

/-- What a kick or a registration leaves at the doorbells of a queue. -/
def State.updBells (s : State) (inset qcb : Nat) (f : Doorbell → Doorbell) : State :=
  { s with doorbells := s.doorbells.map (fun d => if d.inset = inset ∧ d.qcb = qcb then f d else d) }

/-- The queue's pending bit. -/
def State.setPending (s : State) (inset qcb : Nat) (b : Bool) : State := s.updBells inset qcb (fun d => { d with pending := b })

/-- WRITE of an unmapped queue takes a kick's value: in its block, or beside it as long as the block cannot be written, so that no kick
is lost (R307). -/
def State.takeKick (s : State) (inset qcb value : Nat) : State :=
  let keep := s.updBells inset qcb (fun d => { d with pending := true, kick := some value })
  if s.blockDown inset qcb then keep
  else match s.writeSpace inset (qcb + 0x14) (natBytes 4 value) with
    | (s, none) => s.updBells inset qcb (fun d => { d with pending := true, kick := none })
    | (_, some _) => keep

/-- The host can reach the doorbells: the device runs and the link is up (R340, R348). -/
def State.hostReach (s : State) : Bool := decide (s.ctl.boot = .run) && s.fabric.linkUp

/-- DOORBELL_KICK: the new WRITE is accepted, or the queue overruns; an unmapped queue becomes pending. -/
def execDoorbellKick (index : Nat) (value : BitVec 32) (s : State) : Host.Outcome State Fault Refusal :=
  if !s.hostReach then .next s
  else match s.doorbells.find? (fun d => decide (d.index = index)) with
    | none => .next s.countIgnored
    | some d =>
      match s.inset? d.inset with
      | none => .next s
      | some x =>
        let s := s.noteWake
        match s.slotOf d.inset d.qcb with
        | some q =>
          if 2 ^ q.logsize < idxDiff value.toNat q.read then (if s.bufferFull then .next s else .next (s.overrun x d.qcb value.toNat))
          else .next (s.updSlot q.slot (fun q => { q with write := value.toNat }))
        | none =>
          match s.readQcb d.inset d.qcb with
          | some q =>
            if q.ok d.inset && decide (2 ^ q.logsize < idxDiff value.toNat q.read) then
              (if s.bufferFull then .next s else .next (s.overrun x d.qcb value.toNat))
            else .next (s.takeKick d.inset d.qcb value.toNat)
          | none => .next (s.takeKick d.inset d.qcb value.toNat)

/-- DOORBELL_IGNORED_WRITE: a write of another width (in bytes), at another offset, or without registration. -/
def execDoorbellIgnoredWrite (index offset width : Nat) (s : State) : Host.Outcome State Fault Refusal :=
  if !s.hostReach ∨ (offset = 0 ∧ width = 4 ∧ s.doorbells.any (fun d => decide (d.index = index))) then .next s
  else .next s.countIgnored

/-! ## QUEUE_RECORD_START (R307) -/

/-- A record of the queue is in placement. -/
def State.placing (s : State) (inset qcb : Nat) : Bool :=
  s.grids.any (fun d => match d.queue with
    | some (i, q, _) => decide (i = inset ∧ q = qcb ∧ d.placed < d.launch.clusters)
    | none => false)

/-- The grid of the record before one has not completed, which a SERIAL record waits for. -/
def State.queueBusy (s : State) (inset qcb index : Nat) : Bool :=
  s.grids.any (fun d => match d.queue with
    | some (i, q, k) => !d.completed && decide (i = inset ∧ q = qcb ∧ idxDiff index k = 1)
    | none => false)

/-- QUEUE_RECORD_START: the next record of a slot is launched or refused; it waits while what the device reads or writes for it cannot
be reached. -/
def execQueueRecordStart (slot : Nat) (s : State) : Host.Outcome State Fault Refusal :=
  match s.slots.find? (fun q => decide (q.slot = slot)) with
  | none => .next s
  | some q =>
    match s.inset? q.inset with
    | none => .next s
    | some x =>
      if q.err ∨ q.read = q.write ∨ s.placing q.inset q.qcb ∨ !s.running q.inset ∨ s.bufferFull then .next s
      else
        let addr := q.ring + 128 * (q.read % 2 ^ q.logsize)
        match s.readSpace q.inset addr 128 with
        | .error .wait => .next s
        | .error _ => .next ((s.post (insetRecord x 0x30 0 0x27 addr)).advanceRead q.inset q.qcb)
        | .ok bs =>
          let l := launchOf bs
          if (l.serial && s.queueBusy q.inset q.qcb q.read) ∨ (l.nkind = 2 ∧ s.completionDown q.inset q.qcb) then .next s
          else match s.launch x addr bs (some (q.inset, q.qcb, q.read)) none none with
            | none => .next s
            | some (s, 0, _) => .next s
            | some (s, code, _) =>
              let s := if l.nkind = 2 then s.completionEntry q.inset q.qcb l.tag code else s
              .next (s.advanceRead q.inset q.qcb)

/-! ## QUEUE_MAP, QUEUE_AGEING_TICK (R308) -/

/-- The block of an unmapped pending queue, with PRIO and AGE as they stand. -/
structure Waiter where
  inset : Nat
  qcb : Nat
  weight : Nat
deriving DecidableEq, Repr

/-- The mapped queues of a subtree. -/
def State.slotsUnder (s : State) (x : Nat) : List Slot := s.slots.filter (fun q => s.under x q.inset)

/-- An inset may have one more queue mapped: within what is left to it of its own grant, and within the grant of each inset above it, which
its subtree shares (R288, R308). -/
def State.mayMap (s : State) (i : Nat) : Bool :=
  decide ((s.slots.filter (fun q => decide (q.inset = i))).length < s.ownSlots i) &&
    (s.ancestors i).all (fun y => decide ((s.slotsUnder y.id).length < y.qslots))

/-- The pending queues an inset may have mapped, whose blocks can be reached. -/
def State.waiters (s : State) : List Waiter :=
  ((s.doorbells.filter (fun d => d.pending && (s.slotOf d.inset d.qcb).isNone && (s.inset? d.inset).isSome && !s.blockDown d.inset d.qcb)).map (fun d =>
    { inset := d.inset, qcb := d.qcb, weight := ((s.readQcb d.inset d.qcb).map (fun q => q.prio + q.age)).getD 0 : Waiter })).filter (fun w =>
      s.mayMap w.inset)

def Waiter.before (a b : Waiter) : Bool :=
  decide (b.weight < a.weight ∨ (a.weight = b.weight ∧ (a.inset < b.inset ∨ (a.inset = b.inset ∧ a.qcb < b.qcb))))

def bestWaiter : List Waiter → Option Waiter
  | [] => none
  | w :: rest => match bestWaiter rest with
    | some b => if b.before w then some b else some w
    | none => some w

/-- The mapped queue with the lowest PRIO + AGE. -/
def lowestSlot : List Slot → Option Slot
  | [] => none
  | q :: rest => match lowestSlot rest with
    | some b => if b.prio + b.age < q.prio + q.age then some b else some q
    | none => some q

/-- READ, WRITE, AGE and ERR go back to the block before the slot is reused; a queue with records left stays pending. -/
def State.unmapSlot (s : State) (q : Slot) : State :=
  let s := (s.writeQcb q.inset q.qcb 0x10 (natBytes 4 q.read ++ natBytes 4 q.write)).writeState q.inset q.qcb q.err q.age
  let s := { s with slots := s.slots.filter (fun t => decide (t.slot ≠ q.slot)) }
  if q.read ≠ q.write ∧ !q.err then s.setPending q.inset q.qcb true else s

/-- Mapping a queue into a slot. A kick that its block has not taken is taken now. A malformed block is not mapped, and is marked and
reported, as at every attempt until DBSET registers it again (R306). -/
def State.mapQueue (s : State) (w : Waiter) (slot : Nat) : State :=
  match s.inset? w.inset, s.readQcb w.inset w.qcb with
  | none, _ => s
  | some x, q =>
    let bell := s.doorbells.find? (fun d => decide (d.inset = w.inset ∧ d.qcb = w.qcb))
    match q.filter (fun q => q.ok w.inset && !bell.any (·.malformed)) with
    | some q =>
      let write := (bell.bind (·.kick)).getD q.write
      let s := s.updBells w.inset w.qcb (fun d => { d with pending := false, kick := none })
      if decide (write ≠ q.write) && decide (2 ^ q.logsize < idxDiff write q.read) then s.overrun x w.qcb write
      else
        let s := s.writeState w.inset w.qcb q.err 0
        { s with slots := s.slots ++ [{ slot := slot, qcb := w.qcb, inset := w.inset, ring := q.ring, logsize := q.logsize, read := q.read,
                                        write := write, prio := q.prio, age := 0, err := q.err, cring := q.cring }] }
    | none =>
      let s := s.updBells w.inset w.qcb (fun d => { d with pending := false, malformed := true })
      (s.writeState w.inset w.qcb true ((q.map Qcb.age).getD 0)).post (insetRecord x 0x31 1 0 w.qcb)

/-- Queues of an inset beyond what is left to it of its slot grant, or of its subtree beyond that grant, are unmapped as R308 chooses, one
whose block cannot be reached as soon as it can; fuel bounds the queues. -/
def State.unmapExcess (s : State) (x : Nat) : Nat → State
  | 0 => s
  | n + 1 =>
    let own := s.slots.filter (fun q => decide (q.inset = x))
    let all := s.slotsUnder x
    let excess := if s.ownSlots x < own.length then own else if ((s.inset? x).map (·.qslots)).getD 128 < all.length then all else []
    let idle := excess.filter (fun q => decide (q.read = q.write))
    match (lowestSlot (if idle.isEmpty then excess else idle)).filter (fun q => !s.blockDown q.inset q.qcb) with
    | some q => (s.unmapSlot q).unmapExcess x n
    | none => s

/-- QUEUE_MAP: the Queue Manager core of a die maps the pending queue of the highest weight, unmapping one where it must. -/
def execQueueMap (die : Nat) (s : State) : Host.Outcome State Fault Refusal :=
  let s := s.insets.foldl (fun s x => s.unmapExcess x.id s.slots.length) s
  match bestWaiter s.waiters with
  | none => .next s
  | some w =>
    if s.bufferFull ∨ 2 ≤ die ∨ s.ctl.boot ≠ .run then .next s
    else
      let mine := s.slots.filter (fun q => decide (q.slot / 64 = die))
      match (List.range 64).find? (fun i => !mine.any (fun q => decide (q.slot = 64 * die + i))) with
      | some i => .next (s.mapQueue w (64 * die + i))
      | none =>
        let idle := mine.filter (fun q => decide (q.read = q.write))
        match (lowestSlot (if idle.isEmpty then mine else idle)).filter (fun q => !s.blockDown q.inset q.qcb) with
        | some q => if mine.any (fun q => decide (q.prio + q.age < w.weight)) then .next ((s.unmapSlot q).mapQueue w q.slot) else .next s
        | none => .next s

/-- QUEUE_AGEING_TICK: every 940,000 cycles, AGE of each unmapped pending queue rises, to 255 - PRIO at most. -/
def execQueueAgeingTick (s : State) : Host.Outcome State Fault Refusal :=
  let tick := s.aged + 940000
  let due := (s.doorbells.filter (fun d => d.pending && (s.slotOf d.inset d.qcb).isNone && !s.blockDown d.inset d.qcb)).map (fun d => (d.inset, d.qcb))
  let s := due.eraseDups.foldl (fun s q => match s.readQcb q.1 q.2 with
    | some b => s.writeState q.1 q.2 b.err (max b.age (min (255 - b.prio) (b.age + 1)))
    | none => s) s
  .next { s with aged := tick, cycle := max s.cycle tick }

end Sys2Proof.Machine
end

