-- ==== Sys2Proof/Machine/Images.lean ====
section
/-! DEFINITION. Save images as bytes (R45, R46, R312): sizes and room, writing a team out, reading one back, and the check of
R324. Where the manual names a section but not its layout, the layout is the model's own (assumption log 8). -/
namespace Sys2Proof.Machine

/-! ## Sizes and room (R310, R312, R380) -/

/-- An access that waits and is withdrawn by a save (R66). -/
def LongOp.waits (o : LongOp) : Bool := match o.wait with
  | .drained _ => false
  | w => decide (0 < w.turns)

/-- The operations of a group, in issue order. -/
def insertOp (o : LongOp) : List LongOp → List LongOp
  | [] => [o]
  | p :: rest => if o.id < p.id then o :: p :: rest else p :: insertOp o rest
def State.groupOps (s : State) (gid : Nat) : List LongOp :=
  (s.ops.filter (fun o => decide (o.gid = gid))).foldl (fun os o => insertOp o os) []

/-- The waiting accesses of a group, in issue order. -/
def State.withdrawn (s : State) (gid : Nat) : List LongOp := (s.groupOps gid).filter LongOp.waits

/-- The groups of a team that are not freed, in logical order (R13). -/
def State.imageGroups (s : State) (tid : Nat) : List Group := (drainOrder (s.teamGroups tid)).filter (fun g => !g.freed)

/-- Bytes of a group image. -/
def groupBytes (quota tiles w : Nat) : Nat := 5632 + 128 * quota + 4096 * tiles + 576 * w

/-- Images of a level-1 inset's teams are protected (R380). -/
def State.protected (s : State) (x : Inset) : Bool := s.confidential && decide (x.level = 1)

/-- The size of a team's image without and with the trailer of R380. -/
def State.plainSize (s : State) (t : Team) : Nat :=
  (s.imageGroups t.tid).foldl (fun n g => n + groupBytes g.quota g.tileQuota (s.withdrawn g.gid).length) 3136
def trailerBytes (n : Nat) : Nat := 32 * ((n + 4095) / 4096)
def State.imageBytes (s : State) (x : Inset) (t : Team) : Nat :=
  let n := s.plainSize t
  if s.protected x then n + trailerBytes n else n

/-- A size in whole 4 KiB units. -/
def units (n : Nat) : Nat := (n + 4095) / 4096 * 4096

/-- The first fit in an inset's save area. -/
def Inset.room (x : Inset) (size : Nat) : Option Nat :=
  let n := units size
  let free (o : Nat) : Bool := decide (o + n ≤ x.saveSize) && x.images.all (fun i => decide (i.1 + units i.2 ≤ o ∨ o + n ≤ i.1))
  ((0 :: x.images.map (fun i => i.1 + units i.2)).filter free).foldl (fun m o => some (match m with
    | none => o
    | some k => min k o)) none

/-! ## Fields -/

def wordBytes (ws : List Word) : List Byte := ws.flatMap (fun w => natBytes 4 w.toNat)
def wordsAt (bs : List Byte) (o n : Nat) : List Word := (List.range n).map (fun i => BitVec.ofNat 32 (blockWord bs (o + 4 * i)))
def padTo (n : Nat) (bs : List Byte) : List Byte := bs ++ List.replicate (n - bs.length) 0
def natWord (n : Nat) : Word := BitVec.ofNat 32 n
def hiWord (n : Nat) : Word := BitVec.ofNat 32 (n / 2 ^ 32)

/-! ## The group header -/

/-- Where each lane is parked: three bits a lane. -/
def parkedCodes (g : Group) : Nat := (List.range 32).foldl (fun n l => n + ((g.lane l).parked.getD 0) % 8 * 8 ^ l) 0

/-- A run as the mask of its lanes. -/
def Group.maskOfRun (g : Group) (r : Option Nat) : Lanes := match r with
  | some r => g.runMask r
  | none => 0

def stopWord (g : Group) : Nat :=
  (if g.stepping then 2 ^ 30 else 0) + (match g.stop with
    | none => 0
    | some st => 2 ^ 31 + st.kind % 2 ^ 8 + (if st.clauseStart then 2 ^ 8 else 0) + (if st.after then 2 ^ 9 else 0) +
        (match st.slot with
          | some i => 2 ^ 10 + i % 8 * 2 ^ 11
          | none => 0) + st.index % 8 * 2 ^ 16 + st.length % 16 * 2 ^ 20)

/-- Position of the operation that met its event late in the withdrawn list, plus one. -/
def lateEntry (g : Group) (ops : List LongOp) : Nat :=
  match g.stop.bind (·.late) with
  | none => 0
  | some id => match listIndex id (ops.map (·.id)) with
    | some i => i + 1
    | none => 0

def optPhase (p : Option Nat) : Word := match p with
  | some n => natWord (2 ^ 31 + n % 2 ^ 31)
  | none => 0

/-- The 256 words of a group's header. -/
def headerWords (g : Group) (ops : List LongOp) : List Word :=
  let lane (f : Lane → Nat) : List Nat := (List.range 32).map (fun l => f (g.lane l))
  [natWord g.quota, natWord g.tileQuota, natWord g.index, natWord ops.length, g.stkLo, g.stkHi, g.evtag, natWord g.streak,
   maskOf (fun l => (g.lane l).live && g.deferred (g.lane l).run), g.exitMask, g.parkMask, g.maskOfRun g.lastRun,
   natWord ((List.range 8).foldl (fun n j => n + (if g.armed j then 2 ^ j else 0)) 0),
   natWord (parkedCodes g), natWord (parkedCodes g / 2 ^ 32), natWord (parkedCodes g / 2 ^ 64)] ++
  (List.range 8).map g.rejoinMask ++
  [natWord (stopWord g), g.maskOfRun (g.stop.map (·.run)), natWord (lateEntry g ops), natWord (g.overflow % 2 ^ 24 + (if g.flushed then 2 ^ 31 else 0)),
   optPhase g.pendTeam, optPhase g.pendCluster, natWord ((g.charged.map (· + 1)).getD 0), hiWord ((g.charged.map (· + 1)).getD 0)] ++
  (List.range 16).map (Sparse.get 0 g.sregs) ++
  (lane (fun l => l.preds.toNat)).map natWord ++
  (List.range 16).map (Sparse.get 0 g.tileCtl) ++
  (lane (fun l => l.header + l.index * 2 ^ 48)).flatMap (fun n => [natWord n, hiWord n]) ++
  (lane (fun l => l.gen.toNat)).flatMap (fun n => [natWord n, hiWord n]) ++
  (List.range 4).map (fun i => maskOf (fun l => (g.lane l).live && decide ((g.run? (g.lane l).run).bind (·.passed) = some i))) ++
  [natWord ((List.range 4).foldl (fun n d => n + (g.queue d).length % 16 * 16 ^ d) 0), g.written.truncate 32, (g.written >>> 32).truncate 32] ++
  List.replicate 25 0

/-! ## The body, registers, tiles, withdrawn accesses -/

def bodyBytes (g : Group) : List Byte :=
  padTo 4096 ((List.range 4).flatMap (fun d => padTo 1024 ((g.queue d).flatMap (fun e => padTo 128 (wordBytes (e.words.take 32)))))) ++
  padTo 512 (g.atomics.flatMap (fun e => natBytes 8 (e.address + e.op * 2 ^ 60) ++ natBytes 8 (e.sum.toNat + 2 ^ 32)))

def registerBytes (g : Group) : List Byte :=
  (List.range g.quota).flatMap (fun r => (List.range 32).flatMap (fun l => natBytes 4 ((g.lane l).reg r).toNat))

def tileBytes (g : Group) : List Byte := (List.range (4096 * g.tileQuota)).map (Sparse.get 0 g.tiles)

/-- One withdrawn access: 64 bytes of header, 32 addresses, 32 data. -/
def entryBytes (o : LongOp) : List Byte :=
  let lanes : List TagLane := match o.wait with
    | .tagged _ _ _ _ ls => ls
    | _ => []
  let phase : Nat := match o.wait with
    | .teamPhase p => p
    | .clusterPhase p => p
    | _ => 0
  let waiting : Lanes := if lanes.isEmpty then o.mask else maskOf (fun l => lanes.any (fun t => decide (t.lane = some l)))
  let of_ (f : TagLane → Nat) (l : Nat) : List Byte := natBytes 8 (((lanes.find? (fun t => decide (t.lane = some l))).map f).getD 0)
  let last : List Word := match o.wait with
    | .bo _ w _ => [w]
    | .ticket _ w _ => [w]
    | .pointer _ v _ => [v.truncate 32, (v >>> 32).truncate 32]
    | _ => []
  padTo 64 (wordBytes (((o.words ++ List.replicate 4 0).take 4) ++ [natWord o.flag, waiting] ++ (((o.operands ++ last) ++ List.replicate 6 0).take 6) ++
    [natWord phase, o.mask, natWord o.header, natWord (o.header / 2 ^ 32 % 2 ^ 16 + o.index * 2 ^ 24)])) ++
  (List.range 32).flatMap (of_ (·.vaddr)) ++ (List.range 32).flatMap (of_ (fun t => t.lo.toNat + 2 ^ 32 * t.hi.toNat))

/-- A stopped lane, its short results in place. -/
def Lane.settled (l : Lane) : Lane := commitPending (l.pend.foldl (fun n p => max n p.visible) l.clock) l [] l.pend

/-- A stopped group as a save meets it: what lanes of a withdrawn access have received stands in its registers (R66). -/
def State.atSave (s : State) (g : Group) : Group :=
  let rs := (s.withdrawn g.gid).flatMap (fun o => o.results.filter (fun r => !o.overtaken.contains (r.lane, r.reg)))
  rs.foldl Group.putResult g

def State.groupImage (s : State) (g : Group) : List Byte :=
  let ops := s.withdrawn g.gid
  let g := s.atSave g
  let g := { g with lanes := g.lanes.map Lane.settled }
  wordBytes (headerWords g ops) ++ bodyBytes g ++ registerBytes g ++ tileBytes g ++ ops.flatMap entryBytes

/-! ## The team's own sections -/

/-- A port's words, then its count and the group that reserved its head. -/
def portBytes (i : Nat) (p : Port) : List Byte := padTo (if i = 2 then 1024 else 256) (p.entries.flatMap wordBytes)
def portState (p : Port) : List Word :=
  [natWord (p.entries.length + (p.entries.headD []).length * 2 ^ 16), natWord ((p.holder.map (· + 1)).getD 0)]

/-- Ports, barrier records with the flush record, and for the anchor team the cluster's. -/
def State.portSection (s : State) (t : Team) : List Byte :=
  let flush : Lanes := maskOf (fun l => (s.teamGroups t.tid).any (fun g => g.flushed && decide (g.index = l)))
  let cl := s.cluster? t.cluster
  let arrivals (i : Nat) : Word := maskOf (fun l => (cl.map (fun c => c.arrived.contains (i, l))).getD false)
  padTo 2048 (portBytes 0 (t.port 0) ++ portBytes 1 (t.port 1) ++ portBytes 3 (t.port 3) ++ portBytes 2 (t.port 2) ++
    wordBytes ((List.range 4).flatMap (fun i => portState (t.port i)) ++ [natWord t.phase, maskOf (fun l => t.arrived.contains l), flush, natWord t.collectives] ++
      (if t.index = 0 then natWord ((cl.map (·.phase)).getD 0) :: (List.range 12).map arrivals else [])))

/-- A node in 16 bytes: what R114 shows of it, then four operands of 24 bits. -/
def nodeBytes (v : Option TolNode) : List Byte :=
  match v with
  | none => natBytes 16 0
  | some v =>
    let ops := (List.range 4).foldl (fun n i => match v.operands[i]? with
      | some o => n + (o.1 + (o.2 % 4096).toNat * 2 ^ 6) * 2 ^ (24 * i)
      | none => n) 0
    natBytes 4 (2 ^ 31 + (if v.tight then 2 ^ 30 else 0) + v.operands.length * 2 ^ 27 + v.tau) ++ natBytes 12 ops

/-- A team's image, without a trailer. -/
def State.teamImage (s : State) (t : Team) : List Byte :=
  let cl := s.cluster? t.cluster
  let gs := s.imageGroups t.tid
  let head := [natWord (s.plainSize t), hiWord (s.plainSize t), natWord gs.length, natWord ((cl.map (·.grid)).getD 0), natWord ((cl.map (·.index)).getD 0),
    natWord t.index, natWord t.reason]
  padTo 64 (wordBytes head) ++ s.portSection t ++ (List.range 64).flatMap (fun i => nodeBytes (findKey t.tol i)) ++ gs.flatMap s.groupImage

/-- The trailer of R380: for each 4 KiB unit its tag and the inset's counter. -/
def trailer (inset counter : Nat) (bs : List Byte) : List Byte :=
  (List.range ((bs.length + 4095) / 4096)).flatMap (fun i =>
    natBytes 16 (Config.imageTag inset counter i ((bs.drop (4096 * i)).take 4096)) ++ natBytes 8 counter ++ natBytes 8 0)

/-- The key under which the Security Core enciphers images: none that a tenant can load. -/
def imageKey : Nat := 2 ^ 512

/-- A protected image is enciphered where it stands in the save area, under a nonce that no other image takes (R380); nothing of an
image that stood there is in plain form any more. -/
def State.veilImage (s : State) (x : Inset) (o n : Nat) : State :=
  if s.protected x then
    { s with mem := { s.mem with veils := { base := x.saveBase + o, size := n, key := imageKey, tweak := 2 ^ 64 * s.fresh } ::
                                   s.mem.veils.filter (fun v => !decide (v.key = imageKey ∧ v.base = x.saveBase + o)) },
             fresh := s.fresh + 1 }
  else s

/-- The save key goes with the inset (R380). -/
def State.dropImageKey (s : State) (x : Inset) : State :=
  s.setMem { s.mem with veils := s.mem.veils.filter (fun v => !decide (v.key = imageKey ∧ x.saveBase ≤ v.base ∧ v.base < x.saveBase + x.saveSize ∧ x.level = 1)) }

/-! ## Reading an image back -/

/-- A group as its image holds it, the position of the access that met its event late (plus one), and the accesses to issue
again. -/
structure GroupImage where
  group : Group
  late : Nat
  entries : List (List Byte)
deriving DecidableEq, Repr

/-- The lanes of a header's masks and counters. -/
structure HeaderView where
  bytes : List Byte
deriving DecidableEq, Repr

def HeaderView.word (h : HeaderView) (i : Nat) : Nat := blockWord h.bytes (4 * i)
def HeaderView.pc (h : HeaderView) (l : Nat) : Nat := blockDword h.bytes (384 + 8 * l)
def HeaderView.live (h : HeaderView) (l : Nat) : Bool := !(h.word 9).testBit l && !(h.word 10).testBit l

/-- Lanes at one counter are one run (R20), named here after its lowest lane. -/
def HeaderView.run (h : HeaderView) (l : Nat) : Nat :=
  (((List.range 32).find? (fun m => h.live m && decide (h.pc m = h.pc l))).map (· + 1)).getD 0

/-- The run of the lowest live lane of a mask. -/
def HeaderView.runOf (h : HeaderView) (m : Nat) : Option Nat :=
  ((List.range 32).find? (fun l => m.testBit l && h.live l)).map h.run

def HeaderView.runs (h : HeaderView) : List Run :=
  ((List.range 32).filter (fun l => h.live l && decide (h.run l = l + 1))).map (fun l =>
    { id := l + 1, deferred := (h.word 8).testBit l, passed := (List.range 4).find? (fun i => (h.word (224 + i)).testBit l) })

def HeaderView.lane (h : HeaderView) (regs : List Byte) (quota l : Nat) : Lane :=
  let reg (m : List (Nat × Word)) (r : Nat) : List (Nat × Word) := Sparse.set 0 m r (BitVec.ofNat 32 (blockWord regs (128 * r + 4 * l)))
  { header := h.pc l % 2 ^ 48, index := h.pc l / 2 ^ 48, exited := (h.word 9).testBit l,
    parked := if (h.word 10).testBit l && !(h.word 9).testBit l then some (bytesNat ((h.bytes.drop 52).take 12) / 8 ^ l % 8) else none,
    run := if h.live l then h.run l else 0, regs := (List.range quota).foldl reg [], preds := BitVec.ofNat 24 (h.word (48 + l)),
    gen := BitVec.ofNat 64 (blockDword h.bytes (640 + 8 * l)), clock := 0, pend := [] }

def HeaderView.stop (h : HeaderView) : Option Stop :=
  let w := h.word 24
  if w.testBit 31 then
    some { kind := w % 2 ^ 8, clauseStart := w.testBit 8, slot := if w.testBit 10 then some (w / 2 ^ 11 % 8) else none, after := w.testBit 9,
           run := (h.runOf (h.word 25)).getD 0, index := w / 2 ^ 16 % 8, length := w / 2 ^ 20 % 16, late := none }
  else none

def phaseOf (w : Nat) : Option Nat := if w.testBit 31 then some (w % 2 ^ 31) else none

/-- The neighbour queues and the atomic partials of a body; a partial whose word no longer translates is dropped. -/
def queuesOf (h : HeaderView) (body : List Byte) : List (List NeighbourEntry) :=
  (List.range 4).map (fun d => (List.range (min 8 (h.word 228 / 16 ^ d % 16))).map (fun i =>
    { op := none, words := wordsAt body (1024 * d + 128 * i) 32 }))

def State.atomicsOf (s : State) (inset : Nat) (body : List Byte) : List AtomicEntry :=
  (List.range 32).filterMap (fun i =>
    let v := blockDword body (4096 + 16 * i)
    match s.access inset .w (v % 2 ^ 60) 4 with
    | .ok p => if !(blockDword body (4096 + 16 * i + 8)).testBit 32 then none else
        some { address := v % 2 ^ 60, op := v / 2 ^ 60, phys := p, sum := BitVec.ofNat 32 (blockWord body (4096 + 16 * i + 8)) }
    | .error _ => none)

/-- A group's image as a group of a team. -/
def State.groupOf (s : State) (inset tid : Nat) (bs : List Byte) : GroupImage :=
  let h : HeaderView := { bytes := bs.take 1024 }
  let body := bs.drop 1024
  let q := h.word 0
  let k := h.word 1
  let regs := body.drop 4608
  let tiles := regs.drop (128 * q)
  let entries := tiles.drop (4096 * k)
  let g : Group :=
    { gid := tid + 1 + h.word 2 % 32, team := tid, index := h.word 2 % 32, slot := 0, quota := q, tileQuota := k,
      lanes := (List.range 32).map (h.lane regs q),
      sregs := (List.range 16).foldl (fun m i => Sparse.set 0 m i (natWord (h.word (32 + i)))) [], flags := List.replicate 12 0,
      rejoin := (List.range 8).map (fun j => (natWord (h.word (16 + j)), (h.word 12).testBit j)),
      tiles := (List.range (4096 * k)).foldl (fun m i => Sparse.set 0 m i (tiles.getD i 0)) [],
      tileCtl := (List.range 16).foldl (fun m i => Sparse.set 0 m i (natWord (h.word (80 + i)))) [],
      stkLo := natWord (h.word 4), stkHi := natWord (h.word 5), evtag := natWord (h.word 6), latch := [], runs := h.runs, streak := h.word 7,
      lastRun := h.runOf (h.word 11), clause := none, stop := h.stop, stepping := (h.word 24).testBit 30, lastIssue := s.cycle, lastLane := 0,
      lastUniform := 0, recv := queuesOf h body, atomics := s.atomicsOf inset body, overflow := h.word 27 % 2 ^ 24,
      flushed := (h.word 27).testBit 31, pendTeam := phaseOf (h.word 28), pendCluster := phaseOf (h.word 29), reads := [], writes := [],
      written := BitVec.ofNat 64 (blockDword h.bytes 916), charged := if blockDword h.bytes 120 = 0 then none else some (blockDword h.bytes 120 - 1),
      freed := false, acquiring := [] }
  { group := g, late := h.word 26, entries := (List.range (h.word 3)).map (fun i => (entries.drop (576 * i)).take 576) }

/-- The places of the groups in an image, with quota, tile count and list length. -/
def groupSpans (bs : List Byte) : Nat → Nat → List (Nat × Nat × Nat × Nat)
  | 0, _ => []
  | n + 1, o =>
    let q := blockWord bs o
    let k := blockWord bs (o + 4)
    let w := blockWord bs (o + 12)
    (o, q, k, w) :: groupSpans bs n (o + groupBytes q k w)

def imageCount (bs : List Byte) : Nat := blockWord bs 8
def imageSpans (bs : List Byte) : List (Nat × Nat × Nat × Nat) := groupSpans bs (imageCount bs) 3136

/-- The check of R324 against the launch record; the size is that of R312 for the counts found. -/
def imageOk (l : Launch) (bs : List Byte) : Bool :=
  decide (imageCount bs ≤ l.groups) &&
  (let gs := imageSpans bs
   gs.all (fun g => decide (g.2.1 % 8 = 0 ∧ 8 ≤ g.2.1 ∧ g.2.1 ≤ 104 ∧ g.2.2.1 = l.tiles)) &&
   decide (gs.foldl (fun n g => n + g.2.1) 0 ≤ l.quota * l.groups ∧
     blockDword bs 0 = gs.foldl (fun n g => n + groupBytes g.2.1 g.2.2.1 g.2.2.2) 3136))

/-- The trailer's tags and counters (R380). -/
def trailerOk (inset counter size : Nat) (bs : List Byte) : Bool :=
  decide (trailer inset counter (bs.take size) = (bs.drop size).take (trailerBytes size))

/-! ## The team's own state in an image -/

/-- The words of a port, cut back into entries: eight words a record in qh, four words a qmg notice, one elsewhere, and a
shorter first entry where its first words have been popped. -/
def cutEntries (size : Nat) : Nat → List Word → List (List Word)
  | 0, _ => []
  | n + 1, ws => ws.take size :: cutEntries size n (ws.drop size)

/-- Words of an entry of port i. -/
def entrySizeOf (i : Nat) : Nat := if i = 2 then 8 else if i = 3 then 1 else 2

/-- Where port i's words stand in an image; where its count and holder stand. -/
def portOffset (i : Nat) : Nat := if i = 3 then 576 else if i = 2 then 832 else 64 + 256 * i

def portOf (bs : List Byte) (i : Nat) : Port :=
  let n := min (portDepth i) (blockWord bs (1856 + 8 * i) % 2 ^ 16)
  let head := blockWord bs (1856 + 8 * i) / 2 ^ 16
  let size := entrySizeOf i
  let head := if head = 0 ∨ size < head then size else head
  let holder := blockWord bs (1860 + 8 * i)
  { entries := if n = 0 then [] else wordsAt bs (portOffset i) head :: cutEntries size (n - 1) (wordsAt bs (portOffset i + 4 * head) (size * (n - 1))),
    holder := if holder = 0 then none else some (holder - 1) }

def nodeOf (bs : List Byte) (i : Nat) : Option (Nat × TolNode) :=
  let w := blockWord bs (2112 + 16 * i)
  let ops := bytesNat ((bs.drop (2116 + 16 * i)).take 12)
  if w.testBit 31 then
    some (i, { operands := (List.range (min 4 (w / 2 ^ 27 % 8))).map (fun j =>
                 let o := ops / 2 ^ (24 * j) % 2 ^ 24
                 (o % 64, (BitVec.ofNat 12 (o / 64)).toInt)),
               tau := w % 2 ^ 27, tight := w.testBit 30 })
  else none

def bitsOf (w : Nat) : List Nat := (List.range 32).filter (fun l => w.testBit l)

/-- A team's own state as its image holds it. -/
def Team.unpack (t : Team) (bs : List Byte) : Team :=
  { t with ports := (List.range 4).map (portOf bs), phase := blockWord bs 1888, arrived := bitsOf (blockWord bs 1892),
           tol := (List.range 64).filterMap (nodeOf bs), collectives := blockWord bs 1900 }

def flushMask (bs : List Byte) : Nat := blockWord bs 1896

/-- The cluster's record as the anchor team's image holds it. -/
def Cluster.unpack (c : Cluster) (bs : List Byte) : Cluster :=
  { c with phase := blockWord bs 1904,
           arrived := (List.range 12).flatMap (fun i => (bitsOf (blockWord bs (1908 + 4 * i))).map (fun l => (i, l))) }

/-! ## A withdrawn access as an operation again (R66) -/

/-- What an access waits for, by the major and minor of its instruction (R138, R139) and its entry; its addresses are translated when
it arrives. -/
def entryWait (bs : List Byte) : Waiting :=
  let w (i : Nat) : Nat := blockWord bs (4 * i)
  let n := w 0
  let addr := blockDword bs 24
  let d := Decode.bits n 18 7
  let tagged (kind : Nat) : Waiting :=
    .tagged kind (4 + 4 * Decode.bits n 8 1) (Decode.bits n 3 3) d ((lanesOf (natWord (w 5))).map (fun l =>
      { lane := some l, vaddr := blockDword bs (64 + 8 * l), address := 0, lo := natWord (blockWord bs (320 + 8 * l)),
        hi := natWord (blockWord bs (324 + 8 * l)) }))
  match Decode.major n, Decode.bits n 0 3 with
  | 29, k => tagged k
  | 30, k => tagged (3 + k)
  | 77, _ => .bo addr (natWord (w 8)) d
  | 78, _ => .ticket addr (natWord (w 8)) d
  | 81, _ => .pointer addr (BitVec.ofNat 64 (blockDword bs 32)) d
  | 75, 0 => .teamPhase (w 12)
  | 75, 3 => .teamPhase (w 12)
  | 75, _ => .clusterPhase (w 12)
  | 80, _ => .flushPoint
  | _, _ => .none

/-- The operation of an entry, which counts again on its recorded flag. -/
def entryOp (id gid cycle : Nat) (evtag : Word) (bs : List Byte) : LongOp :=
  let w (i : Nat) : Nat := blockWord bs (4 * i)
  { id := id, gid := gid, flag := w 4 % 16, header := w 14 + w 15 % 2 ^ 16 * 2 ^ 32, index := w 15 / 2 ^ 24 % 8, mask := natWord (w 13),
    words := wordsAt bs 0 4, evtag := evtag, operands := wordsAt bs 24 4, results := [], wait := entryWait bs, arrived := false, held := false,
    again := true, cycle := cycle, overtaken := [] }

/-- A lane takes up the short results that were under way as it stopped, where its image still holds what they leave (R127). -/
def Lane.takeUp (old new : Lane) : Lane :=
  if new.regs = old.settled.regs ∧ new.preds = old.settled.preds then { new with regs := old.regs, preds := old.preds, clock := old.clock, pend := old.pend }
  else new

/-- A group takes up what its image has no place for: acquires still to take effect, short results under way, and a clause under way as it was fetched, where its
lanes stand as they stood (R127, R391). -/
def Group.takeUp (old new : Group) : Group :=
  let lanes := new.lanes.mapIdx (fun l x => (old.lane l).takeUp x)
  let same := (List.range 32).all (fun l => decide ((old.lane l).header = (new.lane l).header ∧ (old.lane l).index = (new.lane l).index ∧
    (old.lane l).exited = (new.lane l).exited ∧ (old.lane l).parked = (new.lane l).parked))
  let clause := if same then old.clause.bind (fun cl => ((lanesOf (old.runMask cl.run)).head?).map (fun l => { cl with run := (new.lane l).run }))
    else none
  { new with lanes := lanes, clause := clause, acquiring := old.acquiring }

end Sys2Proof.Machine
end

