-- ==== Sys2Proof/Machine/Residency.lean ====
section
/-! DEFINITION. How teams leave residency and come back (R26 to R28, R310 to R314, R361), the return of a stopped group (R337),
freezing, thawing and revoking a subtree (R322, R324, R327). -/
namespace Sys2Proof.Machine

/-! ## Where a team stands -/

def State.teamGrid (s : State) (t : Team) : Option Grid := (s.cluster? t.cluster).bind (fun c => s.grid? c.grid)
def State.teamInset (s : State) (t : Team) : Nat := ((s.teamGrid t).map (·.inset)).getD 0

/-- A record about a team of an inset (R299, R339). -/
def State.teamRecord (s : State) (t : Team) (kind sub : Nat) (info : Word) (addr : Nat) : Option Record :=
  (s.inset? (s.teamInset t)).map (fun x =>
    { insetRecord x kind sub info addr with
      grid := ((s.teamGrid t).map (·.handle)).getD 0, cluster := ((s.cluster? t.cluster).map (·.index)).getD 0, team := t.index })

def State.postTeam (s : State) (t : Team) (kind sub : Nat) (info : Word) (addr : Nat) : State :=
  match s.teamRecord t kind sub info addr with
  | some r => s.post r
  | none => s

/-- A fault on a team's image goes to the owner of the failing stage (R295, R313). -/
def State.postImageFault (s : State) (t : Team) (f : XFault) (addr : Nat) : State :=
  match s.teamRecord t f.kind f.sub 0 addr with
  | some r => s.post { r with stage := f.stage, route := f.owner, ack := true, awaits := true }
  | none => s

/-! ## The choice (R310) -/

/-- A way to leave: 0 drain, 1 save, 2 flush (R339), with its latency and cost in cycles. -/
structure Choice where
  code : Nat
  latency : Nat
  cost : Nat
deriving DecidableEq, Repr

/-- The cycles a save of n bytes takes. -/
def saveCycles (n : Nat) : Nat := (n + 255) / 256 + Config.saveFixed

/-- What a team is offered, in the order of ties. -/
def State.offers (s : State) (x : Inset) (t : Team) (l : Launch) : List Choice :=
  let e := s.cycle - t.since
  let size := s.imageBytes x t
  (if l.cycles = 0 then [] else [{ code := 0, latency := l.cycles - e, cost := l.cycles - e }]) ++
  (if (x.room size).isNone then [] else [{ code := 1, latency := saveCycles size, cost := saveCycles size }]) ++
  (if l.restart then [{ code := 2, latency := 64, cost := e }] else [])

/-- The cheapest choice, the first of equals. -/
def cheapest : List Choice → Option Choice
  | [] => none
  | c :: rest => match cheapest rest with
    | some d => if d.cost < c.cost then some d else some c
    | none => some c

/-- The choice under a bound, and whether the bound is missed; a request without a bound misses none (R361). -/
def choose (offers : List Choice) (bound : Option Nat) : Option Choice × Bool :=
  match cheapest (offers.filter (fun c => match bound with
    | some b => decide (c.latency ≤ b)
    | none => true)) with
  | some c => (some c, false)
  | none => (cheapest offers, true)

/-! ## Leaving (R27, R311) -/

/-- Every group of a team stops where it stands; its region closes (R28, R90). -/
def State.stopTeam (s : State) (tid : Nat) : State := (s.teamGroups tid).foldl (fun s g => s.softBoundary g.gid) s

/-- A save begins: image room is taken, the groups stop; none where there is no room. -/
def State.beginSave (s : State) (x : Inset) (t : Team) (bound : Option Nat) (reason : Nat) : Option State :=
  let size := s.imageBytes x t
  (x.room size).map (fun o =>
    ((s.stopTeam t.tid).updInset x.id (fun x => { x with images := x.images ++ [(o, size)] })).updTeam t.tid (fun t =>
      { t with residency := .saving, bound := bound, image := o, imageSize := size, reason := reason, imageFault := none, refused := false, acks := [] }))

/-- "Bound missed": the choice taken and its latency; nothing offered is 3 and all ones. It waits while the event buffer is full (R301). -/
def State.boundMissed (s : State) (t : Team) (c : Option Choice) : State :=
  let m := (c.map (fun c => (c.code, c.latency))).getD (3, 2 ^ 64 - 1)
  if s.bufferFull then s.updTeam t.tid (fun t => { t with missed := some m }) else s.postTeam t 0x32 0 (natWord m.1) m.2

/-- One team leaves by its own choice; a save or a flush under way goes on. -/
def State.leaveTeam (bound : Option Nat) (reason : Nat) (s : State) (tid : Nat) : State :=
  match s.team? tid with
  | none => s
  | some t =>
    match s.teamGrid t, s.inset? (s.teamInset t) with
    | some d, some x =>
      if !t.runs then s
      else
        let r := choose (s.offers x t d.launch) bound
        let due := if r.2 then none else bound.map (· + s.cycle)
        let s := if r.2 then s.boundMissed t r.1 else s
        match r.1 with
        | some c =>
          if c.code = 0 then s.updTeam tid (fun t => { t with residency := .draining (some (s.cycle + c.latency)), bound := due, reason := reason })
          else if c.code = 1 then (s.beginSave x t due reason).getD s
          else (s.stopTeam tid).updTeam tid (fun t => { t with residency := .flushing, bound := due, reason := reason, acks := [] })
        | none => s.updTeam tid (fun t => { t with residency := .draining none, bound := none, reason := reason })
    | _, _ => s

/-- The teams that leave and return with one: its cluster, or its whole cooperative grid (R26, R27). -/
def State.companions (s : State) (t : Team) : List Team :=
  match s.teamGrid t with
  | some d => if d.launch.coop then s.gridTeams d.handle else s.clusterTeams t.cluster
  | none => [t]

/-- Teams are asked to leave, with all that leave with them. -/
def State.leave (s : State) (bound : Option Nat) (reason : Nat) (tids : List Nat) : State :=
  let all := (s.teams.filter (fun t => tids.contains t.tid)).flatMap (fun t => (s.companions t).map (·.tid))
  all.eraseDups.foldl (State.leaveTeam bound reason) s

/-- The running teams of a subtree. -/
def State.runningTeams (s : State) (x : Nat) : List Nat := (s.teams.filter (fun t => t.runs && s.under x (s.teamInset t))).map (·.tid)

/-- An inset's FROZEN bit is set and its subtree leaves residency (R322, R361). -/
def State.freezeInset (s : State) (x : Nat) (bound : Option Nat) (reason : Nat) : State :=
  (s.updInset x (fun y => { y with frozen := true })).leave bound reason (s.runningTeams x)

/-- Teams of an inset's own grids on cores that it no longer holds leave, under no bound (R288). -/
def State.leaveCores (s : State) (x : Nat) : State :=
  let mask := s.ownCores x
  s.leave none 2 ((s.teams.filter (fun t => t.runs && decide (s.teamInset t = x) && !mask.getLsbD t.core)).map (·.tid))

/-- DRAIN_LATENCY_EXPIRY: a team still there is saved from now on, or stays until room frees (R311). -/
def execDrainLatencyExpiry (team : Nat) (s : State) : Host.Outcome State Fault Refusal :=
  match s.team? team with
  | none => .next s
  | some t =>
    match s.inset? (s.teamInset t), t.residency with
    | some x, .draining (some d) =>
      let s := { s with cycle := max s.cycle d }
      .next ((s.beginSave x t t.bound t.reason).getD (s.updTeam team (fun t => { t with residency := .overdue })))
    | some x, .overdue => .next ((s.beginSave x t t.bound t.reason).getD s)
    | _, _ => .next s

/-- REQUEST_BOUND_PASSED: a record of a missed bound that waited for room is posted; or a save that waits on a fault passes the
requester's bound (R313). -/
def execRequestBoundPassed (team : Nat) (s : State) : Host.Outcome State Fault Refusal :=
  match s.team? team with
  | none => .next s
  | some t =>
    match t.missed, t.bound, t.imageFault with
    | some m, _, _ =>
      if s.bufferFull then .next s
      else .next (((s.postTeam t 0x32 0 (natWord m.1) m.2).updTeam team (fun t => { t with missed := none })).dropEnded
        (((s.teamGrid t).map (·.handle)).getD 0))
    | none, some b, some _ =>
      if t.residency ≠ .saving ∨ s.bufferFull then .next s
      else .next (({ s with cycle := max s.cycle b }.postTeam t 0x32 0 1 (saveCycles t.imageSize)).updTeam team (fun t => { t with bound := none }))
    | _, _, _ => .next s

/-! ## TEAM_SAVE (R28, R45, R66, R311 to R313, R380) -/

/-- A TOL instruction that stopped its group as the unit took it; its flag has fallen (R116). -/
def LongOp.refusedTol (o : LongOp) : Bool := match o.wait with
  | .tol _ _ _ => o.held
  | _ => false

/-- Every flag of the team reads clear but for accesses that a save withdraws, and no entry of its queues is reserved. -/
def State.quiet (s : State) (tid : Nat) : Bool :=
  (s.teamGroups tid).all (fun g => (s.groupOps g.gid).all (fun o => o.waits || o.refusedTol) && g.recv.all (fun q => q.all (fun e => e.op.isNone)))

/-- The anchor team, whose image holds the cluster's record, is saved last. -/
def State.anchorTurn (s : State) (t : Team) : Bool :=
  decide (t.index ≠ 0) || (s.clusterTeams t.cluster).all (fun u => decide (u.tid = t.tid) || !u.seated)

/-- A team's groups leave the state, with the accesses they wait on; those that a save keeps stay. -/
def State.unseat (s : State) (tid : Nat) (all : Bool) : State :=
  let gids := ((s.teamGroups tid).filter (fun g => all || !g.freed)).map (·.gid)
  { s with groups := s.groups.filter (fun g => !gids.contains g.gid),
           ops := s.ops.filter (fun o => !gids.contains o.gid || (!all && o.refusedTol)) }

/-- The image is written whole, or the save waits on the fault. -/
def State.saveTeam (s : State) (x : Inset) (t : Team) : State :=
  let s := s.stopTeam t.tid
  let bs := s.teamImage t
  let n := x.saveCounter + 1
  let bytes := if s.protected x then bs ++ trailer x.id n bs else bs
  match (s.veilImage x t.image bs.length).writeSpace x.parent (x.saveBase + t.image) bytes with
  | (s, some f) => (s.updTeam t.tid (fun t => { t with imageFault := some f.1.owner })).postImageFault t f.1 f.2
  | (s, none) =>
    let s := (s.chargeTeam t).updInset x.id (fun x =>
      { x with images := x.images.map (fun i => if i.1 = t.image then (i.1, bytes.length) else i), saveCounter := n })
    let kept := (s.imageGroups t.tid).map s.atSave
    (s.unseat t.tid false).updTeam t.tid (fun t =>
      { t with kept := kept, residency := .saved, imageSize := bytes.length, imageCounter := n, ports := emptyPorts, arrived := [], tol := [], bound := none })

/-- A flushed team: its partials, ports and nodes are gone, its resources free; it starts again from its entry (R311). -/
def State.flushTeam (s : State) (t : Team) : State :=
  let s := (s.chargeTeam t).disarmFreed t
  let gids := (s.teamGroups t.tid).map (·.gid)
  let s := { s with outstanding := s.outstanding.filter (fun o => !(o.record.gid.any gids.contains)),
                    records := s.records.map (fun (r : Record) => if r.gid.any gids.contains then { r with gid := none, op := none, awaits := false } else r) }
  let s := s.updCluster t.cluster (fun c => { c with arrived := c.arrived.filter (fun a => decide (a.1 ≠ t.index)) })
  (s.unseat t.tid true).updTeam t.tid (fun t =>
    { t with residency := .flushed, ports := emptyPorts, arrived := [], phase := 0, tol := [], collectives := 0, bound := none, imageSize := 0 })

/-- TEAM_SAVE: a stopped team whose flags are clear is saved, or flushed. -/
def execTeamSave (team : Nat) (s : State) : Host.Outcome State Fault Refusal :=
  match s.team? team with
  | none => .next s
  | some t =>
    match s.inset? (s.teamInset t) with
    | none => .next s
    | some x =>
      if !s.quiet team ∨ s.bufferFull then .next s
      else match t.residency with
        | .saving =>
          if t.imageFault.isSome ∨ !s.anchorTurn t ∨ s.spaceDown x.parent .w (x.saveBase + t.image) t.imageSize then .next s
          else .next (s.saveTeam x t)
        | .flushing => .next (s.flushTeam t)
        | _ => .next s

/-! ## The return of a stopped group (R202, R331, R337) -/

/-- The lanes of a run move on behind the instruction at which they stopped. -/
def Group.skipWord (g : Group) (st : Stop) : Group :=
  match g.clause with
  | some cl => g.advance { cl with index := st.index } (g.runMask st.run) 0 0
  | none =>
    let move (l : Lane) : Lane :=
      if st.index + 1 < st.length then { l with index := st.index + 1 } else { l with header := l.header + 8 + 4 * st.length, index := 0 }
    Group.mergeRuns (g.updLanes (g.runMask st.run) (fun _ l => move l))

/-- The lanes of a run move to the header behind the clause before which they stopped. -/
def Group.skipClause (g : Group) (st : Stop) : Group :=
  Group.mergeRuns (g.updLanes (g.runMask st.run) (fun _ l => { l with header := l.header + 8 + 4 * st.length, index := 0 }))

/-- The operands that a refused TOL instruction reads as it issues again: its s registers as they stand. DESIGN CHOICE (assumption
log 83): a word it popped from a team port is kept. -/
def LongOp.reread (g : Group) (o : LongOp) : Waiting :=
  let a := Decode.bits (o.words.headD 0).toNat 11 7
  let b := Decode.bits (o.words.headD 0).toNat 4 7
  let now (f : Nat) (old : Word) : Word := if f < 120 then Sparse.get 0 g.sregs (f - 104) else old
  match o.wait with
  | .tol [w, k0, k1, k] 0 dst =>
    .tol [now a w, if k = 0 then k0 else now b k0, if k.toNat ≤ 2 then k1 else now (b + 1) k1, k] 0 dst
  | .tol [n, t] 1 dst => .tol [now a n, now b t] 1 dst
  | w => w

/-- A refused TOL instruction arrives at its unit anew. -/
def State.reissueTol (s : State) (g : Group) (o : LongOp) : State :=
  { s with ops := s.ops.filter (fun (p : LongOp) => decide (p.id ≠ o.id)) ++
                      [{ o with held := false, cycle := s.cycle, wait := o.reread g }] }.updGroup g.gid (fun g => g.raise o.flag)

/-- The operation that met the event late is issued again. -/
def State.reissueLate (s : State) (g : Group) (st : Stop) : State :=
  match st.late.bind s.op? with
  | none => s
  | some o =>
    if o.refusedTol then s.reissueTol g o
    else s.updOp o.id (fun o => { o with again := true, arrived := false, held := false })

/-- The operation that met the event late ends without an effect. -/
def State.dropLate (s : State) (g : Group) (st : Stop) : State :=
  match st.late.bind s.op? with
  | none => s
  | some o => if o.refusedTol then s.dropOp o.id else (s.dropOp o.id).updGroup g.gid (fun g => g.lower o.flag)

/-- RESUME 0, SKIP 1, EXIT 2 on a stopped group. -/
def State.resumeGroup (s : State) (gid action : Nat) : State :=
  match s.group? gid with
  | none => s
  | some g =>
    match g.stop with
    | none => s
    | some st =>
      let clear (s : State) (f : Group → Group) : State := s.updGroup gid (fun g => f { g with stop := none })
      match action with
      | 0 =>
        let pass (g : Group) : Group := match st.slot with
          | some i => if i < 4 then { g with runs := g.runs.map (fun (r : Run) => if r.id = st.run then { r with passed := some i } else r) } else g
          | none => g
        (clear (s.reissueLate g st) pass).serve
      | 1 =>
        (if st.late.isSome then clear (s.dropLate g st) id
        else if st.after then clear s id
        else if st.clauseStart then clear s (fun g => if st.slot.any (· < 4) then g.skipClause st else g)
        else clear s (fun g => g.skipWord st)).serve
      | _ =>
        (clear (s.dropLate g st) (fun g => { g.exitLanes (BitVec.allOnes 32) with clause := none, runs := [] })).groupExited gid

/-! ## TEAM_RESTORE (R14, R26, R27, R66, R314, R324, R380) -/

/-- An image read for its team; a fault, or a failed check; or it cannot be reached as things stand. -/
inductive ImageRead where
  | ok (bs : List Byte)
  | wait
  | fault (f : XFault) (addr : Nat)
  | mismatch
deriving DecidableEq, Repr

def State.readImage (s : State) (x : Inset) (t : Team) (l : Launch) : ImageRead :=
  match s.readSpace x.parent (x.saveBase + t.image) t.imageSize with
  | .error (.fault f a) => .fault f a
  | .error (.poison a) => .fault { kind := 0x14, sub := 0, stage := 0, owner := x.parent } a
  | .error .wait => .wait
  | .ok bs =>
    let size := blockDword bs 0
    let whole := if s.protected x then decide (size + trailerBytes size = t.imageSize) && trailerOk x.id t.imageCounter size bs
      else decide (size ≤ t.imageSize)
    if whole && imageOk l bs then .ok bs else .mismatch

/-- What a team needs on its core: the groups of its image, or all groups of a new start. -/
def teamNeed (l : Launch) (bs : Option (List Byte)) : Need :=
  match bs with
  | some bs => needOf ((imageSpans bs).map (fun g => (blockWord bs (g.1 + 8) % 32, g.2.1, g.2.2.1)))
  | none => needOf l.shape

/-- A slot of its scheduler for each group of an image, in the order of the image. -/
def State.seatGroups (s : State) (core : Nat) : List Group → List Group → List Group
  | [], done => done
  | g :: rest, done =>
    let n := (done.filter (fun h => decide (h.index % 4 = g.index % 4))).length
    s.seatGroups core rest (done ++ [{ g with slot := (s.freeSlots core (g.index % 4)).getD n 0 }])

/-- The withdrawn accesses of a group are issued again, in order, each counting on its flag. -/
def State.reissue (s : State) (gi : GroupImage) : State :=
  gi.entries.foldl (fun s e =>
    let o := entryOp s.fresh gi.group.gid s.cycle gi.group.evtag e
    { s.updGroup gi.group.gid (fun g => g.raise o.flag) with ops := s.ops ++ [o], fresh := s.fresh + 1 }) s

/-- The operation that met its group's event late: the entry the image names, or a TOL instruction kept aside. -/
def State.linkLate (s : State) (gi : GroupImage) (first : Nat) : State :=
  let kept := (s.ops.find? (fun o => decide (o.gid = gi.group.gid) && o.refusedTol)).map (·.id)
  let late := if gi.late = 0 then kept else some (first + gi.late - 1)
  s.updGroup gi.group.gid (fun g => { g with stop := g.stop.map (fun (st : Stop) => { st with late := late }) })

/-- A saved team sits on its core again, as its image says. -/
def State.seatSaved (s : State) (x : Inset) (t : Team) (core : Nat) (bs : List Byte) : State :=
  let gis := (imageSpans bs).map (fun g =>
    let gi := s.groupOf x.id t.tid (bs.drop g.1)
    { gi with group := match t.kept.find? (fun h => decide (h.gid = gi.group.gid)) with
        | some h => h.takeUp gi.group
        | none => gi.group })
  let flushed := flushMask bs
  let gs := (s.seatGroups core (gis.map (·.group)) []).map (fun g => { g with flushed := flushed.testBit g.index })
  let s := { s with groups := s.groups ++ gs }.updTeam t.tid (fun t =>
    { (t.unpack bs) with
      core := core, residency := .resident, since := s.cycle, bound := none, imageSize := 0, reason := 0, acks := [], kept := [] })
  let s := if t.index = 0 then s.updCluster t.cluster (fun c => c.unpack bs) else s
  let s := gis.foldl (fun s gi => (s.reissue gi).linkLate gi s.fresh) s
  let s := s.updInset x.id (fun x => { x with images := x.images.filter (fun i => decide (i.1 ≠ t.image)) })
  t.acks.foldl (fun s a => s.resumeGroup (t.tid + 1 + a.1) a.2) s

/-- A flushed team starts again on a core (R43). -/
def State.seatFlushed (s : State) (d : Grid) (t : Team) (core : Nat) : State :=
  let gs := s.startGroups d.launch (((s.cluster? t.cluster).map (·.index)).getD 0) t.index t.tid core
  { s with groups := s.groups ++ gs }.updTeam t.tid (fun t =>
    { t with core := core, residency := .resident, since := s.cycle, bound := none, reason := 0, acks := [] })

/-- The teams of a cluster with their images, by team index. -/
def withImages (ts : List Team) (images : List (Nat × List Byte)) : List (Team × Option (List Byte)) :=
  (List.range 12).filterMap (fun i => (ts.find? (fun t => decide (t.index = i))).map (fun t => (t, findKey images t.tid)))

/-- One cluster sits down whole on the rectangle at an anchor. -/
def State.seatCluster (s : State) (x : Inset) (d : Grid) (images : List (Nat × List Byte)) (cid a : Nat) : State :=
  let cores := rectangle (a % 16) (a / 16) d.launch.width d.launch.height
  (withImages (s.clusterTeams cid) images).foldl (fun s p =>
    let core := cores.getD p.1.index 0
    if p.1.residency = .freed then s
    else match p.2 with
      | some bs => s.seatSaved x p.1 core bs
      | none => s.seatFlushed d p.1 core) (s.updCluster cid (fun c => { c with ax := a % 16, ay := a / 16 }))

/-- Clusters sit down together, at the first anchors at which they all fit; freed teams need nothing. -/
def State.seatClusters (s : State) (x : Inset) (d : Grid) (images : List (Nat × List Byte)) : List Nat → Option State
  | [] => some s
  | cid :: rest =>
    let needs := (withImages (s.clusterTeams cid) images).map (fun p => if p.1.residency = .freed then none else some (teamNeed d.launch p.2))
    (s.anchors d x.cores needs).findSome? (fun a => (s.seatCluster x d images cid a).seatClusters x d images rest)

/-- A team that is out of residency may come back: nothing it still needs is under way. -/
def State.mayReturn (s : State) (t : Team) : Bool :=
  match t.residency with
  | .freed => true
  | .saved => !t.refused && t.imageFault.isNone
  | .flushed => !s.commands.any (fun c => decide (c.team = t.tid))
  | _ => false

/-- The images of teams that are to come back, or the first that cannot be read or fails its check. -/
def State.readImages (s : State) (x : Inset) (l : Launch) : List Team → Except (Team × ImageRead) (List (Nat × List Byte))
  | [] => .ok []
  | t :: rest =>
    if t.residency ≠ .saved then s.readImages x l rest
    else match s.readImage x t l with
      | .ok bs => match s.readImages x l rest with
        | .ok is => .ok ((t.tid, bs) :: is)
        | .error e => .error e
      | r => .error (t, r)

/-- TEAM_RESTORE: a cluster, or a cooperative grid, comes back whole once nothing above it is frozen. -/
def execTeamRestore (team : Nat) (s : State) : Host.Outcome State Fault Refusal :=
  match s.team? team with
  | none => .next s
  | some t =>
    match s.teamGrid t, s.inset? (s.teamInset t) with
    | some d, some x =>
      let ts := s.companions t
      if !t.away ∨ !s.running x.id ∨ !ts.all s.mayReturn ∨ s.bufferFull then .next s
      else match s.readImages x d.launch ts with
        | .error (_, .wait) => .next s
        | .error (u, .fault f a) => .next ((s.updTeam u.tid (fun t => { t with imageFault := some f.owner })).postImageFault u f a)
        | .error (u, _) => .next ((s.updTeam u.tid (fun t => { t with refused := true })).postTeam u 0x0A 0 (natWord u.index) (x.saveBase + u.image))
        | .ok images =>
          match s.seatClusters x d images (ts.map (·.cluster)).eraseDups with
          | none => .next s
          | some s =>
            let s := ts.foldl (fun s t => (s.checkTeamBarrier t.tid).checkFlush t.tid) s
            .next (((ts.map (·.cluster)).eraseDups.foldl State.checkClusterBarrier s).serve)
    | _, _ => .next s

/-! ## Thawing (R324) -/

/-- The FROZEN bit falls; images refused before may be read again, but for those of R380. -/
def State.thawInset (s : State) (x : Nat) : State :=
  let s := s.updInset x (fun y => { y with frozen := false })
  { s with teams := s.teams.map (fun t =>
      let guarded := (s.inset? (s.teamInset t)).any s.protected
      if s.under x (s.teamInset t) && !guarded then { t with refused := false } else t) }

/-! ## Revoking (R327, R328) -/

/-- What a revoke leaves of the records: those for handlers outside stay, but await nothing any more. -/
def State.dropRecords (s : State) (x : Nat) (gone gids ops : List Nat) : State :=
  let parent := ((s.inset? x).map (·.parent)).getD 0
  let inside (r : Record) : Bool := match r.dest with
    | some d => gone.contains d
    | none => gone.contains r.route && decide (r.route ≠ x)
  let dead (r : Record) : Bool := r.gid.any gids.contains || r.op.any ops.contains
  let keep (r : Record) : Record :=
    { r with gid := if dead r then none else r.gid, op := if dead r then none else r.op, awaits := r.awaits && !dead r,
             dest := if r.route = x then some parent else r.dest }
  { s with records := (s.records.filter (fun r => !inside r)).map keep,
           outstanding := s.outstanding.filter (fun o => !gone.contains o.inset && !dead o.record) }

/-- The subtree's groups, teams, grids, queues and waits leave the state. -/
def State.dropSubtree (s : State) (gone : List Nat) : State :=
  let hs := (s.grids.filter (fun d => gone.contains d.inset)).map (·.handle)
  let cids := (s.clusters.filter (fun c => hs.contains c.grid)).map (·.cid)
  let tids := (s.teams.filter (fun t => cids.contains t.cluster)).map (·.tid)
  let gids := (s.groups.filter (fun g => tids.contains g.team)).map (·.gid)
  { s with
    grids := s.grids.filter (fun d => !hs.contains d.handle), clusters := s.clusters.filter (fun c => !cids.contains c.cid),
    teams := s.teams.filter (fun t => !tids.contains t.tid), groups := s.groups.filter (fun g => !gids.contains g.gid),
    ops := s.ops.filter (fun o => !gids.contains o.gid), notices := s.notices.filter (fun n => !tids.contains n.team),
    armedTickets := s.armedTickets.filter (fun t => !tids.contains t.2.2), markers := s.markers.filter (fun m => !gids.contains m.1),
    pendingWrites := s.pendingWrites.filter (fun p => !gids.contains p.gid && !hs.contains p.grid), doorbells := s.doorbells.filter (fun d => !gone.contains d.inset),
    slots := s.slots.filter (fun q => !gone.contains q.inset), torus := s.torus.filter (fun t => !gone.contains t.2.1),
    projections := s.projections.filter (fun p => !gone.contains p.inset) }.overwrite (fun l => hs.any (fun h => decide (l = Place.grid h)))

/-- Revoking the subtree of x: every grant returns to its parent, and its identifiers are free. -/
def State.revokeInset (s : State) (x : Nat) : State :=
  match s.inset? x with
  | none => s
  | some y =>
    let gone := (s.subtree x).map (·.id)
    let s := s.revokeSweeps gone
    let s := (s.commands.filter (fun c => gone.contains c.inset)).foldl (fun s c => if (s.command? c.id).isSome then s.endCommand c 6 false else s) s
    let s := (s.grids.filter (fun d => gone.contains d.inset)).foldl (fun s d => s.errorObject d.object 6) s
    let gids := (s.groups.filter (fun g => (s.insetOf g).any (fun z => gone.contains z.id))).map (·.gid)
    let ops := (s.ops.filter (fun o => gids.contains o.gid)).map (·.id)
    let cores := s.totalCores x
    let s := (s.dropRecords x gone gids ops).dropSubtree gone
    let s := (s.unveilRanges y y.ranges).dropImageKey y
    let s := { s with insets := (s.insets.filter (fun (z : Inset) => !gone.contains z.id)).map (fun (z : Inset) =>
                 if z.id = y.parent then { z with cores := z.cores ||| cores } else z) }
    s.serve

end Sys2Proof.Machine
end

