-- ==== Sys2Proof/Machine/Subtree.lean ====
section
/-! DEFINITION. What a parent does to a child, whether the parent is an inset or the root: grants (R288, R321), the end of a freeze
(R322), checkpoints (R325, R326), state (R330) and debugging (R331). -/
namespace Sys2Proof.Machine

/-- What a form answers: its status, its result field, and an access of its own that faulted. -/
structure Answer where
  state : State
  code : Nat
  result : Nat
  fault : Option (XFault × Nat)
deriving DecidableEq, Repr

def State.answer (s : State) (code : Nat) : Answer := { state := s, code := code, result := 0, fault := none }

/-! ## Grants (R288, R321) -/

/-- Descendants of an inset. -/
def State.descendants (s : State) (x : Nat) : Nat := (s.subtree x).length - 1

/-- The status of a grant change; the mask selects cores, core weight, link weight, queue slots, inset quota. DEDUCED (assumption log 89):
the other fields, the reserved ones among them, are not read (R321). -/
def State.grantCode (s : State) (p : Nat) (x : Inset) (aux : Nat) (b : Block) : Nat :=
  let lim (i : Nat) (bad : Bool) : Nat := if aux.testBit i && bad then codeLimit else 0
  lowestCode [
    lim 0 (decide (b.cores &&& ~~~(s.ownCores p ||| s.totalCores x.id) ≠ 0)),
    lim 1 (decide (b.cw = 0)), lim 2 (decide (b.lw = 0)),
    lim 3 (decide (128 < b.qslots ∨ (if p = 0 then 128 else ((s.inset? p).map (·.qslots)).getD 0) <
      ((s.children p).filter (fun y => decide (y.id ≠ x.id))).foldl (fun n y => n + y.qslots) b.qslots)),
    lim 4 (decide (1024 < b.iquota ∨ s.ownQuota p + x.iquota < b.iquota ∨ b.iquota < s.descendants x.id))]

/-- New cores of a child: withdrawn ones leave its whole subtree and return to the parent; teams on them leave. -/
def State.grantCores (s : State) (p x : Nat) (mask : BitVec 256) : State :=
  let total := s.totalCores x
  let removed := total &&& ~~~mask
  let added := mask &&& ~~~total
  let inside := (s.subtree x).map (·.id)
  let change (y : Inset) : Inset :=
    if y.id = x then { y with cores := (y.cores &&& ~~~removed) ||| added }
    else if y.id = p then { y with cores := (y.cores ||| removed) &&& ~~~added }
    else if inside.contains y.id then { y with cores := y.cores &&& ~~~removed }
    else y
  (p :: inside).foldl State.leaveCores { s with insets := s.insets.map change }

/-- The selected grants of a block replace those of the child. -/
def State.applyGrants (s : State) (p x aux : Nat) (b : Block) : State :=
  let s := if aux.testBit 0 then s.grantCores p x b.cores else s
  let s := s.updInset x (fun y =>
    { y with cw := if aux.testBit 1 then b.cw else y.cw, lw := if aux.testBit 2 then b.lw else y.lw,
             qslots := if aux.testBit 3 then b.qslots else y.qslots, iquota := if aux.testBit 4 then b.iquota else y.iquota })
  if aux.testBit 3 then (s.unmapExcess x s.slots.length).unmapExcess p s.slots.length else s

/-! ## The end of a freeze (R322) -/

/-- A command that waits at a WAITBO, TAKE or WAITWP step of its chain, or for the teams of a collective; not one that waits at a PUT. -/
def State.blocked (s : State) (c : Command) : Bool :=
  (match c.waiting.bind s.op? with
    | some o => decide (o.wait ≠ .none) && (match o.wait with
      | .tagged kind _ _ _ _ => decide (kind = 1)
      | _ => true)
    | none => false) ||
  decide (6 ≤ c.kind ∧ c.kind ≤ 9 ∧ c.state = .accepted ∧ !c.matched)

def State.commandsOf (s : State) (x : Nat) : List Command := s.commands.filter (fun c => s.under x c.inset)

/-- No team of the subtree is resident, and each of its commands has completed or is blocked. -/
def State.freezeDone (s : State) (x : Nat) : Bool :=
  !s.teams.any (fun t => t.seated && s.under x (s.teamInset t)) && (s.commandsOf x).all s.blocked

/-- The other packages that the subtree of an inset spans, from its level-1 ancestor (R353). -/
def State.otherPackages (s : State) (x : Nat) : BitVec 64 :=
  match (s.ancestors x).getLast? with
  | some y => y.packages &&& ~~~(BitVec.ofNat 64 1 <<< y.package)
  | none => 0

/-- A form that acts on a subtree is done on its other packages as well: nothing of theirs is this package's to know (R353, assumption
log 16). -/
def State.othersDone (s : State) (x : Nat) : Bool := decide (s.otherPackages x = 0) || Config.freeBit s.oracle 76 x

/-! ## Checkpoints (R325) -/

def insertInset (x : Inset) : List Inset → List Inset
  | [] => [x]
  | y :: rest => if x.id < y.id then x :: y :: rest else y :: insertInset x rest

/-- The subtree, parents before children, siblings by identifier. -/
def State.preorder (s : State) : Nat → Inset → List Inset
  | 0, x => [x]
  | fuel + 1, x => x :: ((s.children x.id).foldl (fun xs y => insertInset y xs) []).flatMap (s.preorder fuel)

/-- The saved teams of a subtree. -/
def State.savedTeams (s : State) (x : Nat) : List Team :=
  s.teams.filter (fun t => decide (t.residency = .saved) && s.under x (s.teamInset t))

/-- A saved team's image with its prefix, read from the save area. -/
def State.imageWithPrefix (s : State) (t : Team) : Except SpaceFail (List Byte) :=
  match s.inset? (s.teamInset t) with
  | none => .ok []
  | some y => match s.readSpace y.parent (y.saveBase + t.image) t.imageSize with
    | .ok bs => .ok (padTo 64 (natBytes 4 y.id) ++ bs)
    | .error e => .error e

def SpaceFail.asFault : SpaceFail → XFault × Nat
  | .fault f a => (f, a)
  | .poison a => ({ kind := 0x14, sub := 0, stage := 0, owner := 0 }, a)
  | .wait => ({ kind := 0x11, sub := 0, stage := 0, owner := 0 }, 0)

/-- The save areas of a subtree cannot be reached as things stand. -/
def State.areasDown (s : State) (x : Nat) : Bool := (s.subtree x).any (fun y => s.spaceDown y.parent .w y.saveBase y.saveSize)

/-- Writing a frozen subtree's checkpoint to the parent's space. -/
def State.checkpoint (s : State) (p : Nat) (x : Inset) (dest room : Nat) (thaw : Bool) : Answer :=
  let n := ((s.commandsOf x.id).filter s.blocked).length
  let xs := s.preorder 5 x
  let ts := s.savedTeams x.id
  let size := ts.foldl (fun n t => n + 64 + t.imageSize) (64 + 128 * xs.length)
  if n ≠ 0 then { state := s, code := codeBlocked, result := n, fault := none }
  else if room < size then s.answer codeNoSpace
  else match ts.mapM s.imageWithPrefix with
    | .error e => { state := s, code := codeFault, result := 0, fault := some e.asFault }
    | .ok images =>
      let head := padTo 64 (natBytes 8 size ++ natBytes 4 xs.length ++ natBytes 4 ts.length ++ natBytes 4 x.id)
      match s.writeSpace p dest (head ++ xs.flatMap (fun y => insetBytes y y.parent) ++ images.flatten) with
      | (s, some f) => { state := s, code := codeFault, result := 0, fault := some f }
      | (s, none) => (if thaw then s.thawInset x.id else s).answer 0

/-! ## Restoring a checkpoint (R326) -/

/-- The team images of a checkpoint: inset, image. -/
def checkpointImages (bs : List Byte) : Nat → Nat → List (Nat × List Byte)
  | 0, _ => []
  | n + 1, o =>
    let size := blockDword bs (o + 64)
    (blockWord bs o % 2 ^ 12, (bs.drop (o + 64)).take size) :: checkpointImages bs n (o + 64 + size)

/-- Bytes that are reserved. -/
def zeroBytes (bs : List Byte) (o n : Nat) : Bool := ((bs.drop o).take n).all (fun b => decide (b = 0))

/-- An inset record of a checkpoint: the fields of a creation block within their limits, LREC zero, identifiers and the FROZEN bit. -/
def recordOk (bs : List Byte) : Bool :=
  let b := Block.ofBytes (bs.take 0x48 ++ List.replicate 56 0)
  b.ok && decide (b.lrec = 0 ∧ blockWord bs 0x48 < 2 ^ 12 ∧ blockWord bs 0x4C < 2 ^ 12 ∧ blockWord bs 0x50 < 2) && zeroBytes bs 0x54 44

/-- Where the team images of a checkpoint stand. -/
def checkpointSpots (bs : List Byte) : Nat → Nat → List Nat
  | 0, _ => []
  | n + 1, o => o :: checkpointSpots bs n (o + 64 + blockDword bs (o + 64))

/-- The counts of a checkpoint agree with its size, and its header, its records and the prefixes of its images hold nothing reserved and
nothing beyond its limits (R316, R325). -/
def checkpointOk (bs : List Byte) : Bool :=
  let n := blockWord bs 8
  let m := blockWord bs 0xC
  decide (0 < n ∧ 64 + 128 * n + 128 * m ≤ bs.length ∧
    (checkpointImages bs m (64 + 128 * n)).foldl (fun k i => k + 64 + i.2.length) (64 + 128 * n) = bs.length) &&
  decide (blockWord bs 0x10 < 2 ^ 12) && zeroBytes bs 0x14 44 && (List.range n).all (fun i => recordOk ((bs.drop (64 + 128 * i)).take 128)) &&
  (checkpointSpots bs m (64 + 128 * n)).all (fun o => decide (blockWord bs o < 2 ^ 12) && zeroBytes bs (o + 4) 60)

/-- The team an image names. -/
def State.imageTeam (s : State) (i : Nat × List Byte) : Option Team :=
  s.teams.find? (fun t => decide (s.teamInset t = i.1 ∧ ((s.teamGrid t).map (·.handle)) = some (blockWord i.2 12) ∧
    ((s.cluster? t.cluster).map (·.index)) = some (blockWord i.2 16) ∧ t.index = blockWord i.2 20))

/-- Every inset of the image lives in the subtree where the image has it, every team image names a team of its inset. -/
def State.checkpointFits (s : State) (x : Nat) (bs : List Byte) : Bool :=
  let n := blockWord bs 8
  (List.range n).all (fun i =>
    let o := 64 + 128 * i
    s.under x (blockWord bs (o + 0x48) % 2 ^ 12) && (s.inset? (blockWord bs (o + 0x48) % 2 ^ 12)).any (fun y => decide (y.parent = blockWord bs (o + 0x4C) % 2 ^ 12))) &&
  (checkpointImages bs (blockWord bs 0xC) (64 + 128 * n)).all (fun i => s.under x i.1 && (s.imageTeam i).isSome)

/-- An image takes its place in the save area of its team's inset; none where there is no room. -/
def State.placeImage (s : State) (i : Nat × List Byte) : Option State :=
  match s.imageTeam i, s.inset? i.1 with
  | some t, some y =>
    (y.room i.2.length).map (fun o =>
      ((s.unseat t.tid true).updInset y.id (fun y => { y with images := y.images ++ [(o, i.2.length)] })).updTeam t.tid (fun t =>
        { t with residency := .saved, image := o, imageSize := i.2.length, imageFault := none, refused := false, acks := [] }))
  | _, _ => some s

def State.placeImages (s : State) : List (Nat × List Byte) → Option State
  | [] => some s
  | i :: rest => (s.placeImage i).bind (fun s => s.placeImages rest)

/-- The bytes of the placed images, up to the first write that faults. -/
def State.writeImages (s : State) : List (Nat × List Byte) → State × Option (XFault × Nat)
  | [] => (s, none)
  | i :: rest =>
    match s.imageTeam i, s.inset? i.1 with
    | some t, some y => match s.writeSpace y.parent (y.saveBase + t.image) i.2 with
      | (s, some f) => (s, some f)
      | (s, none) => s.writeImages rest
    | _, _ => s.writeImages rest

/-- A saved team with the ports of its image, where it can be read. -/
def State.withImagePorts (s : State) (t : Team) : Team :=
  match (s.inset? (s.teamInset t)).map (fun y => s.readSpace y.parent (y.saveBase + t.image) t.imageSize) with
  | some (.ok bs) => t.unpack bs
  | _ => t

/-- The save images of a subtree are gone; a team that no new image replaces is freed with them, and records that it had not
popped return (R336). -/
def State.discardImages (s : State) (x : Nat) (kept : List Nat) : State :=
  let freed := (s.savedTeams x).filter (fun t => !kept.contains t.tid)
  let s := (freed.map s.withImagePorts).foldl State.disarmFreed s
  let ts := (s.savedTeams x).map (·.tid)
  let s := ts.foldl (fun s t => s.unseat t true) s
  { s with teams := s.teams.map (fun t => if ts.contains t.tid then { t with residency := .freed, imageSize := 0 } else t),
           insets := s.insets.map (fun y => if s.under x y.id then { y with images := [] } else y) }

/-- Restoring a checkpoint over a frozen subtree. -/
def State.restoreCheckpoint (s : State) (x : Inset) (bs : List Byte) : Answer :=
  let images := checkpointImages bs (blockWord bs 0xC) (64 + 128 * blockWord bs 8)
  let code := lowestCode [
    if x.frozen && !s.teams.any (fun t => t.seated && s.under x.id (s.teamInset t)) then 0 else codeState,
    if checkpointOk bs then 0 else codeLimit, if s.checkpointFits x.id bs then 0 else codeMismatch]
  if code ≠ 0 then s.answer code
  else match (s.discardImages x.id (images.filterMap (fun i => (s.imageTeam i).map (·.tid)))).placeImages images with
    | none => s.answer codeNoSpace
    | some s => match s.writeImages images with
      | (s, some f) => { state := s, code := codeFault, result := 0, fault := some f }
      | (s, none) => s.answer 0

/-! ## State (R330) -/

/-- 0 running, 1 freezing, 2 frozen, 3 held by an ancestor, 4 revoking. -/
def State.standing (s : State) (x : Inset) : Nat :=
  if x.revoking then 4
  else if x.frozen then (if s.freezeDone x.id then 2 else 1)
  else if s.running x.id then 0
  else 3

/-- The four words of CTXSTAT. -/
def State.statWords (s : State) (x : Inset) : List Word :=
  let count (p : Team → Bool) : Nat := (s.teams.filter (fun t => p t && s.under x.id (s.teamInset t))).length
  [statusWord 0 (x.level * 2 ^ 8 + s.standing x), natWord (s.descendants x.id), natWord (count Team.seated), natWord (count (fun t => decide (t.residency = .saved)))]

/-! ## Debugging (R331) -/

/-- The stopped, resident group of an inset that a grid handle and a position (W3) name. -/
def State.debugGroup (s : State) (x : Nat) (handle pos : Nat) : Option Group :=
  s.groups.find? (fun g => g.stop.isSome && !g.freed && decide (g.index = pos / 8 % 32) &&
    (s.teamOf g).any (fun t => t.seated && decide (t.index = pos / 2 ^ 8 % 16)) &&
    (s.clusterOf g).any (fun c => decide (c.index = pos / 2 ^ 12 % 2 ^ 20)) &&
    (s.gridOf g).any (fun d => decide (d.handle = handle ∧ d.inset = x)))

/-- The header of R312 as rdstate shows it. -/
def State.stateBytes (s : State) (g : Group) : List Byte :=
  wordBytes (headerWords { g with lanes := g.lanes.map Lane.settled } (s.withdrawn g.gid))

/-- A lane's predicates as a debugger leaves them: those it changes are written, the others stay with their results under way (R127). -/
def Lane.setPreds (l : Lane) (v : BitVec 24) : Lane :=
  (List.range 24).foldl (fun x k =>
    if v.getLsbD k = l.settled.preds.getLsbD k then x else x.putNow (Config.predBase + k) 1 (if v.getLsbD k then 1 else 0)) l

/-- The fields that wrstate takes from a buffer; runs form again where counters changed. -/
def State.writeGroup (s : State) (g : Group) (buf : List Byte) : Group :=
  let old := s.stateBytes g
  let part (bs : List Byte) (o n : Nat) : List Byte := (bs.drop o).take n
  let h : HeaderView := { bytes := old.take 128 ++ part buf 128 192 ++ part old 320 64 ++ part buf 384 512 ++ old.drop 896 }
  let moved := decide (part buf 384 256 ≠ part old 384 256)
  let lanes := g.lanes.mapIdx (fun l x =>
    { x.setPreds (BitVec.ofNat 24 (h.word (48 + l))) with
      header := h.pc l % 2 ^ 48, index := h.pc l / 2 ^ 48, run := if moved && h.live l then h.run l else x.run,
      gen := BitVec.ofNat 64 (blockDword h.bytes (640 + 8 * l)) })
  let g' := { g with lanes := lanes, sregs := (List.range 16).foldl (fun m i => Sparse.set 0 m i (natWord (h.word (32 + i)))) [] }
  if moved then
    { g' with runs := h.runs, clause := none, lastRun := h.runOf (h.word 11),
              stop := g.stop.map (fun (st : Stop) => { st with run := (h.runOf (h.word 25)).getD 0 }) }
  else g'

/-- A stopped group runs one clause and stops again. -/
def State.stepGroup (s : State) (gid : Nat) : State := (s.resumeGroup gid 0).updGroup gid (fun g => { g with stepping := true })

end Sys2Proof.Machine
end

