-- ==== Sys2Proof/Machine/Privileged.lean ====
section
/-! DEFINITION. The system instructions of uniform majors 28 to 30 (R315 to R334): launches, the forms on a child, mapping and page
requests; and the completion of long operations, theirs among them. -/
namespace Sys2Proof.Machine

/-! ## Forms (R315, R316) -/

/-- The issuing inset, which must hold SYS where a form asks for it (event 0x09), before its descriptor is judged. -/
def Ctx.sysForm (c : Ctx) (sys : Bool) (k : Inset → Verdict) : Verdict :=
  match c.s.insetOf c.g with
  | none => .stall
  | some x => if sys && !x.sys then .trap { kind := 9, info := c.run, addr := c.cl.base } else k x

/-- A form with a descriptor of n registers from D. -/
def Ctx.form (c : Ctx) (sys : Bool) (d : BitVec 7) (n : Nat) (k : Inset → List Word → Verdict) : Verdict :=
  c.sysForm sys (fun x => c.uses false [useDesc d.toNat n] (k x (c.desc d n)))

/-- A block read at issue through the issuing inset's translation: misaligned it is an illegal operand; a fault stops the
group (R177, R316). DESIGN CHOICE (assumption log 82): it joins no region, and no conflict is checked on it (R86). -/
def Ctx.block (c : Ctx) (addr align n : Nat) (k : List Byte → Verdict) : Verdict :=
  if addr % align ≠ 0 then c.illegalOperand false
  else match c.s.readSpace c.insetId addr n with
    | .ok bs => k bs
    | .error (.fault f a) => .trap (f.trap c.run a)
    | .error (.poison a) => .trap { kind := 0x14, info := c.run, addr := a }
    | .error .wait => .stall

/-- The completion of a form at its issue, with its status word. -/
def Ctx.answered (c : Ctx) (s : State) (d : BitVec 7) (code result : Nat) : Verdict :=
  c.long s true false [uniResult d.toNat (statusWord code result)] .none []

/-- The release of a launch (R92): system scope where the subtree spans packages, else device scope. -/
def State.launchScope (s : State) (x : Inset) : Nat :=
  match (s.ancestors x.id).getLast? with
  | some y => if y.packages &&& ~~~(BitVec.ofNat 64 1 <<< y.package) = 0 then 3 else 4
  | none => 3

/-- What a launching form waits for before its release: earlier accesses, room for a refusal's record, markers. -/
def Ctx.launching (c : Ctx) (x : Inset) (k : State → Verdict) : Verdict :=
  let scope := c.s.launchScope x
  c.charged (if c.s.unserved c.g.gid || c.s.bufferFull then .stall
    else c.gathered scope (k ((c.base false).release c.g.gid scope [])))

/-- A launch at the issue: its grid acquires from the launching group (R92). -/
def Ctx.launched (c : Ctx) (s : State) (x y : Inset) (addr : Nat) (bs : List Byte) (gate : Option (Nat × Nat × Nat)) (k : State → Nat → Nat → Verdict) : Verdict :=
  match s.launch y addr bs none gate (some c.g.team) with
  | none => .stall
  | some (t, code, h) => k (if code = 0 then t.publish (t.party c.g) (c.s.launchScope x) [.grid h] else t) code h

/-! ## LAUNCH, LAUNCHQ (R318, R319) -/

def execLaunch (d : BitVec 7) (s : State) : Host.Outcome State Fault Refusal :=
  issue s false (fun c => c.form false d 2 (fun x ws =>
    let addr := descPair ws 0
    c.block addr 128 128 (fun bs => c.launching x (fun s =>
      c.launched s x x addr bs none (fun s code h => c.answered s d code h)))))

/-- The status of a LAUNCHQ on its queue as it stands at issue (0: the record is launched), and the queue's indexes. The block of a mapped
queue is not checked (R306). -/
def State.queueStatus (s : State) (x : Inset) (addr : Nat) (q : Qcb) : Nat × Nat × Nat :=
  let level := (s.queueLevel x.id addr).getD (q.read, q.write, q.err)
  let size := ((s.slotOf x.id addr).map (·.logsize)).getD q.logsize
  (lowestCode [if q.ok x.id || (s.slotOf x.id addr).isSome then 0 else codeLimit, if idxDiff level.2.1 level.1 = 2 ^ size then 0x25 else 0,
     if level.2.2 then 0x26 else 0],
    level.1, level.2.1)

def execLaunchq (d : BitVec 7) (s : State) : Host.Outcome State Fault Refusal :=
  issue s false (fun c => c.form false d 4 (fun x ws =>
    let addr := descPair ws 0
    let qcb := descPair ws 2
    c.block addr 128 128 (fun bs => c.block qcb 64 64 (fun qb =>
      let st := c.s.queueStatus x qcb (Qcb.ofBytes qb)
      if st.1 ≠ 0 then c.answered (c.base false) d st.1 0
      else c.launching x (fun s =>
        c.launched s x x addr bs (some (qcb, st.2.1, idxDiff st.2.2 st.2.1)) (fun s code h => c.answered s d code h))))))

/-! ## CTXNEW (R320) -/

/-- A child is created from its block; the parent's teams on its cores leave, and its queues beyond the slots left to it are unmapped. -/
def State.newChild (s : State) (p : Nat) (b : Block) : State × Inset :=
  let r := s.createInset p b
  ((r.1.leaveCores p).unmapExcess p s.slots.length, r.2)

/-- CTXNEW: the launch record that LREC names is read at issue as well, before any status is formed (R316, R317). -/
def execCtxnew (d : BitVec 7) (s : State) : Host.Outcome State Fault Refusal :=
  issue s false (fun c => c.form true d 2 (fun x ws =>
    c.block (descPair ws 0) 128 128 (fun bs =>
      let b := Block.ofBytes bs
      let code := c.s.creationCode x.id b
      let made (s : State) (y : Inset) : Verdict := c.answered s d 0 (y.share * 2 ^ 12 + y.id)
      if b.lrec = 0 ∨ b.lrec % 128 ≠ 0 then
        (if code ≠ 0 then c.answered (c.base false) d code 0
        else
          let r := (c.base false).newChild x.id b
          made r.1 r.2)
      else c.block b.lrec 128 128 (fun lb =>
        if code ≠ 0 then c.answered (c.base false) d code 0
        else c.launching x (fun s =>
          let r := s.newChild x.id b
          c.launched r.1 x r.2 b.lrec lb none (fun s _ _ => made s r.2))))))

/-! ## Forms that take effect one at a time on a child (R329) -/

/-- A form is under way on a child, before an operation's turn. -/
def State.formBefore (s : State) (op child : Nat) : Bool :=
  s.ops.any (fun o => decide (o.id < op) && (match o.wait with
    | .form n c _ _ => decide (c = child ∧ (n ≤ 12 ∨ n = 16))
    | _ => false))

/-- The form's operation ends with results from register D up. -/
def State.formEnds (s : State) (op : Nat) (dst : Nat) (ws : List Word) : State :=
  s.updOp op (fun o => { o with wait := .none, results := ws.mapIdx (fun i w => uniResult (dst + i) w) })

/-- The completion of CTXFRZ, CTXCKPT or CTXREVK acquires what the subtree wrote, at the first clause of its group that waits on its flag
(R323). -/
def State.formAcquires (s : State) (o : LongOp) (child : Nat) : State :=
  let wrote (p : PendingWrite) : Bool := s.grids.any (fun d => decide (d.handle = p.grid) && s.under child d.inset)
  let here : Release := { place := .form o.gid o.flag, owner := { id := o.gid, team := 0, cluster := 0 }, scope := 4 }
  (s.updPending (fun p => if wrote p then { p with released := p.released ++ [here] } else p)).updGroup o.gid (fun g =>
    { g with acquiring := g.acquiring ++ [o.flag] })

/-- The record of an access that a form made after its issue and that faulted; its group goes on (R332). -/
def State.formFault (s : State) (o : LongOp) (f : Option (XFault × Nat)) : State :=
  match f, s.group? o.gid with
  | some f, some g => s.post { s.passing g o.index (f.1.trap o.mask f.2) with evtag := o.evtag }
  | _, _ => s

/-- A form's answer. -/
def Answer.finish (a : Answer) (o : LongOp) (dst : Nat) : State :=
  (a.state.formFault o a.fault).formEnds o.id dst [statusWord a.code a.result]

/-- A debugging form (R331) on its child. -/
def State.debugForm (s : State) (p : Nat) (x : Inset) (n : Nat) (ws : List Word) : Answer :=
  let slot := descWord ws 0 / 2 ^ 16 % 4
  let buf := descPair ws 3
  if n = 8 then (s.updInset x.id (fun y => { y with breakpoints := y.breakpoints.set slot (some (descPair ws 1)) })).answer 0
  else if n = 9 then (s.updInset x.id (fun y => { y with breakpoints := y.breakpoints.set slot none })).answer 0
  else match s.debugGroup x.id (descWord ws 1 % 2 ^ 24) (descWord ws 2) with
    | none => s.answer codeState
    | some g =>
      if n = 10 then
        match s.writeSpace p buf (s.stateBytes g) with
        | (s, none) => s.answer 0
        | (s, some f) => { state := s, code := codeFault, result := 0, fault := some f }
      else if n = 11 then
        match s.readSpace p buf 1024 with
        | .ok bs => (s.updGroup g.gid (fun g => s.writeGroup g bs)).answer 0
        | .error e => { state := s, code := codeFault, result := 0, fault := some e.asFault }
      else (s.stepGroup g.gid).answer 0

/-- What a form reads or writes at its turn cannot be reached as things stand. -/
def State.formDown (s : State) (p n child : Nat) (ws : List Word) : Bool :=
  match n with
  | 4 => s.spaceDown p .w (descPair ws 2) (descWord ws 4) || s.areasDown child
  | 5 => s.areasDown child
  | 10 => s.spaceDown p .w (descPair ws 3) 1024
  | 11 => s.spaceDown p .r (descPair ws 3) 1024
  | _ => false

/-- A form begins on its child: at once where it can, else it waits on. Forms: 1 grant, 2 freeze, 3 thaw, 4 checkpoint, 5 restore,
6 revoke, 7 state, 8 to 12 debugging. -/
def State.beginForm (s : State) (o : LongOp) (n child : Nat) (ws : List Word) (dst : Nat) : State :=
  let p := (((s.group? o.gid).bind s.insetOf).map (·.id)).getD 0
  let s := s.updOp o.id (fun o => { o with arrived := true })
  match s.child? p child with
  | none => s.formEnds o.id dst [statusWord codeNoChild 0]
  | some x =>
    match n with
    | 1 =>
      let aux := descWord ws 0
      let b := Block.ofBytes (wordBytes (ws.drop 1))
      let code := s.grantCode p x aux b
      if code ≠ 0 then s.formEnds o.id dst [statusWord code 0]
      else
        let t := s.applyGrants p child aux b
        if aux.testBit 1 || aux.testBit 2 then
          t.updOp o.id (fun o => { o with wait := .form 16 child [natWord s.refill, hiWord s.refill] dst })
        else t.formEnds o.id dst [statusWord 0 0]
    | 2 => if x.frozen then s else s.freezeInset child (some (descWord ws 1)) 0
    | 3 => if x.frozen then (s.thawInset child).formEnds o.id dst [statusWord 0 0] else s.formEnds o.id dst [statusWord codeState 0]
    | 4 => if x.frozen then s else s.freezeInset child (some (descWord ws 1)) 1
    | 5 => (s.restoreCheckpoint x (wordBytes ws)).finish o dst
    | 7 => s.formEnds o.id dst (s.statWords x)
    | _ => if 8 ≤ n ∧ n ≤ 12 then (s.debugForm p x n ws).finish o dst else s

/-- A form that has begun ends, where it may. -/
def State.endForm (s : State) (o : LongOp) (n child : Nat) (ws : List Word) (dst : Nat) : State :=
  let p := (((s.group? o.gid).bind s.insetOf).map (·.id)).getD 0
  match s.child? p child with
  | none => s.formEnds o.id dst [statusWord codeNoChild 0]
  | some x =>
    match n with
    | 2 =>
      if s.freezeDone child && s.othersDone child then (s.formAcquires o child).formEnds o.id dst [statusWord 0 ((s.commandsOf child).filter s.blocked).length] else s
    | 4 =>
      if s.freezeDone child && s.othersDone child && !s.formDown p 4 child ws then
        ((s.formAcquires o child).checkpoint p x (descPair ws 2) (descWord ws 4) ((descWord ws 5).testBit 0)).finish o dst
      else s
    | 6 => if !s.othersDone child then s else ((s.formAcquires o child).revokeInset child).formEnds o.id dst [statusWord 0 0]
    | 14 => if s.oldAccess x (descPair ws 0) (descPair ws 2) then s
        else (s.pinv child (descPair ws 0) (descPair ws 2)).formEnds o.id dst [statusWord (descWord ws 4) 0]
    | 15 => if s.oldAccess x (descPair ws 0) (descPair ws 2) then s
        else (s.pinv child (descPair ws 0) (descPair ws 2)).formEnds o.id dst [statusWord 0 0]
    | 16 => if descPair ws 0 < s.refill then s.formEnds o.id dst [statusWord 0 0] else s
    | _ => s

/-- A form's turn: it begins behind every earlier form on its child, and ends where it may. -/
def State.stepForm (s : State) (op : Nat) : State :=
  match s.op? op with
  | none => s
  | some o =>
    match o.wait with
    | .form n child ws dst =>
      let p := (((s.group? o.gid).bind s.insetOf).map (·.id)).getD 0
      if o.arrived then s.endForm o n child ws dst
      else if s.formBefore op child || (decide (n ≠ 4) && s.formDown p n child ws) then s
      else s.beginForm o n child ws dst
    | _ => s

/-- The issue of a form on the child that the first descriptor register names. -/
def Ctx.childForm (c : Ctx) (s : State) (n : Nat) (d : BitVec 7) (child : Nat) (ws : List Word) : Verdict :=
  if (c.s.child? c.insetId child).isNone then c.answered s d codeNoChild 0
  else match c.long s true false [] (.form n child ws d.toNat) [] with
    | .done t => .done (t.stepForm s.fresh)
    | v => v

/-- A CTX form whose operands are its descriptor alone. -/
def ctxForm (s : State) (n len : Nat) (d : BitVec 7) : Host.Outcome State Fault Refusal :=
  issue s false (fun c => c.form true d len (fun _ ws =>
    if c.s.bufferFull then .stall else c.childForm (c.base false) n d (descWord ws 0 % 2 ^ 12) ws))

/-- A creation block with its selected fields alone, each read for itself; the others are not read (R321). -/
def Ctx.grantFields (c : Ctx) (aux addr : Nat) (k : List Byte → Verdict) : Verdict :=
  let spots : List (Nat × Nat × Nat) := [(2, 0x14, 2), (1, 0x16, 2), (4, 0x18, 2), (3, 0x1B, 1), (0, 0x20, 32)]
  let rec go : List (Nat × Nat × Nat) → List Byte → Verdict
    | [], bs => k (padTo 128 bs)
    | (i, o, n) :: rest, bs =>
      let bs := padTo o bs
      if aux.testBit i then c.block (addr + o) 1 n (fun f => go rest (bs ++ f)) else go rest bs
  if addr % 128 ≠ 0 then c.illegalOperand false else go spots []

def execCtxgrant (d : BitVec 7) (g : BitVec 5) (s : State) : Host.Outcome State Fault Refusal :=
  issue s false (fun c => c.form true d 3 (fun _ ws =>
    if g = 0 then c.illegalOperand false
    else c.grantFields g.toNat (descPair ws 1) (fun bs =>
      c.childForm (c.base false) 1 d (descWord ws 0 % 2 ^ 12) (g.setWidth 32 :: wordsAt bs 0 32))))

def execCtxfrz (d : BitVec 7) (s : State) : Host.Outcome State Fault Refusal := ctxForm s 2 2 d
def execCtxthaw (d : BitVec 7) (s : State) : Host.Outcome State Fault Refusal := ctxForm s 3 1 d

/-- CTXCKPT: the destination is 64-aligned; AUX asks for a thaw. -/
def execCtxckpt (d : BitVec 7) (t : BitVec 1) (s : State) : Host.Outcome State Fault Refusal :=
  issue s false (fun c => c.form true d 5 (fun _ ws =>
    if descPair ws 2 % 64 ≠ 0 then c.illegalOperand false
    else if c.s.bufferFull then .stall
    else c.childForm (c.base false) 4 d (descWord ws 0 % 2 ^ 12) (ws ++ [t.setWidth 32])))

/-- CTXREST: the image is read at issue. -/
def execCtxrest (d : BitVec 7) (s : State) : Host.Outcome State Fault Refusal :=
  issue s false (fun c => c.form true d 3 (fun _ ws =>
    let addr := descPair ws 1
    c.block addr 1 64 (fun head => c.block addr 1 (blockDword head 0) (fun bs =>
      if c.s.bufferFull then .stall
      else c.childForm (c.base false) 5 d (descWord ws 0 % 2 ^ 12) (wordsAt bs 0 (bs.length / 4))))))

/-- CTXREVK: the subtree stops issuing at its issue; the rest waits for its turn on the child (R327, R329). -/
def execCtxrevk (d : BitVec 7) (s : State) : Host.Outcome State Fault Refusal :=
  issue s false (fun c => c.form true d 1 (fun x ws =>
    let child := descWord ws 0 % 2 ^ 12
    let s := c.base false
    c.childForm (if (c.s.child? x.id child).isSome then s.updInset child (fun y => { y with revoking := true }) else s) 6 d child ws))

def execCtxstat (d : BitVec 7) (s : State) : Host.Outcome State Fault Refusal := ctxForm s 7 4 d
def execCtxdbgSetbp (d : BitVec 7) (s : State) : Host.Outcome State Fault Refusal := ctxForm s 8 5 d
def execCtxdbgClrbp (d : BitVec 7) (s : State) : Host.Outcome State Fault Refusal := ctxForm s 9 5 d
def execCtxdbgRdstate (d : BitVec 7) (s : State) : Host.Outcome State Fault Refusal := ctxForm s 10 5 d
def execCtxdbgWrstate (d : BitVec 7) (s : State) : Host.Outcome State Fault Refusal := ctxForm s 11 5 d
def execCtxdbgStep (d : BitVec 7) (s : State) : Host.Outcome State Fault Refusal := ctxForm s 12 5 d

/-! ## MAPG, UNMAPG, PINV, PGREQ (R332 to R334) -/

/-- The record of a MAP form's faulting access. -/
def Ctx.mapFault (c : Ctx) (s : State) (f : Option (XFault × Nat)) : State :=
  match f with
  | some f => s.post (s.passing c.g c.cl.index (f.1.trap c.run f.2))
  | none => s

def execMapg (d : BitVec 7) (s : State) : Host.Outcome State Fault Refusal :=
  issue s false (fun c => c.form true d 10 (fun x ws =>
    let w := descWord ws 1
    let m : MapReq := { size := w / 2 ^ 6 % 4, perms := BitVec.ofNat 3 (w / 4), va := descPair ws 2, pa := descPair ws 4, count := descWord ws 6,
                        pool := descPair ws 7, npool := descWord ws 9 }
    if w / 2 ^ 8 ≠ 0 ∨ w / 2 ^ 5 % 2 ≠ 0 ∨ w % 4 ≠ 0 ∨ m.count = 0 ∨ 65536 < m.count ∨ m.pool % 0x1000 ≠ 0 then c.illegalOperand false
    else if c.s.bufferFull then .stall
    else match c.s.child? x.id (descWord ws 0 % 2 ^ 12) with
      | none => c.answered (c.base false) d codeNoChild 0
      | some y =>
        let r := (c.base false).mapPages y m
        c.answered ((c.mapFault r.state r.fault).retryUnder x.id).serve d r.code r.result))

/-- A form that ends once nothing uses old entries of a range: its operation waits for that. -/
def Ctx.untilPinv (c : Ctx) (s : State) (n : Nat) (d : BitVec 7) (child a len code : Nat) : Verdict :=
  match c.long s true false [] (.form n child [natWord a, hiWord a, natWord len, hiWord len, natWord code] d.toNat) [] with
  | .done t => .done (t.updOp s.fresh (fun o => { o with arrived := true }))
  | v => v

def execUnmapg (d : BitVec 7) (s : State) : Host.Outcome State Fault Refusal :=
  issue s false (fun c => c.form true d 5 (fun x ws =>
    let size := descWord ws 1 / 2 ^ 6 % 4
    let va := descPair ws 2
    let count := descWord ws 4
    if c.s.bufferFull then .stall
    else match c.s.child? x.id (descWord ws 0 % 2 ^ 12) with
      | none => c.answered (c.base false) d codeNoChild 0
      | some y =>
        let r := (c.base false).unmapPages y size va count
        if r.code ≠ 0 ∧ r.fault.isNone then c.answered r.state d r.code 0
        else c.untilPinv (c.mapFault r.state r.fault) 14 d y.id va (count * pageSize size) r.code))

def execPinv (d : BitVec 7) (s : State) : Host.Outcome State Fault Refusal :=
  issue s false (fun c => c.form true d 5 (fun x ws =>
    let n := descPair ws 3
    if n = 0 then c.illegalOperand false
    else match c.s.child? x.id (descWord ws 0 % 2 ^ 12) with
      | none => c.answered (c.base false) d codeNoChild 0
      | some y => c.untilPinv (c.base false) 15 d y.id (descPair ws 1) n 0))

/-- PGREQ: a record that awaits REPLY; the operation ends with it. -/
def execPgreq (d : BitVec 7) (w : BitVec 1) (s : State) : Host.Outcome State Fault Refusal :=
  issue s false (fun c => c.form false d 2 (fun _ ws =>
    if c.s.bufferFull then .stall
    else
      let s := c.base false
      let r := s.recordOf c.g c.cl.index { kind := 0x33, sub := w.toNat, addr := descPair ws 0 } true
      c.long (s.post { r with gid := none, op := some s.fresh }) true false [] (.pageRequest d.toNat) []))

/-! ## LONG_OP_COMPLETE (R128, R329) -/

/-- LONG_OP_COMPLETE: an operation that waits for nothing more completes; a form on a child moves on, and its operation
completes with it. -/
def execLongOpComplete (op : Nat) (s : State) : Host.Outcome State Fault Refusal :=
  let s := s.stepForm op
  match s.op? op with
  | none => .next s
  | some o =>
    match o.wait with
    | .wide load order scope dst (l :: rest) => .next ((s.widePart o load order scope dst l rest).getD s)
    | _ =>
      match s.group? o.gid, s.landed o with
      | some _, some s' => .next (s'.completeOp o)
      | _, _ => .next s

end Sys2Proof.Machine
end

