-- ==== Sys2Proof/Machine/Handler.lean ====
section
/-! DEFINITION. Handler queues: HQARM, HQDISARM, HQACK (R335 to R337), and the delivery of records to handler queues, with
escalation, and to the host event ring (R299 to R301, R338, R339, R347). -/
namespace Sys2Proof.Machine

/-! ## HQARM, HQDISARM (R335) -/

/-- An HQ form on SETA, with SYS checked first. -/
def hqForm (s : State) (d : BitVec 7) (us : List Use) (k : Ctx → Inset → Verdict) : Host.Outcome State Fault Refusal :=
  issue s false (fun c => c.sysForm true (fun x => c.uses false (useS d.toNat :: us) (k c x)))

def Ctx.hqAnswer (c : Ctx) (s : State) (d : BitVec 7) (code : Nat) : Verdict :=
  c.long s false false [uniResult d.toNat (statusWord code 0)] .none []

def execHqarm (d : BitVec 7) (s : State) : Host.Outcome State Fault Refusal :=
  hqForm s d [] (fun c x =>
    if x.armed.isSome then c.hqAnswer (c.base false) d codeArmed
    else c.hqAnswer ((c.base false).updInset x.id (fun y => { y with armed := some c.g.team })) d 0)

def execHqdisarm (d : BitVec 7) (s : State) : Host.Outcome State Fault Refusal :=
  hqForm s d [] (fun c x =>
    if x.armed ≠ some c.g.team then c.hqAnswer (c.base false) d codeNotArmed
    else c.hqAnswer ((c.base false).updInset x.id (fun y => { y with armed := none })) d 0)

/-! ## HQACK (R337) -/

/-- The record is a setbp stop, its own or carried on by an escalation. -/
def Record.setbp (r : Record) : Bool :=
  decide ((r.kind = 7 ∧ r.sub = 1) ∨ (r.kind = 0x34 ∧ r.info.toNat / 2 ^ 24 = 7 ∧ r.info.toNat / 2 ^ 16 % 16 = 1))

/-- The team out of residency that holds a group's key, and the group's index in it. -/
def State.awayTeam (s : State) (gid : Nat) : Option (Team × Nat) :=
  (s.teams.find? (fun t => t.away && decide (t.tid < gid ∧ gid ≤ t.tid + 32))).map (fun t => (t, gid - t.tid - 1))

/-- What an acknowledgement does to the record's group or requester: the status, and the state on success. -/
def State.acknowledge (s : State) (r : Record) (action reply : Nat) : Nat × State :=
  match r.op, r.gid with
  | some id, _ =>
    match s.op? id with
    | none => (codeNoRec, s)
    | some o =>
      match o.wait with
      | .pageRequest dst => if action = 3 then (0, s.formEnds id dst [statusWord 0 reply]) else (codeState, s)
      | _ => (codeNoRec, s)
  | none, some gid =>
    if action = 3 ∨ (action = 1 ∧ r.atStart ∧ !r.setbp) then
      (if (s.group? gid).isSome || (s.awayTeam gid).isSome then codeState else codeNoRec, s)
    else match s.group? gid with
      | some g => if g.stop.isSome then (0, s.resumeGroup gid action) else (codeState, s)
      | none => match s.awayTeam gid with
        | some (t, i) => (0, s.updTeam t.tid (fun t => { t with acks := t.acks ++ [(i, action)] }))
        | none => (codeNoRec, s)
  | none, none => (codeState, s)

/-- The resumed group, or the requester, acquires from the HQACK before its next access (R337). -/
def State.lets (s : State) (giver : Nat) (r : Record) : State :=
  match (r.op.bind s.op?).map (·.gid) <|> r.gid with
  | some gid => (s.closeRegion gid).teach giver gid
  | none => s

/-- HQACK: a release at device scope where it succeeds; without the record, or with an action not legal for it, nothing
changes. -/
def execHqack (d a b : BitVec 7) (s : State) : Host.Outcome State Fault Refusal :=
  hqForm s d [useUni a.toNat, useUni b.toNat] (fun c x => c.usrc (c.base false) a.toNat (fun s seq => c.usrc s b.toNat (fun s w =>
    let seq := seq.toNat
    let w := w.toNat
    let action := w % 16
    if 4 ≤ action ∨ (action ≠ 3 ∧ w / 16 ≠ 0) then c.illegalOperand false
    else c.charged (if c.s.unserved c.g.gid then .stall
      else match c.s.outstanding.find? (fun o => decide (o.inset = x.id ∧ o.seq = seq)) with
        | none => c.hqAnswer s d codeNoRec
        | some o =>
          let r := (s.release c.g.gid 3 []).acknowledge o.record action (w / 2 ^ 8 % 2 ^ 8)
          if r.1 ≠ 0 then c.hqAnswer s d r.1
          else c.hqAnswer { r.2.lets c.g.gid o.record with outstanding := r.2.outstanding.filter (fun p => !decide (p.inset = x.id ∧ p.seq = seq)) } d 0))))

/-! ## RECORD_DELIVERY (R299 to R301) -/

/-- The inset a record is for: the parent of its X; 0 is the root, whose records go to the host. -/
def State.receiverOf (s : State) (r : Record) : Nat :=
  match r.dest with
  | some p => p
  | none => ((s.inset? r.route).map (·.parent)).getD 0

/-- How a record at the head of its queue fares: it is delivered to a team, escalated, or waits. -/
inductive Delivery where
  | push (team : Nat)
  | escalate
  | wait
deriving DecidableEq, Repr

def State.delivery (s : State) (r : Record) : Delivery :=
  match s.inset? (s.receiverOf r) with
  | none => .wait
  | some p =>
    match p.armed.bind s.team? with
    | some t => if t.hasRoom 2 8 then .push t.tid else .wait
    | none => .escalate

/-- The first record, in posting order, that may move; records for one inset keep their order. -/
def State.firstDue (s : State) : List Nat → List Record → Option (List Record × Record × List Record)
  | _, [] => none
  | held, r :: rest =>
    let p := s.receiverOf r
    if p = 0 ∨ held.contains p ∨ s.delivery r = .wait then (s.firstDue (p :: held) rest).map (fun x => (r :: x.1, x.2))
    else some ([], r, rest)

/-- The record enters the port, numbered for its inset; it is outstanding until HQACK. -/
def State.deliverRecord (s : State) (r : Record) (team : Nat) : State :=
  let p := s.receiverOf r
  let kept := match r.seq with
    | some (i, n) => if i = p then some n else none
    | none => none
  let n := kept.getD (((s.inset? p).map (·.nextSeq)).getD 0)
  let s := if kept.isSome then s else s.updInset p (fun x => { x with nextSeq := (n + 1) % 2 ^ 32 })
  let s := s.updTeam team (fun t => t.setPort 2 { t.port 2 with entries := (t.port 2).entries ++ [r.toWords n] })
  if r.awaits then { s with outstanding := s.outstanding ++ [{ inset := p, seq := n, record := r }] } else s

/-- "Unhandled in child": X freezes without a bound, and the record goes on to the parent's parent, naming the parent that is
not armed; its words W1 to W4 are the original's (R300, R339, R361). -/
def State.escalate (s : State) (r : Record) : Record × State :=
  let p := s.receiverOf r
  let origin := if r.kind = 0x34 then r.info.toNat / 2 ^ 12 * 2 ^ 12 else r.kind * 2 ^ 24 + r.sub % 16 * 2 ^ 16
  ({ r with kind := 0x34, sub := 0, info := natWord (origin + p), route := p, dest := none, seq := none },
   if r.dest.isSome || ((s.inset? r.route).map (·.frozen)).getD true then s else s.freezeInset r.route none 5)

/-- RECORD_DELIVERY: one record moves. -/
def execRecordDelivery (s : State) : Host.Outcome State Fault Refusal :=
  match s.firstDue [] s.records with
  | none => .next s
  | some (before, r, after) =>
    match s.delivery r with
    | .push t => .next ({ s with records := before ++ after }.deliverRecord r t)
    | .escalate =>
      let e := s.escalate r
      let posted := e.2.records.drop s.records.length
      .next { e.2 with records := before ++ e.1 :: after ++ posted }
    | .wait => .next s

/-! ## The host event ring (R347) -/

/-- Host memory is reached while the link is up (R340). -/
def State.hostWrite (s : State) (addr : Nat) (bs : List Byte) : State := s.setMem (s.mem.store (Config.hostBase + addr) bs)
def State.hostRead (s : State) (addr n : Nat) : List Byte := s.mem.bytes (Config.hostBase + addr) n

/-- An interrupt vector is sent to the host. -/
def State.vector (s : State) (n : Nat) : State := { s with ctl := { s.ctl with vectors := s.ctl.vectors ++ [n] } }

/-- HOST_EVENT_RING_WRITE: the oldest record for the host is written to the ring, where it exists and has room. -/
def execHostEventRingWrite (s : State) : Host.Outcome State Fault Refusal :=
  match s.records.find? (fun r => decide (s.receiverOf r = 0)) with
  | none => .next s
  | some r =>
    let c := s.ctl
    if c.evbase = 0 ∨ idxDiff c.evwrite c.evread = 2 ^ c.evlog ∨ !s.fabric.linkUp then .next s
    else
      let n := match r.seq with
        | some (0, n) => n
        | _ => c.evwrite
      let s := s.hostWrite (c.evbase.toNat + 32 * (c.evwrite % 2 ^ c.evlog)) (wordBytes (r.toWords n))
      .next ({ s with records := s.records.erase r, ctl := { s.ctl with evwrite := (c.evwrite + 1) % 2 ^ 32 } }.vector 0)

/-- EVREAD_WRITE: ignored where EVWRITE - EVREAD would be negative. DEDUCED (assumption log 88): the difference of the two 32-bit indexes,
which wrap, is read as a signed one. -/
def State.writeEvread (s : State) (v : Nat) : State :=
  if idxDiff s.ctl.evwrite v < 2 ^ 31 then { s with ctl := { s.ctl with evread := v } } else s

/-- EVBASE (aligned to 4 KiB) and EVLOG (6 to 16) change only while the ring is empty. -/
def State.writeRing (s : State) (log : Bool) (v : BitVec 64) : State :=
  if s.ctl.evwrite ≠ s.ctl.evread then s
  else if log then (let n := v.toNat % 32
    if 6 ≤ n ∧ n ≤ 16 then { s with ctl := { s.ctl with evlog := n } } else s)
  else if v.toNat % 0x1000 = 0 then { s with ctl := { s.ctl with evbase := v } } else s

def execEvreadWrite (value : BitVec 32) (s : State) : Host.Outcome State Fault Refusal :=
  if s.fabric.linkUp then .next (s.writeEvread value.toNat) else .next s
def execEventRingConfigWrite (log : Bool) (value : BitVec 64) (s : State) : Host.Outcome State Fault Refusal :=
  if s.fabric.linkUp then .next (s.writeRing log value) else .next s

end Sys2Proof.Machine
end

