-- ==== Sys2Proof/Machine/Mailbox.lean ====
section
/-! DEFINITION. The control window and the mailbox (R343 to R346, R349, R354 to R358, R392): a GO starts a command; the step of the
command begins it, and where it waits the same step ends it; MAILBOX_COMPLETE reports. -/
namespace Sys2Proof.Machine

/-! ## The control window (R343) -/

def State.updCtl (s : State) (f : Control → Control) : State := { s with ctl := f s.ctl }

/-- The code of STATE (R348). -/
def Boot.code : Boot → Nat
  | .rom => 0
  | .waitimg => 1
  | .verify => 2
  | .run => 3
  | .bootfail => 15

/-- The word that a host read of the control window returns at a 4-aligned offset; an offset that the map does not list reads as zero
(R341). -/
def State.controlWord (s : State) (offset : Nat) : Word :=
  let c := s.ctl
  let half (v : BitVec 64) : Word := (v >>> (8 * (offset % 8))).truncate 32
  match offset with
  | 0x000 => BitVec.ofNat 32 (c.boot.code * 2 ^ 28 + c.bfail % 2 ^ 16)
  | 0x008 => c.straps
  | 0x010 => c.cmd.setWidth 32
  | 0x014 => BitVec.ofNat 32 ((if c.busy then 2 ^ 31 else 0) + (if c.overrun then 2 ^ 30 else 0) + c.mstatus.toNat)
  | 0x018 => c.mresult.setWidth 32
  | 0x100 => half c.evbase
  | 0x104 => half c.evbase
  | 0x108 => BitVec.ofNat 32 c.evlog
  | 0x10C => BitVec.ofNat 32 c.evwrite
  | 0x110 => BitVec.ofNat 32 c.evread
  | 0x118 => BitVec.ofNat 32 c.dberr
  | 0x120 => half c.dmbase
  | 0x124 => half c.dmbase
  | _ => if 0x020 ≤ offset ∧ offset < 0x060 then half (c.args.getD ((offset - 0x020) / 8) 0) else 0

/-- A GO: the command starts with the arguments as they stand, or meets a busy mailbox. -/
def State.go (s : State) (code : BitVec 16) : State :=
  if s.ctl.busy then s.updCtl (fun c => { c with overrun := true })
  else s.noteWake.updCtl (fun c => { c with busy := true, cmd := code, command := some code.toNat, begun := false, outcome := none, taken := c.args, waits := [] })

/-- CONTROL_REGISTER_WRITE: a write to one register of the window; read-only and unlisted offsets take none. -/
def execControlRegisterWrite (offset : Nat) (value : BitVec 64) (s : State) : Host.Outcome State Fault Refusal :=
  let w : BitVec 32 := value.truncate 32
  if !s.fabric.linkUp then .next s
  else if offset = 0x010 then
    .next (if w.getLsbD 31 then s.go (w.truncate 16) else s.updCtl (fun c => { c with cmd := w.truncate 16 }))
  else if offset = 0x014 then .next (if w.getLsbD 30 then s.updCtl (fun c => { c with overrun := false }) else s)
  else if 0x020 ≤ offset ∧ offset < 0x060 ∧ offset % 8 = 0 then
    .next (s.updCtl (fun c => { c with args := c.args.set ((offset - 0x020) / 8) value }))
  else if offset = 0x100 then .next (s.writeRing false value)
  else if offset = 0x108 then .next (s.writeRing true value)
  else if offset = 0x110 then .next (s.writeEvread w.toNat)
  else if offset = 0x118 then .next (s.updCtl (fun c => { c with dberr := (BitVec.ofNat 32 c.dberr &&& ~~~w).toNat }))
  else if offset = 0x120 then .next (s.updCtl (fun c => { c with dmbase := value >>> 36 <<< 36 }))
  else .next s

/-- MAILBOX_OVERRUN: a GO while BUSY stands. -/
def execMailboxOverrun (s : State) : Host.Outcome State Fault Refusal :=
  .next (if s.ctl.busy && s.fabric.linkUp then s.updCtl (fun c => { c with overrun := true }) else s)

/-- MAILBOX_COMPLETE: the command's status and result are written, BUSY falls, and vector 2 is sent. -/
def execMailboxComplete (s : State) : Host.Outcome State Fault Refusal :=
  match s.ctl.outcome with
  | none => .next s
  | some (code, result) =>
    .next ((s.updCtl (fun c =>
      { c with busy := false, mstatus := BitVec.ofNat 8 code, mresult := BitVec.ofNat 24 result, command := none, begun := false, outcome := none,
               waits := [] })).vector 2)

/-! ## Commands -/

/-- The command has its status and result. -/
def State.ends (s : State) (code result : Nat) : State := s.updCtl (fun c => { c with begun := true, outcome := some (code, result) })
/-- The command goes on, keeping what it waits for. -/
def State.waitsFor (s : State) (ws : List Nat) : State := s.updCtl (fun c => { c with begun := true, waits := ws })

def State.arg (s : State) (i : Nat) : Nat := (s.ctl.taken.getD i 0).toNat

/-- The codes of R345. -/
def mailboxCodes : List Nat :=
  [1, 2, 3, 4, 5, 6, 7, 8, 9, 0xA, 0xB, 0x10, 0x11, 0x20, 0x21, 0x30, 0x31, 0x40, 0x50, 0x60, 0x7F]

/-- A command of the table: before STATE is RUN only those accepted early act; the link must be up. `goOn` ends a command that has begun. -/
def mailbox (s : State) (code : Nat) (early : Bool) (begin_ goOn : State → State) : Host.Outcome State Fault Refusal :=
  if s.ctl.command ≠ some code ∨ s.ctl.outcome.isSome ∨ !s.fabric.linkUp then .next s
  else if !early && decide (s.ctl.boot ≠ .run) then .next (s.ends codeState 0)
  else if s.ctl.begun then .next (goOn s)
  else .next (begin_ s)

/-- MAILBOX_UNKNOWN_COMMAND: a code that the table does not list. -/
def execMailboxUnknownCommand (s : State) : Host.Outcome State Fault Refusal :=
  match s.ctl.command with
  | none => .next s
  | some code => if mailboxCodes.contains code then .next s else mailbox s code false (fun s => s.ends codeLimit 0) id

/-- A block that a command names in host memory: misaligned it is beyond a limit; outside the host window it cannot be read. -/
def State.hostBlock (s : State) (addr align n : Nat) (k : List Byte → State) : State :=
  if addr % align ≠ 0 then s.ends codeLimit 0
  else if Config.spaceEnd < Config.hostBase + addr + n then s.ends codeFault 0
  else k (s.hostRead addr n)

/-- The level-1 inset that a command names. -/
def State.levelOne (s : State) (id : Nat) (k : Inset → State) : State :=
  match s.child? 0 (id % 2 ^ 12) with
  | some x => k x
  | none => s.ends codeNoChild 0

/-- The answer of a form as a command's. -/
def Answer.ends (a : Answer) : State := a.state.ends a.code a.result

/-! ### Insets -/

/-- A package of a confidential subtree that is not in confidential mode (R379); what other packages run is not this one's. -/
def State.plainPackage (s : State) (mask : Nat) : Bool := s.confidential && decide (mask ≠ 0) && Config.freeBit s.oracle 66 mask

def execInsetnew (s : State) : Host.Outcome State Fault Refusal :=
  mailbox s 0x01 false (fun s => s.hostBlock (s.arg 0) 128 128 (fun bs =>
    let b := Block.ofBytes bs
    let many := decide (s.arg 1 ≠ 0)
    let code := lowestCode [s.creationCode 0 b, if many && s.plainPackage (s.arg 2) then codeState else 0]
    if code ≠ 0 then s.ends code 0
    else
      let r := s.createInset 0 b
      (r.1.updInset r.2.id (fun x =>
        { x with frozen := decide (b.lrec ≠ 0), held := if b.lrec = 0 then none else some b.lrec, package := s.arg 1 % 2 ^ 6,
                 subtree := if many then s.arg 1 / 2 ^ 16 % 2 ^ 16 else 0, packages := if many then BitVec.ofNat 64 (s.arg 2) else 0 })).ends 0 r.2.id)) id

def execInsetgrant (s : State) : Host.Outcome State Fault Refusal :=
  mailbox s 0x02 false (fun s => s.levelOne (s.arg 0) (fun x =>
    let aux := s.arg 2 % 2 ^ 5
    if aux = 0 then s.ends codeLimit 0
    else s.hostBlock (s.arg 1) 128 128 (fun bs =>
      let b := Block.ofBytes bs
      let code := s.grantCode 0 x aux b
      if code ≠ 0 then s.ends code 0
      else
        let t := s.applyGrants 0 x.id aux b
        if aux.testBit 1 || aux.testBit 2 then t.waitsFor [s.refill] else t.ends 0 0)))
    (fun s => if s.ctl.waits.headD 0 < s.refill then s.ends 0 0 else s)

/-- The first half of FREEZE, CKPT: the subtree is asked to leave, unless it is frozen already. -/
def State.startFreeze (s : State) (x : Inset) (reason : Nat) : State :=
  (if x.frozen then s else s.freezeInset x.id (some (s.arg 1 % 2 ^ 32)) reason).waitsFor []

def execFreeze (s : State) : Host.Outcome State Fault Refusal :=
  mailbox s 0x03 false (fun s => s.levelOne (s.arg 0) (fun x => s.startFreeze x 0))
    (fun s => s.levelOne (s.arg 0) (fun x =>
      if s.freezeDone x.id && s.othersDone x.id then s.ends 0 ((s.commandsOf x.id).filter s.blocked).length else s))

/-- The first grid that INSETNEW held starts with the THAW (R303, R345); none while its record or an image cannot be reached. -/
def State.launchHeld (s : State) (x : Inset) : Option State :=
  match x.held with
  | none => some s
  | some lrec =>
    let s := s.updInset x.id (fun y => { y with held := none })
    match s.readSpace 0 lrec 128 with
    | .ok bs => (s.launch x lrec bs none none none).map (·.1)
    | .error .wait => none
    | .error _ => some (s.post (insetRecord x 0x30 0 0x27 lrec))

/-- After UNSEAL, the breakpoints met during the SEAL are posted before their groups issue (R387). -/
def State.postBreaks (s : State) (x : Inset) : State :=
  x.pendingBreaks.foldl State.post (s.updInset x.id (fun y => { y with pendingBreaks := [] }))

/-- No THAW takes an inset that is being sealed, or that a migration holds frozen (R386, R388, R389). -/
def State.heldBack (s : State) (x : Inset) : Bool :=
  x.sealing || s.security.migrations.any (fun m => decide (m.inset = x.id ∧ (if m.source then m.code = 1 else m.code = 2 ∨ m.code = 6 ∨ m.code = 7)))

def execThaw (s : State) : Host.Outcome State Fault Refusal :=
  mailbox s 0x04 false (fun s => s.levelOne (s.arg 0) (fun x =>
    if !x.frozen ∨ s.heldBack x then s.ends codeState 0
    else if s.bufferFull then s
    else match (s.thawInset x.id).launchHeld x with
      | none => s
      | some t => (t.postBreaks x).ends 0 0)) id

def execCkpt (s : State) : Host.Outcome State Fault Refusal :=
  mailbox s 0x05 false (fun s => s.levelOne (s.arg 0) (fun x =>
    let code := lowestCode [if s.confidential then codeState else 0, if s.arg 2 % 64 ≠ 0 then codeLimit else 0]
    if code ≠ 0 then s.ends code 0 else s.startFreeze x 1))
    (fun s => s.levelOne (s.arg 0) (fun x =>
      if s.freezeDone x.id && s.othersDone x.id && !s.areasDown x.id && !s.spaceDown 0 .w (s.arg 2) (s.arg 3 % 2 ^ 32) then
        (s.checkpoint 0 x (s.arg 2) (s.arg 3 % 2 ^ 32) false).ends
      else s))

def execRest (s : State) : Host.Outcome State Fault Refusal :=
  mailbox s 0x06 false (fun s => s.levelOne (s.arg 0) (fun x =>
    if s.confidential then s.ends codeState 0
    else if s.areasDown x.id then s
    else match s.readSpace 0 (s.arg 1) 64 with
      | .error .wait => s
      | .error _ => s.ends codeFault 0
      | .ok head => match s.readSpace 0 (s.arg 1) (blockDword head 0) with
        | .error .wait => s
        | .error _ => s.ends codeFault 0
        | .ok bs => (s.restoreCheckpoint x bs).ends)) id

/-- REVOKE; only ABORTED or a reset discards an import that is held frozen (R389). -/
def execRevoke (s : State) : Host.Outcome State Fault Refusal :=
  mailbox s 0x07 false (fun s => s.levelOne (s.arg 0) (fun x =>
    if s.security.migrations.any (fun m => decide (m.inset = x.id ∧ !m.source ∧ (m.code = 2 ∨ m.code = 7))) then s.ends codeState 0
    else (s.updInset x.id (fun y => { y with revoking := true })).waitsFor []))
    (fun s => s.levelOne (s.arg 0) (fun x => if s.othersDone x.id then (s.revokeInset x.id).ends 0 0 else s))

def execStat (s : State) : Host.Outcome State Fault Refusal :=
  mailbox s 0x08 false (fun s => s.levelOne (s.arg 0) (fun x =>
    let ws := s.statWords x
    (s.updCtl (fun c => { c with args := c.args.take 4 ++ ws.map (fun w => w.setWidth 64) })).ends 0 ((ws.headD 0).toNat % 2 ^ 24))) id

/-! ### Tables of level-1 insets -/

def execMap (s : State) : Host.Outcome State Fault Refusal :=
  mailbox s 0x09 false (fun s => s.levelOne (s.arg 0) (fun y =>
    let w := s.arg 1
    let m : MapReq := { size := w / 2 ^ 6 % 4, perms := BitVec.ofNat 3 (w / 4), va := s.arg 2, pa := s.arg 3, count := s.arg 4, pool := s.arg 5, npool := s.arg 6 }
    if w / 2 ^ 8 ≠ 0 ∨ w / 2 ^ 5 % 2 ≠ 0 ∨ w % 4 ≠ 0 ∨ m.count = 0 ∨ 65536 < m.count ∨ m.pool % 0x1000 ≠ 0 then s.ends codeLimit 0
    else
      let r := s.mapPages y m
      (r.state.retryUnder 0).serve.ends r.code r.result)) id

/-- A command that ends once nothing uses old entries of a range: inset, address, length, status. -/
def State.endPinv (s : State) : State :=
  match s.ctl.waits with
  | [y, a, n, code] => s.levelOne y (fun x => if s.oldAccess x a n then s else (s.pinv y a n).ends code 0)
  | _ => s.ends codeNoChild 0

def execUnmap (s : State) : Host.Outcome State Fault Refusal :=
  mailbox s 0x0A false (fun s => s.levelOne (s.arg 0) (fun y =>
    let size := s.arg 1 / 2 ^ 6 % 4
    let r := s.unmapPages y size (s.arg 2) (s.arg 3)
    if r.code ≠ 0 ∧ r.fault.isNone then r.state.ends r.code 0
    else r.state.waitsFor [y.id, s.arg 2, s.arg 3 * pageSize size, r.code])) State.endPinv

def execInval (s : State) : Host.Outcome State Fault Refusal :=
  mailbox s 0x0B false (fun s => s.levelOne (s.arg 0) (fun y =>
    if s.arg 2 = 0 then s.ends codeLimit 0 else s.waitsFor [y.id, s.arg 1, s.arg 2, 0])) State.endPinv

/-! ### The root stage -/

/-- A range lies in one row of R342. -/
def oneRegion (a n : Nat) : Bool :=
  decide (a + n ≤ Config.hbmSize ∨ (Config.vaultBase ≤ a ∧ a + n ≤ Config.vaultBase + 256 * Config.vaultSize) ∨
    (Config.packageBase ≤ a ∧ a + n ≤ Config.packageBase + 64 * Config.packageSize) ∨ (Config.hostBase ≤ a ∧ a + n ≤ Config.spaceEnd))

/-- The physical pieces of a root-stage range on this package. -/
def rangePieces (x : Inset) (a n : Nat) : List (Nat × Nat) := (partsOf a n).map (fun q => (localPhys x q.1, q.2))

/-- What the Security Core does to a range as it grants it: vault words are zeroed and their tags filled (R63); HBM of a range with
a key is enciphered under that key from now on (R378). -/
def State.grantBytes (s : State) (x : Inset) (r : RootRange) : State :=
  ((rangePieces x r.base r.length).foldl (fun s q => if vaultBacked q.1 then s.setMem (s.mem.zeroFill q.1 q.2) else s) s).veilRanges x [r]

/-- A range covers part of this package's fleet block, which its own window shows as well (R342, R365). -/
def coversFleet (x : Inset) (a n : Nat) : Bool :=
  let meets (o : Nat) : Bool := decide (o + Config.fleetBase < a + n ∧ a < o + Config.hbmSize)
  meets 0 || meets (Config.packageBase + x.package * Config.packageSize)

def execRootmap (s : State) : Host.Outcome State Fault Refusal :=
  mailbox s 0x10 false (fun s => s.levelOne (s.arg 0) (fun x =>
    let r : RootRange := { base := s.arg 1, length := s.arg 2, key := s.arg 3 % 2 ^ 6, perms := BitVec.ofNat 3 (s.arg 3 / 2 ^ 8), tweak := s.arg 1 }
    let code := lowestCode [
      if s.confidential && decide (r.key ≠ 0) && !(s.keySlot r.key).isLoaded then codeState else 0,
      if r.base % 0x10000 = 0 ∧ r.length % 0x10000 = 0 ∧ 0 < r.length ∧ oneRegion r.base r.length then 0 else codeLimit,
      if coversFleet x r.base r.length then codeLimit else 0,
      if s.confidential = decide (r.key = 0) then codeLimit else 0]
    if code ≠ 0 then s.ends code 0
    else (((s.grantBytes x r).updInset x.id (fun y => { y with ranges := y.ranges ++ [r] })).retryImages 0).learnTables.serve.ends 0 0)) id

/-- An access of the subtree that used a withdrawn range has still to perform (R297). -/
def State.oldRange (s : State) (x : Inset) (a n : Nat) : Bool := s.accessUnder x.id (fun q => decide (a < q.1 + q.2 ∧ q.1 < a + n))

def execRootunmap (s : State) : Host.Outcome State Fault Refusal :=
  mailbox s 0x11 false (fun s => s.levelOne (s.arg 0) (fun x =>
    match x.ranges.find? (fun r => decide (r.base = s.arg 1)) with
    | none => s.ends codeState 0
    | some r => ((s.unveilRanges x [r]).updInset x.id (fun y => { y with ranges := y.ranges.erase r })).waitsFor [localPhys x r.base, r.length]))
    (fun s => s.levelOne (s.arg 0) (fun x => match s.ctl.waits with
      | [a, n] => if s.oldRange x a n then s else s.ends 0 0
      | _ => s.ends codeNoChild 0))

/-! ### Doorbells (R306, R346) -/

def execDbset (s : State) : Host.Outcome State Fault Refusal :=
  mailbox s 0x20 false (fun s =>
    let i := s.arg 0
    let qcb := s.arg 1
    let id := s.arg 2 % 2 ^ 12
    if (s.inset? id).isNone then s.ends codeNoChild 0
    else if 8192 ≤ i ∨ qcb % 64 ≠ 0 then s.ends codeLimit 0
    else match s.readSpace id qcb 64 with
      | .error .wait => s
      | .error _ => s.ends codeFault 0
      | .ok bs =>
        if !(Qcb.ofBytes bs).ok id then s.ends codeLimit 0
        else
          let bells := s.doorbells.filter (fun d => decide (d.inset = id ∧ d.qcb = qcb))
          let s := s.updBells id qcb (fun d => { d with malformed := false })
          { s with doorbells := s.doorbells.filter (fun (d : Doorbell) => decide (d.index ≠ i)) ++
              [{ index := i, qcb := qcb, inset := id, pending := bells.any (·.pending), malformed := false,
                 kick := bells.findSome? Doorbell.kick : Doorbell }] }.ends 0 0) id

/-- DBCLR ends once every accepted kick has been taken by its queue. -/
def State.clearDoorbell (s : State) : State :=
  match s.doorbells.find? (fun d => decide (d.index = s.arg 0)) with
  | none => s.ends (if s.ctl.begun then 0 else codeState) 0
  | some d =>
    if d.pending then s.waitsFor []
    else { s with doorbells := s.doorbells.filter (fun (d : Doorbell) => decide (d.index ≠ s.arg 0)) }.ends 0 0

def execDbclr (s : State) : Host.Outcome State Fault Refusal := mailbox s 0x21 false State.clearDoorbell State.clearDoorbell

/-! ### The Range Grant Table (R354, R355) -/

/-- Every entry that has not been set reads as zeros. -/
def Grant.empty : Grant :=
  { base := 0, length := 0, reqmask := 0, subtree := 0, w := false, r := false, valid := false, withdrawing := false, inflight := 0 }

def State.grantAt (s : State) (i : Nat) : Grant := (findKey s.fabric.grants i).getD Grant.empty
def State.setGrant (s : State) (i : Nat) (g : Grant) : State :=
  { s with fabric := { s.fabric with grants := s.fabric.grants.filter (fun e => decide (e.1 ≠ i)) ++ [(i, g)] } }

def Grant.ofBytes (bs : List Byte) : Grant :=
  { base := BitVec.ofNat 64 (blockDword bs 0), length := BitVec.ofNat 64 (blockDword bs 8), reqmask := BitVec.ofNat 64 (blockDword bs 16),
    subtree := blockWord bs 24 / 2 ^ 16, w := (blockWord bs 24).testBit 2, r := (blockWord bs 24).testBit 1, valid := (blockWord bs 24).testBit 0,
    withdrawing := false, inflight := 0 }

/-- Within the limits of R354's map. -/
def grantOk (bs : List Byte) : Bool :=
  decide (blockDword bs 0 % 0x10000 = 0 ∧ blockDword bs 8 % 0x10000 = 0 ∧ 0 < blockDword bs 8 ∧ blockWord bs 24 / 2 ^ 3 % 2 ^ 13 = 0 ∧ blockWord bs 28 = 0)

def execRgtset (s : State) : Host.Outcome State Fault Refusal :=
  mailbox s 0x30 false (fun s =>
    let i := s.arg 0
    if i < 1024 && ((s.grantAt i).valid || (s.grantAt i).withdrawing) then s.ends codeState 0
    else if 1024 ≤ i then s.ends codeLimit 0
    else s.hostBlock (s.arg 1) 1 32 (fun bs => if grantOk bs then (s.setGrant i (Grant.ofBytes bs)).ends 0 0 else s.ends codeLimit 0)) id

/-- RGTWITHDRAW: VALID falls at the withdrawal point; accepted requests complete, one a step, and the command ends with the last. -/
def execRgtwithdraw (s : State) : Host.Outcome State Fault Refusal :=
  mailbox s 0x31 false (fun s =>
    let i := s.arg 0
    if 1024 ≤ i then s.ends codeLimit 0
    else if !(s.grantAt i).valid then s.ends codeState 0
    else (s.setGrant i { s.grantAt i with valid := false, withdrawing := true }).waitsFor [])
    (fun s =>
      let i := s.arg 0
      let g := s.grantAt i
      if g.inflight = 0 then (s.setGrant i { g with withdrawing := false }).ends 0 0 else s.setGrant i { g with inflight := g.inflight - 1 })

/-! ### GANGSET, HOTREAD, TIMESET, LOADFW -/

/-- The package's index in its rack (R350), by which a gang knows it. -/
def State.ownPackage (s : State) : Nat := (s.ctl.straps.extractLsb' 0 6).toNat

def execGangset (s : State) : Host.Outcome State Fault Refusal :=
  mailbox s 0x40 false (fun s =>
    let list := (List.range 8).map (fun i => s.arg (1 + i / 4) / 2 ^ (16 * (i % 4)) % 2 ^ 16)
    let coord := s.arg 3 % 2 ^ 6
    let differs := decide (coord ≠ s.ownPackage) && Config.freeBit s.oracle 67 coord
    if s.arg 0 < 100 ∨ 1000000 < s.arg 0 ∨ differs then s.ends codeLimit 0
    else
      let g : Gang := { period := s.arg 0, slots := list.takeWhile (fun n => decide (n ≠ 0)), coordinator := coord, current := 0, ready := 0, switch := none }
      { s with fabric := { s.fabric with gang := some g }, insets := s.insets.map (fun (x : Inset) => { x with ganged := false }) }.ends 0 0) id

/-- HOTREAD: the counters, with the line fills since their last reading, of consecutive pages go to host memory, and are cleared with the reading where asked (R358). -/
def execHotread (s : State) : Host.Outcome State Fault Refusal :=
  mailbox s 0x50 false (fun s =>
    let base := s.arg 0
    let n := s.arg 1
    let pages := (List.range n).map (fun i => base / 0x10000 + i)
    if base % 0x10000 ≠ 0 ∨ Config.hbmSize < base + 0x10000 * n then s.ends codeLimit 0
    else if Config.spaceEnd < Config.hostBase + s.arg 2 + 2 * n then s.ends codeFault 0
    else
      let now (p : Nat) : Nat := min 0xFFFF (Sparse.get 0 s.hotness p + Config.freeFills s.oracle p)
      let t := s.hostWrite (s.arg 2) (pages.flatMap (fun p => natBytes 2 (now p)))
      { t with hotness := pages.foldl (fun m p => Sparse.set 0 m p (if (s.arg 3).testBit 0 then 0 else now p)) t.hotness }.ends 0 0) id

def execTimeset (s : State) : Host.Outcome State Fault Refusal :=
  mailbox s 0x60 true (fun s => { s with time := s.arg 0, security := { s.security with timeSet := true } }.ends 0 0) id

/-- LOADFW: taken in WAITIMG and BOOTFAIL; the image is then checked (R348, R349). -/
def execLoadfw (s : State) : Host.Outcome State Fault Refusal :=
  mailbox s 0x7F true (fun s =>
    if s.ctl.boot = .waitimg ∨ s.ctl.boot = .bootfail then
      ((s.updCtl (fun c => { c with boot := .verify, image := some (s.arg 0, s.arg 1) })).vector 1).ends 0 0
    else s.ends codeState 0) id

/-! ## The device-memory window (R341, R377) -/

/-- A word of the fleet block as it reads: fields that the device keeps, else memory (R365). -/
def State.fleetWord (s : State) (a : Nat) : Word :=
  let p := s.power
  let word (o : Nat) : Bool := decide (a = Config.fleetBase + o)
  if word 0x00C then BitVec.ofNat 32 p.pstate
  else if word 0x010 then BitVec.ofNat 32 p.pwr
  else if word 0x018 then BitVec.ofNat 32 p.actions.length
  else if word 0x080 then (if p.armSeen || !(p.done || s.mem.struck) then s.mem.word a else s.mem.word a &&& ~~~1)
  else if word 0x098 then (if p.done || s.mem.struck then 2 else if p.refused then BitVec.ofNat 32 codeState else if p.injection.isSome then 1 else 0)
  else s.mem.word a

/-- A byte as the host sees it through the window: HBM as stored (R377). -/
def State.windowByte (s : State) (a : Nat) : Byte :=
  match s.confidential, backing a with
  | true, .vault _ => 0
  | _, .hbm =>
    if Config.fleetBase ≤ a then BitVec.ofNat 8 ((s.fleetWord (a / 4 * 4)).toNat / 256 ^ (a % 4)) else s.mem.stored a
  | _, _ => s.mem.byte a

/-- Fields of the fleet block that the host may write (R365). -/
def fleetWritable (a : Nat) : Bool :=
  let o := a - Config.fleetBase
  decide (o < 0x00C ∨ (0x014 ≤ o ∧ o < 0x018) ∨ (0x020 ≤ o ∧ o < 0x060) ∨ (0x080 ≤ o ∧ o < 0x098))

/-- The host may write a byte: no vault in confidential mode, and of the fleet block the fields that are its own. -/
def State.windowTakes (s : State) (a : Nat) : Bool :=
  match s.confidential, backing a with
  | true, .vault _ => false
  | _, .hbm => decide (a < Config.fleetBase) || fleetWritable a
  | _, _ => true

/-- Bytes stored unchanged from an address up (R377). -/
def Memory.putStored (m : Memory) (a : Nat) : List Byte → Memory
  | [] => m
  | b :: rest => Memory.putStored (m.setStored a b) (a + 1) rest

/-- The parts of a byte range in each line of 64 bytes; fuel bounds the lines. -/
def lineParts : Nat → Nat → List Byte → List (Nat × List Byte)
  | 0, _, _ => []
  | fuel + 1, a, bs => if bs.isEmpty then [] else (a, bs.take (64 - a % 64)) :: lineParts fuel (a / 64 * 64 + 64) (bs.drop (64 - a % 64))

/-- A host write within one line: whole it is a write like any other (R372, R373); else the bytes that the host may write are stored. -/
def State.windowStore (s : State) (p : Nat × List Byte) : State :=
  let addrs := (List.range p.2.length).map (p.1 + ·)
  let s := if addrs.contains (Config.fleetBase + 0x080) then { s with power := { s.power with armSeen := true } } else s
  if addrs.all s.windowTakes then s.setMem (((s.mem.cleanse p.1 p.2.length).strike p.1 p.2.length).putStored p.1 p.2)
  else s.setMem ((addrs.zip p.2).foldl (fun m q => if s.windowTakes q.1 then m.putStored q.1 [q.2] else m) s.mem)

/-- HOST_MEMORY_ACCESS: a read is kept in the window; an address outside R342 is no memory. -/
def execHostMemoryAccess (write : Bool) (offset : Nat) (bytes : List (BitVec 8)) (s : State) : Host.Outcome State Fault Refusal :=
  let base := s.ctl.dmbase.toNat + offset
  let addrs := (List.range bytes.length).map (base + ·)
  if !s.hostReach ∨ 2 ^ 36 < offset + bytes.length then .next s
  else match addrs.find? (fun a => decide (backing a = .none)) with
    | some a => .fault (.noSuchAddress a)
    | none =>
      if write then .next ((lineParts (bytes.length / 64 + 2) base bytes).foldl State.windowStore s).learnTables.serve
      else .next (s.updCtl (fun c => { c with window := addrs.map s.windowByte }))

end Sys2Proof.Machine
end

