-- ==== Sys2Proof/Machine/Boot.lean ====
section
/-! DEFINITION. The Fardun link (R340), reset and boot (R348 to R350, R376), and the staggered start of cores and matrix arrays
(R370). -/
namespace Sys2Proof.Machine

/-! ## The Fardun link (R340) -/

def State.updFabric (s : State) (f : Fabric → Fabric) : State := { s with fabric := f s.fabric }

/-- FLIT_CRC_FAILURE: logged, and the flit is sent again; after 8 consecutive failures of one flit, the link is down and retrains (R340,
R373). -/
def execFlitCrcFailure (s : State) : Host.Outcome State Fault Refusal :=
  if !s.fabric.linkUp then .next s
  else
    let n := if Config.freeBit s.oracle 73 0 then s.fabric.flitFailures + 1 else 1
    .next ((s.logError (s.linkError 7 false 0xFFF)).updFabric (fun f => if 8 ≤ n then { f with linkUp := false, flitFailures := 0 } else { f with flitFailures := n }))

/-- LINK_RETRAIN_COMPLETE: what waited for the link resumes. -/
def execLinkRetrainComplete (s : State) : Host.Outcome State Fault Refusal :=
  .next (s.updFabric (fun f => { f with linkUp := true, flitFailures := 0 }))

/-! ## Reset and boot (R348 to R350, R376) -/

/-- What a reset leaves of memory: only what is not this package's (R376). -/
def Memory.scrub (m : Memory) : Memory :=
  { cells := (m.cells.filter (fun c => decide (c.2 ≠ Config.unlistedByte) && (match backing c.1 with
      | .hbm => false
      | .vault _ => false
      | _ => true))),
    empties := [], poison := [], veils := [], inject := none, struck := false, latent := none }

/-- DEVICE_RESET: the state after reset, with the board's straps. -/
def execDeviceReset (straps : BitVec 32) (s : State) : Host.Outcome State Fault Refusal :=
  .next { State.reset with ctl := Control.reset straps, mem := s.mem.scrub, agenda := s.agenda, issuer := s.issuer, fresh := s.fresh, oracle := s.oracle }

/-- A change of STATE sends vector 1. -/
def State.toBoot (s : State) (b : Boot) : State := (s.updCtl (fun c => { c with boot := b })).vector 1

def execBootRomComplete (s : State) : Host.Outcome State Fault Refusal :=
  if s.ctl.boot = .rom then .next (s.toBoot .waitimg) else .next s

/-- The code of the first check that a firmware image fails; 0 where it passes (R349). -/
def State.firmwareCode (s : State) (addr len : Nat) (ecdsa lms linkFault : Bool) : Nat :=
  if linkFault ∨ Config.spaceEnd < Config.hostBase + addr + len then 5
  else
    let h := s.hostRead addr 0x20
    let plen := blockWord h 0xC
    if len < 0x1000 + plen ∨ blockDword h 0 ≠ 0x32525746_4E4D4C00 ∨ blockDword h 0x10 ≠ 0 ∨ blockDword h 0x18 ≠ 0 then 1
    else if !ecdsa then 2
    else if !lms then 3
    else if blockWord h 8 < (s.ctl.straps.extractLsb' 8 6).toNat then 4
    else 0

/-- FIRMWARE_VERIFY_COMPLETE: RUN, or BOOTFAIL with BFAIL written. -/
def execFirmwareVerifyComplete (ecdsa lms linkFault : Bool) (s : State) : Host.Outcome State Fault Refusal :=
  match s.ctl.boot, s.ctl.image with
  | .verify, some (addr, len) =>
    let code := s.firmwareCode addr len ecdsa lms linkFault
    let s := s.updCtl (fun c => { c with image := none })
    if code ≠ 0 then .next ((s.updCtl (fun c => { c with bfail := code })).toBoot .bootfail)
    else
      let h := s.hostRead addr 0x20
      .next ({ s with
        security := { s.security with version := blockWord h 8, payload := s.hostRead (addr + 0x1000) (blockWord h 0xC) },
        power := { s.power with start := s.uptime, lastSample := s.uptime } }.toBoot .run)
  | _, _ => .next s

/-! ## Staggered starts (R370) -/

/-- CORE_ROW_WAKE: the 16 cores of row y wake y µs after the start. -/
def execCoreRowWake (row : BitVec 4) (s : State) : Host.Outcome State Fault Refusal :=
  if s.ctl.boot ≠ .run ∨ s.power.pstate ≠ 0 ∨ s.power.rows.getLsbD row.toNat then .next s
  else .next ({ s with power := { s.power with rows := s.power.rows ||| (BitVec.ofNat 16 1 <<< row.toNat) } }.waitUntil (s.power.start + 1000 * row.toNat))

/-- MATRIX_RAMP_STEP: four steps of 1 µs each, from the core's wake. -/
def execMatrixRampStep (core : BitVec 8) (s : State) : Host.Outcome State Fault Refusal :=
  let n := Sparse.get 0 s.power.ramp core.toNat
  if !s.power.rows.getLsbD (core.toNat / 16) ∨ 4 ≤ n then .next s
  else .next ({ s with power := { s.power with ramp := Sparse.set 0 s.power.ramp core.toNat (n + 1) } }.waitUntil (s.power.start + 1000 * (core.toNat / 16 + n + 1)))

end Sys2Proof.Machine
end

