-- ==== Sys2Proof/Machine/Fabric.lean ====
section
/-! DEFINITION. The Rilsola fabric (R351 to R353), requests of other packages (R354, R355), device time over it (R392), and gang switching
(R356, R357). -/
namespace Sys2Proof.Machine

/-! ## Transport (R351, R352) -/

/-- The ports are up: STRAPS[16], and the device runs. -/
def State.fabricUp (s : State) : Bool := s.ctl.straps.getLsbD 16 && decide (s.ctl.boot = .run)

/-- FABRIC_PACKET_RECEIVE: the packet is acknowledged; one whose number has been seen is discarded. The acknowledgements that it brings are
the other package's: each of the packets under way to it may be acknowledged, by free choice (assumption log 16). -/
def execFabricPacketReceive (pkg path seq : Nat) (s : State) : Host.Outcome State Fault Refusal :=
  if !s.fabricUp ∨ !s.fabric.paths.contains (pkg, path) then .next s
  else .next (s.noteWake.updFabric (fun f =>
    { f with
      sent := f.sent.filter (fun (p : Packet) => !(decide (p.pkg = pkg) && Config.freeBit s.oracle 78 p.seq))
      acks := f.acks ++ [(pkg, seq)]
      received := if f.received.contains (pkg, seq) then f.received else f.received ++ [(pkg, seq)] }))

/-- A packet goes out on a path now. -/
def State.sendPacket (s : State) (pkg seq path : Nat) : State :=
  s.updFabric (fun f =>
    { f with sent := f.sent.filter (fun (p : Packet) => !decide (p.pkg = pkg ∧ p.seq = seq)) ++ [{ pkg := pkg, seq := seq, path := path, sent := s.uptime }] })

/-- PACKET_RETRANSMIT: 20 µs after its last sending the packet goes out on another path; without one it waits where it was sent. -/
def execPacketRetransmit (pkg seq : Nat) (s : State) : Host.Outcome State Fault Refusal :=
  let last := s.fabric.sent.find? (fun p => decide (p.pkg = pkg ∧ p.seq = seq))
  let used := match last with
    | some p => some p.path
    | none => (s.pathsTo pkg).head?
  let others := (s.pathsTo pkg).filter (fun p => decide (some p ≠ used))
  if !s.fabricUp then .next s
  else match ((others.filter (Config.freeBit s.oracle 74)) ++ others).head?, last, used with
    | some path, some p, _ => .next ((s.waitUntil (p.sent + 20000)).sendPacket pkg seq path)
    | some path, none, _ => .next (s.sendPacket pkg seq path)
    | none, none, some path => .next (s.sendPacket pkg seq path)
    | none, _, _ => .next s

/-- PATH_REMOVAL: a packet sent on the path has had no acknowledgement for 1 ms. No flush marker is expected on it any more, but where no
path is left what needs markers waits on (R94, R352). -/
def execPathRemoval (pkg path : Nat) (s : State) : Host.Outcome State Fault Refusal :=
  match s.fabric.sent.find? (fun p => decide (p.pkg = pkg ∧ p.path = path)) with
  | none => .next s
  | some p =>
    if !s.fabric.paths.contains (pkg, path) then .next s
    else
      let s := (s.waitUntil (p.sent + 1000000)).updFabric (fun f => { f with paths := f.paths.erase (pkg, path) })
      let lost := (s.markers.filter (fun m => decide (m.2 = (pkg, path)))).map (·.1)
      if (s.pathsTo pkg).isEmpty then .next s
      else .next (lost.foldl State.allGathered { s with markers := s.markers.filter (fun m => decide (m.2 ≠ (pkg, path))) })

/-- PATH_RETURN: up to 8 paths lead to each other package; a marker that waited for a path to its package goes down this one. -/
def execPathReturn (pkg path : Nat) (s : State) : Host.Outcome State Fault Refusal :=
  if !s.fabricUp ∨ 64 ≤ pkg ∨ 8 ≤ (s.pathsTo pkg).length ∨ s.fabric.paths.contains (pkg, path) then .next s
  else
    let lost (m : Nat × Nat × Nat) : Bool := decide (m.2.1 = pkg) && (s.pathsTo pkg).isEmpty
    .next ({ s with markers := (s.markers.map (fun m => if lost m then (m.1, pkg, path) else m)).eraseDups }.updFabric (fun f =>
      { f with paths := f.paths ++ [(pkg, path)] }))

/-! ## Requests of other packages (R354, R355) -/

/-- The entry of the Range Grant Table that grants a request. -/
def State.granting (s : State) (pkg subtree addr len : Nat) (write : Bool) : Option (Nat × Grant) :=
  s.fabric.grants.find? (fun e =>
    let g := e.2
    g.valid && decide (g.subtree = subtree) && g.reqmask.getLsbD pkg && (if write then g.w else g.r) &&
    decide (g.base.toNat ≤ addr ∧ addr + len ≤ g.base.toNat + g.length.toNat))

/-- This package's own memory holds every byte of the range. -/
def homeRange (a n : Nat) : Bool :=
  decide (a + n ≤ Config.hbmSize ∨ (Config.vaultBase ≤ a ∧ a + n ≤ Config.vaultBase + 256 * Config.vaultSize))

/-- An access by a party of another package conflicts here (R86, R88); whether that party has acquired a release at system scope is free,
and no narrower release reaches it (R79). -/
def State.conflictsRemote (s : State) (w : Nat) (write : Bool) : Bool :=
  s.tracks w && (s.groups.any (fun h => h.writes.contains w || (write && h.reads.contains w)) ||
    s.pendingWrites.any (fun p => decide (p.word = w) && (p.released.all (fun r => decide (r.scope < 4)) || Config.freeBit s.oracle 79 w)) ||
    s.commands.any (fun c => c.touches w write))

/-- A request served from pages of HBM raises the counter of each of them (R358). -/
def State.heat (s : State) (a n : Nat) : State :=
  if a < Config.hbmSize ∧ n ≠ 0 then
    { s with hotness := (List.range ((a + n - 1) / 0x10000 + 1 - a / 0x10000)).foldl (fun m i =>
        Sparse.set 0 m (a / 0x10000 + i) (min 0xFFFF (Sparse.get 0 m (a / 0x10000 + i) + 1))) s.hotness }
  else s

/-- REMOTE_REQUEST_CHECK: refused with "range not granted", or accepted; the bytes that another package writes are not this model's
to know, and an access that conflicts is not performed (R89). -/
def execRemoteRequestCheck (pkg subtree addr len : Nat) (write : Bool) (s : State) : Host.Outcome State Fault Refusal :=
  if !s.fabricUp then .next s
  else
    let s := s.noteWake
    match (if homeRange addr len then s.granting pkg subtree addr len write else none) with
    | none => .next (s.updFabric (fun f => { f with answers := f.answers ++ [(pkg, false)] }))
    | some (i, g) =>
      let flying := (if Config.freeBit s.oracle 69 i then g.inflight - 1 else g.inflight) + (if Config.freeBit s.oracle 68 i then 1 else 0)
      let t := (s.setGrant i { g with inflight := flying }).updFabric (fun f => { f with answers := f.answers ++ [(pkg, true)] })
      if (wordsOf addr len).any (fun w => s.conflictsRemote w write) then .next t
      else if write then
        .next ((t.heat addr len).setMem (t.mem.store addr ((List.range len).map (fun k => Config.freeByte 2 s.oracle (addr + k))))).learnTables.serve
      else .next (t.heat addr len)

/-- PTP_SYNC: IEEE 1588 sets device time, where the fabric is enabled (R392). -/
def execPtpSync (time : BitVec 64) (s : State) : Host.Outcome State Fault Refusal :=
  if !s.ctl.straps.getLsbD 16 then .next s
  else .next { s with time := time.toNat, security := { s.security with timeSet := true } }

/-! ## Gang switching (R356, R357) -/

/-- The level-1 inset of a subtree number on this package. -/
def State.gangInsets (s : State) (n : Nat) : List Inset := s.insets.filter (fun x => decide (x.level = 1 ∧ n ≠ 0 ∧ x.subtree = n))

/-- The packages of a gang: this one, and those of its subtrees. -/
def State.gangPackages (s : State) (g : Gang) : BitVec 64 :=
  g.slots.foldl (fun m n => (s.gangInsets n).foldl (fun m x => m ||| x.packages) m) (BitVec.ofNat 64 1 <<< s.ownPackage)

def State.setGang (s : State) (g : Gang) : State := s.updFabric (fun f => { f with gang := some g })

/-- A subtree held out of residency, or let back. -/
def State.holdGang (s : State) (n : Nat) (b : Bool) : State :=
  let ids := (s.gangInsets n).map (·.id)
  { s with insets := s.insets.map (fun (x : Inset) => if ids.contains x.id then { x with ganged := b } else x) }

/-- Teams of a subtree that still hold a core. -/
def State.gangTeams (s : State) (n : Nat) : List Team :=
  s.teams.filter (fun t => t.seated && (s.gangInsets n).any (fun x => s.under x.id (s.teamInset t)))

/-- GANG_TICK: at the next multiple of the period in device time the subtrees of the list are held, and their teams leave under 18,800
cycles; a frozen or revoked subtree leaves its slot idle. -/
def execGangTick (s : State) : Host.Outcome State Fault Refusal :=
  match s.fabric.gang with
  | none => .next s
  | some g =>
    if g.switch.isSome ∨ g.slots.length < 2 then .next s
    else
      let p := 1000 * g.period
      let s := s.waitUntil (s.uptime + ((s.time + p - 1) / p * p - s.time))
      let next := g.slots.getD ((g.current + 1) % g.slots.length) 0
      let idle := (s.gangInsets next).any (fun x => x.frozen || x.revoking)
      let w : Switch := { tick := s.time, outgoing := g.slots.getD g.current 0, incoming := if idle then none else some next, decision := none }
      let s := g.slots.foldl (fun s n => s.holdGang n true) s
      let teams := g.slots.flatMap (fun n => ((s.gangTeams n).filter Team.runs).map (·.tid))
      .next ((s.leave (some 18800) 4 teams).setGang { g with ready := 0, switch := some w })

/-- GANG_READY: this package is ready once the outgoing subtree is out of residency; the coordinator gathers READY until the tick + 20 µs,
and discards a later one. -/
def execGangReady (pkg : Nat) (s : State) : Host.Outcome State Fault Refusal :=
  match s.fabric.gang with
  | none => .next s
  | some g =>
    match g.switch with
    | none => .next s
    | some w =>
      let own := decide (pkg = s.ownPackage)
      if w.decision.isSome ∨ w.tick + 20000 < s.time ∨ 64 ≤ pkg ∨ (own ∧ !(s.gangTeams w.outgoing).isEmpty) ∨ (!own ∧ g.coordinator ≠ s.ownPackage) then .next s
      else .next (s.setGang { g with ready := g.ready ||| (BitVec.ofNat 64 1 <<< pkg) })

/-- A record of the device itself, for the host ring. -/
def deviceRecord (kind : Nat) (info : Word) : Record :=
  { kind := kind, ack := false, sub := 0, level := 0, src := 0, stage := 0, grid := 0, cluster := 0, team := 0, group := 0, index := 0,
    evtag := 0, info := info, addr := 0, route := 0, gid := none, op := none, seq := none, atStart := false, dest := none, awaits := false }

/-- GANG_DECISION: the coordinator decides 20 µs after the tick. -/
def execGangDecision (s : State) : Host.Outcome State Fault Refusal :=
  match s.fabric.gang with
  | none => .next s
  | some g =>
    match g.switch with
    | none => .next s
    | some w =>
      if g.coordinator ≠ s.ownPackage ∨ w.decision.isSome ∨ s.bufferFull then .next s
      else
        let s := s.waitUntil (s.uptime + (w.tick + 20000 - s.time))
        let all := decide (s.gangPackages g &&& ~~~g.ready = 0)
        let s := s.setGang { g with switch := some { w with decision := some all } }
        .next (if all then s else s.post (deviceRecord 0x35 0))

/-- A decision has reached this package. -/
def Gang.heard (g : Gang) (own : Nat) (w : Switch) (commit : Bool) : Bool :=
  if g.coordinator = own then decide (w.decision = some commit) else !commit || g.ready.getLsbD own

/-- COMMIT: the incoming subtree is let back, and its slot is the current one. -/
def execCommit (s : State) : Host.Outcome State Fault Refusal :=
  match s.fabric.gang with
  | none => .next s
  | some g =>
    match g.switch with
    | none => .next s
    | some w =>
      if !g.heard s.ownPackage w true then .next s
      else
        let s := match w.incoming with
          | some n => s.holdGang n false
          | none => s
        .next (s.setGang { g with current := (g.current + 1) % g.slots.length, ready := 0, switch := none })

/-- ABORT: the outgoing subtree is let back; its teams that were draining stay. -/
def execAbort (s : State) : Host.Outcome State Fault Refusal :=
  match s.fabric.gang with
  | none => .next s
  | some g =>
    match g.switch with
    | none => .next s
    | some w =>
      if !g.heard s.ownPackage w false then .next s
      else
        let stay := ((s.gangTeams w.outgoing).filter Team.runs).map (·.tid)
        let s := s.holdGang w.outgoing false
        let s := { s with teams := s.teams.map (fun (t : Team) =>
          if stay.contains t.tid && s.running (s.teamInset t) then { t with residency := .resident, bound := none } else t) }
        .next (s.setGang { g with ready := 0, switch := none })

end Sys2Proof.Machine
end

