-- ==== Sys2Proof/Machine/Float.lean ====
section
/-! DEFINITION. Lane floating-point, packed, dot-product, conversion, quantisation, special-function and generator instructions
(lane majors 14 to 24 and 38; R156 to R175). -/
namespace Sys2Proof.Machine

/-! ## Shared forms -/

/-- The destination of a floating result under the clause's XMOD, where its modifiers are legal (R133). -/
def Ctx.floatMods (c : Ctx) (useB : Bool) (k : BitVec 7 → BitVec 7 → FloatDst → Verdict) : Verdict :=
  match c.cl.xmod with
  | none => k 0 0 fullDst
  | some m =>
    if floatModOk m.a && (if useB then floatModOk m.b else decide (m.b = 0)) && m.floatDstOk then k m.a m.b m.floatDst
    else c.illegalOperand true

/-- The state after the draws of a stochastic destination (R42). -/
def Ctx.drawFor (c : Ctx) (s : State) (d : FloatDst) : State := if d.stoch then c.drawn s else s

/-- A floating value rounded once into a destination, for one lane (R156). -/
def Ctx.rounded (c : Ctx) (d : FloatDst) (l : Nat) (x : FVal) : Word := d.place (d.fmt.round d.mode d.sat (c.draw l) x)

/-- The sign bit of a floating operand as it stands. -/
def Mod.signBit (b : BitVec 7) (w : Word) : Bool :=
  if b = 0 then w.msb else let m := modOf b; (m.field w).testBit (modWidth m.w - 1)

/-- FALU: two operands, an exact result, one rounding. The effect sees whether the mode is RDN and B's sign bit. -/
def falu (s : State) (d a b : BitVec 7) (f : Bool → FVal → FVal → Bool → FVal) : Host.Outcome State Fault Refusal :=
  issue s true (fun c =>
    c.floatMods true (fun ma mb dst =>
      c.uses true [useSrc c.g.quota a.toNat, useSrc c.g.quota b.toNat, c.useDst d.toNat]
        (if c.pushStalls d.toNat then .stall else
          c.src (c.drawFor (c.base true) dst) a.toNat (fun s x => c.src s b.toNat (fun s y =>
            c.result s 4 d.toNat dst.mask (fun l =>
              c.rounded dst l (f (decide (dst.mode = 2)) (Mod.float ma (x l)) (Mod.float mb (y l)) (Mod.signBit mb (y l)))))))))

/-- FFMA and its signs: D is read at full width, one exact sum, one rounding (R158). -/
def ffma (s : State) (d a b : BitVec 7) (negProduct negD : Bool) : Host.Outcome State Fault Refusal :=
  issue s true (fun c =>
    c.floatMods true (fun ma mb dst =>
      c.uses true [useSrc c.g.quota a.toNat, useSrc c.g.quota b.toNat, useV c.g.quota d.toNat]
        (c.src (c.drawFor (c.base true) dst) a.toNat (fun s x => c.src s b.toNat (fun s y =>
          c.result s 4 d.toNat dst.mask (fun l =>
            let p := (Mod.float ma (x l)).mul (Mod.float mb (y l))
            let z := f32 (c.readV l d.toNat)
            c.rounded dst l (FVal.sum (decide (dst.mode = 2)) [if negProduct then p.neg else p, if negD then z.neg else z])))))))

/-- FUNI: one operand, one rounding. -/
def funi (s : State) (d a : BitVec 7) (f : FVal → FVal) : Host.Outcome State Fault Refusal :=
  issue s true (fun c =>
    c.floatMods false (fun ma _ dst =>
      c.uses true [useSrc c.g.quota a.toNat, c.useDst d.toNat]
        (if c.pushStalls d.toNat then .stall else
          c.src (c.drawFor (c.base true) dst) a.toNat (fun s x =>
            c.result s 4 d.toNat dst.mask (fun l => c.rounded dst l (f (Mod.float ma (x l))))))))

/-! ## FALU, FFMA, FCMP, FUNI (R157 to R160) -/

/-- The magnitude of A with a sign; a NaN stays one. -/
def FVal.copysign (x : FVal) (sign : Bool) : FVal :=
  match x with
  | .nan => .nan
  | .inf _ => .inf sign
  | .fin _ m e => .fin sign m e

def execFadd (d a b : BitVec 7) (s : State) := falu s d a b (fun rdn x y _ => FVal.sum rdn [x, y])
def execFsub (d a b : BitVec 7) (s : State) := falu s d a b (fun rdn x y _ => FVal.sum rdn [x, y.neg])
def execFmul (d a b : BitVec 7) (s : State) := falu s d a b (fun _ x y _ => x.mul y)
def execFmin (d a b : BitVec 7) (s : State) := falu s d a b (fun _ x y _ => x.minimum y)
def execFmax (d a b : BitVec 7) (s : State) := falu s d a b (fun _ x y _ => x.maximum y)
def execFcopysign (d a b : BitVec 7) (s : State) := falu s d a b (fun _ x _ sign => x.copysign sign)
def execFfma (d a b : BitVec 7) (s : State) := ffma s d a b false false
def execFfms (d a b : BitVec 7) (s : State) := ffma s d a b false true
def execFfnma (d a b : BitVec 7) (s : State) := ffma s d a b true false
def execFfnms (d a b : BitVec 7) (s : State) := ffma s d a b true true

def execFcmp (d a b : BitVec 7) (cc : BitVec 4) (s : State) : Host.Outcome State Fault Refusal :=
  issue s true (fun c =>
    c.floatMods true (fun ma mb _ =>
      if !((c.cl.xmod.map XMod.dstZero).getD true) then c.illegalOperand true
      else c.uses true [useSrc c.g.quota a.toNat, useSrc c.g.quota b.toNat]
          (c.src (c.base true) a.toNat (fun s x => c.src s b.toNat (fun s y =>
            c.resultP s 4 d.toNat (fun l => floatCond cc.toNat (Mod.float ma (x l)) (Mod.float mb (y l))))))))

def execFrndn (d a : BitVec 7) (s : State) := funi s d a (FVal.integral 0)
def execFrndz (d a : BitVec 7) (s : State) := funi s d a (FVal.integral 1)
def execFrndd (d a : BitVec 7) (s : State) := funi s d a (FVal.integral 2)
def execFrndu (d a : BitVec 7) (s : State) := funi s d a (FVal.integral 3)
def execFclass (d a : BitVec 7) (s : State) : Host.Outcome State Fault Refusal :=
  issue s true (fun c =>
    c.floatMods false (fun ma _ _ =>
      if !((c.cl.xmod.map XMod.dstZero).getD true) then c.illegalOperand true
      else c.uses true [useSrc c.g.quota a.toNat, c.useDst d.toNat]
        (if c.pushStalls d.toNat then .stall
        else
          c.src (c.base true) a.toNat (fun s x =>
            c.result s 4 d.toNat (BitVec.allOnes 32) (fun l =>
              floatClass (if ma = 0 then fp32 else modFmt (modOf ma).w (modOf ma).t) (Mod.float ma (x l)))))))
def execFabs (d a : BitVec 7) (s : State) := funi s d a (fun x => x.copysign false)
def execFneg (d a : BitVec 7) (s : State) := funi s d a FVal.neg

/-! ## HALF2 and DOT (R161, R162) -/

/-- A half of a word. -/
def half (i : Nat) (w : Word) : Nat := w.toNat / 2 ^ (16 * i) % 2 ^ 16

/-- Both halves computed in a 16-bit format. -/
def halves (f : Fmt) (op : FVal → FVal → FVal → FVal) (x y z : Word) : Word :=
  let one (i : Nat) : Nat := f.rne (op (f.widen (half i x)) (f.widen (half i y)) (f.widen (half i z)))
  BitVec.ofNat 32 (one 0 + 2 ^ 16 * one 1)

def half2 (s : State) (d a b : BitVec 7) (f : Fmt) (op : FVal → FVal → FVal) : Host.Outcome State Fault Refusal :=
  laneBin s 4 d a b (fun x y => halves f (fun p q _ => op p q) x y 0)
def halfFma (s : State) (d a b : BitVec 7) (f : Fmt) : Host.Outcome State Fault Refusal :=
  laneAcc s 4 d a b (halves f (fun p q r => (p.mul q).add r))

def execHadd2 (d a b : BitVec 7) (s : State) := half2 s d a b fp16 FVal.add
def execHsub2 (d a b : BitVec 7) (s : State) := half2 s d a b fp16 (fun x y => x.add y.neg)
def execHmul2 (d a b : BitVec 7) (s : State) := half2 s d a b fp16 FVal.mul
def execHfma2 (d a b : BitVec 7) (s : State) := halfFma s d a b fp16
def execHmin2 (d a b : BitVec 7) (s : State) := half2 s d a b fp16 FVal.minimum
def execHmax2 (d a b : BitVec 7) (s : State) := half2 s d a b fp16 FVal.maximum
def execBadd2 (d a b : BitVec 7) (s : State) := half2 s d a b bf16 FVal.add
def execBsub2 (d a b : BitVec 7) (s : State) := half2 s d a b bf16 (fun x y => x.add y.neg)
def execBmul2 (d a b : BitVec 7) (s : State) := half2 s d a b bf16 FVal.mul
def execBfma2 (d a b : BitVec 7) (s : State) := halfFma s d a b bf16
def execBmin2 (d a b : BitVec 7) (s : State) := half2 s d a b bf16 FVal.minimum
def execBmax2 (d a b : BitVec 7) (s : State) := half2 s d a b bf16 FVal.maximum

/-- The integer dot product of n subfields of w bits. -/
def dotInt (n w : Nat) (sa sb : Bool) (x y z : Word) : Word :=
  let e (signed : Bool) (i : Nat) (v : Word) : Int := intOf signed w (v.toNat / 2 ^ (w * i))
  BitVec.ofInt 32 ((List.range n).foldl (fun t i => t + e sa i x * e sb i y) (z.toNat : Int))

/-- The floating dot product: one exact sum with D, one rounding (R59). -/
def dotFloat (n w : Nat) (f : Fmt) (x y z : Word) : Word :=
  let e (i : Nat) (v : Word) : FVal := f.widen (v.toNat / 2 ^ (w * i) % 2 ^ w)
  toF32 (FVal.sum false (f32 z :: (List.range n).map (fun i => (e i x).mul (e i y))))

def execDot4s8 (d a b : BitVec 7) (s : State) := laneAcc s 4 d a b (dotInt 4 8 true true)
def execDot4u8 (d a b : BitVec 7) (s : State) := laneAcc s 4 d a b (dotInt 4 8 false false)
def execDot4su8 (d a b : BitVec 7) (s : State) := laneAcc s 4 d a b (dotInt 4 8 true false)
def execDot8s4 (d a b : BitVec 7) (s : State) := laneAcc s 4 d a b (dotInt 8 4 true true)
def execDot2h (d a b : BitVec 7) (s : State) := laneAcc s 4 d a b (dotFloat 2 16 fp16)
def execDot2b (d a b : BitVec 7) (s : State) := laneAcc s 4 d a b (dotFloat 2 16 bf16)
def execDot4e4 (d a b : BitVec 7) (s : State) := laneAcc s 4 d a b (dotFloat 4 8 e4m3)
def execDot4e5 (d a b : BitVec 7) (s : State) := laneAcc s 4 d a b (dotFloat 4 8 e5m2)

/-! ## CVT (R165, R166) -/

/-- The source of a CVT minor: an exact value, from the register or the named subfield. -/
def cvtSource (minor : Nat) (b : BitVec 7) (w : Word) : FVal :=
  if minor < 6 then
    if b ≠ 0 then Mod.float b w
    else match minor with
      | 2 => fp16.widen (w.toNat % 2 ^ 16)
      | 3 => bf16.widen (w.toNat % 2 ^ 16)
      | _ => f32 w
  else FVal.ofInt (Mod.int b (decide (minor = 6)) w)

/-- Its destination without a modifier. -/
def cvtPlain (minor : Nat) (x : FVal) : Word :=
  match minor with
  | 0 => BitVec.ofNat 32 (fp16.rne x)
  | 1 => BitVec.ofNat 32 (bf16.rne x)
  | 4 => BitVec.ofInt 32 (roundInt true 32 0 0 x)
  | 5 => BitVec.ofInt 32 (roundInt false 32 0 0 x)
  | _ => toF32 x

/-- Its destination under a modifier. -/
def cvtNarrow (m : XMod) (draw : BitVec 64) (x : FVal) : Nat :=
  if 2 ≤ m.dst.t then (modFmt m.dst.w m.dst.t).round m.round.toNat m.sat draw x
  else intBits (modWidth m.dst.w) (roundInt (decide (m.dst.t = 0)) (modWidth m.dst.w) m.round.toNat draw x)

def execCvt (d a : BitVec 7) (m : BitVec 4) (s : State) : Host.Outcome State Fault Refusal :=
  issue s true (fun c =>
    let fits := c.uses true [useSrc c.g.quota a.toNat, c.useDst d.toNat]
    match c.cl.xmod with
      | none =>
        fits (if c.pushStalls d.toNat then .stall else
          c.src (c.base true) a.toNat (fun s x =>
            c.result s 4 d.toNat (BitVec.allOnes 32) (fun l => cvtPlain m.toNat (cvtSource m.toNat 0 (x l)))))
      | some q =>
        let srcOk := if m.toNat < 6 then floatModOk q.a else intModOk q.a
        let dstOk := if m = 4 ∨ m = 5 then q.intDstOk else q.floatDstOk
        if !(srcOk && dstOk && decide (q.b = 0)) then c.illegalOperand true
        else fits (if c.pushStalls d.toNat then .stall
        else
          c.src (if q.round = 5 ∧ !q.dstZero then c.drawn (c.base true) else c.base true) a.toNat (fun s x =>
            if q.dstZero then c.result s 4 d.toNat (BitVec.allOnes 32) (fun l => cvtPlain m.toNat (cvtSource m.toNat q.a (x l)))
            else c.result s 4 d.toNat q.dst.mask (fun l => q.dst.place (cvtNarrow q (c.draw l) (cvtSource m.toNat q.a (x l)))))))

/-! ## QNT, DQNT, UNPK3 (R167 to R170) -/

/-- The slots QNT and DQNT accept (R167). -/
def qntSlotOk (f : FormatSlot) : Bool := slotWellFormed f && decide (3 ≤ f.elem ∧ f.elem ≤ 11)

/-- Subfield width of an element in a register (R52), and whether an index is legal for it. -/
def regWidth (elem : Nat) : Nat := match fmtOf elem with
  | some f => f.width
  | none => elemBits elem
def indexOk (w i : Nat) : Bool := decide (w * (i + 1) ≤ 32)

/-- Bits of the operand word of R167. -/
def qIndex (b : Word) : Nat := b.toNat / 2 ^ 24 % 8
def qScale (f : FormatSlot) (b : Word) : FVal := if f.geom = 0 then .fin false 1 0 else widenScale f.scale b.toNat
def qZero (f : FormatSlot) (b : Word) : Int :=
  if f.asym then intOf (((intFmt f.elem).map (·.2)).getD false) f.zpw (b.toNat / 2 ^ 16) else 0

/-- The code QNT writes (R168). -/
def quantise (f : FormatSlot) (x : FVal) (b : Word) : Nat :=
  let sc := qScale f b
  let z := qZero f b
  let bad := x.isNan || sc.isZero || sc.isInf || sc.isNan
  match fmtOf f.elem with
  | some fmt => if bad then fmt.canonical else fmt.round 0 true 0 (x.div sc)
  | none =>
    let (w, signed) := (intFmt f.elem).getD (8, true)
    let lo : Int := if signed then -(2 ^ (w - 1) : Nat) else 0
    let hi : Int := if signed then (2 ^ (w - 1) : Nat) - 1 else (2 ^ w : Nat) - 1
    if bad then intBits w z
    else match x.div sc with
      | .inf n => intBits w (if n then lo else hi)
      | q => intBits w (clampInt lo hi (q.toInt 0 0 0 + z))

/-- The FP32 value DQNT writes (R169). -/
def dequantise (f : FormatSlot) (i : Nat) (a b : Word) : Word :=
  let w := regWidth f.elem
  toF32 (elementValue f (widenCode f.elem (a.toNat / 2 ^ (w * i) % 2 ^ w)) (qZero f b) (qScale f b))

/-- The bits a subfield of width w and index i takes (R52). -/
def fieldMask (w i : Nat) : Word := BitVec.ofNat 32 ((2 ^ w - 1) * 2 ^ (w * i)) ||| (if w = 6 then 0xC0000000 else 0)

/-- Register D with the code in its subfield, the rest as D held it at the issue: D accumulates (R52, R164, R168). -/
def quantised (f : FormatSlot) (old x y : Word) : Word :=
  let w := regWidth f.elem
  (old &&& ~~~fieldMask w (qIndex y)) ||| BitVec.ofNat 32 (quantise f (f32 x) y * 2 ^ (w * qIndex y))

def execQnt (d a b : BitVec 7) (n : BitVec 3) (s : State) : Host.Outcome State Fault Refusal :=
  issue s true (fun c =>
    let f := c.slot n.toNat
    let w := regWidth f.elem
    c.uses true [useSrc c.g.quota a.toNat, useSrc c.g.quota b.toNat, useV c.g.quota d.toNat]
      (if !qntSlotOk f then c.illegalOperand true else
        c.src (c.base true) a.toNat (fun s x => c.src s b.toNat (fun s y =>
          .done (c.writeAt s 4 d.toNat (fun l => if indexOk w (qIndex (y l)) then BitVec.allOnes 32 else 0)
            (fun l => quantised f (c.readV l d.toNat) (x l) (y l)))))))

def execDqnt (d a b : BitVec 7) (n : BitVec 3) (s : State) : Host.Outcome State Fault Refusal :=
  issue s true (fun c =>
    let f := c.slot n.toNat
    let w := regWidth f.elem
    c.uses true [useSrc c.g.quota a.toNat, useSrc c.g.quota b.toNat, c.useDst d.toNat]
      (if !qntSlotOk f then c.illegalOperand true
      else if c.pushStalls d.toNat then .stall
      else
        c.src (c.base true) a.toNat (fun s x => c.src s b.toNat (fun s y =>
          if isV d.toNat then
            .done (c.writeAt s 4 d.toNat (fun l => if indexOk w (qIndex (y l)) then BitVec.allOnes 32 else 0)
              (fun l => dequantise f (qIndex (y l)) (x l) (y l)))
          else c.result s 4 d.toNat (BitVec.allOnes 32)
            (fun l => if indexOk w (qIndex (y l)) then dequantise f (qIndex (y l)) (x l) (y l) else 0)))))

/-- The five trits of byte n, as signed bytes in a pair (R170). -/
def unpackTrits (n : Nat) (a : Word) : BitVec 64 :=
  let b := a.toNat / 2 ^ (8 * n) % 256
  BitVec.ofNat 64 ((List.range 5).foldl (fun t j => t + intBits 8 (trit b j) * 2 ^ (8 * j)) 0)

def execUnpk3 (d a : BitVec 7) (n : BitVec 2) (s : State) : Host.Outcome State Fault Refusal :=
  issue s true (fun c =>
    c.uses true [useSrc c.g.quota a.toNat, useVs c.g.quota d.toNat 2]
      (c.src (c.base true) a.toNat (fun s x => c.resultPair s 4 d.toNat (fun l => unpackTrits n.toNat (x l)))))

/-! ## The special-function unit (R171 to R173) -/

def sfuOp (s : State) (fn : Nat) (d a b : BitVec 7) : Host.Outcome State Fault Refusal :=
  issue s true (fun c =>
    c.floatMods false (fun ma _ dst =>
      c.uses true [useSrc c.g.quota a.toNat, useSrc c.g.quota b.toNat, c.useDst d.toNat]
        (if c.pushStalls d.toNat then .stall else
          c.src (c.drawFor (c.base true) dst) a.toNat (fun s x => c.src s b.toNat (fun s y =>
            c.longResult s d.toNat dst.mask (fun l => c.rounded dst l (f32 (sfu fn ((y l).toNat % 4) (Mod.float ma (x l))))))))))

def execExp2 (d a b : BitVec 7) (s : State) := sfuOp s 0 d a b
def execExp (d a b : BitVec 7) (s : State) := sfuOp s 1 d a b
def execLog2 (d a b : BitVec 7) (s : State) := sfuOp s 2 d a b
def execRcp (d a b : BitVec 7) (s : State) := sfuOp s 3 d a b
def execRsqrt (d a b : BitVec 7) (s : State) := sfuOp s 4 d a b
def execSqrt (d a b : BitVec 7) (s : State) := sfuOp s 5 d a b
def execSin (d a b : BitVec 7) (s : State) := sfuOp s 6 d a b
def execCos (d a b : BitVec 7) (s : State) := sfuOp s 7 d a b
def execTanh (d a b : BitVec 7) (s : State) := sfuOp s 8 d a b
def execSigm (d a b : BitVec 7) (s : State) := sfuOp s 9 d a b
def execGelu (d a b : BitVec 7) (s : State) := sfuOp s 10 d a b

/-! ## The lane generator (R174, R175) -/

def execRng (d : BitVec 7) (s : State) : Host.Outcome State Fault Refusal :=
  issue s true (fun c =>
    c.uses true [useVs c.g.quota d.toNat 2] (c.resultPair (c.drawn (c.base true)) 4 d.toNat (fun l => c.draw l)))

def execRngseed (a : BitVec 7) (s : State) : Host.Outcome State Fault Refusal :=
  issue s true (fun c =>
    c.uses true [usePair c.g.quota a.toNat]
      (.done ((c.base true).updGroup c.g.gid (fun g => g.updLanes c.act (fun l x =>
        { x with gen := (let v := c.pair a.toNat l; if v = 0 then 1 else v) })))))

end Sys2Proof.Machine
end

