-- ==== Sys2Proof/Machine/Integer.lean ====
section
/-! DEFINITION. Lane integer, move, selection and predicate instructions (lane majors 0 to 13 and 25; R144 to R155, R163). -/
namespace Sys2Proof.Machine

/-! ## The values -/

def shamt (b : Word) : Nat := b.toNat % 32
def mulHighS (a b : Word) : Word := BitVec.ofInt 32 (a.toInt * b.toInt / 2 ^ 32)
def mulHighU (a b : Word) : Word := BitVec.ofNat 32 (a.toNat * b.toNat / 2 ^ 32)
def sminW (a b : Word) : Word := if a.slt b then a else b
def smaxW (a b : Word) : Word := if a.slt b then b else a
def uminW (a b : Word) : Word := if a.ult b then a else b
def umaxW (a b : Word) : Word := if a.ult b then b else a
def shlW (a b : Word) : Word := a <<< shamt b
def shrW (a b : Word) : Word := a >>> shamt b
def sraW (a b : Word) : Word := a.sshiftRight (shamt b)
def rotrW (a b : Word) : Word := a.rotateRight (shamt b)

/-- The division forms (R146). -/
def divS (a b : Word) : Word :=
  if b = 0 then BitVec.allOnes 32 else BitVec.ofInt 32 (a.toInt.tdiv b.toInt)
def divU (a b : Word) : Word := if b = 0 then BitVec.allOnes 32 else BitVec.ofNat 32 (a.toNat / b.toNat)
def remS (a b : Word) : Word := if b = 0 then a else BitVec.ofInt 32 (a.toInt.tmod b.toInt)
def remU (a b : Word) : Word := if b = 0 then a else BitVec.ofNat 32 (a.toNat % b.toNat)

/-- Bits of a word. -/
def popcount (a : Word) : Word := BitVec.ofNat 32 ((List.range 32).filter (fun i => a.getLsbD i)).length
def leadingZeros (a : Word) : Word := BitVec.ofNat 32 (32 - natBits a.toNat)
def reverseBits (a : Word) : Word := a.reverse
def absW (a : Word) : Word := if a.slt 0 then 0 - a else a

/-- The field p, n of R147. -/
def bfPos (b : Word) : Nat := b.toNat % 32
def bfLen (b : Word) : Nat := min (b.toNat / 256 % 64) (32 - bfPos b)
def bfxU (a b : Word) : Word := BitVec.ofNat 32 (a.toNat / 2 ^ bfPos b % 2 ^ bfLen b)
def bfxS (a b : Word) : Word :=
  if bfLen b = 0 then 0 else BitVec.ofInt 32 (intOf true (bfLen b) (a.toNat / 2 ^ bfPos b))
def bfiW (a b d : Word) : Word :=
  mergeBits d (BitVec.ofNat 32 ((2 ^ bfLen b - 1) * 2 ^ bfPos b)) (a <<< bfPos b)

/-! ## IALU (R144, R145) -/

/-- An IALU instruction: its 32-bit effect, its exact effect where it has one (else it is bitwise or a shift), and how it
takes a full-width source under XMOD. -/
def ialu (s : State) (latency : Nat) (d a b : BitVec 7) (plain : Word → Word → Word) (exact : Option (Int → Int → Int)) (signed : Bool) :
    Host.Outcome State Fault Refusal :=
  issue s true (fun c =>
    let fits := c.uses true [useSrc c.g.quota a.toNat, useSrc c.g.quota b.toNat, c.useDst d.toNat]
    match c.cl.xmod with
      | none =>
        fits (if c.pushStalls d.toNat then .stall else
          c.src (c.base true) a.toNat (fun s x => c.src s b.toNat (fun s y =>
            c.result s latency d.toNat (BitVec.allOnes 32) (fun l => plain (x l) (y l)))))
      | some m =>
        if !(intModOk m.a && intModOk m.b && m.intDstOk && decide (m.round = 0)) then c.illegalOperand true
        else fits (if c.pushStalls d.toNat then .stall
        else
          c.src (c.base true) a.toNat (fun s x => c.src s b.toNat (fun s y =>
            let value (l : Nat) : Int :=
              let va := Mod.int m.a signed (x l)
              let vb := Mod.int m.b signed (y l)
              match exact with
              | some f => f va vb
              | none => intOf (decide (m.dst.t = 0)) 32 (plain (BitVec.ofInt 32 va) (BitVec.ofInt 32 vb)).toNat
            let w := modWidth m.dst.w
            let code (v : Int) : Nat := intBits w (if m.sat then
              clampInt (if m.dst.t = 0 then -(2 ^ (w - 1) : Nat) else 0) (if m.dst.t = 0 then (2 ^ (w - 1) : Nat) - 1 else (2 ^ w : Nat) - 1) v else v)
            c.result s latency d.toNat (if m.dstZero then BitVec.allOnes 32 else m.dst.mask) (fun l => m.dst.place (code (value l)))))))

def execIadd (d a b : BitVec 7) (s : State) := ialu s 2 d a b (· + ·) (some (· + ·)) true
def execIsub (d a b : BitVec 7) (s : State) := ialu s 2 d a b (· - ·) (some (· - ·)) true
def execImul (d a b : BitVec 7) (s : State) := ialu s 4 d a b (· * ·) (some (· * ·)) true
def execImulh (d a b : BitVec 7) (s : State) := ialu s 4 d a b mulHighS (some (fun x y => x * y / 2 ^ 32)) true
def execImulhu (d a b : BitVec 7) (s : State) := ialu s 4 d a b mulHighU (some (fun x y => x * y / 2 ^ 32)) false
def execImin (d a b : BitVec 7) (s : State) := ialu s 2 d a b sminW (some min) true
def execImax (d a b : BitVec 7) (s : State) := ialu s 2 d a b smaxW (some max) true
def execUmin (d a b : BitVec 7) (s : State) := ialu s 2 d a b uminW (some min) false
def execUmax (d a b : BitVec 7) (s : State) := ialu s 2 d a b umaxW (some max) false
def execAnd (d a b : BitVec 7) (s : State) := ialu s 2 d a b (· &&& ·) none true
def execOr (d a b : BitVec 7) (s : State) := ialu s 2 d a b (· ||| ·) none true
def execXor (d a b : BitVec 7) (s : State) := ialu s 2 d a b (· ^^^ ·) none true
def execShl (d a b : BitVec 7) (s : State) := ialu s 2 d a b shlW none true
def execShr (d a b : BitVec 7) (s : State) := ialu s 2 d a b shrW none true
def execShra (d a b : BitVec 7) (s : State) := ialu s 2 d a b sraW none true
def execRotr (d a b : BitVec 7) (s : State) := ialu s 2 d a b rotrW none true

/-! ## IMISC (R146, R147) -/

def execIdiv (d a b : BitVec 7) (s : State) := laneLong s d a b divS
def execUdiv (d a b : BitVec 7) (s : State) := laneLong s d a b divU
def execIrem (d a b : BitVec 7) (s : State) := laneLong s d a b remS
def execUrem (d a b : BitVec 7) (s : State) := laneLong s d a b remU
def execPopc (d a : BitVec 7) (s : State) := laneUn s 2 d a popcount
def execClz (d a : BitVec 7) (s : State) := laneUn s 2 d a leadingZeros
def execBrev (d a : BitVec 7) (s : State) := laneUn s 2 d a reverseBits
def execIabs (d a : BitVec 7) (s : State) := laneUn s 2 d a absW
def execBfx (d a b : BitVec 7) (s : State) := laneBin s 2 d a b bfxS
def execBfxu (d a b : BitVec 7) (s : State) := laneBin s 2 d a b bfxU
def execBfi (d a b : BitVec 7) (s : State) := laneAcc s 2 d a b bfiW
def execAndn (d a b : BitVec 7) (s : State) := laneBin s 2 d a b (fun x y => x &&& ~~~y)

/-! ## Immediate forms (R148, R149) -/

def execIaddi (d a : BitVec 7) (i : BitVec 11) (s : State) := laneImm s 2 d a i (· + ·)
def execAndi (d a : BitVec 7) (i : BitVec 11) (s : State) := laneImm s 2 d a i (· &&& ·)
def execOri (d a : BitVec 7) (i : BitVec 11) (s : State) := laneImm s 2 d a i (· ||| ·)
def execXori (d a : BitVec 7) (i : BitVec 11) (s : State) := laneImm s 2 d a i (· ^^^ ·)
def execShli (d a : BitVec 7) (n : BitVec 5) (s : State) := laneUn s 2 d a (fun x => x <<< n.toNat)
def execShri (d a : BitVec 7) (n : BitVec 5) (s : State) := laneUn s 2 d a (fun x => x >>> n.toNat)
def execShrai (d a : BitVec 7) (n : BitVec 5) (s : State) := laneUn s 2 d a (fun x => x.sshiftRight n.toNat)
def execRotri (d a : BitVec 7) (n : BitVec 5) (s : State) := laneUn s 2 d a (fun x => x.rotateRight n.toNat)

/-! ## IMAD (R150) -/

def execImad (d a b : BitVec 7) (s : State) := laneAcc s 4 d a b (fun x y z => x * y + z)
def execImadu (d a b : BitVec 7) (s : State) := laneAcc s 4 d a b (fun x y z => x * y + z)
def execImadh (d a b : BitVec 7) (s : State) := laneAcc s 4 d a b (fun x y z => mulHighS x y + z)
def execImadhu (d a b : BitVec 7) (s : State) := laneAcc s 4 d a b (fun x y z => mulHighU x y + z)

/-! ## IWIDE (R140, R151) -/

/-- Pair and pair into a pair. -/
def widePair (s : State) (latency : Nat) (d a b : BitVec 7) (f : BitVec 64 → BitVec 64 → BitVec 64) : Host.Outcome State Fault Refusal :=
  issue s true (fun c =>
    c.uses true [usePair c.g.quota a.toNat, usePair c.g.quota b.toNat, useVs c.g.quota d.toNat 2]
      (c.resultPair (c.base true) latency d.toNat (fun l => f (c.pair a.toNat l) (c.pair b.toNat l))))

/-- Pair and single register into a pair. -/
def wideReg (s : State) (latency : Nat) (d a b : BitVec 7) (f : BitVec 64 → Word → BitVec 64) : Host.Outcome State Fault Refusal :=
  issue s true (fun c =>
    c.uses true [usePair c.g.quota a.toNat, useSrc c.g.quota b.toNat, useVs c.g.quota d.toNat 2]
      (c.src (c.base true) b.toNat (fun s y => c.resultPair s latency d.toNat (fun l => f (c.pair a.toNat l) (y l)))))

/-- A product of two registers into a pair (IMULW): R151 makes A a pair field, and the product takes its low register. -/
def wideMul (s : State) (d a b : BitVec 7) (f : Word → Word → BitVec 64) : Host.Outcome State Fault Refusal :=
  issue s true (fun c =>
    c.uses true [usePair c.g.quota a.toNat, useSrc c.g.quota b.toNat, useVs c.g.quota d.toNat 2]
      (c.src (c.base true) b.toNat (fun s y =>
        c.resultPair s 4 d.toNat (fun l => f ((c.pair a.toNat l).truncate 32) (y l)))))

/-- The scaled address of R140. -/
def leaVal (k : Nat) (a : BitVec 64) (b : Word) : BitVec 64 := a + b.signExtend 64 <<< k

def execIaddx (d a b : BitVec 7) (s : State) := widePair s 2 d a b (· + ·)
def execIsubx (d a b : BitVec 7) (s : State) := widePair s 2 d a b (· - ·)
def execShlx (d a b : BitVec 7) (s : State) := wideReg s 2 d a b (fun x y => x <<< (y.toNat % 64))
def execShrx (d a b : BitVec 7) (s : State) := wideReg s 2 d a b (fun x y => x >>> (y.toNat % 64))
def execShrax (d a b : BitVec 7) (s : State) := wideReg s 2 d a b (fun x y => x.sshiftRight (y.toNat % 64))
def execImulw (d a b : BitVec 7) (s : State) := wideMul s d a b (fun x y => x.signExtend 64 * y.signExtend 64)
def execImulwu (d a b : BitVec 7) (s : State) := wideMul s d a b (fun x y => x.setWidth 64 * y.setWidth 64)
def execLeaS0 (d a b : BitVec 7) (s : State) := wideReg s 2 d a b (leaVal 0)
def execLeaS1 (d a b : BitVec 7) (s : State) := wideReg s 2 d a b (leaVal 1)
def execLeaS2 (d a b : BitVec 7) (s : State) := wideReg s 2 d a b (leaVal 2)
def execLeaS3 (d a b : BitVec 7) (s : State) := wideReg s 2 d a b (leaVal 3)

/-! ## Moves, immediates, selection (R152 to R154) -/

def execMov (d a : BitVec 7) (s : State) := laneUn s 1 d a (fun x => x)
def execMovx (d a : BitVec 7) (s : State) : Host.Outcome State Fault Refusal :=
  issue s true (fun c =>
    c.uses true [usePair c.g.quota a.toNat, useVs c.g.quota d.toNat 2]
      (c.resultPair (c.base true) 1 d.toNat (fun l => c.pair a.toNat l)))
def execPtov (d : BitVec 7) (s : State) : Host.Outcome State Fault Refusal :=
  issue s true (fun c =>
    c.uses true [c.useDst d.toNat]
      (if c.pushStalls d.toNat then .stall
        else c.result (c.base true) 1 d.toNat (BitVec.allOnes 32) (fun l => (c.readPreds l).setWidth 32)))
def execVtop (a : BitVec 7) (s : State) : Host.Outcome State Fault Refusal :=
  issue s true (fun c =>
    c.uses true [useSrc c.g.quota a.toNat]
      (c.src (c.base true) a.toNat (fun s x =>
        .done ((List.range 24).foldl (fun s k => c.write s 1 (Config.predBase + k) 1 (fun l => if (x l).getLsbD k then 1 else 0)) s))))
def execMovi (d : BitVec 7) (i : BitVec 18) (s : State) : Host.Outcome State Fault Refusal :=
  issue s true (fun c =>
    c.imm18 true i (fun v =>
      c.uses true [c.useDst d.toNat] (if c.pushStalls d.toNat then .stall
        else c.result (c.base true) 1 d.toNat (BitVec.allOnes 32) (fun _ => v))))
def execSel (d a b : BitVec 7) (p : BitVec 4) (s : State) : Host.Outcome State Fault Refusal :=
  issue s true (fun c =>
    c.uses true [useSrc c.g.quota a.toNat, useSrc c.g.quota b.toNat, c.useDst d.toNat]
      (if c.pushStalls d.toNat then .stall else
        c.src (c.base true) a.toNat (fun s x => c.src s b.toNat (fun s y =>
          c.result s 1 d.toNat (BitVec.allOnes 32) (fun l => if c.readP l p.toNat then x l else y l)))))

/-! ## Comparisons (R155) -/

def execIcmp (d a b : BitVec 7) (cc : BitVec 4) (s : State) : Host.Outcome State Fault Refusal :=
  issue s true (fun c =>
    let fits := c.uses true [useSrc c.g.quota a.toNat, useSrc c.g.quota b.toNat]
    match c.cl.xmod with
      | none =>
        fits (c.src (c.base true) a.toNat (fun s x => c.src s b.toNat (fun s y =>
          c.resultP s 2 d.toNat (fun l => intCond cc.toNat (x l) (y l)))))
      | some m =>
        if !(intModOk m.a && intModOk m.b && m.dstZero) then c.illegalOperand true
        else fits
          (c.src (c.base true) a.toNat (fun s x => c.src s b.toNat (fun s y =>
            c.resultP s 2 d.toNat (fun l =>
              exactCond cc.toNat (Mod.int m.a (condSigned cc.toNat) (x l)) (Mod.int m.b (condSigned cc.toNat) (y l)))))))

def execIcmpi (d a : BitVec 7) (cc : BitVec 4) (i : BitVec 7) (s : State) : Host.Outcome State Fault Refusal :=
  issue s true (fun c =>
    c.uses true [useSrc c.g.quota a.toNat]
      (c.src (c.base true) a.toNat (fun s x => c.resultP s 2 d.toNat (fun l => intCond cc.toNat (x l) (c.imm7 i)))))

/-! ## Predicate logic (R163) -/

def execPand (d a b : BitVec 7) (s : State) := lanePred s d a b (fun x y => x && y)
def execPor (d a b : BitVec 7) (s : State) := lanePred s d a b (fun x y => x || y)
def execPxor (d a b : BitVec 7) (s : State) := lanePred s d a b xor
def execPandn (d a b : BitVec 7) (s : State) := lanePred s d a b (fun x y => x && !y)
def execPnot (d a : BitVec 7) (s : State) := lanePred s d a a (fun x _ => !x)
def execPmov (d a : BitVec 7) (s : State) := lanePred s d a a (fun x _ => x)
def execPset (d : BitVec 7) (s : State) := lanePred s d 0 0 (fun _ _ => true)
def execPclr (d : BitVec 7) (s : State) := lanePred s d 0 0 (fun _ _ => false)

end Sys2Proof.Machine
end

