-- ==== Sys2Proof/Machine/Power.lean ====
section
/-! DEFINITION. Shares at work, power, shedding and soft errors: writes that perform (R62, R85), refill boundaries, accounts and link
buckets (R290, R366, R367), the fleet block (R365), power states (R369), shedding and throttling (R371), poison, the error log
and injection (R372 to R374), die-link bursts (R379). -/
namespace Sys2Proof.Machine

/-- STORE_PERFORMED: pending writes of a word have reached their home and pend no more; one to another package waits for a path (R85, R352).
The injection of R373 strikes in `Memory.store`, where the write's bytes enter memory. -/
def execStorePerformed (word : Nat) (s : State) : Host.Outcome State Fault Refusal :=
  .next { s with pendingWrites := s.pendingWrites.filter (fun p => !decide (p.word = word) || s.unreachable p.word) }

/-! ## Accounts (R366) -/

/-- A quarter, floored, while the inset is slowed (R371). -/
def gainOf (slowed : Bool) (g : Nat) : Nat := if slowed then g / 4 else g

/-- One refill: the balance, and the gain beyond the cap of 2G. -/
def refillAccount (x : Inset) : Inset × Nat :=
  let g := x.ownE / 16384
  let cap : Int := 2 * (g : Int)
  let gain := gainOf x.slowed g
  let sum := x.balance + (gain : Int)
  ({ x with balance := min cap sum }, min gain (sum - cap).toNat)

/-- What a borrower of a pool takes, by its share among the borrowers'. -/
def lentShare (pool e total : Nat) : Nat := if total = 0 then 0 else pool * e / total

/-- The inset has a grid with an unplaced cluster. -/
def State.unplaced (s : State) (x : Nat) : Bool := s.grids.any (fun d => decide (d.inset = x ∧ d.placed < d.launch.clusters))

def State.refillAccounts (s : State) : State :=
  let refilled := s.insets.map refillAccount
  let pool := (refilled.map (·.2)).foldl (· + ·) 0
  let total := (refilled.filter (fun r => s.unplaced r.1.id)).foldl (fun n r => n + r.1.ownE) 0
  { s with insets := refilled.map (fun (r : Inset × Nat) =>
      if s.unplaced r.1.id then
        { r.1 with balance := min (2 * ((r.1.ownE / 16384 : Nat) : Int)) (r.1.balance + (lentShare pool r.1.ownE total : Int)) }
      else r.1) }

/-! ## Link buckets (R367) -/

def linkGain (x : Inset) : Nat := max 64 (x.ownL / 65536)

/-- Packets of an inset wait at a port. -/
def State.waitsAt (s : State) (core inset : Nat) : Bool := s.torus.any (fun t => decide (t.1 = core ∧ t.2.1 = inset))

/-- One bucket's refill: its level, and the gain beyond its cap. -/
def refillBucket (x : Inset) (level : Int) : Int × Nat :=
  let cap : Int := 2 * (linkGain x : Int)
  let gain := gainOf x.slowed (linkGain x)
  (min cap (level + (gain : Int)), min gain (level + (gain : Int) - cap).toNat)

/-- What the insets at a port lend to those with packets waiting there, and the sum of the waiting ones' shares. -/
def State.linkPool (s : State) (core : Nat) : Nat × Nat :=
  s.insets.foldl (fun n x => match findKey x.buckets core with
    | some b => (n.1 + (refillBucket x b).2, if s.waitsAt core x.id then n.2 + x.ownL else n.2)
    | none => n) (0, 0)

def State.refillBuckets (s : State) : State :=
  { s with insets := s.insets.map (fun (x : Inset) => { x with buckets := x.buckets.map (fun (b : Nat × Int) =>
      let level := (refillBucket x b.2).1
      let pool := s.linkPool b.1
      if s.waitsAt b.1 x.id then (b.1, min (2 * (linkGain x : Int)) (level + (lentShare pool.1 x.ownL pool.2 : Int))) else (b.1, level)) }) }

/-- The bucket of an inset at a port, made with its first traffic. -/
def Inset.bucket (x : Inset) (core : Nat) : Int := (findKey x.buckets core).getD 0

/-- A packet leaves: its bytes are taken from the bucket. -/
def State.spend (s : State) (core inset bytes : Nat) : State :=
  s.updInset inset (fun x => { x with buckets := x.buckets.filter (fun b => decide (b.1 ≠ core)) ++ [(core, x.bucket core - (bytes : Int))] })

def State.mayLeave (s : State) (core inset : Nat) : Bool := (s.inset? inset).any (fun x => decide (0 < x.bucket core))

/-- Waiting packets leave, in order, while their buckets are above 0. -/
def State.drainTorus (s : State) : State :=
  s.torus.foldl (fun s t => if s.mayLeave t.1 t.2.1 && !s.waitsAt t.1 t.2.1 then s.spend t.1 t.2.1 t.2.2 else { s with torus := s.torus ++ [t] })
    { s with torus := [] }

/-- TORUS_PACKET_SEND: behind earlier packets of its inset at the port, the packet leaves where the bucket is above 0, else it waits. -/
def execTorusPacketSend (core : BitVec 8) (inset bytes : Nat) (s : State) : Host.Outcome State Fault Refusal :=
  if (s.inset? inset).isNone then .next s
  else
    let s := s.spend core.toNat inset 0
    if s.mayLeave core.toNat inset && !s.waitsAt core.toNat inset then .next (s.spend core.toNat inset bytes)
    else .next { s with torus := s.torus ++ [(core.toNat, inset, bytes)] }

/-- REFILL_BOUNDARY: residency is charged up to the boundary; then new shares, accounts, buckets, and what waits at the ports. -/
def execRefillBoundary (s : State) : Host.Outcome State Fault Refusal :=
  if s.power.pstate ≠ 0 then .next s
  else
    let at_ := s.refill + 1024
    let t := s.teams.foldl State.chargeTeam { s with cycle := at_ }
    .next ({ t with cycle := max s.cycle at_, refill := at_ }.reshare.refillAccounts.refillBuckets.drainTorus)

/-! ## The fleet block (R365, R373) -/

def State.cap (s : State) : Nat := if s.power.capw = 0 then 1700 else s.power.capw

/-- At or below 95 % of the cap. -/
def State.easy (s : State) (pwr : Nat) : Bool := decide (100 * pwr ≤ 95 * s.cap)

/-- A measurement of PWR: it goes on the time at or below 95 % of the cap, or ends it (R371). -/
def State.measured (s : State) (pwr : Nat) : State :=
  { s with power := { s.power with pwr := pwr, easySince := if s.easy pwr then some (s.power.easySince.getD s.uptime) else none } }

def State.fleetNat (s : State) (o : Nat) : Nat := (s.fleetWord (Config.fleetBase + o)).toNat

/-- The words of one array that an injection may name: bytes of the unit, and how many units. -/
def injectLimits (array : Nat) : Nat × Nat :=
  match array with
  | 0 => (Config.coreBlocks * 1024, 256)
  | 1 => (Config.coreTiles * 4096, 256)
  | 2 => (0x40000, 256)
  | 3 => (Config.vaultSize, 256)
  | 4 => (0xC00000000, 8)
  | 5 => (1, 256)
  | 6 => (1, 256)
  | 7 => (1, 256)
  | 8 => (1, 256)
  | _ => (0, 0)

/-- Arming as the fields of the block ask. -/
def State.applyInjection (s : State) : State :=
  let w := s.fleetNat 0x080
  let addr := s.fleetNat 0x088 + 2 ^ 32 * s.fleetNat 0x08C
  let given := s.fleetNat 0x090 + 2 ^ 32 * s.fleetNat 0x094
  let mask := if given < 2 ^ 39 then given else s.power.injmask
  let s := { s with power := { s.power with injmask := mask } }
  let array := w / 2 ^ 28
  let unit := w / 2 ^ 20 % 2 ^ 8
  if w % 2 = 0 then { s with power := { s.power with injection := none, refused := false }, mem := { s.mem with inject := none } }
  else if s.confidential ∨ (injectLimits array).1 ≤ addr ∨ (injectLimits array).2 ≤ unit then
    { s with power := { s.power with injection := none, refused := true, done := false, armSeen := false }, mem := { s.mem with inject := none, struck := false } }
  else
    let phys := if array = 3 then some (Config.vaultBase + Config.vaultSize * unit + addr / 4 * 4)
      else if array = 4 then some (Config.hbmPlace unit addr) else none
    { s with power := { s.power with injection := some (array, unit, addr, mask), refused := false, done := false, armSeen := false },
             mem := { s.mem with inject := phys.map (fun p => (p, mask)), struck := false } }

/-- An entry of the shedding list as the block holds it, or as it stands where the block's is outside its limits: at reset it is 0. -/
def State.shedEntry (s : State) (i : Nat) : Nat × Nat × Nat :=
  let w := s.fleetNat (0x020 + 4 * i)
  if w / 2 ^ 30 = 3 ∨ w / 2 ^ 12 % 2 ^ 18 ≠ 0 then (s.power.shed.find? (fun e => decide (e.1 = i))).getD (i, 0, 0) else (i, w % 2 ^ 12, w / 2 ^ 30)

/-- FLEET_GEN_SAMPLE: every 100 µs; where GEN has changed every RW field within its limits is applied. -/
def execFleetGenSample (s : State) : Host.Outcome State Fault Refusal :=
  if s.ctl.boot ≠ .run then .next s
  else
    let s := s.waitUntil (s.power.lastSample + 100000)
    let s := { s with power := { s.power with lastSample := s.uptime } }
    if s.fleetNat 0 = s.power.gen then .next s
    else
      let capw := s.fleetNat 8
      let shedn := s.fleetNat 0x14
      .next ({ s with power := { s.power with
        gen := s.fleetNat 0, lattol := s.fleetNat 4, capw := if capw < 2 ^ 16 then capw else s.power.capw,
        shedn := if shedn ≤ 16 then shedn else s.power.shedn, shed := (List.range 16).map s.shedEntry } }.measured s.power.pwr).applyInjection

/-! ## Power states (R369) -/

/-- No team resident, no command or sweep running, no mapped queue with records. -/
def State.idle (s : State) : Bool :=
  !s.teams.any Team.seated && s.commands.all (fun c => s.blocked c || decide (c.state = .done)) &&
  s.surveys.all (fun u => u.running.isNone) && s.slots.all (fun q => decide (q.read = q.write))

/-- Exit latencies in µs. -/
def exitLatency (p : Nat) : Nat := [0, 2, 20, 220].getD p 220

/-- The deepest state within the latency tolerance. -/
def deepest (lattol : Nat) : Nat := if 220 ≤ lattol then 3 else if 20 ≤ lattol then 2 else if 2 ≤ lattol then 1 else 0

/-- POWER_STATE_ENTRY: an idle package goes to the deepest state allowed. -/
def execPowerStateEntry (s : State) : Host.Outcome State Fault Refusal :=
  if s.ctl.boot ≠ .run ∨ !s.idle ∨ s.ctl.busy ∨ s.power.wake ∨ deepest s.power.lattol ≤ s.power.pstate then .next s
  else .next { s with power := { s.power with pstate := deepest s.power.lattol } }

/-- POWER_STATE_EXIT: for a kick, mailbox command, fabric request or a LATTOL that the state does not allow; from states 2 and 3
the units start row by row. -/
def execPowerStateExit (s : State) : Host.Outcome State Fault Refusal :=
  let p := s.power.pstate
  if p = 0 ∨ !(s.power.wake || decide (s.power.lattol < exitLatency p)) then .next s
  else
    let s := s.waitUntil (s.uptime + 1000 * exitLatency p)
    let s := { s with power := { s.power with pstate := 0, wake := false } }
    if p = 1 then .next s else .next { s with power := { s.power with rows := 0, ramp := [], start := s.uptime } }

/-! ## Shedding and throttling (R371) -/

/-- The first entry of the list that is not applied. -/
def State.nextShed (s : State) : Option (Nat × Nat × Nat) :=
  (List.range s.power.shedn).findSome? (fun i =>
    if s.power.actions.any (fun a => decide (a.1 = i)) then none else s.power.shed.find? (fun e => decide (e.1 = i)))

/-- The record of a step. -/
def State.shedRecord (s : State) (undo floor : Bool) (action index : Nat) : State :=
  s.post (deviceRecord 0x36 (natWord ((if undo then 2 ^ 15 else 0) + (if floor then 2 ^ 14 else 0) + s.power.throttle * 2 ^ 11 + action * 2 ^ 8 + index)))

/-- The last step or undoing was at least this long ago; this one is now. -/
def State.actNow (s : State) (after : Nat) : State :=
  let s := s.waitUntil (s.power.lastAct + after)
  { s with power := { s.power with lastAct := s.uptime } }

def State.slow (s : State) (x : Nat) (b : Bool) : State :=
  let inside := (s.subtree x).map (·.id)
  { s with insets := s.insets.map (fun (y : Inset) => if inside.contains y.id then { y with slowed := b } else y) }

/-- The action of a step on a live level-1 inset. -/
def State.applyShed (s : State) (x action : Nat) : State :=
  match action with
  | 0 => s.slow x true
  | 1 => (s.updInset x (fun y => { y with shed := true })).leave (some 18800) 3 (s.runningTeams x)
  | _ => s.revokeInset x

/-- SHED_STEP: the next step of the list; one that names no live level-1 inset is skipped, and counts. -/
def execShedStep (pwr : Nat) (s : State) : Host.Outcome State Fault Refusal :=
  match s.nextShed with
  | none => .next (s.measured pwr)
  | some (i, x, action) =>
    if s.ctl.boot ≠ .run ∨ pwr ≤ s.cap ∨ s.bufferFull then .next (s.measured pwr)
    else
      let live := (s.child? 0 x).isSome
      let s := (s.measured pwr).actNow 1000000
      let s := if live then s.applyShed x action else s
      .next ({ s with power := { s.power with actions := s.power.actions ++ [(i, if live then x else 0, action)] } }.shedRecord false false action i)

/-- PWR has stayed at or below 95 % of the cap for 10 ms; the next 10 ms count from now. -/
def State.easeNow (s : State) : State :=
  let s := s.waitUntil (s.power.easySince.getD s.uptime + 10000000)
  { s with power := { s.power with lastAct := s.uptime, easySince := some s.uptime } }

/-- The most recent step that can be undone. -/
def State.lastUndoable (s : State) : Option (Nat × Nat × Nat) := (s.power.actions.filter (fun a => decide (a.2.2 ≠ 2))).getLast?

/-- The action of a step is undone, unless another step that stands asks for it too. -/
def State.undoShed (s : State) (x action : Nat) : State :=
  if s.power.actions.any (fun a => decide (a.2.1 = x ∧ a.2.2 = action)) then s
  else if action = 0 then s.slow x false else s.updInset x (fun y => { y with shed := false })

/-- SHED_UNDO: after 10 consecutive ms at or below 95 % of the cap, with the throttle at 0. -/
def execShedUndo (pwr : Nat) (s : State) : Host.Outcome State Fault Refusal :=
  match s.lastUndoable with
  | none => .next (s.measured pwr)
  | some a =>
    if s.ctl.boot ≠ .run ∨ !s.easy pwr ∨ s.power.throttle ≠ 0 ∨ s.bufferFull then .next (s.measured pwr)
    else
      let s := (s.measured pwr).easeNow
      let s := { s with power := { s.power with actions := s.power.actions.erase a } }
      .next ((if a.2.1 = 0 then s else s.undoShed a.2.1 a.2.2).shedRecord true false a.2.2 a.1)

def State.setThrottle (s : State) (f : Nat) : State := { s with power := { s.power with throttle := f } }

/-- THROTTLE_STEP: with the list at its end, issue is throttled one level further, to level 7. -/
def execThrottleStep (pwr : Nat) (s : State) : Host.Outcome State Fault Refusal :=
  if s.ctl.boot ≠ .run ∨ pwr ≤ s.cap ∨ s.nextShed.isSome ∨ 7 ≤ s.power.throttle ∨ s.bufferFull then .next (s.measured pwr)
  else .next ((((s.measured pwr).actNow 1000000).setThrottle (s.power.throttle + 1)).shedRecord false false 3 0)

/-- THROTTLE_UNDO: after 10 consecutive ms at or below 95 % of the cap, one level back. -/
def execThrottleUndo (pwr : Nat) (s : State) : Host.Outcome State Fault Refusal :=
  if s.ctl.boot ≠ .run ∨ !s.easy pwr ∨ s.power.throttle = 0 ∨ s.bufferFull then .next (s.measured pwr)
  else .next ((((s.measured pwr).easeNow).setThrottle (s.power.throttle - 1)).shedRecord true false 3 0)

/-- THROTTLE_FLOOR_REPORT: once per second at the floor while the cap is not met. -/
def execThrottleFloorReport (pwr : Nat) (s : State) : Host.Outcome State Fault Refusal :=
  if s.ctl.boot ≠ .run ∨ pwr ≤ s.cap ∨ s.power.throttle ≠ 7 ∨ s.bufferFull then .next (s.measured pwr)
  else
    let s := (s.measured pwr).waitUntil (s.power.lastReport + 1000000000)
    .next ({ s with power := { s.power with lastReport := s.uptime } }.shedRecord false true 3 0)

/-! ## The error log (R373, R374) -/

/-- The group that reads a register or tile of a core as an uncorrectable error is found: one of the inset's that has a clause under way. -/
def State.readingGroup (s : State) (core inset : Nat) : Option Group :=
  s.groups.find? (fun g => g.clause.isSome && g.stop.isNone && decide (s.coreOf g = core ∧ (s.insetOf g).map (·.id) = some inset))

/-- The reading group stops with a poison event before any effect (R177, R372). -/
def State.poisonStop (s : State) (e : SoftError) : State :=
  match s.readingGroup e.unit e.inset with
  | none => s
  | some g => match g.clause with
    | none => s
    | some cl =>
      (s.post (s.recordOf g cl.index { kind := 0x14, info := g.runMask cl.run, addr := e.addr } true)).stopGroup g.gid
        { kind := 0x14, clauseStart := false, slot := none, after := false, run := cl.run, index := cl.index, length := cl.header.len, late := none }

/-- What an uncorrectable error does in its array. -/
def State.poisonAt (s : State) (e : SoftError) : State :=
  match e.array with
  | 0 => s.poisonStop e
  | 1 => s.poisonStop e
  | 2 => s.setMem (s.mem.mark e.addr 4)
  | 3 => s.setMem (s.mem.mark e.addr 4)
  | 4 => s.setMem (s.mem.mark e.addr 64)
  | _ => s

/-- An injection into an array that the model does not write byte by byte has struck; which line of an L1 or flit of a link its address names
the spec leaves open (assumption log 18). -/
def State.injected (s : State) (e : SoftError) : State :=
  match s.power.injection with
  | some (a, u, p, _) =>
    if a = e.array ∧ u = e.unit ∧ ((a < 2 ∧ p = e.addr) ∨ a = 2 ∨ 5 ≤ a) then
      { s with power := { s.power with injection := none, done := true }, mem := { s.mem with inject := none } }
    else s
  | none => s

/-- An error as R374 has it: the unit of a vault or of HBM is that of its address, and a link has no address; none where the address lies
outside the array. -/
def SoftError.placed (e : SoftError) : Option SoftError :=
  match e.array, backing e.addr with
  | 2, .none => none
  | 3, .vault k => some { e with unit := k }
  | 3, _ => none
  | 4, .hbm => some { e with unit := Config.hbmStack e.addr % 8 }
  | 4, _ => none
  | n, _ => if 5 ≤ n then some { e with addr := 0 } else some e

/-- An injection that has struck a word of memory is detected and logged; what it does to the word stands already (R372, R373, assumption
log 18). -/
def State.logStruck (s : State) : State :=
  match s.mem.latent with
  | none => s
  | some (w, mask) =>
    let e : SoftError := { array := if backing w = .hbm then 4 else 3, unit := 0, addr := w, unc := decide (2 ≤ bitCount mask), inset := 0xFFF,
                           syndrome := Config.freeWord 9 s.oracle w }
    let s := s.setMem { s.mem with latent := none }
    (e.placed.map s.logError).getD s

/-- MEMORY_ERROR_DETECTED: logged; uncorrectable, it poisons. -/
def execMemoryErrorDetected (array : BitVec 4) (unit : BitVec 8) (addr : Nat) (unc : Bool) (inset : Nat) (syndrome : BitVec 32) (s : State) :
    Host.Outcome State Fault Refusal :=
  let e : SoftError := { array := array.toNat, unit := unit.toNat, addr := addr, unc := unc, inset := inset, syndrome := syndrome }
  match e.placed with
  | none => .next s
  | some e =>
    if 8 < e.array ∨ s.bufferFull then .next s
    else
      let s := (s.injected e).logError e
      .next (if unc then s.poisonAt e else s)

/-- BURST_TAG_FAILURE: a burst is sent again up to three times; then its line is poisoned and the error logged. -/
def execBurstTagFailure (line tries : Nat) (s : State) : Host.Outcome State Fault Refusal :=
  if !s.confidential ∨ tries < 4 ∨ backing line ≠ .hbm then .next s
  else
    let e : SoftError := { array := 4, unit := Config.hbmStack line % 8, addr := line / 64 * 64, unc := true, inset := 0xFFF,
                           syndrome := Config.freeWord 3 s.oracle line }
    .next ((s.logError e).poisonAt e)

end Sys2Proof.Machine
end

