-- ==== Sys2Proof/Machine/Security.lean ====
section
/-! DEFINITION. The Security Core's services: attestation over SPDM (R383, R384), key slots (R381, R382, R385), sealing (R386, R387), and
migration (R388, R389). -/
namespace Sys2Proof.Machine

/-! ## SPDM (R384; the codes are those of DMTF SPDM 1.2, assumption log 19) -/

def State.updSecurity (s : State) (f : Security → Security) : State := { s with security := f s.security }

/-- A response is sent. -/
def State.respond (s : State) (code status : Nat) (payload : List Byte) : State :=
  s.updSecurity (fun x => { x with responses := x.responses ++ [{ code := code, status := status, payload := payload }] })

/-- ERROR responses: 0x04 unexpected request, 0x01 invalid request, 0x06 decryption error, 0x07 unsupported. -/
def State.spdmError (s : State) (why : Nat) : State := s.respond 0x7F why []

/-- A request reaches the responder while the link is up and the ROM has trained it. -/
def spdm (s : State) (k : State → State) : Host.Outcome State Fault Refusal :=
  if !s.fabric.linkUp ∨ s.ctl.boot = .rom then .next s else .next (k s)

/-- A request that needs a connection state of at least n. -/
def State.connected (s : State) (n : Nat) (k : State → State) : State := if s.security.session < n then s.spdmError 4 else k s
def State.setSession (s : State) (n : Nat) : State := s.updSecurity (fun x => { x with session := n })

/-- The top-level leaf of the present (R383). -/
def State.topLeaf (s : State) : Nat := s.time / 16000000000 % 2 ^ 25

/-- A signed response takes a leaf of the bottom tree in use, or of a new one; it waits where the tree is spent and the top-level leaf is
not fresh (R383). -/
def State.sign (s : State) (r : Response) : State :=
  let x := s.security
  if x.tree.isSome ∧ x.leaves < 32768 then (s.updSecurity (fun x => { x with leaves := x.leaves + 1 })).respond r.code r.status r.payload
  else if x.tree ≠ some s.topLeaf then
    (s.updSecurity (fun x => { x with tree := some s.topLeaf, leaves := 1 })).respond r.code r.status r.payload
  else s.updSecurity (fun x => { x with awaiting := x.awaiting ++ [r] })

def execGetVersion (s : State) : Host.Outcome State Fault Refusal := spdm s (fun s => (s.setSession 1).respond 0x04 0x12 [])
def execGetCapabilities (s : State) : Host.Outcome State Fault Refusal :=
  spdm s (fun s => if s.security.session = 1 then (s.setSession 2).respond 0x61 0 [] else s.spdmError 4)
def execNegotiateAlgorithms (supported : Bool) (s : State) : Host.Outcome State Fault Refusal :=
  spdm s (fun s => if s.security.session ≠ 2 then s.spdmError 4 else if supported then (s.setSession 3).respond 0x63 0 [] else s.spdmError 7)
def execGetDigests (s : State) : Host.Outcome State Fault Refusal := spdm s (fun s => s.connected 3 (fun s => s.respond 0x01 1 []))

/-- Certificate slot 0 only. -/
def State.slotZero (s : State) (slot : Nat) (k : State → State) : State := if slot ≠ 0 then s.spdmError 1 else k s

def execGetCertificate (slot : Nat) (s : State) : Host.Outcome State Fault Refusal :=
  spdm s (fun s => s.connected 3 (fun s => s.slotZero slot (fun s => s.respond 0x02 0 [])))
def execChallenge (slot : Nat) (nonce : BitVec 256) (s : State) : Host.Outcome State Fault Refusal :=
  spdm s (fun s => s.connected 3 (fun s => s.slotZero slot (fun s => s.sign { code := 0x03, status := 0, payload := natBytes 32 nonce.toNat })))

/-- A measurement block. -/
def State.measurement (s : State) (i : Nat) : List Byte :=
  match i with
  | 1 => (List.range 48).map Config.romDigest
  | 2 => (List.range 48).map (Config.digest s.security.payload)
  | 3 => natBytes 4 s.security.version ++ natBytes 4 s.ctl.straps.toNat
  | 4 => [if s.confidential then 1 else 0]
  | _ => []

/-- GET_MEASUREMENTS: index 0 counts the blocks, 0xFF takes all. -/
def execGetMeasurements (index : Nat) (nonce : BitVec 256) (s : State) : Host.Outcome State Fault Refusal :=
  spdm s (fun s => s.connected 3 (fun s =>
    if 4 < index ∧ index ≠ 0xFF then s.spdmError 1
    else
      let blocks := if index = 0xFF then [1, 2, 3, 4] else [index]
      s.sign { code := 0x60, status := if index = 0 then 4 else blocks.length, payload := blocks.flatMap s.measurement ++ natBytes 32 nonce.toNat }))

def execKeyExchange (slot : Nat) (s : State) : Host.Outcome State Fault Refusal :=
  spdm s (fun s => if s.security.session ≠ 3 then s.spdmError 4 else s.slotZero slot (fun s => (s.setSession 4).sign { code := 0x64, status := 0, payload := [] }))
def execFinish (verified : Bool) (s : State) : Host.Outcome State Fault Refusal :=
  spdm s (fun s => if s.security.session ≠ 4 then s.spdmError 4 else if verified then (s.setSession 5).respond 0x65 0 [] else (s.setSession 3).spdmError 6)
def execEndSession (s : State) : Host.Outcome State Fault Refusal :=
  spdm s (fun s => if s.security.session ≠ 5 then s.spdmError 4 else (s.setSession 3).respond 0x6C 0 [])

/-- FRESH_TOP_LEVEL_LEAF: time rises to a fresh leaf, and the responses that wait for one are signed under a new tree. -/
def execFreshTopLevelLeaf (s : State) : Host.Outcome State Fault Refusal :=
  if s.security.awaiting.isEmpty then .next s
  else
    let s := if s.security.tree = some s.topLeaf then s.waitUntil (s.uptime + (s.time / 16000000000 + 1) * 16000000000 - s.time) else s
    .next (s.updSecurity (fun x =>
      { x with tree := some s.topLeaf, leaves := min 32768 x.awaiting.length, responses := x.responses ++ x.awaiting.take 32768, awaiting := x.awaiting.drop 32768 }))

/-! ## Vendor requests (R385) -/

/-- A vendor request outside a secured session is an SPDM error. -/
def vendor (s : State) (k : State → State) : Host.Outcome State Fault Refusal :=
  spdm s (fun s => if s.security.session ≠ 5 then s.spdmError 4 else k s)

/-- Its response, with a status code of R317. -/
def State.answers (s : State) (code : Nat) (payload : List Byte) : State := s.respond 0x7E code payload

/-! ## Key slots (R381, R382) -/

def State.setKey (s : State) (n : Nat) (k : KeySlot) : State :=
  s.updSecurity (fun x => { x with keys := Sparse.set KeySlot.empty x.keys n k })

def execKeyload (slot : Nat) (key : BitVec 512) (s : State) : Host.Outcome State Fault Refusal :=
  vendor s (fun s =>
    if slot = 0 ∨ 64 ≤ slot then s.answers codeLimit []
    else if s.keySlot slot ≠ .empty then s.answers codeState []
    else (s.setKey slot (.loaded key)).answers 0 [])

/-- A live root-stage range names the slot. -/
def State.keyNamed (s : State) (slot : Nat) : Bool := s.insets.any (fun x => x.ranges.any (fun r => decide (r.key = slot)))

def execKeykill (slot : Nat) (s : State) : Host.Outcome State Fault Refusal :=
  vendor s (fun s =>
    if slot = 0 ∨ 64 ≤ slot then s.answers codeLimit []
    else if !(s.keySlot slot).isLoaded || s.keyNamed slot then s.answers codeState []
    else s.setKey slot (.killing 0 true))

/-- KEYSTAT: the state (0 EMPTY, 1 LOADED, 2 KILLING) and the dies that have not confirmed. -/
def execKeystat (slot : Nat) (s : State) : Host.Outcome State Fault Refusal :=
  vendor s (fun s =>
    if slot = 0 ∨ 64 ≤ slot then s.answers codeLimit []
    else match s.keySlot slot with
      | .empty => s.answers 0 [0, 0]
      | .loaded _ => s.answers 0 [1, 0]
      | .killing done _ => s.answers 0 [2, ~~~done])

/-- KILL_CONFIRM: with the eighth die the slot is empty, and the KEYKILL is answered. -/
def execKillConfirm (slot die : Nat) (s : State) : Host.Outcome State Fault Refusal :=
  match s.keySlot slot with
  | .killing done answer =>
    if 8 ≤ die then .next s
    else
      let done := done ||| (BitVec.ofNat 8 1 <<< die)
      if done ≠ BitVec.allOnes 8 then .next (s.setKey slot (.killing done answer))
      else .next (let t := s.setKey slot .empty; if answer then t.answers 0 [] else t)
  | _ => .next s

/-- Key slots that nothing names any more are killed. -/
def State.killKeys (s : State) (ks : List Nat) : State :=
  ks.foldl (fun s k => if k ≠ 0 ∧ (s.keySlot k).isLoaded ∧ !s.keyNamed k then s.setKey k (.killing 0 false) else s) s

/-- The key slots of an inset's ranges. -/
def Inset.keySlots (x : Inset) : List Nat := ((x.ranges.map (·.key)).filter (fun k => decide (k ≠ 0))).eraseDups

def State.emptySlots (s : State) : List Nat := (List.range 64).filter (fun k => decide (0 < k ∧ s.keySlot k = .empty))

/-! ## SEAL (R386, R387) -/

/-- The freeze of SEAL and MIGOUT, as CTXCKPT's. -/
def State.freezeFor (s : State) (x : Inset) (bound : Nat) : State := if x.frozen then s else s.freezeInset x.id (some (bound % 2 ^ 32)) 1

/-- Vault ranges of an inset, as pieces. -/
def vaultPieces (x : Inset) : List (Nat × Nat) :=
  (x.ranges.flatMap (fun r => rangePieces x r.base r.length)).filter (fun p => match backing p.1 with
    | .vault _ => true
    | _ => false)

/-- Memory inside pieces. -/
def Memory.within (m : Memory) (ps : List (Nat × Nat)) : Memory :=
  let inside (a : Nat) : Bool := ps.any (fun p => decide (p.1 ≤ a ∧ a < p.1 + p.2))
  { m with cells := m.cells.filter (fun c => inside c.1), empties := m.empties.filter inside, poison := m.poison.filter (fun p => inside p.1),
           veils := [], inject := none, struck := false, latent := none }

/-- That memory put back over pieces that are zero and full. -/
def Memory.putBack (m v : Memory) (ps : List (Nat × Nat)) : Memory :=
  let m := ps.foldl (fun m p => m.zeroFill p.1 p.2) m
  let m := v.cells.foldl (fun m c => m.setByte c.1 c.2) m
  let m := v.empties.foldl (fun m a => m.setTag a false) m
  { m with poison := v.poison.foldl (fun ps p => insertMark p ps) m.poison }

/-- The images of the saved teams of a subtree in plain form, or none where one cannot be read or fails its check. -/
def State.plainImages (s : State) (x : Nat) : Option (List (Nat × List Byte)) :=
  (s.savedTeams x).mapM (fun t =>
    match s.inset? (s.teamInset t), s.teamGrid t with
    | some y, some d => match s.readImage y t d.launch with
      | .ok bs => some (t.tid, bs.take (blockDword bs 0))
      | _ => none
    | _, _ => none)

/-- The size of a sealed image: header, creation block, ranges, checkpoint, vault bytes, pending breakpoints, keys. -/
def State.sealSize (s : State) (x : Inset) : Nat :=
  64 + 128 + 32 * x.ranges.length + (s.savedTeams x.id).foldl (fun n t => n + 64 + t.imageSize) (64 + 128 * (s.subtree x.id).length) +
  (vaultPieces x).foldl (fun n p => n + p.2) 0 + 16 * x.pendingBreaks.length + 64 * x.keySlots.length

/-- What the image holds. -/
def State.sealedOf (s : State) (x : Inset) (size : Nat) (images : List (Nat × List Byte)) : Sealed :=
  let xs := s.preorder 5 x
  let ids := xs.map (·.id)
  let gs := s.grids.filter (fun d => ids.contains d.inset)
  let cs := s.clusters.filter (fun c => gs.any (fun d => decide (d.handle = c.grid)))
  let ts := s.teams.filter (fun t => cs.any (fun c => decide (c.cid = t.cluster)))
  let hs := s.groups.filter (fun g => ts.any (fun t => decide (t.tid = g.team)))
  let mine (gid : Nat) : Bool := ts.any (fun t => decide (t.tid < gid ∧ gid ≤ t.tid + 32))
  { nonce := s.security.nextNonce, size := size, insets := xs, grids := gs, clusters := cs, teams := ts, groups := hs,
    ops := s.ops.filter (fun o => mine o.gid), outstanding := s.outstanding.filter (fun o => ids.contains o.inset || o.record.gid.any mine),
    images := images, vaults := s.mem.within (vaultPieces x),
    keys := x.keySlots.filterMap (fun k => match s.keySlot k with
      | .loaded v => some (k, v)
      | _ => none) }

/-- The bytes of a sealed image in host memory: ciphertext of its nonce. -/
def sealedBytes (d : Sealed) : List Byte := (List.range d.size).map (Config.freeByte 1 d.nonce)

/-- A SEAL that ends: the list of breakpoints closes; where the inset stays, they are posted. -/
def State.endSeal (s : State) (x : Inset) (code : Nat) : State :=
  ((s.updInset x.id (fun y => { y with sealing := false })).postBreaks x).answers code []

/-- The last steps of a SEAL whose freeze has ended. -/
def State.finishSeal (s : State) (x : Inset) (addr room : Nat) : State :=
  let size := s.sealSize x
  if ((s.commandsOf x.id).filter s.blocked).length ≠ 0 then s.endSeal x codeBlocked
  else if room < size ∨ 256 ≤ s.security.sealed.length then s.endSeal x codeNoSpace
  else match s.plainImages x.id with
    | none => s.endSeal x codeMismatch
    | some images =>
      if Config.spaceEnd < Config.hostBase + addr + size then s.endSeal x codeFault
      else
        let d := s.sealedOf x size images
        let s := (s.hostWrite addr (sealedBytes d)).updSecurity (fun y => { y with sealed := y.sealed ++ [d], nextNonce := y.nextNonce + 1 })
        ((s.revokeInset x.id).killKeys x.keySlots).answers 0 []

/-- SEAL: begins, and once begun ends with its freeze. -/
def execSealInset (inset addr size bound : Nat) (s : State) : Host.Outcome State Fault Refusal :=
  match s.child? 0 inset with
  | none => vendor s (fun s => s.answers codeNoChild [])
  | some x =>
    if x.sealing then (if s.freezeDone x.id && !s.bufferFull && s.fabric.linkUp then .next (s.finishSeal x addr size) else .next s)
    else vendor s (fun s =>
      if !s.confidential then s.answers codeState []
      else if 256 ≤ s.security.sealed.length then s.answers codeNoSpace []
      else (s.updInset x.id (fun y => { y with sealing := true })).freezeFor x bound)

/-! ## UNSEAL (R386) -/

def State.freeIds (s : State) : List Nat := (List.range 0xFFF).filter (fun i => decide (0 < i) && (s.inset? i).isNone)

/-- New names for what an image holds: identifiers by position, key slots by position, handles where theirs are taken. -/
structure Renaming where
  ids : List (Nat × Nat)
  slots : List (Nat × Nat)
  handles : List (Nat × Nat)
deriving DecidableEq, Repr

def Renaming.id (r : Renaming) (i : Nat) : Nat := (findKey r.ids i).getD i
def Renaming.slot (r : Renaming) (k : Nat) : Nat := (findKey r.slots k).getD k
def Renaming.handle (r : Renaming) (h : Nat) : Nat := (findKey r.handles h).getD h

/-- Handles for the grids of an image, each its own where it is free. -/
def State.newHandles (s : State) : List Grid → List (Nat × Nat)
  | [] => []
  | d :: rest =>
    if (s.grid? d.handle).isNone then (d.handle, d.handle) :: { s with grids := d :: s.grids }.newHandles rest
    else
      let h := s.nextHandle
      (d.handle, h) :: { s with grids := { d with handle := h } :: s.grids, handles := h }.newHandles rest

/-- The ranges of an inset at new HBM bases; the others stay. -/
def rebase (r : Renaming) : List Nat → List RootRange → List RootRange
  | _, [] => []
  | bs, q :: rest =>
    match backing q.base, bs with
    | .hbm, b :: bs => { q with base := b, key := r.slot q.key } :: rebase r bs rest
    | _, _ => { q with key := r.slot q.key } :: rebase r bs rest

def hbmRanges (x : Inset) : List RootRange := x.ranges.filter (fun q => decide (backing q.base = .hbm))

def Renaming.record (r : Renaming) (x : Record) : Record :=
  { x with src := r.id x.src, route := r.id x.route, grid := r.handle x.grid, dest := x.dest.map r.id, seq := x.seq.map (fun q => (r.id q.1, q.2)) }

/-- An inset of the image under its new names. -/
def Renaming.inset (r : Renaming) (share : Nat) (bases : List Nat) (x : Inset) : Inset :=
  { x with id := r.id x.id, parent := if x.level = 1 then 0 else r.id x.parent, share := if x.level = 1 then share else x.share,
           frozen := x.frozen || decide (x.level = 1), shed := false, ganged := false, revoking := false, sealing := false,
           ranges := rebase r bases x.ranges, pendingBreaks := x.pendingBreaks.map r.record, e := 0, l := 0, ownE := 0, ownL := 0, balance := 0,
           slowed := false, buckets := [], tablePages := [] }

/-- The subtree of an image stands again, under its new names; its tables are those found in memory. -/
def State.standAgain (s : State) (d : Sealed) (r : Renaming) (share : Nat) (bases : List Nat) : State :=
  let xs := d.insets.map (r.inset share bases)
  let s := { s with
    insets := s.insets ++ xs, grids := s.grids ++ d.grids.map (fun (g : Grid) =>
      { g with handle := r.handle g.handle, inset := r.id g.inset, queue := g.queue.map (fun q => (r.id q.1, q.2)) }),
    clusters := s.clusters ++ d.clusters.map (fun (c : Cluster) => { c with grid := r.handle c.grid }),
    teams := s.teams ++ d.teams.map (fun (t : Team) => { t with imageFault := none, refused := false }),
    groups := s.groups ++ d.groups, ops := s.ops ++ d.ops,
    outstanding := s.outstanding ++ d.outstanding.map (fun (o : Outstanding) => { o with inset := r.id o.inset, record := r.record o.record }),
    mem := s.mem.putBack d.vaults (xs.flatMap vaultPieces) }
  let s := (xs.filter (fun x => decide (x.level = 1))).foldl (fun s x => s.veilRanges x x.ranges) s
  xs.foldl (fun s x => s.updInset x.id (fun y => { y with tablePages := (s.reachable y.parent 3 y.tbase).eraseDups })) s

/-- The images of an unsealed subtree are written to their save areas again, under the new save key; none where one faults. -/
def State.rewriteImages (s : State) (r : Renaming) : List (Nat × List Byte) → Option State
  | [] => some s
  | (tid, bs) :: rest =>
    match s.team? tid with
    | none => s.rewriteImages r rest
    | some t =>
      match s.inset? (s.teamInset t) with
      | none => s.rewriteImages r rest
      | some y =>
        let bs := bs.take 12 ++ natBytes 4 (((s.teamGrid t).map (·.handle)).getD 0) ++ bs.drop 16
        let n := y.saveCounter + 1
        let bytes := if s.protected y then bs ++ trailer y.id n bs else bs
        match (s.veilImage y t.image bs.length).writeSpace y.parent (y.saveBase + t.image) bytes with
        | (_, some _) => none
        | (s, none) => ((s.updInset y.id (fun y => { y with saveCounter := n })).updTeam tid (fun t =>
            { t with imageCounter := n, imageSize := bytes.length })).rewriteImages r rest

/-- A base that ROOTMAP would take for HBM. -/
def hbmBase (b n : Nat) : Bool := decide (b % 0x10000 = 0 ∧ b + n ≤ Config.fleetBase)

/-- The status of an UNSEAL whose image has passed its check. -/
def State.unsealCode (s : State) (d : Sealed) (x : Inset) (bases : List Nat) : Nat :=
  let cores := d.insets.foldl (fun m (y : Inset) => m ||| y.cores) (0 : BitVec 256)
  lowestCode [
    if bases.length = (hbmRanges x).length ∧ (bases.zip (hbmRanges x)).all (fun q => hbmBase q.1 q.2.length) ∧ cores &&& ~~~s.ownCores 0 = 0 ∧
      x.qslots ≤ s.ownSlots 0 then 0 else codeLimit,
    if d.keys.length ≤ s.emptySlots.length ∧ d.insets.length ≤ s.freeIds.length ∧ (s.freeShare 0).isSome ∧ 1 + x.iquota ≤ s.ownQuota 0 then 0 else codeNoSpace]

/-- UNSEAL: the sealed image is read back, once; its inset stands again, frozen. -/
def execUnsealInset (addr : Nat) (bases : List Nat) (s : State) : Host.Outcome State Fault Refusal :=
  vendor s (fun s =>
    match s.security.sealed.find? (fun d => decide (s.hostRead addr d.size = sealedBytes d)) with
    | none => s.answers codeMismatch []
    | some d =>
      match d.insets with
      | [] => s.answers codeMismatch []
      | x :: _ =>
        let code := s.unsealCode d x bases
        if code ≠ 0 then s.answers code []
        else
          let r : Renaming := { ids := (d.insets.map (·.id)).zip s.freeIds, slots := (d.keys.map (·.1)).zip s.emptySlots, handles := s.newHandles d.grids }
          let t := d.keys.foldl (fun t k => t.setKey (r.slot k.1) (.loaded k.2)) s
          match (t.standAgain d r ((s.freeShare 0).getD 0) bases).rewriteImages r d.images with
          | none => s.answers codeFault []
          | some t => (t.updSecurity (fun y => { y with sealed := y.sealed.erase d })).answers 0 (natBytes 4 (r.id x.id)))

/-! ## Migration (R388, R389) -/

def State.migration? (s : State) (x : Nat) : Option Migration := s.security.migrations.find? (fun m => decide (m.inset = x))
def State.setMigration (s : State) (m : Migration) : State :=
  s.updSecurity (fun y => { y with migrations := y.migrations.filter (fun n => decide (n.inset ≠ m.inset)) ++ [m] })
def State.dropMigration (s : State) (x : Nat) : State := s.updSecurity (fun y => { y with migrations := y.migrations.filter (fun n => decide (n.inset ≠ x)) })

/-- Protocol messages: 0 VERIFIED, 1 ERASED, 2 ACTIVE, 3 ABORTED, 4 a request for ERASED. -/
def State.message (s : State) (kind x : Nat) : State := s.updSecurity (fun y => { y with messages := y.messages ++ [(kind, x)] })

/-- A MIGOUT in progress: its record holds no state code yet. -/
def Migration.starting (m : Migration) : Bool := m.source && decide (m.code = 0)

/-- MIGOUT: freezes the inset; once the freeze has ended the export image stands and the state is EXPORTED. -/
def execMigout (inset bound : Nat) (s : State) : Host.Outcome State Fault Refusal :=
  match s.child? 0 inset, s.migration? inset with
  | none, _ => vendor s (fun s => s.answers codeNoChild [])
  | some x, m =>
    if m.any Migration.starting then
      (if !s.freezeDone x.id then .next s
       else if ((s.commandsOf x.id).filter s.blocked).length ≠ 0 then .next ((s.dropMigration inset).answers codeBlocked [])
       else .next ((s.setMigration { inset := inset, source := true, code := 1, since := s.uptime, asked := s.uptime }).answers 0 []))
    else vendor s (fun s =>
      if !s.confidential ∨ x.sealing ∨ m.any (fun m => decide (m.code ≠ 4 ∧ m.code ≠ 6)) then s.answers codeState []
      else (s.setMigration { inset := inset, source := true, code := 0, since := s.uptime, asked := s.uptime }).freezeFor x bound)

/-- The ranges of an import: the export image gives their lengths, and one key each. -/
def State.importRanges (s : State) (bases : List Nat) : List RootRange :=
  (bases.zip s.emptySlots).mapIdx (fun i q =>
    { base := q.1, length := 0x10000 * (1 + (Config.freeWord 4 s.oracle i).toNat), key := q.2, perms := BitVec.ofNat 3 ((Config.freeWord 5 s.oracle i).toNat),
      tweak := (Config.freeWord 6 s.oracle i).toNat })

/-- MIGIN: the image of another package is checked against the raw copies; the inset stands, frozen, and VERIFIED is sent. -/
def execMigin (addr block : Nat) (bases : List Nat) (s : State) : Host.Outcome State Fault Refusal :=
  vendor s (fun s =>
    if !s.confidential then s.answers codeState []
    else if block % 128 ≠ 0 then s.answers codeLimit []
    else if Config.spaceEnd < Config.hostBase + block + 128 ∨ Config.spaceEnd ≤ Config.hostBase + addr then s.answers codeFault []
    else
      let b := Block.ofBytes (s.hostRead block 128)
      let rs := s.importRanges bases
      let code := lowestCode [s.creationCode 0 b, if rs.all (fun r => hbmBase r.base r.length) then 0 else codeLimit,
        if bases.length ≤ s.emptySlots.length then 0 else codeNoSpace, if Config.freeBit s.oracle 75 addr then 0 else codeMismatch]
      if code ≠ 0 then s.answers code []
      else
        let r := s.createInset 0 b
        let t := rs.foldl (fun t q => t.setKey q.key (.loaded (BitVec.ofNat 512 (bytesNat ((List.range 64).map (fun i => Config.freeByte 3 (s.oracle + q.key) i)))))) r.1
        let t := (t.updInset r.2.id (fun y => { y with frozen := true, ranges := rs })).veilRanges r.2 rs
        ((t.setMigration { inset := r.2.id, source := false, code := 2, since := s.uptime, asked := s.uptime }).message 0 r.2.id).answers 0 (natBytes 4 r.2.id))

/-- A protocol message that verifies, for a migration this Security Core knows. -/
def State.onMessage (s : State) (inset : Nat) (valid : Bool) (k : Migration → State) : Host.Outcome State Fault Refusal :=
  if s.security.session ≠ 5 then spdm s (fun s => s.spdmError 4)
  else match (if valid && s.fabric.linkUp then s.migration? inset else none) with
    | none => .next s
    | some m => .next ((k m).answers 0 [])

/-- VERIFIED: the source erases, and says so; after an abort it says ABORTED again. -/
def execVerified (inset : Nat) (valid : Bool) (s : State) : Host.Outcome State Fault Refusal :=
  s.onMessage inset valid (fun m =>
    if m.source && decide (m.code = 1) then
      let ks := ((s.inset? inset).map Inset.keySlots).getD []
      ((((s.revokeInset inset).killKeys ks).setMigration { m with code := 3, since := s.uptime, asked := s.uptime })).message 1 inset
    else if m.source && decide (m.code = 6) then s.message 3 inset
    else s)

/-- The import runs, and its source hears of it. -/
def State.activate (s : State) (m : Migration) : State := ((s.thawInset m.inset).setMigration { m with code := 4 }).message 2 m.inset

/-- ERASED: the destination thaws the inset and sends ACTIVE; a repeated ERASED is answered again. -/
def execErased (inset : Nat) (valid : Bool) (s : State) : Host.Outcome State Fault Refusal :=
  s.onMessage inset valid (fun m =>
    if m.source then s
    else if m.code = 2 ∨ m.code = 7 then s.activate m
    else if m.code = 4 then s.message 2 inset
    else s)

def execActive (inset : Nat) (valid : Bool) (s : State) : Host.Outcome State Fault Refusal :=
  s.onMessage inset valid (fun m => if m.source && decide (m.code = 3) then s.setMigration { m with code := 5 } else s)

def execAborted (inset : Nat) (valid : Bool) (s : State) : Host.Outcome State Fault Refusal :=
  s.onMessage inset valid (fun m => if !m.source && decide (m.code = 2 ∨ m.code = 7) then s.setMigration { m with code := 6 } else s)

/-- MIGABORT: before step 3 the source thaws and says ABORTED; a destination discards its import only after ABORTED. -/
def execMigabort (inset : Nat) (s : State) : Host.Outcome State Fault Refusal :=
  vendor s (fun s =>
    match s.migration? inset with
    | none => s.answers (if (s.child? 0 inset).isSome then codeState else codeNoChild) []
    | some m =>
      if m.source && decide (m.code ≤ 1) then
        (((s.thawInset inset).setMigration { m with code := 6 }).message 3 inset).answers 0 []
      else if !m.source && decide (m.code = 6) && (s.child? 0 inset).isSome then
        let ks := ((s.inset? inset).map Inset.keySlots).getD []
        (((s.revokeInset inset).killKeys ks).dropMigration inset).answers 0 []
      else s.answers codeState [])

/-- MIGSTAT: the state code as the result. -/
def execMigstat (inset : Nat) (s : State) : Host.Outcome State Fault Refusal :=
  vendor s (fun s => s.answers 0 (natBytes 3 (((s.migration? inset).map (·.code)).getD 0)))

/-- ERASED_REQUEST: each second of the hold the destination asks again. -/
def execErasedRequest (inset : Nat) (s : State) : Host.Outcome State Fault Refusal :=
  match s.migration? inset with
  | none => .next s
  | some m =>
    if m.source ∨ m.code ≠ 2 ∨ m.since + 60000000000 < m.asked + 1000000000 then .next s
    else
      let s := s.waitUntil (m.asked + 1000000000)
      .next ((s.setMigration { m with asked := s.uptime }).message 4 inset)

/-- ERASED_RESEND: the source sends ERASED again until ACTIVE arrives. -/
def execErasedResend (inset : Nat) (s : State) : Host.Outcome State Fault Refusal :=
  match s.migration? inset with
  | none => .next s
  | some m => if m.source && decide (m.code = 3) then .next ((s.setMigration { m with asked := s.uptime }).message 1 inset) else .next s

/-- HOLDEXPIRED: 60 s without ERASED; the import stays frozen. -/
def execHoldexpired (inset : Nat) (s : State) : Host.Outcome State Fault Refusal :=
  match s.migration? inset with
  | none => .next s
  | some m => if m.source ∨ m.code ≠ 2 then .next s else .next ((s.waitUntil (m.since + 60000000000)).setMigration { m with code := 7 })

end Sys2Proof.Machine
end

