-- ==== Sys2Proof/Machine/Dispatch.lean ====
section
/-! DEFINITION. One arm for each instruction: the call of its meaning. -/
namespace Sys2Proof.Machine

def exec (i : Instr) (s : State) : Host.Outcome State Fault Refusal :=
  match i with
  | .clauseStart gid => Sys2Proof.Machine.execClauseStart gid s
  | .longOpComplete op => Sys2Proof.Machine.execLongOpComplete op s
  | .rejoinDeadlock gid => Sys2Proof.Machine.execRejoinDeadlock gid s
  | .neighbourParityError gid dir => Sys2Proof.Machine.execNeighbourParityError gid dir s
  | .clusterPlacement => Sys2Proof.Machine.execClusterPlacement s
  | .gridComplete handle => Sys2Proof.Machine.execGridComplete handle s
  | .taggedAccessArrival op => Sys2Proof.Machine.execTaggedAccessArrival op s
  | .storePerformed word => Sys2Proof.Machine.execStorePerformed word s
  | .flushMarkerGathered op pkg => Sys2Proof.Machine.execFlushMarkerGathered op pkg s
  | .engineCommandAccept cmd => Sys2Proof.Machine.execEngineCommandAccept cmd s
  | .engineCommandStart cmd => Sys2Proof.Machine.execEngineCommandStart cmd s
  | .engineAccess cmd => Sys2Proof.Machine.execEngineAccess cmd s
  | .engineCommandComplete cmd => Sys2Proof.Machine.execEngineCommandComplete cmd s
  | .chainEntryStart cmd => Sys2Proof.Machine.execChainEntryStart cmd s
  | .collectiveMatch cmd => Sys2Proof.Machine.execCollectiveMatch cmd s
  | .sweepStart unit => Sys2Proof.Machine.execSweepStart unit s
  | .pageCommit unit => Sys2Proof.Machine.execPageCommit unit s
  | .holeCommit unit => Sys2Proof.Machine.execHoleCommit unit s
  | .pageArrival unit core => Sys2Proof.Machine.execPageArrival unit core s
  | .qsvNoticePush notice => Sys2Proof.Machine.execQsvNoticePush notice s
  | .pageFetchFault unit => Sys2Proof.Machine.execPageFetchFault unit s
  | .partialMerge unit sub => Sys2Proof.Machine.execPartialMerge unit sub s
  | .tolUnitTake team => Sys2Proof.Machine.execTolUnitTake team s
  | .doorbellKick index value => Sys2Proof.Machine.execDoorbellKick index value s
  | .doorbellIgnoredWrite index offset width => Sys2Proof.Machine.execDoorbellIgnoredWrite index offset width s
  | .queueRecordStart slot => Sys2Proof.Machine.execQueueRecordStart slot s
  | .queueMap die => Sys2Proof.Machine.execQueueMap die s
  | .queueAgeingTick => Sys2Proof.Machine.execQueueAgeingTick s
  | .refillBoundary => Sys2Proof.Machine.execRefillBoundary s
  | .torusPacketSend core inset bytes => Sys2Proof.Machine.execTorusPacketSend core inset bytes s
  | .drainLatencyExpiry team => Sys2Proof.Machine.execDrainLatencyExpiry team s
  | .teamSave team => Sys2Proof.Machine.execTeamSave team s
  | .teamRestore team => Sys2Proof.Machine.execTeamRestore team s
  | .recordDelivery => Sys2Proof.Machine.execRecordDelivery s
  | .hostEventRingWrite => Sys2Proof.Machine.execHostEventRingWrite s
  | .evreadWrite value => Sys2Proof.Machine.execEvreadWrite value s
  | .eventRingConfigWrite log value => Sys2Proof.Machine.execEventRingConfigWrite log value s
  | .controlRegisterWrite offset value => Sys2Proof.Machine.execControlRegisterWrite offset value s
  | .mailboxOverrun => Sys2Proof.Machine.execMailboxOverrun s
  | .mailboxUnknownCommand => Sys2Proof.Machine.execMailboxUnknownCommand s
  | .mailboxComplete => Sys2Proof.Machine.execMailboxComplete s
  | .insetnew => Sys2Proof.Machine.execInsetnew s
  | .insetgrant => Sys2Proof.Machine.execInsetgrant s
  | .freeze => Sys2Proof.Machine.execFreeze s
  | .thaw => Sys2Proof.Machine.execThaw s
  | .ckpt => Sys2Proof.Machine.execCkpt s
  | .rest => Sys2Proof.Machine.execRest s
  | .revoke => Sys2Proof.Machine.execRevoke s
  | .stat => Sys2Proof.Machine.execStat s
  | .map => Sys2Proof.Machine.execMap s
  | .unmap => Sys2Proof.Machine.execUnmap s
  | .inval => Sys2Proof.Machine.execInval s
  | .rootmap => Sys2Proof.Machine.execRootmap s
  | .rootunmap => Sys2Proof.Machine.execRootunmap s
  | .dbset => Sys2Proof.Machine.execDbset s
  | .dbclr => Sys2Proof.Machine.execDbclr s
  | .rgtset => Sys2Proof.Machine.execRgtset s
  | .rgtwithdraw => Sys2Proof.Machine.execRgtwithdraw s
  | .gangset => Sys2Proof.Machine.execGangset s
  | .hotread => Sys2Proof.Machine.execHotread s
  | .timeset => Sys2Proof.Machine.execTimeset s
  | .loadfw => Sys2Proof.Machine.execLoadfw s
  | .hostMemoryAccess write offset bytes => Sys2Proof.Machine.execHostMemoryAccess write offset bytes s
  | .flitCrcFailure => Sys2Proof.Machine.execFlitCrcFailure s
  | .deviceReset straps => Sys2Proof.Machine.execDeviceReset straps s
  | .bootRomComplete => Sys2Proof.Machine.execBootRomComplete s
  | .firmwareVerifyComplete ecdsa lms linkFault => Sys2Proof.Machine.execFirmwareVerifyComplete ecdsa lms linkFault s
  | .coreRowWake row => Sys2Proof.Machine.execCoreRowWake row s
  | .matrixRampStep core => Sys2Proof.Machine.execMatrixRampStep core s
  | .fabricPacketReceive pkg path seq => Sys2Proof.Machine.execFabricPacketReceive pkg path seq s
  | .remoteRequestCheck pkg subtree addr len write => Sys2Proof.Machine.execRemoteRequestCheck pkg subtree addr len write s
  | .packetRetransmit pkg seq => Sys2Proof.Machine.execPacketRetransmit pkg seq s
  | .pathRemoval pkg path => Sys2Proof.Machine.execPathRemoval pkg path s
  | .ptpSync time => Sys2Proof.Machine.execPtpSync time s
  | .gangTick => Sys2Proof.Machine.execGangTick s
  | .gangReady pkg => Sys2Proof.Machine.execGangReady pkg s
  | .gangDecision => Sys2Proof.Machine.execGangDecision s
  | .commit => Sys2Proof.Machine.execCommit s
  | .abort => Sys2Proof.Machine.execAbort s
  | .fleetGenSample => Sys2Proof.Machine.execFleetGenSample s
  | .powerStateEntry => Sys2Proof.Machine.execPowerStateEntry s
  | .powerStateExit => Sys2Proof.Machine.execPowerStateExit s
  | .shedStep pwr => Sys2Proof.Machine.execShedStep pwr s
  | .shedUndo pwr => Sys2Proof.Machine.execShedUndo pwr s
  | .throttleStep pwr => Sys2Proof.Machine.execThrottleStep pwr s
  | .throttleUndo pwr => Sys2Proof.Machine.execThrottleUndo pwr s
  | .throttleFloorReport pwr => Sys2Proof.Machine.execThrottleFloorReport pwr s
  | .memoryErrorDetected array unit addr unc inset syndrome => Sys2Proof.Machine.execMemoryErrorDetected array unit addr unc inset syndrome s
  | .burstTagFailure line tries => Sys2Proof.Machine.execBurstTagFailure line tries s
  | .killConfirm slot die => Sys2Proof.Machine.execKillConfirm slot die s
  | .getVersion => Sys2Proof.Machine.execGetVersion s
  | .getCapabilities => Sys2Proof.Machine.execGetCapabilities s
  | .negotiateAlgorithms supported => Sys2Proof.Machine.execNegotiateAlgorithms supported s
  | .getDigests => Sys2Proof.Machine.execGetDigests s
  | .getCertificate slot => Sys2Proof.Machine.execGetCertificate slot s
  | .challenge slot nonce => Sys2Proof.Machine.execChallenge slot nonce s
  | .getMeasurements index nonce => Sys2Proof.Machine.execGetMeasurements index nonce s
  | .keyExchange slot => Sys2Proof.Machine.execKeyExchange slot s
  | .finish verified => Sys2Proof.Machine.execFinish verified s
  | .endSession => Sys2Proof.Machine.execEndSession s
  | .keyload slot key => Sys2Proof.Machine.execKeyload slot key s
  | .keykill slot => Sys2Proof.Machine.execKeykill slot s
  | .keystat slot => Sys2Proof.Machine.execKeystat slot s
  | .sealInset inset addr size bound => Sys2Proof.Machine.execSealInset inset addr size bound s
  | .unsealInset addr bases => Sys2Proof.Machine.execUnsealInset addr bases s
  | .migout inset bound => Sys2Proof.Machine.execMigout inset bound s
  | .migin addr block bases => Sys2Proof.Machine.execMigin addr block bases s
  | .verified inset valid => Sys2Proof.Machine.execVerified inset valid s
  | .erased inset valid => Sys2Proof.Machine.execErased inset valid s
  | .active inset valid => Sys2Proof.Machine.execActive inset valid s
  | .aborted inset valid => Sys2Proof.Machine.execAborted inset valid s
  | .migabort inset => Sys2Proof.Machine.execMigabort inset s
  | .migstat inset => Sys2Proof.Machine.execMigstat inset s
  | .erasedRequest inset => Sys2Proof.Machine.execErasedRequest inset s
  | .erasedResend inset => Sys2Proof.Machine.execErasedResend inset s
  | .holdexpired inset => Sys2Proof.Machine.execHoldexpired inset s
  | .linkRetrainComplete => Sys2Proof.Machine.execLinkRetrainComplete s
  | .pathReturn pkg path => Sys2Proof.Machine.execPathReturn pkg path s
  | .requestBoundPassed team => Sys2Proof.Machine.execRequestBoundPassed team s
  | .freshTopLevelLeaf => Sys2Proof.Machine.execFreshTopLevelLeaf s
  | .iadd d a b => Sys2Proof.Machine.execIadd d a b s
  | .isub d a b => Sys2Proof.Machine.execIsub d a b s
  | .imul d a b => Sys2Proof.Machine.execImul d a b s
  | .imulh d a b => Sys2Proof.Machine.execImulh d a b s
  | .imulhu d a b => Sys2Proof.Machine.execImulhu d a b s
  | .imin d a b => Sys2Proof.Machine.execImin d a b s
  | .imax d a b => Sys2Proof.Machine.execImax d a b s
  | .umin d a b => Sys2Proof.Machine.execUmin d a b s
  | .umax d a b => Sys2Proof.Machine.execUmax d a b s
  | .and d a b => Sys2Proof.Machine.execAnd d a b s
  | .or d a b => Sys2Proof.Machine.execOr d a b s
  | .xor d a b => Sys2Proof.Machine.execXor d a b s
  | .shl d a b => Sys2Proof.Machine.execShl d a b s
  | .shr d a b => Sys2Proof.Machine.execShr d a b s
  | .shra d a b => Sys2Proof.Machine.execShra d a b s
  | .rotr d a b => Sys2Proof.Machine.execRotr d a b s
  | .idiv d a b => Sys2Proof.Machine.execIdiv d a b s
  | .udiv d a b => Sys2Proof.Machine.execUdiv d a b s
  | .irem d a b => Sys2Proof.Machine.execIrem d a b s
  | .urem d a b => Sys2Proof.Machine.execUrem d a b s
  | .popc d a => Sys2Proof.Machine.execPopc d a s
  | .clz d a => Sys2Proof.Machine.execClz d a s
  | .brev d a => Sys2Proof.Machine.execBrev d a s
  | .iabs d a => Sys2Proof.Machine.execIabs d a s
  | .bfx d a b => Sys2Proof.Machine.execBfx d a b s
  | .bfxu d a b => Sys2Proof.Machine.execBfxu d a b s
  | .bfi d a b => Sys2Proof.Machine.execBfi d a b s
  | .andn d a b => Sys2Proof.Machine.execAndn d a b s
  | .iaddi d a imm => Sys2Proof.Machine.execIaddi d a imm s
  | .andi d a imm => Sys2Proof.Machine.execAndi d a imm s
  | .ori d a imm => Sys2Proof.Machine.execOri d a imm s
  | .xori d a imm => Sys2Proof.Machine.execXori d a imm s
  | .shli d a n => Sys2Proof.Machine.execShli d a n s
  | .shri d a n => Sys2Proof.Machine.execShri d a n s
  | .shrai d a n => Sys2Proof.Machine.execShrai d a n s
  | .rotri d a n => Sys2Proof.Machine.execRotri d a n s
  | .imad d a b => Sys2Proof.Machine.execImad d a b s
  | .imadu d a b => Sys2Proof.Machine.execImadu d a b s
  | .imadh d a b => Sys2Proof.Machine.execImadh d a b s
  | .imadhu d a b => Sys2Proof.Machine.execImadhu d a b s
  | .iaddx d a b => Sys2Proof.Machine.execIaddx d a b s
  | .isubx d a b => Sys2Proof.Machine.execIsubx d a b s
  | .shlx d a b => Sys2Proof.Machine.execShlx d a b s
  | .shrx d a b => Sys2Proof.Machine.execShrx d a b s
  | .shrax d a b => Sys2Proof.Machine.execShrax d a b s
  | .imulw d a b => Sys2Proof.Machine.execImulw d a b s
  | .imulwu d a b => Sys2Proof.Machine.execImulwu d a b s
  | .leaS0 d a b => Sys2Proof.Machine.execLeaS0 d a b s
  | .leaS1 d a b => Sys2Proof.Machine.execLeaS1 d a b s
  | .leaS2 d a b => Sys2Proof.Machine.execLeaS2 d a b s
  | .leaS3 d a b => Sys2Proof.Machine.execLeaS3 d a b s
  | .mov d a => Sys2Proof.Machine.execMov d a s
  | .movx d a => Sys2Proof.Machine.execMovx d a s
  | .ptov d => Sys2Proof.Machine.execPtov d s
  | .vtop a => Sys2Proof.Machine.execVtop a s
  | .movi d imm => Sys2Proof.Machine.execMovi d imm s
  | .sel d a b p => Sys2Proof.Machine.execSel d a b p s
  | .icmp d a b c => Sys2Proof.Machine.execIcmp d a b c s
  | .icmpi d a c imm => Sys2Proof.Machine.execIcmpi d a c imm s
  | .fadd d a b => Sys2Proof.Machine.execFadd d a b s
  | .fsub d a b => Sys2Proof.Machine.execFsub d a b s
  | .fmul d a b => Sys2Proof.Machine.execFmul d a b s
  | .fmin d a b => Sys2Proof.Machine.execFmin d a b s
  | .fmax d a b => Sys2Proof.Machine.execFmax d a b s
  | .fcopysign d a b => Sys2Proof.Machine.execFcopysign d a b s
  | .ffma d a b => Sys2Proof.Machine.execFfma d a b s
  | .ffms d a b => Sys2Proof.Machine.execFfms d a b s
  | .ffnma d a b => Sys2Proof.Machine.execFfnma d a b s
  | .ffnms d a b => Sys2Proof.Machine.execFfnms d a b s
  | .fcmp d a b c => Sys2Proof.Machine.execFcmp d a b c s
  | .frndn d a => Sys2Proof.Machine.execFrndn d a s
  | .frndz d a => Sys2Proof.Machine.execFrndz d a s
  | .frndd d a => Sys2Proof.Machine.execFrndd d a s
  | .frndu d a => Sys2Proof.Machine.execFrndu d a s
  | .fclass d a => Sys2Proof.Machine.execFclass d a s
  | .fabs d a => Sys2Proof.Machine.execFabs d a s
  | .fneg d a => Sys2Proof.Machine.execFneg d a s
  | .hadd2 d a b => Sys2Proof.Machine.execHadd2 d a b s
  | .hsub2 d a b => Sys2Proof.Machine.execHsub2 d a b s
  | .hmul2 d a b => Sys2Proof.Machine.execHmul2 d a b s
  | .hfma2 d a b => Sys2Proof.Machine.execHfma2 d a b s
  | .hmin2 d a b => Sys2Proof.Machine.execHmin2 d a b s
  | .hmax2 d a b => Sys2Proof.Machine.execHmax2 d a b s
  | .badd2 d a b => Sys2Proof.Machine.execBadd2 d a b s
  | .bsub2 d a b => Sys2Proof.Machine.execBsub2 d a b s
  | .bmul2 d a b => Sys2Proof.Machine.execBmul2 d a b s
  | .bfma2 d a b => Sys2Proof.Machine.execBfma2 d a b s
  | .bmin2 d a b => Sys2Proof.Machine.execBmin2 d a b s
  | .bmax2 d a b => Sys2Proof.Machine.execBmax2 d a b s
  | .dot4s8 d a b => Sys2Proof.Machine.execDot4s8 d a b s
  | .dot4u8 d a b => Sys2Proof.Machine.execDot4u8 d a b s
  | .dot4su8 d a b => Sys2Proof.Machine.execDot4su8 d a b s
  | .dot8s4 d a b => Sys2Proof.Machine.execDot8s4 d a b s
  | .dot2h d a b => Sys2Proof.Machine.execDot2h d a b s
  | .dot2b d a b => Sys2Proof.Machine.execDot2b d a b s
  | .dot4e4 d a b => Sys2Proof.Machine.execDot4e4 d a b s
  | .dot4e5 d a b => Sys2Proof.Machine.execDot4e5 d a b s
  | .cvt d a m => Sys2Proof.Machine.execCvt d a m s
  | .qnt d a b st => Sys2Proof.Machine.execQnt d a b st s
  | .dqnt d a b st => Sys2Proof.Machine.execDqnt d a b st s
  | .unpk3 d a n => Sys2Proof.Machine.execUnpk3 d a n s
  | .exp2 d a b => Sys2Proof.Machine.execExp2 d a b s
  | .exp d a b => Sys2Proof.Machine.execExp d a b s
  | .log2 d a b => Sys2Proof.Machine.execLog2 d a b s
  | .rcp d a b => Sys2Proof.Machine.execRcp d a b s
  | .rsqrt d a b => Sys2Proof.Machine.execRsqrt d a b s
  | .sqrt d a b => Sys2Proof.Machine.execSqrt d a b s
  | .sin d a b => Sys2Proof.Machine.execSin d a b s
  | .cos d a b => Sys2Proof.Machine.execCos d a b s
  | .tanh d a b => Sys2Proof.Machine.execTanh d a b s
  | .sigm d a b => Sys2Proof.Machine.execSigm d a b s
  | .gelu d a b => Sys2Proof.Machine.execGelu d a b s
  | .pand d a b => Sys2Proof.Machine.execPand d a b s
  | .por d a b => Sys2Proof.Machine.execPor d a b s
  | .pxor d a b => Sys2Proof.Machine.execPxor d a b s
  | .pandn d a b => Sys2Proof.Machine.execPandn d a b s
  | .pnot d a => Sys2Proof.Machine.execPnot d a s
  | .pmov d a => Sys2Proof.Machine.execPmov d a s
  | .pset d => Sys2Proof.Machine.execPset d s
  | .pclr d => Sys2Proof.Machine.execPclr d s
  | .ld d a z o k => Sys2Proof.Machine.execLd d a z o k s
  | .st d a z o k => Sys2Proof.Machine.execSt d a z o k s
  | .ldnr d a z o k p => Sys2Proof.Machine.execLdnr d a z o k p s
  | .ldtWaitfull d a z k => Sys2Proof.Machine.execLdtWaitfull d a z k s
  | .ldtTake d a z k => Sys2Proof.Machine.execLdtTake d a z k s
  | .ldtPeektag d a z k => Sys2Proof.Machine.execLdtPeektag d a z k s
  | .sttPut d a z k => Sys2Proof.Machine.execSttPut d a z k s
  | .sttFill d a z k => Sys2Proof.Machine.execSttFill d a z k s
  | .sttDrain d a z k => Sys2Proof.Machine.execSttDrain d a z k s
  | .atom d a b o => Sys2Proof.Machine.execAtom d a b o s
  | .ared a b o => Sys2Proof.Machine.execAred a b o s
  | .lperm d a b m => Sys2Proof.Machine.execLperm d a b m s
  | .lsense d a m => Sys2Proof.Machine.execLsense d a m s
  | .lfold d a m => Sys2Proof.Machine.execLfold d a m s
  | .scan d a m => Sys2Proof.Machine.execScan d a m s
  | .brl p o => Sys2Proof.Machine.execBrl p o s
  | .rng d => Sys2Proof.Machine.execRng d s
  | .rngseed a => Sys2Proof.Machine.execRngseed a s
  | .trd d t c n => Sys2Proof.Machine.execTrd d t c n s
  | .twr d t c n => Sys2Proof.Machine.execTwr d t c n s
  | .uadd d a b => Sys2Proof.Machine.execUadd d a b s
  | .usub d a b => Sys2Proof.Machine.execUsub d a b s
  | .umul d a b => Sys2Proof.Machine.execUmul d a b s
  | .umulhu d a b => Sys2Proof.Machine.execUmulhu d a b s
  | .ualuUmin d a b => Sys2Proof.Machine.execUaluUmin d a b s
  | .ualuUmax d a b => Sys2Proof.Machine.execUaluUmax d a b s
  | .ualuAnd d a b => Sys2Proof.Machine.execUaluAnd d a b s
  | .ualuOr d a b => Sys2Proof.Machine.execUaluOr d a b s
  | .ualuXor d a b => Sys2Proof.Machine.execUaluXor d a b s
  | .ualuShl d a b => Sys2Proof.Machine.execUaluShl d a b s
  | .ualuShr d a b => Sys2Proof.Machine.execUaluShr d a b s
  | .ualuShra d a b => Sys2Proof.Machine.execUaluShra d a b s
  | .uaddi d a imm => Sys2Proof.Machine.execUaddi d a imm s
  | .umovi d imm => Sys2Proof.Machine.execUmovi d imm s
  | .uaddx d a b => Sys2Proof.Machine.execUaddx d a b s
  | .usubx d a b => Sys2Proof.Machine.execUsubx d a b s
  | .umulw d a b => Sys2Proof.Machine.execUmulw d a b s
  | .ulea d a b st => Sys2Proof.Machine.execUlea d a b st s
  | .ucmp d a b c => Sys2Proof.Machine.execUcmp d a b c s
  | .ucmpi d a c imm => Sys2Proof.Machine.execUcmpi d a c imm s
  | .bra p m o => Sys2Proof.Machine.execBra p m o s
  | .call o => Sys2Proof.Machine.execCall o s
  | .nop => Sys2Proof.Machine.execNop s
  | .exit => Sys2Proof.Machine.execExit s
  | .yield => Sys2Proof.Machine.execYield s
  | .brk => Sys2Proof.Machine.execBrk s
  | .trap a => Sys2Proof.Machine.execTrap a s
  | .ret a => Sys2Proof.Machine.execRet a s
  | .brr a => Sys2Proof.Machine.execBrr a s
  | .callr a => Sys2Proof.Machine.execCallr a s
  | .sread d n => Sys2Proof.Machine.execSread d n s
  | .swrite a n => Sys2Proof.Machine.execSwrite a n s
  | .rquota a b => Sys2Proof.Machine.execRquota a b s
  | .rdlane d a b => Sys2Proof.Machine.execRdlane d a b s
  | .wrlane d a b => Sys2Proof.Machine.execWrlane d a b s
  | .rjset j => Sys2Proof.Machine.execRjset j s
  | .rjwait j => Sys2Proof.Machine.execRjwait j s
  | .rjclr j => Sys2Proof.Machine.execRjclr j s
  | .rjread d j => Sys2Proof.Machine.execRjread d j s
  | .barTeam => Sys2Proof.Machine.execBarTeam s
  | .barCluster => Sys2Proof.Machine.execBarCluster s
  | .arriveTeam => Sys2Proof.Machine.execArriveTeam s
  | .waitTeam => Sys2Proof.Machine.execWaitTeam s
  | .arriveCluster => Sys2Proof.Machine.execArriveCluster s
  | .waitCluster => Sys2Proof.Machine.execWaitCluster s
  | .fence k => Sys2Proof.Machine.execFence k s
  | .boinit a => Sys2Proof.Machine.execBoinit a s
  | .boexp a b => Sys2Proof.Machine.execBoexp a b s
  | .boarr a b => Sys2Proof.Machine.execBoarr a b s
  | .bowait d a b => Sys2Proof.Machine.execBowait d a b s
  | .botest d a b => Sys2Proof.Machine.execBotest d a b s
  | .bofault a b => Sys2Proof.Machine.execBofault a b s
  | .tkinit a => Sys2Proof.Machine.execTkinit a s
  | .tkget d a b => Sys2Proof.Machine.execTkget d a b s
  | .tkwait d a b => Sys2Proof.Machine.execTkwait d a b s
  | .tknext d a => Sys2Proof.Machine.execTknext d a s
  | .dqinit a b => Sys2Proof.Machine.execDqinit a b s
  | .dqpush d a b => Sys2Proof.Machine.execDqpush d a b s
  | .dqpop d a => Sys2Proof.Machine.execDqpop d a s
  | .dqsteal d a => Sys2Proof.Machine.execDqsteal d a s
  | .arflush => Sys2Proof.Machine.execArflush s
  | .arstat d => Sys2Proof.Machine.execArstat d s
  | .wpread d a => Sys2Proof.Machine.execWpread d a s
  | .wpwait d a b => Sys2Proof.Machine.execWpwait d a b s
  | .tconf n a => Sys2Proof.Machine.execTconf n a s
  | .tcread d n => Sys2Proof.Machine.execTcread d n s
  | .tzero n => Sys2Proof.Machine.execTzero n s
  | .tld t p k => Sys2Proof.Machine.execTld t p k s
  | .tst t p k => Sys2Proof.Machine.execTst t p k s
  | .tldt t p k => Sys2Proof.Machine.execTldt t p k s
  | .mma d a b st u => Sys2Proof.Machine.execMma d a b st u s
  | .mmaq d a b st u => Sys2Proof.Machine.execMmaq d a b st u s
  | .mmat d a b st u => Sys2Proof.Machine.execMmat d a b st u s
  | .mmab d a b st u => Sys2Proof.Machine.execMmab d a b st u s
  | .tcvt d a b st u => Sys2Proof.Machine.execTcvt d a b st u s
  | .trmax d a b st u => Sys2Proof.Machine.execTrmax d a b st u s
  | .trsum d a b st u => Sys2Proof.Machine.execTrsum d a b st u s
  | .trscl d a b st u => Sys2Proof.Machine.execTrscl d a b st u s
  | .texp2 d a b st u => Sys2Proof.Machine.execTexp2 d a b st u s
  | .tmov d a b st u => Sys2Proof.Machine.execTmov d a b st u s
  | .tmask d a b st u => Sys2Proof.Machine.execTmask d a b st u s
  | .cpy d a w c => Sys2Proof.Machine.execCpy d a w c s
  | .cpym d a r c => Sys2Proof.Machine.execCpym d a r c s
  | .cpyc d a w c => Sys2Proof.Machine.execCpyc d a w c s
  | .gath d a => Sys2Proof.Machine.execGath d a s
  | .scat d a => Sys2Proof.Machine.execScat d a s
  | .chain d a => Sys2Proof.Machine.execChain d a s
  | .allred d a => Sys2Proof.Machine.execAllred d a s
  | .allgath d a => Sys2Proof.Machine.execAllgath d a s
  | .redscat d a => Sys2Proof.Machine.execRedscat d a s
  | .bcast d a => Sys2Proof.Machine.execBcast d a s
  | .svsub d a => Sys2Proof.Machine.execSvsub d a s
  | .svsweep d => Sys2Proof.Machine.execSvsweep d s
  | .svpart d => Sys2Proof.Machine.execSvpart d s
  | .svclose d => Sys2Proof.Machine.execSvclose d s
  | .svstat d => Sys2Proof.Machine.execSvstat d s
  | .svstatDesc d => Sys2Proof.Machine.execSvstatDesc d s
  | .svcancel d => Sys2Proof.Machine.execSvcancel d s
  | .tolnode k a b => Sys2Proof.Machine.execTolnode k a b s
  | .demand a b => Sys2Proof.Machine.execDemand a b s
  | .tolget d a => Sys2Proof.Machine.execTolget d a s
  | .fmtsel d a b => Sys2Proof.Machine.execFmtsel d a b s
  | .itersel d a b => Sys2Proof.Machine.execItersel d a b s
  | .tolchk d => Sys2Proof.Machine.execTolchk d s
  | .tolclr a => Sys2Proof.Machine.execTolclr a s
  | .tolclrAll => Sys2Proof.Machine.execTolclrAll s
  | .launch d => Sys2Proof.Machine.execLaunch d s
  | .launchq d => Sys2Proof.Machine.execLaunchq d s
  | .ctxnew d => Sys2Proof.Machine.execCtxnew d s
  | .ctxgrant d g => Sys2Proof.Machine.execCtxgrant d g s
  | .ctxfrz d => Sys2Proof.Machine.execCtxfrz d s
  | .ctxthaw d => Sys2Proof.Machine.execCtxthaw d s
  | .ctxckpt d t => Sys2Proof.Machine.execCtxckpt d t s
  | .ctxrest d => Sys2Proof.Machine.execCtxrest d s
  | .ctxrevk d => Sys2Proof.Machine.execCtxrevk d s
  | .ctxstat d => Sys2Proof.Machine.execCtxstat d s
  | .ctxdbgSetbp d => Sys2Proof.Machine.execCtxdbgSetbp d s
  | .ctxdbgClrbp d => Sys2Proof.Machine.execCtxdbgClrbp d s
  | .ctxdbgRdstate d => Sys2Proof.Machine.execCtxdbgRdstate d s
  | .ctxdbgWrstate d => Sys2Proof.Machine.execCtxdbgWrstate d s
  | .ctxdbgStep d => Sys2Proof.Machine.execCtxdbgStep d s
  | .mapg d => Sys2Proof.Machine.execMapg d s
  | .unmapg d => Sys2Proof.Machine.execUnmapg d s
  | .pinv d => Sys2Proof.Machine.execPinv d s
  | .pgreq d w => Sys2Proof.Machine.execPgreq d w s
  | .hqarm d => Sys2Proof.Machine.execHqarm d s
  | .hqdisarm d => Sys2Proof.Machine.execHqdisarm d s
  | .hqack d a b => Sys2Proof.Machine.execHqack d a b s
  | .uld d a z o k => Sys2Proof.Machine.execUld d a z o k s
  | .ust d a z o k => Sys2Proof.Machine.execUst d a z o k s
  | .uatom d a b o => Sys2Proof.Machine.execUatom d a b o s
  | .xsco st o => Sys2Proof.Machine.execXsco st o s
  | .xmod a b w imm t r st => Sys2Proof.Machine.execXmod a b w imm t r st s
  | .ximm x => Sys2Proof.Machine.execXimm x s

end Sys2Proof.Machine
end

