-- ==== Sys2Proof/Machine/Step.lean ====
section
/-! DEFINITION. One step of the package: a party moves (the issue of a group's next word, or a step of the machine), and the state in which
one given word is the next to issue. -/
namespace Sys2Proof.Machine

/-- Free time passes before a move (R18, R392): the core clock counts while it runs (R369), and an injection that struck is logged (R373). -/
def State.elapse (s : State) : State :=
  let s := s.logStruck
  let n := Config.freeNanos s.oracle
  { s with oracle := s.oracle + 1, cycle := if s.power.pstate = 0 then s.cycle + Config.freeSlack s.oracle else s.cycle,
           time := s.time + n, uptime := s.uptime + n }

/-- The next word of a group's clause. -/
def State.nextWord (s : State) (gid : Nat) : Option Word := (s.group? gid).bind (fun g => g.clause.map (fun cl => cl.words.getD cl.index 0))

noncomputable section

/-- The issuing group's word as the decoder reads it: an instruction runs; a word that is none takes its event (R137). -/
def runWord (w : Word) (s : State) : Host.Outcome State Fault Refusal :=
  let lane := !Decode.isUniform w.toNat
  match Sys2Proof.decode w with
  | .ok i => exec i s
  | .error .illegalOperand => issue s lane (fun c => c.illegalOperand lane)
  | .error _ => issue s lane (fun c => c.illegalInstruction lane)

/-- A group moves: its clause goes on with the next word, or a clause starts. -/
def moveGroup (gid : Nat) (s : State) : Host.Outcome State Fault Refusal :=
  match s.nextWord gid with
  | some w => runWord w { s with issuer := some gid }
  | none => exec (.clauseStart gid) { s with issuer := none }

/-- The first of some groups that can move does; where none can, only time passes. -/
def tryMoves (s : State) : List Nat → Host.Outcome State Fault Refusal
  | [] => .next s
  | gid :: rest =>
    match moveGroup gid s with
    | .next t => if t = { s with issuer := t.issuer } then tryMoves s rest else .next t
    | o => o

/-- One step: the move that the agenda names, of which any order is an agenda; the agenda is finite, and behind it the groups take turns
(R19, R25). -/
def step (s : State) : Host.Outcome State Fault Refusal :=
  match s.agenda with
  | .issue gid :: rest => moveGroup gid { s.elapse with agenda := rest }
  | .event i :: rest => exec i { s.elapse with agenda := rest, issuer := none }
  | [] => tryMoves s.elapse s.elapse.movers

end

/-! ## The state in which a given word is the next to issue -/

/-- The inset, grid, cluster, team and group of one lane's clause with one word; every field is that of a launch (R8, R41, R43). -/
def fetchInset (id : Nat) : Inset :=
  { id := id, level := 1, parent := 0, tbase := 0, saveBase := 0, saveSize := 0x10000, cw := 1, lw := 1, qslots := 0, iquota := 0, sys := true,
    cores := 1, share := 1, ownCw := 1, ownLw := 1, frozen := false, shed := false, ganged := false, revoking := false, armed := none, nextSeq := 0,
    breakpoints := List.replicate 4 none, ranges := [], subtree := 0, package := 0, packages := 0, held := none, e := 0, l := 0, ownE := 0,
    ownL := 0, balance := 0, slowed := false, buckets := [], images := [], tablePages := [], saveCounter := 0, sealing := false, pendingBreaks := [] }

def fetchLaunch : Launch :=
  { entry := 0, args := 0, width := 1, height := 1, threads := 32, clusters := 1, deque := false, restart := false, coop := false, tiles := 16,
    quota := 104, cycles := 0, seed := 0, cbo := 0, nkind := 0, tag := 0, serial := false, imgCount := 0, imgList := 0, slots := List.replicate 8 0 }

def fetchGrid (handle inset : Nat) : Grid :=
  { handle := handle, inset := inset, launch := fetchLaunch, record := 0, object := none, placed := 1, notifyTeam := none, queue := none, counters := [],
    gate := none, order := 0, completed := false }

/-- A clause of one word. -/
def fetchClause (w : Word) : Clause :=
  { run := 1, base := 0, words := [w], index := 0, ximm := none, xmod := none, xsco := none,
    header := { wait := 0, seta := 0, setb := 15, len := 1, yieldHint := false, dist := 0, gmask := 0, gpred := 31, gneg := false } }

/-- s with one more team of one group, whose clause under way has w as its next word, and that group as the next to move. The table's
words are 32 bits; nothing stands above nbits. -/
def State.withFetchWord (s : State) (nbits w : Nat) : State :=
  let id := s.freeId.getD 1
  let h := s.nextHandle
  let cid := s.fresh
  let tid := s.fresh + 1
  let g := startGroup fetchLaunch 0 0 tid 0 0
  { s with
    insets := s.insets ++ [fetchInset id], grids := s.grids ++ [fetchGrid h id],
    clusters := s.clusters ++ [{ cid := cid, grid := h, index := 0, ax := 0, ay := 0, phase := 0, arrived := [] }],
    teams := s.teams ++ [startTeam cid tid 0 0 s.cycle],
    groups := s.groups ++ [{ g with clause := some (fetchClause (BitVec.ofNat 32 (w % 2 ^ nbits))) }],
    handles := h, fresh := s.fresh + 34, agenda := [.issue (tid + 1)] }

end Sys2Proof.Machine
end

