-- ==== Sys2Proof/Safety.lean ====
section
/-! DEFINITION. The terms the claims are stated in: what a lane's register will hold once its short results have landed (R127), what the
issue of one word leaves of everything but its own effect, and what counts as a safe state. -/
namespace Sys2Proof.Claim
open Sys2Proof.Machine

/-! ## What a lane holds -/

/-- A register of a lane (number below 128), or a predicate as a word (number 128 + k), as it stands. -/
def stands (x : Lane) (r : Nat) : Word :=
  if r < Config.predBase then x.reg r else if x.preds.getLsbD (r - Config.predBase) then 1 else 0

/-- The same once every short result under way has landed, in issue order (R127). -/
def landed (x : Lane) (r : Nat) : Word :=
  x.pend.foldl (fun v p => if p.reg = r then mergeBits v p.mask p.value else v) (stands x r)

/-- Lane register r, and predicate k, once every short result has landed. -/
def regOf (x : Lane) (r : Nat) : Word := landed x r
def predOf (x : Lane) (k : Nat) : Bool := (landed x (Config.predBase + k)).getLsbD 0

/-- What an instruction writes into lane l's register or predicate r: bits and their values; none where it writes none. -/
abbrev Writes := Nat → Nat → Option (Word × Word)

/-- An instruction that writes no lane. -/
def noWrites : Writes := fun _ _ => none

/-- A word with the written bits changed. -/
def applied (w : Option (Word × Word)) (old : Word) : Word :=
  match w with
  | none => old
  | some (mask, v) => mergeBits old mask v

/-- Lane l before and after: only program counter, run, clock and the results named differ. -/
def laneAfter (w : Writes) (l : Nat) (x y : Lane) : Prop :=
  y.exited = x.exited ∧ y.parked = x.parked ∧ y.gen = x.gen ∧ y.clock = x.clock ∧
  (∀ r < 104, regOf y r = applied (w l r) (regOf x r)) ∧
  (∀ k < 24, predOf y k = (applied (w l (Config.predBase + k)) (landed x (Config.predBase + k))).getLsbD 0)

/-! ## What the issue of a word leaves -/

/-- A long operation, but, where it is of the given group, for which of its results a later short write overtakes (R128). -/
def issuedOp (gid : Nat) (o : LongOp) : LongOp :=
  if o.gid = gid then { o with results := o.results.map (fun r => { r with loses := false }), overtaken := [] } else o

/-- Uniform register r of a group. -/
def uniOf (g : Group) (r : Nat) : Word := Sparse.get 0 g.sregs r

/-- What an instruction writes into the uniform registers s0 to s15. -/
abbrev UniWrites := Nat → Option Word

/-- An instruction that writes no uniform register. -/
def noUni : UniWrites := fun _ => none

/-- The group but for its lanes' counters and results, the clause under way, the runs and the uniform registers. -/
def groupKept (g h : Group) : Prop := h = { g with lanes := h.lanes, clause := h.clause, runs := h.runs, sregs := h.sregs }

/-- The state after a word whose own effect is p and the results named: the issuing group's run has moved on to its next word, its lanes
and uniform registers hold those results, and nothing else differs from p (which of a long operation's results loses to a short one
is open, R128). -/
def settles (p : State) (gid : Nat) (w : Writes) (u : UniWrites) (t : State) : Prop :=
  t = { p with groups := t.groups, ops := t.ops } ∧
  t.ops.map (issuedOp gid) = p.ops.map (issuedOp gid) ∧
  t.groups.map (·.gid) = p.groups.map (·.gid) ∧
  (∀ id, id ≠ gid → t.group? id = p.group? id) ∧
  ∃ g h, p.group? gid = some g ∧ t.group? gid = some h ∧ groupKept g h ∧
    (∀ r < 16, uniOf h r = (u r).getD (uniOf g r)) ∧ h.lanes.length = g.lanes.length ∧
    ∀ (l : Nat) (x y : Lane), g.lanes[l]? = some x → h.lanes[l]? = some y → laneAfter w l x y

/-- A group issues its next word: the context of the issue, and no single step stops the group behind it (R331). -/
def issues (s : State) (lane : Bool) (c : Ctx) : Prop :=
  s.ctx? lane = some c ∧ (c.g.stepping = false ∨ c.cl.index + 1 < c.cl.header.len)

/-! ## Sources (R33 to R36) -/

/-- What a source field of a lane instruction gives in each lane, and the state its pops leave; none where a pop waits, or an access
that must not perform comes first (R34 to R36, R393). -/
def reads (c : Ctx) (s : State) (f : Nat) : Option (State × (Nat → Word)) :=
  if f < 104 then some (s, fun l => c.readV l f)
  else if f < 120 then some (s, fun _ => c.readS (f - 104))
  else if c.act = 0 then some (s, fun _ => 0)
  else if f < 124 then (s.popNeighbour c.g (f - 120)).map (fun p => (p.1, fun l => p.2.getD l 0))
  else if f ≠ 127 ∧ c.g.charged.isSome then none
  else (s.popTeam c.g (f - 124)).map (fun p => (p.1, fun _ => p.2))

/-- The same for a source field of a uniform instruction. -/
def ureads (c : Ctx) (s : State) (f : Nat) : Option (State × Word) :=
  if f < 120 then some (s, c.readS (f - 104))
  else if f ≠ 127 ∧ c.g.charged.isSome then none
  else s.popTeam c.g (f - 124)

/-- Every register field may name what it names (R33), within the quota (R15). -/
def fits (us : List Use) : Prop := ∀ u ∈ us, u.legal = true ∧ u.quota = true

/-! ## Results -/

/-- The active lanes write one register or predicate. -/
def writesOne (c : Ctx) (r : Nat) (mask : Nat → Word) (v : Nat → Word) : Writes :=
  fun l k => if c.act.getLsbD l ∧ k = r then some (mask l, v l) else none

/-- A short result of a lane instruction: into the register of a v field in every active lane, or as one entry of the neighbour's queue
(R34, R35); no active lane, no effect. -/
def result (c : Ctx) (p : State) (d : Nat) (mask : Word) (v : Nat → Word) (t : State) : Prop :=
  if d < 104 then settles p c.g.gid (writesOne c d (fun _ => mask) v) noUni t
  else if c.act = 0 then settles p c.g.gid noWrites noUni t
  else settles (p.push c.g (d - 120) { op := none, words := (List.range 32).map (fun l => if c.act.getLsbD l then v l &&& mask else 0) })
    c.g.gid noWrites noUni t

/-- Every bit of a register. -/
def whole : Word := BitVec.allOnes 32

end Sys2Proof.Claim
end

