-- ==== Sys2Proof/Certificates/Slice0/Obligations.lean ====
section
/-! DEFINITION. The statements for the provers, from the rules of spec/. Tables name the instructions of one shape with the value the rule
gives; each statement says that the instruction answers a next state, what it holds, and what it leaves as it was. -/
open Sys2Proof Sys2Proof.Machine Sys2Proof.Claim

/-! ## Lane integer instructions (R142 to R155) -/

/-- The shift amount of R144. -/
def Sys2Proof.Claim.amount (b : Word) : Nat := (b.extractLsb' 0 5).toNat

/-- Position and length of R147's field. -/
def Sys2Proof.Claim.fieldPos (b : Word) : Nat := (b.extractLsb' 0 5).toNat
def Sys2Proof.Claim.fieldLen (b : Word) : Nat := min (b.extractLsb' 8 6).toNat (32 - fieldPos b)

/-- Two sources and a short result: IALU (R144), IMISC's two-source short forms (R147). -/
def Sys2Proof.Claim.binary : Instr → Option (BitVec 7 × BitVec 7 × BitVec 7 × (Word → Word → Word))
  | .iadd d a b => some (d, a, b, fun x y => BitVec.ofInt 32 (x.toInt + y.toInt))
  | .isub d a b => some (d, a, b, fun x y => BitVec.ofInt 32 (x.toInt - y.toInt))
  | .imul d a b => some (d, a, b, fun x y => BitVec.ofInt 32 (x.toInt * y.toInt))
  | .imulh d a b => some (d, a, b, fun x y => (x.signExtend 64 * y.signExtend 64).extractLsb' 32 32)
  | .imulhu d a b => some (d, a, b, fun x y => (x.setWidth 64 * y.setWidth 64).extractLsb' 32 32)
  | .imin d a b => some (d, a, b, fun x y => if x.toInt ≤ y.toInt then x else y)
  | .imax d a b => some (d, a, b, fun x y => if x.toInt ≤ y.toInt then y else x)
  | .umin d a b => some (d, a, b, fun x y => if x.toNat ≤ y.toNat then x else y)
  | .umax d a b => some (d, a, b, fun x y => if x.toNat ≤ y.toNat then y else x)
  | .and d a b => some (d, a, b, fun x y => x &&& y)
  | .or d a b => some (d, a, b, fun x y => x ||| y)
  | .xor d a b => some (d, a, b, fun x y => x ^^^ y)
  | .shl d a b => some (d, a, b, fun x y => BitVec.ofNat 32 (x.toNat * 2 ^ amount y))
  | .shr d a b => some (d, a, b, fun x y => BitVec.ofNat 32 (x.toNat / 2 ^ amount y))
  | .shra d a b => some (d, a, b, fun x y => BitVec.ofInt 32 (x.toInt / 2 ^ amount y))
  | .rotr d a b => some (d, a, b, fun x y => x >>> amount y ||| x <<< (32 - amount y))
  | .bfx d a b => some (d, a, b, fun x y => if fieldLen y = 0 then 0 else ((x >>> fieldPos y).setWidth (fieldLen y)).signExtend 32)
  | .bfxu d a b => some (d, a, b, fun x y => ((x >>> fieldPos y).setWidth (fieldLen y)).setWidth 32)
  | .andn d a b => some (d, a, b, fun x y => x &&& ~~~y)
  | _ => none

/-- One source and a short result: IMISC's one-source forms (R147), SHI (R149), MOV (R152). -/
def Sys2Proof.Claim.unary : Instr → Option (BitVec 7 × BitVec 7 × (Word → Word))
  | .popc d a => some (d, a, fun x => BitVec.ofNat 32 ((List.range 32).countP (fun i => x.getLsbD i)))
  | .clz d a => some (d, a, fun x => BitVec.ofNat 32 ((List.range 32).takeWhile (fun i => !x.getLsbD (31 - i))).length)
  | .brev d a => some (d, a, fun x => BitVec.ofBoolListLE ((List.range 32).map (fun i => x.getLsbD (31 - i))))
  | .iabs d a => some (d, a, fun x => BitVec.ofInt 32 x.toInt.natAbs)
  | .shli d a n => some (d, a, fun x => BitVec.ofNat 32 (x.toNat * 2 ^ n.toNat))
  | .shri d a n => some (d, a, fun x => BitVec.ofNat 32 (x.toNat / 2 ^ n.toNat))
  | .shrai d a n => some (d, a, fun x => BitVec.ofInt 32 (x.toInt / 2 ^ n.toNat))
  | .rotri d a n => some (d, a, fun x => x >>> n.toNat ||| x <<< (32 - n.toNat))
  | .mov d a => some (d, a, fun x => x)
  | _ => none

/-- The immediate of R132: sign-extended, or under XIMM SExt(X25) × 128 + I[6:0], where the bits of I above [6:0] must be zero. -/
def Sys2Proof.Claim.immediate {n : Nat} (x : Option (BitVec 25)) (i : BitVec n) : Option Word :=
  match x with
  | none => some (i.signExtend 32)
  | some x => if i.toNat < 128 then some (x.signExtend 32 * 128#32 + i.setWidth 32) else none

/-- One source and an 11-bit immediate (R148). -/
def Sys2Proof.Claim.immediates : Instr → Option (BitVec 7 × BitVec 7 × BitVec 11 × (Word → Word → Word))
  | .iaddi d a i => some (d, a, i, fun x v => x + v)
  | .andi d a i => some (d, a, i, fun x v => x &&& v)
  | .ori d a i => some (d, a, i, fun x v => x ||| v)
  | .xori d a i => some (d, a, i, fun x v => x ^^^ v)
  | _ => none

/-- The integer results of R144, R147 to R149 and R152 to R154, into a v register or a neighbour's queue, from v, s and queue-port sources:
every lane's value, and that nothing else of the machine changes. -/
def Obligations.LaneIntegerResults : Prop :=
  (∀ s c i d a b f s1 x s2 y, binary i = some (d, a, b, f) → issues s true c → c.cl.xmod = none →
    fits [useSrc c.g.quota a.toNat, useSrc c.g.quota b.toNat, c.useDst d.toNat] → c.pushStalls d.toNat = false →
    reads c (c.base true) a.toNat = some (s1, x) → reads c s1 b.toNat = some (s2, y) →
    ∃ t, exec i s = .next t ∧ result c s2 d.toNat whole (fun l => f (x l) (y l)) t) ∧
  (∀ s c i d a f s1 x, unary i = some (d, a, f) → issues s true c →
    fits [useSrc c.g.quota a.toNat, c.useDst d.toNat] → c.pushStalls d.toNat = false → reads c (c.base true) a.toNat = some (s1, x) →
    ∃ t, exec i s = .next t ∧ result c s1 d.toNat whole (fun l => f (x l)) t) ∧
  (∀ s c i d a n f v s1 x, immediates i = some (d, a, n, f) → issues s true c → immediate c.cl.ximm n = some v →
    fits [useSrc c.g.quota a.toNat, c.useDst d.toNat] → c.pushStalls d.toNat = false → reads c (c.base true) a.toNat = some (s1, x) →
    ∃ t, exec i s = .next t ∧ result c s1 d.toNat whole (fun l => f (x l) v) t) ∧
  (∀ s c (d : BitVec 7) (n : BitVec 18) v, issues s true c → immediate c.cl.ximm n = some v → fits [c.useDst d.toNat] →
    c.pushStalls d.toNat = false → ∃ t, exec (.movi d n) s = .next t ∧ result c (c.base true) d.toNat whole (fun _ => v) t) ∧
  (∀ s c (d a b : BitVec 7) (p : BitVec 4) s1 x s2 y, issues s true c →
    fits [useSrc c.g.quota a.toNat, useSrc c.g.quota b.toNat, c.useDst d.toNat] → c.pushStalls d.toNat = false →
    reads c (c.base true) a.toNat = some (s1, x) → reads c s1 b.toNat = some (s2, y) →
    ∃ t, exec (.sel d a b p) s = .next t ∧ result c s2 d.toNat whole (fun l => if c.readP l p.toNat then x l else y l) t) ∧
  (∀ s c (d : BitVec 7), issues s true c → fits [c.useDst d.toNat] → c.pushStalls d.toNat = false →
    ∃ t, exec (.ptov d) s = .next t ∧
      result c (c.base true) d.toNat whole (fun l => BitVec.ofBoolListLE ((List.range 32).map (fun j => decide (j < 24) && c.readP l j))) t)

/-! ### IALU on subfields (R145) -/

/-- How an IALU instruction forms its exact value under XMOD: arithmetic on exact operands with the full-width source taken as signed or
not, or on the 32 bits as they stand. -/
inductive Sys2Proof.Claim.Form where
  | exact (signed : Bool) (f : Int → Int → Int)
  | bits (f : Word → Word → Word)

/-- The table of R145. -/
def Sys2Proof.Claim.subfield : Instr → Option (BitVec 7 × BitVec 7 × BitVec 7 × Form)
  | .iadd d a b => some (d, a, b, .exact true (fun x y => x + y))
  | .isub d a b => some (d, a, b, .exact true (fun x y => x - y))
  | .imul d a b => some (d, a, b, .exact true (fun x y => x * y))
  | .imulh d a b => some (d, a, b, .exact true (fun x y => x * y / 2 ^ 32))
  | .imulhu d a b => some (d, a, b, .exact false (fun x y => x * y / 2 ^ 32))
  | .imin d a b => some (d, a, b, .exact true min)
  | .imax d a b => some (d, a, b, .exact true max)
  | .umin d a b => some (d, a, b, .exact false min)
  | .umax d a b => some (d, a, b, .exact false max)
  | .and d a b => some (d, a, b, .bits (fun x y => x &&& y))
  | .or d a b => some (d, a, b, .bits (fun x y => x ||| y))
  | .xor d a b => some (d, a, b, .bits (fun x y => x ^^^ y))
  | .shl d a b => some (d, a, b, .bits (fun x y => x <<< amount y))
  | .shr d a b => some (d, a, b, .bits (fun x y => x >>> amount y))
  | .shra d a b => some (d, a, b, .bits (fun x y => x.sshiftRight (amount y)))
  | .rotr d a b => some (d, a, b, .bits (fun x y => x >>> amount y ||| x <<< (32 - amount y)))
  | _ => none

/-- The destination's interpretation 0 is signed (R52). -/
def Sys2Proof.Claim.dstSigned (m : XMod) : Bool := decide (m.interp = 0)

/-- The exact result under XMOD (R145). -/
def Sys2Proof.Claim.exactOf (m : XMod) : Form → Word → Word → Int
  | .exact sg f, x, y => f (Mod.int m.a sg x) (Mod.int m.b sg y)
  | .bits f, x, y =>
    let w := f (BitVec.ofInt 32 (Mod.int m.a true x)) (BitVec.ofInt 32 (Mod.int m.b true y))
    if dstSigned m then w.toInt else w.toNat

/-- The code Narrow writes for an integer target: clamped to the target's range with the saturate bit set, its low bits kept else (R58). -/
def Sys2Proof.Claim.narrowInt (m : XMod) (n : Int) : Nat :=
  let w := modWidth m.width.toNat
  let lo : Int := if dstSigned m then -(2 ^ (w - 1) : Nat) else 0
  let hi : Int := if dstSigned m then (2 ^ (w - 1) : Nat) - 1 else (2 ^ w : Nat) - 1
  ((if m.sat then (if n < lo then lo else if hi < n then hi else n) else n) % (2 ^ w : Nat)).toNat

/-- IALU and ICMP under XMOD (R145): exact operands, the result narrowed into its subfield and nothing else of the register changed; the
conditions compare exact values. A modifier that is no integer one, or a rounding code, is an illegal operand: the group stops. -/
def Obligations.LaneIntegerSubfields : Prop :=
  (∀ s c i d a b f m s1 x s2 y, subfield i = some (d, a, b, f) → issues s true c → c.cl.xmod = some m →
    intModOk m.a = true → intModOk m.b = true → m.intDstOk = true → m.round = 0 →
    fits [useSrc c.g.quota a.toNat, useSrc c.g.quota b.toNat, c.useDst d.toNat] → c.pushStalls d.toNat = false →
    reads c (c.base true) a.toNat = some (s1, x) → reads c s1 b.toNat = some (s2, y) →
    ∃ t, exec i s = .next t ∧
      result c s2 d.toNat (if m.dstZero then whole else m.dst.mask) (fun l => m.dst.place (narrowInt m (exactOf m f (x l) (y l)))) t) ∧
  (∀ s c i d a b f m, subfield i = some (d, a, b, f) → s.ctx? true = some c → c.cl.xmod = some m →
    ¬(intModOk m.a = true ∧ intModOk m.b = true ∧ m.intDstOk = true ∧ m.round = 0) →
    exec i s = .next (c.take { kind := 2, info := c.act, addr := c.cl.base })) ∧
  (∀ s c (d a b : BitVec 7) (k : BitVec 4) m s1 x s2 y, issues s true c → c.cl.xmod = some m →
    intModOk m.a = true → intModOk m.b = true → m.dstZero = true → fits [useSrc c.g.quota a.toNat, useSrc c.g.quota b.toNat] →
    reads c (c.base true) a.toNat = some (s1, x) → reads c s1 b.toNat = some (s2, y) →
    ∃ t, exec (.icmp d a b k) s = .next t ∧
      settles s2 c.g.gid (writesOne c (Config.predBase + d.toNat) (fun _ => 1) (fun l =>
        let p := Mod.int m.a (decide (k.toNat < 6)) (x l)
        let q := Mod.int m.b (decide (k.toNat < 6)) (y l)
        if (match k.toNat with
          | 0 => decide (p = q)
          | 1 => decide (p ≠ q)
          | 2 => decide (p < q)
          | 3 => decide (p ≤ q)
          | 4 => decide (p > q)
          | 5 => decide (p ≥ q)
          | 6 => decide (p < q)
          | 7 => decide (p ≤ q)
          | 8 => decide (p > q)
          | _ => decide (p ≥ q)) then 1 else 0)) noUni t)

/-! ### Accumulating forms (R142, R147, R150, R161, R162) -/

/-- A half of a word as a number (R161). -/
def Sys2Proof.Claim.low (w : Word) : Nat := (w.extractLsb' 0 16).toNat
def Sys2Proof.Claim.high (w : Word) : Nat := (w.extractLsb' 16 16).toNat

/-- Both halves in a 16-bit format, each rounded on its own (R161). -/
def Sys2Proof.Claim.inHalves (f : Fmt) (op : FVal → FVal → FVal → FVal) (x y z : Word) : Word :=
  BitVec.ofNat 32 (f.rne (op (f.widen (low x)) (f.widen (low y)) (f.widen (low z))) +
    65536 * f.rne (op (f.widen (high x)) (f.widen (high y)) (f.widen (high z))))

/-- Element i of width w, taken as signed or unsigned (R52, R162). -/
def Sys2Proof.Claim.element (w i : Nat) (signed : Bool) (x : Word) : Int :=
  if signed then (x.extractLsb' (w * i) w).toInt else (x.extractLsb' (w * i) w).toNat

/-- The sums of R162: an exact integer sum modulo 2^32, or one exact floating sum rounded once. -/
def Sys2Proof.Claim.dotOf (n w : Nat) (sa sb : Bool) (x y z : Word) : Word :=
  BitVec.ofInt 32 (z.toInt + ((List.range n).map (fun i => element w i sa x * element w i sb y)).sum)
def Sys2Proof.Claim.dotFloatOf (n w : Nat) (f : Fmt) (x y z : Word) : Word :=
  toF32 (FVal.sum false (f32 z :: (List.range n).map (fun i =>
    (f.widen (x.extractLsb' (w * i) w).toNat).mul (f.widen (y.extractLsb' (w * i) w).toNat))))

/-- Two sources and the old destination: BFI, IMAD, HFMA2, BFMA2, DOT. -/
def Sys2Proof.Claim.accumulate : Instr → Option (BitVec 7 × BitVec 7 × BitVec 7 × (Word → Word → Word → Word))
  | .bfi d a b => some (d, a, b, fun x y z =>
      let m : Word := (BitVec.allOnes 32 >>> (32 - fieldLen y)) <<< fieldPos y
      (z &&& ~~~m) ||| ((x <<< fieldPos y) &&& m))
  | .imad d a b => some (d, a, b, fun x y z => BitVec.ofInt 32 (x.toInt * y.toInt + z.toInt))
  | .imadu d a b => some (d, a, b, fun x y z => BitVec.ofNat 32 (x.toNat * y.toNat + z.toNat))
  | .imadh d a b => some (d, a, b, fun x y z => (x.signExtend 64 * y.signExtend 64).extractLsb' 32 32 + z)
  | .imadhu d a b => some (d, a, b, fun x y z => (x.setWidth 64 * y.setWidth 64).extractLsb' 32 32 + z)
  | .hfma2 d a b => some (d, a, b, inHalves fp16 (fun p q r => (p.mul q).add r))
  | .bfma2 d a b => some (d, a, b, inHalves bf16 (fun p q r => (p.mul q).add r))
  | .dot4s8 d a b => some (d, a, b, dotOf 4 8 true true)
  | .dot4u8 d a b => some (d, a, b, dotOf 4 8 false false)
  | .dot4su8 d a b => some (d, a, b, dotOf 4 8 true false)
  | .dot8s4 d a b => some (d, a, b, dotOf 8 4 true true)
  | .dot2h d a b => some (d, a, b, dotFloatOf 2 16 fp16)
  | .dot2b d a b => some (d, a, b, dotFloatOf 2 16 bf16)
  | .dot4e4 d a b => some (d, a, b, dotFloatOf 4 8 e4m3)
  | .dot4e5 d a b => some (d, a, b, dotFloatOf 4 8 e5m2)
  | _ => none

/-- The accumulating instructions: D is read as it stands before the result is written, and is a v register; a queue port there is an
illegal operand (R142). -/
def Sys2Proof.Claim.laneAccumulationHold : Prop :=
  (∀ s c i d a b f s1 x s2 y, accumulate i = some (d, a, b, f) → issues s true c →
    fits [useSrc c.g.quota a.toNat, useSrc c.g.quota b.toNat, useV c.g.quota d.toNat] →
    reads c (c.base true) a.toNat = some (s1, x) → reads c s1 b.toNat = some (s2, y) →
    ∃ t, exec i s = .next t ∧
      settles s2 c.g.gid (writesOne c d.toNat (fun _ => whole) (fun l => f (x l) (y l) (c.readV l d.toNat))) noUni t) ∧
  (∀ s c i d a b f, accumulate i = some (d, a, b, f) → s.ctx? true = some c → 104 ≤ d.toNat →
    exec i s = .next (c.take { kind := 2, info := c.act, addr := c.cl.base }))

/-! ### 64-bit pairs (R135, R140, R151, R152, R170, R174) -/

/-- The active lanes write both registers of a pair. -/
def Sys2Proof.Claim.writesPair (c : Ctx) (d : Nat) (v : Nat → BitVec 64) : Writes :=
  fun l k => if c.act.getLsbD l ∧ k = d then some (whole, (v l).extractLsb' 0 32)
    else if c.act.getLsbD l ∧ k = d + 1 then some (whole, (v l).extractLsb' 32 32) else none

/-- Pair and pair into a pair. -/
def Sys2Proof.Claim.pairs : Instr → Option (BitVec 7 × BitVec 7 × BitVec 7 × (BitVec 64 → BitVec 64 → BitVec 64))
  | .iaddx d a b => some (d, a, b, fun x y => x + y)
  | .isubx d a b => some (d, a, b, fun x y => x - y)
  | _ => none

/-- Pair and register into a pair. -/
def Sys2Proof.Claim.pairReg : Instr → Option (BitVec 7 × BitVec 7 × BitVec 7 × (BitVec 64 → Word → BitVec 64))
  | .shlx d a b => some (d, a, b, fun x y => BitVec.ofNat 64 (x.toNat * 2 ^ (y.extractLsb' 0 6).toNat))
  | .shrx d a b => some (d, a, b, fun x y => BitVec.ofNat 64 (x.toNat / 2 ^ (y.extractLsb' 0 6).toNat))
  | .shrax d a b => some (d, a, b, fun x y => BitVec.ofInt 64 (x.toInt / 2 ^ (y.extractLsb' 0 6).toNat))
  | .imulw d a b => some (d, a, b, fun x y => BitVec.ofInt 64 ((x.extractLsb' 0 32).toInt * y.toInt))
  | .imulwu d a b => some (d, a, b, fun x y => BitVec.ofNat 64 ((x.extractLsb' 0 32).toNat * y.toNat))
  | .leaS0 d a b => some (d, a, b, fun x y => x + BitVec.ofInt 64 y.toInt)
  | .leaS1 d a b => some (d, a, b, fun x y => x + BitVec.ofInt 64 (y.toInt * 2))
  | .leaS2 d a b => some (d, a, b, fun x y => x + BitVec.ofInt 64 (y.toInt * 4))
  | .leaS3 d a b => some (d, a, b, fun x y => x + BitVec.ofInt 64 (y.toInt * 8))
  | _ => none

/-- Digit i of byte n of A less one, or 0 for a code above 242, as a signed byte (R51, R170). -/
def Sys2Proof.Claim.tritByte (a : Word) (n i : Nat) : BitVec 8 := BitVec.ofInt 8 (trit (a.extractLsb' (8 * n) 8).toNat i)

/-- The pair instructions: both registers of D in every active lane, computed from the sources as they stand before (R151); the result of
IMULW and IMULWU rests on assumption log 27 (A is a pair field). -/
def Obligations.LanePairs : Prop :=
  (∀ s c i d a b f, pairs i = some (d, a, b, f) → issues s true c →
    fits [usePair c.g.quota a.toNat, usePair c.g.quota b.toNat, useVs c.g.quota d.toNat 2] →
    ∃ t, exec i s = .next t ∧
      settles (c.base true) c.g.gid (writesPair c d.toNat (fun l => f (c.pair a.toNat l) (c.pair b.toNat l))) noUni t) ∧
  (∀ s c i d a b f s1 y, pairReg i = some (d, a, b, f) → issues s true c →
    fits [usePair c.g.quota a.toNat, useSrc c.g.quota b.toNat, useVs c.g.quota d.toNat 2] →
    reads c (c.base true) b.toNat = some (s1, y) →
    ∃ t, exec i s = .next t ∧ settles s1 c.g.gid (writesPair c d.toNat (fun l => f (c.pair a.toNat l) (y l))) noUni t) ∧
  (∀ s c (d a : BitVec 7), issues s true c → fits [usePair c.g.quota a.toNat, useVs c.g.quota d.toNat 2] →
    ∃ t, exec (.movx d a) s = .next t ∧ settles (c.base true) c.g.gid (writesPair c d.toNat (fun l => c.pair a.toNat l)) noUni t) ∧
  (∀ s c (d a : BitVec 7) (n : BitVec 2) s1 x, issues s true c → fits [useSrc c.g.quota a.toNat, useVs c.g.quota d.toNat 2] →
    reads c (c.base true) a.toNat = some (s1, x) →
    ∃ t, exec (.unpk3 d a n) s = .next t ∧
      settles s1 c.g.gid (writesPair c d.toNat (fun l =>
        (tritByte (x l) n.toNat 4).setWidth 32 ++ (tritByte (x l) n.toNat 3 ++ tritByte (x l) n.toNat 2 ++
          tritByte (x l) n.toNat 1 ++ tritByte (x l) n.toNat 0))) noUni t)

/-! ### The lane generator (R41, R42, R174, R175) -/

/-- One step of the generator of R41: x ^= x << 13, x ^= x >> 7, x ^= x << 17. -/
def Sys2Proof.Claim.stepGen (x : BitVec 64) : BitVec 64 :=
  let p := x ^^^ x <<< 13
  let q := p ^^^ p >>> 7
  q ^^^ q <<< 17

/-- The group's lanes but for the generators of the active lanes, which take the values given. -/
def Sys2Proof.Claim.reseeded (c : Ctx) (p : State) (v : Nat → BitVec 64) : State :=
  p.updGroup c.g.gid (fun g => g.updLanes c.act (fun l x => { x with gen := v l }))

/-- RNG draws once in each active lane and writes the draw, RNGSEED sets each active lane's state, 1 for a zero value, and writes no
register; inactive lanes draw nothing (R174, R175). -/
def Sys2Proof.Claim.laneGeneratorHold : Prop :=
  (∀ s c (d : BitVec 7), issues s true c → fits [useVs c.g.quota d.toNat 2] →
    ∃ t, exec (.rng d) s = .next t ∧
      settles (reseeded c (c.base true) (fun l => stepGen (c.g.lane l).gen)) c.g.gid
        (writesPair c d.toNat (fun l => stepGen (c.g.lane l).gen)) noUni t) ∧
  (∀ s c (a : BitVec 7), issues s true c → fits [usePair c.g.quota a.toNat] →
    ∃ t, exec (.rngseed a) s = .next t ∧
      settles (reseeded c (c.base true) (fun l => if c.pair a.toNat l = 0 then 1 else c.pair a.toNat l)) c.g.gid noWrites noUni t)

/-- Accumulating lane instructions, and the lane's generator. -/
def Obligations.LaneAccumulationAndGenerator : Prop := laneAccumulationHold ∧ laneGeneratorHold

/-! ### Predicates (R152, R155, R159, R163) -/

/-- PLOG (R163). -/
def Sys2Proof.Claim.predLogic : Instr → Option (BitVec 7 × (Ctx → Nat → Bool))
  | .pand d a b => some (d, fun c l => c.readP l a.toNat && c.readP l b.toNat)
  | .por d a b => some (d, fun c l => c.readP l a.toNat || c.readP l b.toNat)
  | .pxor d a b => some (d, fun c l => c.readP l a.toNat != c.readP l b.toNat)
  | .pandn d a b => some (d, fun c l => c.readP l a.toNat && !c.readP l b.toNat)
  | .pnot d a => some (d, fun c l => !c.readP l a.toNat)
  | .pmov d a => some (d, fun c l => c.readP l a.toNat)
  | .pset d => some (d, fun _ _ => true)
  | .pclr d => some (d, fun _ _ => false)
  | _ => none

/-- The active lanes write one predicate. -/
def Sys2Proof.Claim.writesPred (c : Ctx) (k : Nat) (v : Nat → Bool) : Writes :=
  writesOne c (Config.predBase + k) (fun _ => 1) (fun l => if v l then 1 else 0)

/-- The conditions of R155. -/
def Sys2Proof.Claim.condition (k : Nat) (x y : Word) : Bool :=
  match k with
  | 0 => decide (x = y)
  | 1 => decide (x ≠ y)
  | 2 => decide (x.toInt < y.toInt)
  | 3 => decide (x.toInt ≤ y.toInt)
  | 4 => decide (y.toInt < x.toInt)
  | 5 => decide (y.toInt ≤ x.toInt)
  | 6 => decide (x.toNat < y.toNat)
  | 7 => decide (x.toNat ≤ y.toNat)
  | 8 => decide (y.toNat < x.toNat)
  | _ => decide (y.toNat ≤ x.toNat)

/-- The 7-bit immediate of ICMPI and UCMPI (R132, R155). -/
def Sys2Proof.Claim.shortImm (x : Option (BitVec 25)) (i : BitVec 7) : Word := (immediate x i).getD 0

/-- The predicate each comparison and each predicate operation writes in every active lane; VTOP writes all 24 from the bits of A. -/
def Obligations.LanePredicates : Prop :=
  (∀ s c i d f, predLogic i = some (d, f) → issues s true c →
    ∃ t, exec i s = .next t ∧ settles (c.base true) c.g.gid (writesPred c d.toNat (f c)) noUni t) ∧
  (∀ s c (d a b : BitVec 7) (k : BitVec 4) s1 x s2 y, issues s true c → c.cl.xmod = none →
    fits [useSrc c.g.quota a.toNat, useSrc c.g.quota b.toNat] →
    reads c (c.base true) a.toNat = some (s1, x) → reads c s1 b.toNat = some (s2, y) →
    ∃ t, exec (.icmp d a b k) s = .next t ∧
      settles s2 c.g.gid (writesPred c d.toNat (fun l => condition k.toNat (x l) (y l))) noUni t) ∧
  (∀ s c (d a : BitVec 7) (k : BitVec 4) (n : BitVec 7) s1 x, issues s true c → fits [useSrc c.g.quota a.toNat] →
    reads c (c.base true) a.toNat = some (s1, x) →
    ∃ t, exec (.icmpi d a k n) s = .next t ∧
      settles s1 c.g.gid (writesPred c d.toNat (fun l => condition k.toNat (x l) (shortImm c.cl.ximm n))) noUni t) ∧
  (∀ s c (a : BitVec 7) s1 x, issues s true c → fits [useSrc c.g.quota a.toNat] → reads c (c.base true) a.toNat = some (s1, x) →
    ∃ t, exec (.vtop a) s = .next t ∧
      settles s1 c.g.gid (fun l k => if c.act.getLsbD l ∧ Config.predBase ≤ k ∧ k < Config.predBase + 24 then
        some (1, if (x l).getLsbD (k - Config.predBase) then 1 else 0) else none) noUni t)

/-! ## Floating point (R156 to R162, R165 to R169) -/

/-- Modifiers of a floating instruction, and the destination they name; without XMOD, FP32 and RNE (R133, R156). -/
def Sys2Proof.Claim.modifiers (x : Option XMod) (two : Bool) : Option (BitVec 7 × BitVec 7 × FloatDst) :=
  match x with
  | none => some (0, 0, fullDst)
  | some m => if floatModOk m.a ∧ (if two then floatModOk m.b else decide (m.b = 0)) ∧ m.floatDstOk then some (m.a, m.b, m.floatDst) else none

/-- The result x rounded once into a lane's destination (R156). -/
def Sys2Proof.Claim.roundedTo (c : Ctx) (f : FloatDst) (l : Nat) (x : FVal) : Word :=
  BitVec.ofNat 32 (f.fmt.round f.mode f.sat (stepGen (c.g.lane l).gen) x * 2 ^ f.shift)

/-- A stochastic destination draws once in each active lane (R42, R57). -/
def Sys2Proof.Claim.afterDraw (c : Ctx) (f : FloatDst) (p : State) : State :=
  if f.mode = 5 then reseeded c p (fun l => stepGen (c.g.lane l).gen) else p

/-- FALU (R157): the exact result, told whether the mode is RDN, from A, B and B's sign bit. -/
def Sys2Proof.Claim.floatBinary : Instr → Option (BitVec 7 × BitVec 7 × BitVec 7 × (Bool → FVal → FVal → Bool → FVal))
  | .fadd d a b => some (d, a, b, fun rdn x y _ => FVal.sum rdn [x, y])
  | .fsub d a b => some (d, a, b, fun rdn x y _ => FVal.sum rdn [x, y.neg])
  | .fmul d a b => some (d, a, b, fun _ x y _ => x.mul y)
  | .fmin d a b => some (d, a, b, fun _ x y _ => x.minimum y)
  | .fmax d a b => some (d, a, b, fun _ x y _ => x.maximum y)
  | .fcopysign d a b => some (d, a, b, fun _ x _ sign => x.copysign sign)
  | _ => none

/-- FFMA (R158): the terms of the one exact sum, from A × B and D. -/
def Sys2Proof.Claim.floatFused : Instr → Option (BitVec 7 × BitVec 7 × BitVec 7 × (FVal → FVal → List FVal))
  | .ffma d a b => some (d, a, b, fun p z => [p, z])
  | .ffms d a b => some (d, a, b, fun p z => [p, z.neg])
  | .ffnma d a b => some (d, a, b, fun p z => [p.neg, z])
  | .ffnms d a b => some (d, a, b, fun p z => [p.neg, z.neg])
  | _ => none

/-- FUNI but FCLASS (R160). -/
def Sys2Proof.Claim.floatUnary : Instr → Option (BitVec 7 × BitVec 7 × (FVal → FVal))
  | .frndn d a => some (d, a, FVal.integral 0)
  | .frndz d a => some (d, a, FVal.integral 1)
  | .frndd d a => some (d, a, FVal.integral 2)
  | .frndu d a => some (d, a, FVal.integral 3)
  | .fabs d a => some (d, a, fun x => x.copysign false)
  | .fneg d a => some (d, a, FVal.neg)
  | _ => none

/-- The conditions of FCMP (R138, R159). -/
def Sys2Proof.Claim.floatCondition (k : Nat) (x y : FVal) : Bool :=
  let ordered := !x.isNan && !y.isNan
  match k with
  | 0 => ordered && !x.lt y && !y.lt x
  | 1 => !(ordered && !x.lt y && !y.lt x)
  | 2 => ordered && x.lt y
  | 3 => ordered && !y.lt x
  | 4 => ordered && y.lt x
  | 5 => ordered && !x.lt y
  | 6 => !ordered
  | _ => ordered

/-- FALU, FFMA, FUNI, FCMP and FCLASS: one exact result rounded once into its destination, with a draw exactly where the destination rounds
stochastically. -/
def Obligations.LaneFloatingResults : Prop :=
  (∀ s c i d a b f ma mb q s1 x s2 y, floatBinary i = some (d, a, b, f) → issues s true c → modifiers c.cl.xmod true = some (ma, mb, q) →
    fits [useSrc c.g.quota a.toNat, useSrc c.g.quota b.toNat, c.useDst d.toNat] → c.pushStalls d.toNat = false →
    reads c (afterDraw c q (c.base true)) a.toNat = some (s1, x) → reads c s1 b.toNat = some (s2, y) →
    ∃ t, exec i s = .next t ∧
      result c s2 d.toNat q.mask (fun l => roundedTo c q l
        (f (decide (q.mode = 2)) (Mod.float ma (x l)) (Mod.float mb (y l)) (Mod.signBit mb (y l)))) t) ∧
  (∀ s c i d a b f ma mb q s1 x s2 y, floatFused i = some (d, a, b, f) → issues s true c → modifiers c.cl.xmod true = some (ma, mb, q) →
    fits [useSrc c.g.quota a.toNat, useSrc c.g.quota b.toNat, useV c.g.quota d.toNat] →
    reads c (afterDraw c q (c.base true)) a.toNat = some (s1, x) → reads c s1 b.toNat = some (s2, y) →
    ∃ t, exec i s = .next t ∧
      settles s2 c.g.gid (writesOne c d.toNat (fun _ => q.mask) (fun l => roundedTo c q l
        (FVal.sum (decide (q.mode = 2)) (f ((Mod.float ma (x l)).mul (Mod.float mb (y l))) (f32 (c.readV l d.toNat)))))) noUni t) ∧
  (∀ s c i d a f ma mb q s1 x, floatUnary i = some (d, a, f) → issues s true c → modifiers c.cl.xmod false = some (ma, mb, q) →
    fits [useSrc c.g.quota a.toNat, c.useDst d.toNat] → c.pushStalls d.toNat = false →
    reads c (afterDraw c q (c.base true)) a.toNat = some (s1, x) →
    ∃ t, exec i s = .next t ∧ result c s1 d.toNat q.mask (fun l => roundedTo c q l (f (Mod.float ma (x l)))) t) ∧
  (∀ s c (d a b : BitVec 7) (k : BitVec 4) ma mb q s1 x s2 y, issues s true c → modifiers c.cl.xmod true = some (ma, mb, q) →
    (∀ m, c.cl.xmod = some m → m.dstZero = true) → fits [useSrc c.g.quota a.toNat, useSrc c.g.quota b.toNat] →
    reads c (c.base true) a.toNat = some (s1, x) → reads c s1 b.toNat = some (s2, y) →
    ∃ t, exec (.fcmp d a b k) s = .next t ∧
      settles s2 c.g.gid (writesPred c d.toNat (fun l => floatCondition k.toNat (Mod.float ma (x l)) (Mod.float mb (y l)))) noUni t) ∧
  (∀ s c (d a : BitVec 7) ma mb q s1 x, issues s true c → modifiers c.cl.xmod false = some (ma, mb, q) →
    (∀ m, c.cl.xmod = some m → m.dstZero = true) → fits [useSrc c.g.quota a.toNat, c.useDst d.toNat] → c.pushStalls d.toNat = false →
    reads c (c.base true) a.toNat = some (s1, x) →
    ∃ t, exec (.fclass d a) s = .next t ∧
      result c s1 d.toNat whole (fun l =>
        floatClass (if ma = 0 then fp32 else modFmt (ma.toNat / 32) (ma.toNat % 4)) (Mod.float ma (x l))) t)

/-- HALF2's two-source forms (R161). -/
def Sys2Proof.Claim.packed : Instr → Option (BitVec 7 × BitVec 7 × BitVec 7 × Fmt × (FVal → FVal → FVal))
  | .hadd2 d a b => some (d, a, b, fp16, fun x y => x.add y)
  | .hsub2 d a b => some (d, a, b, fp16, fun x y => x.add y.neg)
  | .hmul2 d a b => some (d, a, b, fp16, fun x y => x.mul y)
  | .hmin2 d a b => some (d, a, b, fp16, fun x y => x.minimum y)
  | .hmax2 d a b => some (d, a, b, fp16, fun x y => x.maximum y)
  | .badd2 d a b => some (d, a, b, bf16, fun x y => x.add y)
  | .bsub2 d a b => some (d, a, b, bf16, fun x y => x.add y.neg)
  | .bmul2 d a b => some (d, a, b, bf16, fun x y => x.mul y)
  | .bmin2 d a b => some (d, a, b, bf16, fun x y => x.minimum y)
  | .bmax2 d a b => some (d, a, b, bf16, fun x y => x.maximum y)
  | _ => none

/-- CVT without a destination modifier (R165), from the exact source value. -/
def Sys2Proof.Claim.converted (k : Nat) (x : FVal) : Word :=
  match k with
  | 0 => (BitVec.ofNat 16 (fp16.round 0 false 0 x)).setWidth 32
  | 1 => (BitVec.ofNat 16 (bf16.round 0 false 0 x)).setWidth 32
  | 4 => BitVec.ofInt 32 (roundInt true 32 0 0 x)
  | 5 => BitVec.ofInt 32 (roundInt false 32 0 0 x)
  | _ => BitVec.ofNat 32 (fp32.round 0 false 0 x)

/-- CVT's source (R165, R166): the register, its low half, or the subfield a modifier names. -/
def Sys2Proof.Claim.converting (k : Nat) (ma : BitVec 7) (w : Word) : FVal :=
  if k < 6 then (if ma ≠ 0 then Mod.float ma w
    else if k = 2 then fp16.widen (w.extractLsb' 0 16).toNat
    else if k = 3 then bf16.widen (w.extractLsb' 0 16).toNat
    else f32 w)
  else FVal.ofInt (if ma ≠ 0 then Mod.int ma true w else if k = 6 then w.toInt else w.toNat)

/-- The modifiers CVT accepts: each in its minor's source or destination class, and none for B (R166). -/
def Sys2Proof.Claim.convertible (k : Nat) (m : XMod) : Prop :=
  (if k < 6 then floatModOk m.a else intModOk m.a) = true ∧ (if k = 4 ∨ k = 5 then m.intDstOk else m.floatDstOk) = true ∧ m.b = 0

/-- HALF2, CVT, QNT and DQNT: every lane's value, its destination bits and no others (R161, R165 to R169). -/
def Obligations.LanePackedAndConverted : Prop :=
  (∀ s c i d a b q f s1 x s2 y, packed i = some (d, a, b, q, f) → issues s true c →
    fits [useSrc c.g.quota a.toNat, useSrc c.g.quota b.toNat, c.useDst d.toNat] → c.pushStalls d.toNat = false →
    reads c (c.base true) a.toNat = some (s1, x) → reads c s1 b.toNat = some (s2, y) →
    ∃ t, exec i s = .next t ∧ result c s2 d.toNat whole (fun l => inHalves q (fun p r _ => f p r) (x l) (y l) 0) t) ∧
  (∀ s c (d a : BitVec 7) (k : BitVec 4) s1 x, issues s true c → (∀ m, c.cl.xmod = some m → convertible k.toNat m ∧ m.dstZero = true) →
    fits [useSrc c.g.quota a.toNat, c.useDst d.toNat] → c.pushStalls d.toNat = false → reads c (c.base true) a.toNat = some (s1, x) →
    ∃ t, exec (.cvt d a k) s = .next t ∧
      result c s1 d.toNat whole (fun l => converted k.toNat (converting k.toNat ((c.cl.xmod.map (·.a)).getD 0) (x l))) t) ∧
  (∀ s c (d a : BitVec 7) (k : BitVec 4) m s1 x, issues s true c → c.cl.xmod = some m → convertible k.toNat m → m.dstZero = false →
    fits [useSrc c.g.quota a.toNat, c.useDst d.toNat] → c.pushStalls d.toNat = false →
    reads c (if m.round = 5 then reseeded c (c.base true) (fun l => stepGen (c.g.lane l).gen) else c.base true) a.toNat = some (s1, x) →
    ∃ t, exec (.cvt d a k) s = .next t ∧
      result c s1 d.toNat m.dst.mask (fun l => m.dst.place
        (if 2 ≤ m.interp.toNat then
          (modFmt m.width.toNat m.interp.toNat).round m.round.toNat m.sat (stepGen (c.g.lane l).gen) (converting k.toNat m.a (x l))
        else intBits (modWidth m.width.toNat) (roundInt (dstSigned m) (modWidth m.width.toNat) m.round.toNat (stepGen (c.g.lane l).gen)
          (converting k.toNat m.a (x l))))) t) ∧
  (∀ s c (d a b : BitVec 7) (n : BitVec 3) s1 x s2 y, issues s true c → qntSlotOk (c.slot n.toNat) = true →
    fits [useSrc c.g.quota a.toNat, useSrc c.g.quota b.toNat, useV c.g.quota d.toNat] →
    reads c (c.base true) a.toNat = some (s1, x) → reads c s1 b.toNat = some (s2, y) →
    let w := regWidth (c.slot n.toNat).elem
    let index (l : Nat) : Nat := ((y l).extractLsb' 24 3).toNat
    ∃ t, exec (.qnt d a b n) s = .next t ∧
      settles s2 c.g.gid (fun l k => if c.act.getLsbD l ∧ k = d.toNat ∧ w * (index l + 1) ≤ 32 then
        some (whole, (c.readV l d.toNat &&& ~~~fieldMask w (index l)) |||
          BitVec.ofNat 32 (quantise (c.slot n.toNat) (f32 (x l)) (y l) * 2 ^ (w * index l))) else none) noUni t) ∧
  (∀ s c (d a b : BitVec 7) (n : BitVec 3) s1 x s2 y, issues s true c → qntSlotOk (c.slot n.toNat) = true →
    fits [useSrc c.g.quota a.toNat, useSrc c.g.quota b.toNat, c.useDst d.toNat] → c.pushStalls d.toNat = false →
    reads c (c.base true) a.toNat = some (s1, x) → reads c s1 b.toNat = some (s2, y) →
    let w := regWidth (c.slot n.toNat).elem
    let index (l : Nat) : Nat := ((y l).extractLsb' 24 3).toNat
    let value (l : Nat) : Word := toF32 (elementValue (c.slot n.toNat) (widenCode (c.slot n.toNat).elem ((x l).toNat / 2 ^ (w * index l)))
      (qZero (c.slot n.toNat) (y l)) (qScale (c.slot n.toNat) (y l)))
    ∃ t, exec (.dqnt d a b n) s = .next t ∧
      if d.toNat < 104 then
        settles s2 c.g.gid (fun l k => if c.act.getLsbD l ∧ k = d.toNat ∧ w * (index l + 1) ≤ 32 then some (whole, value l) else none) noUni t
      else result c s2 d.toNat whole (fun l => if w * (index l + 1) ≤ 32 then value l else 0) t)

/-! ## Long lane operations (R128, R146, R171, R207 to R211) -/

/-- The state once a long operation is in flight: its flag has risen by one, and the operation stands last with its results, what it waits
for, and its own place in the clause (R37, R128). -/
def Sys2Proof.Claim.inFlight (c : Ctx) (p : State) (flag : Nat) (lane : Bool) (results : List RegWrite) (wait : Waiting) (operands : List Word) :
    State :=
  let q := p.updGroup c.g.gid (fun g => { g with flags := g.flags.modify flag (· + 1) })
  let o : LongOp :=
    { id := p.fresh, gid := c.g.gid, flag := flag, header := c.cl.base, index := c.cl.index, mask := if lane then c.act else c.run,
      words := c.rawWords, evtag := c.g.evtag, operands := operands, results := results, wait := wait, arrived := false, held := false,
      again := false, cycle := c.cycle, overtaken := [] }
  { q with fresh := p.fresh + 1, ops := q.ops ++ [o] }

/-- The flag of a long operation, where its header names one that has not reached 63 (R37, R128). -/
def Sys2Proof.Claim.flagFree (c : Ctx) (flag : Nat) : Prop := flag ≠ 15 ∧ c.g.flag flag < 63

/-- One register of every active lane, as the results of a long operation. -/
def Sys2Proof.Claim.toLanes (c : Ctx) (r : Nat) (mask : Word) (v : Nat → Word) : List RegWrite :=
  (lanesOf c.act).map (fun l => { lane := some l, reg := r, mask := mask, value := v l, loses := false })

/-- A long result: to a v register, or with an entry reserved in the neighbour's queue (R142). -/
def Sys2Proof.Claim.longResult (c : Ctx) (p : State) (d : Nat) (mask : Word) (v : Nat → Word) (t : State) : Prop :=
  if d < 104 ∨ c.act = 0 then settles (inFlight c p c.cl.header.seta true (toLanes c d mask v) .none []) c.g.gid noWrites noUni t
  else settles (inFlight c (p.push c.g (d - 120) { op := some p.fresh, words := [] }) c.cl.header.seta true []
      (.push (d - 120) ((List.range 32).map (fun l => if c.act.getLsbD l then v l &&& mask else 0))) []) c.g.gid noWrites noUni t

/-- The division forms (R146). -/
def Sys2Proof.Claim.divisions : Instr → Option (BitVec 7 × BitVec 7 × BitVec 7 × (Word → Word → Word))
  | .idiv d a b => some (d, a, b, fun x y =>
      if y = 0 then 0xFFFFFFFF else if x = 0x80000000 ∧ y = 0xFFFFFFFF then 0x80000000 else BitVec.ofInt 32 (x.toInt.tdiv y.toInt))
  | .udiv d a b => some (d, a, b, fun x y => if y = 0 then 0xFFFFFFFF else BitVec.ofNat 32 (x.toNat / y.toNat))
  | .irem d a b => some (d, a, b, fun x y =>
      if y = 0 then x else if x = 0x80000000 ∧ y = 0xFFFFFFFF then 0 else BitVec.ofInt 32 (x.toInt - y.toInt * x.toInt.tdiv y.toInt))
  | .urem d a b => some (d, a, b, fun x y => if y = 0 then x else BitVec.ofNat 32 (x.toNat - y.toNat * (x.toNat / y.toNat)))
  | _ => none

/-- The functions of the special-function unit, by minor (R171). -/
def Sys2Proof.Claim.special : Instr → Option (BitVec 7 × BitVec 7 × BitVec 7 × Nat)
  | .exp2 d a b => some (d, a, b, 0)
  | .exp d a b => some (d, a, b, 1)
  | .log2 d a b => some (d, a, b, 2)
  | .rcp d a b => some (d, a, b, 3)
  | .rsqrt d a b => some (d, a, b, 4)
  | .sqrt d a b => some (d, a, b, 5)
  | .sin d a b => some (d, a, b, 6)
  | .cos d a b => some (d, a, b, 7)
  | .tanh d a b => some (d, a, b, 8)
  | .sigm d a b => some (d, a, b, 9)
  | .gelu d a b => some (d, a, b, 10)
  | _ => none

/-- Divisions and special functions: a long operation on SETA with every active lane's result; no case of a division traps. What the unit
computes away from the special operands is the model's exact evaluation (assumption log 15). -/
def Obligations.LaneLongResults : Prop :=
  (∀ s c i d a b f s1 x s2 y, divisions i = some (d, a, b, f) → issues s true c → flagFree c c.cl.header.seta →
    fits [useSrc c.g.quota a.toNat, useSrc c.g.quota b.toNat, c.useDst d.toNat] → c.pushStalls d.toNat = false →
    reads c (c.base true) a.toNat = some (s1, x) → reads c s1 b.toNat = some (s2, y) →
    ∃ t, exec i s = .next t ∧ longResult c s2 d.toNat whole (fun l => f (x l) (y l)) t) ∧
  (∀ s c i d a b k ma mb q s1 x s2 y, special i = some (d, a, b, k) → issues s true c → flagFree c c.cl.header.seta →
    modifiers c.cl.xmod false = some (ma, mb, q) →
    fits [useSrc c.g.quota a.toNat, useSrc c.g.quota b.toNat, c.useDst d.toNat] → c.pushStalls d.toNat = false →
    reads c (afterDraw c q (c.base true)) a.toNat = some (s1, x) → reads c s1 b.toNat = some (s2, y) →
    ∃ t, exec i s = .next t ∧
      longResult c s2 d.toNat q.mask (fun l => roundedTo c q l (f32 (sfu k ((y l).extractLsb' 0 2).toNat (Mod.float ma (x l))))) t)

/-- Special operands of R172 that every count gives, by minor: NaN, the infinities and the zeros. -/
def Obligations.SpecialOperands : Prop :=
  (∀ fn n, fn < 11 → sfu fn n .nan = 0x7FC00000) ∧
  (∀ n, [0, 1, 2, 3, 4, 5, 6, 7, 8, 9, 10].map (fun fn => sfu fn n (.inf true)) =
    [0, 0, 0x7FC00000, 0x80000000, 0x7FC00000, 0x7FC00000, 0x7FC00000, 0x7FC00000, 0xBF800000, 0, 0x80000000]) ∧
  (∀ n, [0, 1, 2, 3, 4, 5, 6, 7, 8, 9, 10].map (fun fn => sfu fn n (.inf false)) =
    [0x7F800000, 0x7F800000, 0x7F800000, 0, 0, 0x7F800000, 0x7FC00000, 0x7FC00000, 0x3F800000, 0x3F800000, 0x7F800000]) ∧
  (∀ n e, [0, 1, 2, 3, 4, 5, 6, 7, 8, 9, 10].map (fun fn => sfu fn n (.fin false 0 e)) =
    [0x3F800000, 0x3F800000, 0xFF800000, 0x7F800000, 0x7F800000, 0, 0, 0x3F800000, 0, 0x3F000000, 0]) ∧
  (∀ n e, [0, 1, 2, 3, 4, 5, 6, 7, 8, 9, 10].map (fun fn => sfu fn n (.fin true 0 e)) =
    [0x3F800000, 0x3F800000, 0xFF800000, 0xFF800000, 0xFF800000, 0x80000000, 0x80000000, 0x3F800000, 0x80000000, 0x3F000000, 0x80000000])

/-- Rounding a value that the format holds gives its code back, in every mode but the stochastic one and with or without saturation (R56). -/
def Obligations.RoundingKeepsRepresentable : Prop :=
  ∀ f ∈ [fp32, bf16, fp16, e4m3, e5m2, e3m2, e2m3, e2m1], ∀ (mode : Nat) (sat : Bool) (draw : BitVec 64) (code : Nat),
    mode < 5 → code < 2 ^ f.width → f.widen code ≠ .nan → (∀ neg, f.widen code = .inf neg → f.ieee = true) →
    f.round mode sat draw (f.widen code) = code

/-! ### Cross-lane (R207 to R211) -/

/-- A source of a cross-lane instruction: a lane's register, or an s register. -/
def Sys2Proof.Claim.fromLane (c : Ctx) (a l : Nat) : Word := if a < 104 then c.readV l a else c.readS (a - 104)

/-- The lane a lane of LPERM reads: by index, by rotation, by exclusive or, or the lowest active one; itself where that lane is not active
(R208). -/
def Sys2Proof.Claim.permuted (c : Ctx) (mode l k : Nat) : Nat :=
  let j := match mode with
    | 0 => k
    | 1 => (l + k) % 32
    | 2 => Nat.xor l k
    | _ => ((lanesOf c.act).head?).getD 0
  if c.act.getLsbD j then j else l

/-- The two operands of LFOLD's tree and SCAN's chain: integer and floating operations by minor (R59, R210). -/
def Sys2Proof.Claim.foldOp (m : Nat) (x y : Word) : Word :=
  match m with
  | 0 => x + y
  | 1 => if x.toInt ≤ y.toInt then x else y
  | 2 => if x.toInt ≤ y.toInt then y else x
  | 3 => if x.toNat ≤ y.toNat then x else y
  | 4 => if x.toNat ≤ y.toNat then y else x
  | 5 => x &&& y
  | 6 => x ||| y
  | 7 => x ^^^ y
  | 8 => toF32 ((f32 x).add (f32 y))
  | 9 => toF32 ((f32 x).minimum (f32 y))
  | _ => toF32 ((f32 x).maximum (f32 y))

/-- LPERM, LSENSE, LFOLD and SCAN: long operations over the active lanes alone; inactive lanes give and receive nothing. -/
def Obligations.LaneCrossLane : Prop :=
  (∀ s c (d a b : BitVec 7) (m : BitVec 4), issues s true c → flagFree c c.cl.header.seta →
    fits ([useNoPort c.g.quota a.toNat, useV c.g.quota d.toNat] ++ if m.toNat = 3 then [] else [useNoPort c.g.quota b.toNat]) →
    ∃ t, exec (.lperm d a b m) s = .next t ∧
      settles (inFlight c (c.base true) c.cl.header.seta true (toLanes c d.toNat whole (fun l =>
        fromLane c a.toNat (permuted c m.toNat l (if m.toNat = 3 then 0 else (fromLane c b.toNat l).toNat % 32)))) .none [])
        c.g.gid noWrites noUni t) ∧
  (∀ s c (d a : BitVec 7) (m : BitVec 4), issues s true c → flagFree c c.cl.header.seta → m.toNat < 2 →
    ∃ t, exec (.lsense d a m) s = .next t ∧
      settles (inFlight c (c.base true) c.cl.header.seta true (toLanes c (Config.predBase + d.toNat) 1 (fun _ =>
        if (if m.toNat = 0 then (lanesOf c.act).any (fun l => c.readP l a.toNat) else (lanesOf c.act).all (fun l => c.readP l a.toNat)) then 1 else 0))
        .none []) c.g.gid noWrites noUni t) ∧
  (∀ s c (d a : BitVec 7) (m : BitVec 4), issues s true c → flagFree c c.cl.header.seta → 2 ≤ m.toNat → fits [useV c.g.quota d.toNat] →
    (m.toNat = 3 → fits [useNoPort c.g.quota a.toNat]) →
    ∃ t, exec (.lsense d a m) s = .next t ∧
      settles (inFlight c (c.base true) c.cl.header.seta true (toLanes c d.toNat whole (fun l =>
        if m.toNat = 2 then maskOf (fun k => c.act.getLsbD k && c.readP k a.toNat)
        else if m.toNat = 3 then maskOf (fun k => c.act.getLsbD k && decide (fromLane c a.toNat k = fromLane c a.toNat l))
        else BitVec.ofNat 32 ((lanesOf c.act).countP (fun k => c.readP k a.toNat)))) .none []) c.g.gid noWrites noUni t) ∧
  (∀ s c (d a : BitVec 7) (m : BitVec 4), issues s true c → flagFree c c.cl.header.seta → m.toNat < 11 →
    fits [useNoPort c.g.quota a.toNat, useV c.g.quota d.toNat] →
    ∃ t, exec (.lfold d a m) s = .next t ∧
      settles (inFlight c (c.base true) c.cl.header.seta true (toLanes c d.toNat whole (fun _ =>
        let r := foldTree (foldOp m.toNat) ((List.range 32).map (fun l => if c.act.getLsbD l then some (fromLane c a.toNat l) else none))
        if 8 ≤ m.toNat ∧ (f32 r).isNan then 0x7FC00000 else r)) .none []) c.g.gid noWrites noUni t) ∧
  (∀ s c (d a : BitVec 7) (m : BitVec 4), issues s true c → flagFree c c.cl.header.seta → m.toNat < 4 →
    fits [useNoPort c.g.quota a.toNat, useV c.g.quota d.toNat] →
    ∃ t, exec (.scan d a m) s = .next t ∧
      settles (inFlight c (c.base true) c.cl.header.seta true (toLanes c d.toNat whole (fun l =>
        let op := foldOp (if m.toNat < 2 then 0 else 8)
        let before := (lanesOf c.act).filter (fun k => decide (if m.toNat % 2 = 0 then k ≤ l else k < l))
        let r := match before.map (fromLane c a.toNat) with
          | [] => 0
          | v :: rest => rest.foldl op v
        if 2 ≤ m.toNat ∧ (f32 r).isNan then 0x7FC00000 else r)) .none []) c.g.gid noWrites noUni t)

/-! ## Uniform instructions (R194 to R198, R203 to R206) -/

/-- One uniform register written; a pair written (R194, R197). -/
def Sys2Proof.Claim.toUni (d : Nat) (v : Word) : UniWrites := fun r => if 104 + r = d then some v else none
def Sys2Proof.Claim.toUniPair (d : Nat) (v : BitVec 64) : UniWrites :=
  fun r => if 104 + r = d then some (v.extractLsb' 0 32) else if 104 + r = d + 1 then some (v.extractLsb' 32 32) else none

/-- Two uniform sources and one s register (R195). -/
def Sys2Proof.Claim.uniBinary : Instr → Option (BitVec 7 × BitVec 7 × BitVec 7 × (Word → Word → Word))
  | .uadd d a b => some (d, a, b, fun x y => BitVec.ofNat 32 (x.toNat + y.toNat))
  | .usub d a b => some (d, a, b, fun x y => BitVec.ofInt 32 (x.toNat - y.toNat))
  | .umul d a b => some (d, a, b, fun x y => BitVec.ofNat 32 (x.toNat * y.toNat))
  | .umulhu d a b => some (d, a, b, fun x y => (x.setWidth 64 * y.setWidth 64).extractLsb' 32 32)
  | .ualuUmin d a b => some (d, a, b, fun x y => if x.toNat ≤ y.toNat then x else y)
  | .ualuUmax d a b => some (d, a, b, fun x y => if x.toNat ≤ y.toNat then y else x)
  | .ualuAnd d a b => some (d, a, b, fun x y => x &&& y)
  | .ualuOr d a b => some (d, a, b, fun x y => x ||| y)
  | .ualuXor d a b => some (d, a, b, fun x y => x ^^^ y)
  | .ualuShl d a b => some (d, a, b, fun x y => BitVec.ofNat 32 (x.toNat * 2 ^ amount y))
  | .ualuShr d a b => some (d, a, b, fun x y => BitVec.ofNat 32 (x.toNat / 2 ^ amount y))
  | .ualuShra d a b => some (d, a, b, fun x y => BitVec.ofInt 32 (x.toInt / 2 ^ amount y))
  | _ => none

/-- Uniform arithmetic: the s register or pair takes the value at once, from s registers and team ports; no lane and no other s register
changes. A comparison writes its predicate in every lane of the run. -/
def Obligations.UniformResults : Prop :=
  (∀ s c i d a b f s1 x s2 y, uniBinary i = some (d, a, b, f) → issues s false c → fits [useUni a.toNat, useUni b.toNat, useS d.toNat] →
    ureads c (c.base false) a.toNat = some (s1, x) → ureads c s1 b.toNat = some (s2, y) →
    ∃ t, exec i s = .next t ∧ settles s2 c.g.gid noWrites (toUni d.toNat (f x y)) t) ∧
  (∀ s c (d a : BitVec 7) (n : BitVec 11) v s1 x, issues s false c → immediate c.cl.ximm n = some v → fits [useUni a.toNat, useS d.toNat] →
    ureads c (c.base false) a.toNat = some (s1, x) →
    ∃ t, exec (.uaddi d a n) s = .next t ∧ settles s1 c.g.gid noWrites (toUni d.toNat (x + v)) t) ∧
  (∀ s c (d : BitVec 7) (n : BitVec 18) v, issues s false c → immediate c.cl.ximm n = some v → fits [useS d.toNat] →
    ∃ t, exec (.umovi d n) s = .next t ∧ settles (c.base false) c.g.gid noWrites (toUni d.toNat v) t) ∧
  (∀ s c (d a b : BitVec 7), issues s false c → fits [useSPair a.toNat, useSPair b.toNat, useSPair d.toNat] →
    (∃ t, exec (.uaddx d a b) s = .next t ∧
      settles (c.base false) c.g.gid noWrites (toUniPair d.toNat (c.spair a.toNat + c.spair b.toNat)) t) ∧
    (∃ t, exec (.usubx d a b) s = .next t ∧
      settles (c.base false) c.g.gid noWrites (toUniPair d.toNat (c.spair a.toNat - c.spair b.toNat)) t)) ∧
  (∀ s c (d a b : BitVec 7) s1 x s2 y, issues s false c → fits [useUni a.toNat, useUni b.toNat, useSPair d.toNat] →
    ureads c (c.base false) a.toNat = some (s1, x) → ureads c s1 b.toNat = some (s2, y) →
    ∃ t, exec (.umulw d a b) s = .next t ∧
      settles s2 c.g.gid noWrites (toUniPair d.toNat (BitVec.ofNat 64 (x.toNat * y.toNat))) t) ∧
  (∀ s c (d a b : BitVec 7) (k : BitVec 2) s1 y, issues s false c → fits [useSPair a.toNat, useUni b.toNat, useSPair d.toNat] →
    ureads c (c.base false) b.toNat = some (s1, y) →
    ∃ t, exec (.ulea d a b k) s = .next t ∧
      settles s1 c.g.gid noWrites (toUniPair d.toNat (c.spair a.toNat + BitVec.ofInt 64 (y.toInt * 2 ^ k.toNat))) t) ∧
  (∀ s c (d a b : BitVec 7) (k : BitVec 4) s1 x s2 y, issues s false c → fits [useUni a.toNat, useUni b.toNat] →
    ureads c (c.base false) a.toNat = some (s1, x) → ureads c s1 b.toNat = some (s2, y) →
    ∃ t, exec (.ucmp d a b k) s = .next t ∧
      settles s2 c.g.gid (writesPred c d.toNat (fun _ => condition k.toNat x y)) noUni t) ∧
  (∀ s c (d a : BitVec 7) (k : BitVec 4) (n : BitVec 7) s1 x, issues s false c → fits [useUni a.toNat] →
    ureads c (c.base false) a.toNat = some (s1, x) →
    ∃ t, exec (.ucmpi d a k n) s = .next t ∧
      settles s1 c.g.gid (writesPred c d.toNat (fun _ => condition k.toNat x (shortImm c.cl.ximm n))) noUni t) ∧
  (∀ s c (d j : BitVec 7), issues s false c → fits [useS d.toNat] →
    ∃ t, exec (.rjread d j) s = .next t ∧
      settles (c.base false) c.g.gid noWrites (toUni d.toNat ((c.g.rejoin.getD j.toNat (0, false)).1)) t)

/-! ## Branches, calls, runs (R20 to R23, R123, R199 to R202, R206) -/

/-- The header a branch names: its clause's header address + 4 × SExt(offset), modulo 2^64 (R123). -/
def Sys2Proof.Claim.branchTo (c : Ctx) (o : BitVec 18) : Nat := (BitVec.ofNat 64 c.cl.base + BitVec.ofInt 64 (o.toInt * 4)).toNat

/-- The word at a target is no obstacle: a clause header, or a word whose fetch the target's own clause start will fault on (R199). -/
def Sys2Proof.Claim.landable (c : Ctx) (t : Nat) : Prop :=
  ∀ p, c.s.access c.insetId .x t 4 = .ok p → (c.s.mem.word p).extractLsb' 25 7 = 0x7F#7

/-- The header that follows the clause (R201). -/
def Sys2Proof.Claim.following (c : Ctx) : Nat := c.cl.base + 8 + 4 * c.cl.header.len

/-- After the clause, lane l of the run stands at word 0 of the header given. -/
def Sys2Proof.Claim.standAt (c : Ctx) (t : State) (dest : Nat → Nat) : Prop :=
  ∀ h, t.group? c.g.gid = some h → ∀ l x, c.run.getLsbD l → h.lanes[l]? = some x → x.header = dest l ∧ x.index = 0

/-- The word is the last of its clause, as R130 has every branch be. -/
def Sys2Proof.Claim.lastWord (c : Ctx) : Prop := c.cl.header.len ≤ c.cl.index + 1

/-- BRA moves the whole run or none of it, by the predicate over the active lanes; BRL sends exactly the active lanes whose predicate is 1;
CALL and the indirect forms move the run and CALL and CALLR write the link, read before it is written. Nothing else changes. -/
def Sys2Proof.Claim.branchesMoveRunsHold : Prop :=
  (∀ s c (p : BitVec 5) (m : BitVec 2) (o : BitVec 18), issues s false c → lastWord c → landable c (branchTo c o) →
    let holds (l : Nat) : Bool := p = 31 || c.readP l p.toNat
    let taken : Bool := match m.toNat with
      | 0 => true
      | 1 => (lanesOf c.run).any holds
      | 2 => (lanesOf c.run).all holds
      | _ => (lanesOf c.run).all (fun l => !holds l)
    ∃ t, exec (.bra p m o) s = .next t ∧ settles (c.base false) c.g.gid noWrites noUni t ∧
      standAt c t (fun _ => if taken then branchTo c o else following c)) ∧
  (∀ s c (p : BitVec 5) (o : BitVec 18), issues s true c → lastWord c → landable c (branchTo c o) →
    ∃ t, exec (.brl p o) s = .next t ∧ settles (c.base true) c.g.gid noWrites noUni t ∧
      standAt c t (fun l => if c.act.getLsbD l && (p = 31 || c.readP l p.toNat) then branchTo c o else following c)) ∧
  (∀ s c (o : BitVec 18), issues s false c → lastWord c → landable c (branchTo c o) →
    ∃ t, exec (.call o) s = .next t ∧
      settles (c.base false) c.g.gid noWrites (toUniPair 118 (BitVec.ofNat 64 (following c))) t ∧ standAt c t (fun _ => branchTo c o)) ∧
  (∀ s c (a : BitVec 7), issues s false c → lastWord c → fits [useSPair a.toNat] → (c.spair a.toNat).toNat < 2 ^ 48 →
    (c.spair a.toNat).toNat % 4 = 0 → landable c (c.spair a.toNat).toNat →
    (∃ t, exec (.ret a) s = .next t ∧ settles (c.base false) c.g.gid noWrites noUni t ∧ standAt c t (fun _ => (c.spair a.toNat).toNat)) ∧
    (∃ t, exec (.brr a) s = .next t ∧ settles (c.base false) c.g.gid noWrites noUni t ∧ standAt c t (fun _ => (c.spair a.toNat).toNat)) ∧
    (∃ t, exec (.callr a) s = .next t ∧ settles (c.base false) c.g.gid noWrites (toUniPair 118 (BitVec.ofNat 64 (following c))) t ∧
      standAt c t (fun _ => (c.spair a.toNat).toNat)))

/-- A target that is no clause header, and an indirect one that is not canonical or not aligned, is a malformed branch: an illegal
instruction, before any effect (R137, R199, R201). -/
def Sys2Proof.Claim.malformedBranchesHold : Prop :=
  (∀ s c (m : BitVec 2) (p : BitVec 5) (o : BitVec 18), s.ctx? false = some c → ¬landable c (branchTo c o) →
    exec (.bra p m o) s = .next (c.take { kind := 1, info := c.run, addr := c.cl.base }) ∧
    exec (.call o) s = .next (c.take { kind := 1, info := c.run, addr := c.cl.base })) ∧
  (∀ s c (p : BitVec 5) (o : BitVec 18), s.ctx? true = some c → ¬landable c (branchTo c o) →
    exec (.brl p o) s = .next (c.take { kind := 1, info := c.act, addr := c.cl.base })) ∧
  (∀ s c (a : BitVec 7), s.ctx? false = some c → fits [useSPair a.toNat] →
    2 ^ 48 ≤ (c.spair a.toNat).toNat ∨ (c.spair a.toNat).toNat % 4 ≠ 0 ∨ ¬landable c (c.spair a.toNat).toNat →
    ∀ i ∈ [Instr.ret a, .brr a, .callr a], exec i s = .next (c.take { kind := 1, info := c.run, addr := c.cl.base }))

/-- Branches move runs or send lanes (R199 to R201); a branch with no clause header at its target is an illegal instruction. -/
def Obligations.Branches : Prop := branchesMoveRunsHold ∧ malformedBranchesHold

/-- NOP changes nothing but time and the counters; YIELD defers the run that issues it (R21, R202); a prefix changes only what the next word
of the clause is read with (R131). -/
def Sys2Proof.Claim.quietWordsHold : Prop :=
  (∀ s c, issues s false c → ∃ t, exec .nop s = .next t ∧ settles (c.base false) c.g.gid noWrites noUni t) ∧
  (∀ s c, issues s false c → ∃ t, exec .yield s = .next t ∧ settles (c.base false) c.g.gid noWrites noUni t ∧
    (c.cl.index + 1 < c.cl.header.len → ∀ h, t.group? c.g.gid = some h → ∀ r ∈ h.runs, r.id = c.cl.run → r.deferred = true)) ∧
  (∀ s g cl, s.issuer.bind s.group? = some g → g.clause = some cl → g.stop = none →
    (∀ x : BitVec 25, ∃ t, exec (.ximm x) s = .next t ∧ t = { s with groups := t.groups } ∧
      t.group? g.gid = some { g with clause := some { cl with index := cl.index + 1, ximm := some x } } ∧
      ∀ id, id ≠ g.gid → t.group? id = s.group? id) ∧
    (∀ (a b : BitVec 7) (w : BitVec 2) (i : BitVec 3) (k : BitVec 2) (r : BitVec 3) (st : BitVec 1),
      ∃ t, exec (.xmod a b w i k r st) s = .next t ∧ t = { s with groups := t.groups } ∧
      t.group? g.gid = some { g with clause := some { cl with
        index := cl.index + 1,
        xmod := some { a := a, b := b, width := w, index := i, interp := k, round := r, sat := decide (st = 1) } } } ∧
      ∀ id, id ≠ g.gid → t.group? id = s.group? id) ∧
    (∀ (k : BitVec 3) (o : BitVec 2), ∃ t, exec (.xsco k o) s = .next t ∧ t = { s with groups := t.groups } ∧
      t.group? g.gid = some { g with clause := some { cl with index := cl.index + 1, xsco := some (k, o) } } ∧
      ∀ id, id ≠ g.gid → t.group? id = s.group? id))

/-- The lanes of a group that satisfy a test. -/
def Sys2Proof.Claim.lanesWhere (g : Group) (p : Lane → Bool) : Lanes := maskOf (fun l => p (g.lane l))

/-- EXIT: exactly the run's lanes exit, they leave every rejoin mask, no register of any lane changes, and while a lane of the group is left
nothing outside the group changes (R23, R29, R202). -/
def Obligations.ExitLeaves : Prop :=
  ∀ s c, issues s false c → ∃ t h, exec .exit s = .next t ∧ t.group? c.g.gid = some h ∧
    h.lanes.length = c.g.lanes.length ∧
    (∀ (l : Nat) (x y : Lane), c.g.lanes[l]? = some x → h.lanes[l]? = some y →
      y.exited = (x.exited || c.run.getLsbD l) ∧ (∀ r < 104, regOf y r = regOf x r) ∧ (∀ k < 24, predOf y k = predOf x k)) ∧
    (∀ r ∈ h.rejoin, r.1 &&& c.run = 0) ∧
    (∀ (l : Nat) (x : Lane), c.g.lanes[l]? = some x → x.exited = false → c.run.getLsbD l = false →
      t = { c.base false with groups := t.groups } ∧ ∀ id, id ≠ c.g.gid → t.group? id = (c.base false).group? id)

/-- RJSET enrols the run and arms the mask; RJCLR empties and disarms it; RJWAIT on a disarmed mask parks nothing, on an armed one that other
lanes are still missing from parks the run, and where every enrolled lane is then parked on it or exited they all go on and the mask is
empty and disarmed (R23, R206). -/
def Sys2Proof.Claim.rejoinMasksHold : Prop :=
  (∀ s c (j : BitVec 7), issues s false c →
    ∃ t, exec (.rjset j) s = .next t ∧
      settles ((c.base false).updGroup c.g.gid (fun g => { g with rejoin := g.rejoin.set j.toNat ((g.rejoin.getD j.toNat (0, false)).1 ||| c.run, true) }))
        c.g.gid noWrites noUni t) ∧
  (∀ s c (j : BitVec 7), issues s false c →
    ∃ t, exec (.rjclr j) s = .next t ∧
      settles ((c.base false).updGroup c.g.gid (fun g => { g with rejoin := g.rejoin.set j.toNat (0, false) })) c.g.gid noWrites noUni t) ∧
  (∀ s c (j : BitVec 7), issues s false c → (c.g.rejoin.getD j.toNat (0, false)).2 = false →
    ∃ t, exec (.rjwait j) s = .next t ∧ settles (c.base false) c.g.gid noWrites noUni t) ∧
  (∀ s c (j : BitVec 7), issues s false c → lastWord c → (c.g.rejoin.getD j.toNat (0, false)).2 = true →
    let enrolled := (c.g.rejoin.getD j.toNat (0, false)).1
    let there (l : Nat) : Bool := (c.g.lane l).exited || c.run.getLsbD l || decide ((c.g.lane l).parked = some j.toNat)
    let done : Bool := (lanesOf enrolled).all there
    ∃ t h, exec (.rjwait j) s = .next t ∧ t = { c.base false with groups := t.groups } ∧
      (∀ id, id ≠ c.g.gid → t.group? id = (c.base false).group? id) ∧ t.group? c.g.gid = some h ∧
      h.rejoin = (if done then c.g.rejoin.set j.toNat (0, false) else c.g.rejoin) ∧ h.lanes.length = c.g.lanes.length ∧
      ∀ (l : Nat) (x y : Lane), l < 32 → c.g.lanes[l]? = some x → h.lanes[l]? = some y →
        y.exited = x.exited ∧ (∀ r < 104, regOf y r = regOf x r) ∧ (∀ k < 24, predOf y k = predOf x k) ∧
        y.parked = (if done ∧ x.exited = false ∧ (c.run.getLsbD l ∨ x.parked = some j.toNat) then none
          else if c.run.getLsbD l then some j.toNat else x.parked))

/-- The words that change nothing but the place of their run, and the rejoin masks. -/
def Obligations.QuietWordsAndRejoin : Prop := quietWordsHold ∧ rejoinMasksHold

/-! ## System forms (R44, R203 to R205) -/

/-- A register of lane k in real time: a short result issued at least its latency ago is seen (R205). -/
def Sys2Proof.Claim.seenNow (c : Ctx) (k r : Nat) : Word :=
  let x := c.g.lane k
  c.s.beside c.g.gid (some k) r
    ((x.pend.filter (fun p => decide (p.reg = r ∧ p.cycle ≤ c.cycle))).foldl (fun v p => mergeBits v p.mask p.value) (x.reg r))

/-- SREAD, SWRITE, RDLANE, WRLANE and RQUOTA: long operations on SETA with the register or lane that each names; WRLANE writes at once, and
nothing where the lane has exited; the moves RQUOTA may make. -/
def Sys2Proof.Claim.systemFormsHold : Prop :=
  (∀ s c (d n : BitVec 7), issues s false c → flagFree c c.cl.header.seta → fits [useS d.toNat] →
    ∃ t, exec (.sread d n) s = .next t ∧
      settles (inFlight c ((c.base false).updGroup c.g.gid (fun g => { g with latch := (c.sysRead n.toNat).2 })) c.cl.header.seta false
        [uniResult d.toNat (c.sysRead n.toNat).1] .none []) c.g.gid noWrites noUni t) ∧
  (∀ s c (a n : BitVec 7) s1 x, issues s false c → flagFree c c.cl.header.seta → fits [useUni a.toNat] →
    ureads c (c.base false) a.toNat = some (s1, x) →
    ∃ t, exec (.swrite a n) s = .next t ∧
      settles (inFlight c s1 c.cl.header.seta false
        (if n.toNat ∈ [0x10, 0x11, 0x12] then [{ lane := none, reg := 256 + n.toNat, mask := whole, value := x, loses := false }] else []) .none [])
        c.g.gid noWrites noUni t) ∧
  (∀ s c (d a b : BitVec 7) s1 y, issues s false c → flagFree c c.cl.header.seta → fits [useV c.g.quota a.toNat, useUni b.toNat, useS d.toNat] →
    ureads c (c.base false) b.toNat = some (s1, y) →
    ∃ t, exec (.rdlane d a b) s = .next t ∧
      settles (inFlight c s1 c.cl.header.seta false
        [{ lane := none, reg := d.toNat, mask := whole, value := seenNow c (y.extractLsb' 0 5).toNat a.toNat, loses := false }] .none [])
        c.g.gid noWrites noUni t) ∧
  (∀ s c (d a b : BitVec 7) s1 x s2 y, issues s false c → flagFree c c.cl.header.seta →
    fits [useV c.g.quota d.toNat, useUni a.toNat, useUni b.toNat] →
    ureads c (c.base false) a.toNat = some (s1, x) → ureads c s1 b.toNat = some (s2, y) →
    let k := (y.extractLsb' 0 5).toNat
    ∃ t, exec (.wrlane d a b) s = .next t ∧
      settles (inFlight c s2 c.cl.header.seta false [] .none []) c.g.gid
        (fun l r => if l = k ∧ r = d.toNat ∧ (c.g.lane k).exited = false then some (whole, x) else none) noUni t) ∧
  (∀ s c (a b : BitVec 7) s1 x s2 y h, issues s false c → flagFree c c.cl.header.seta → fits [useUni a.toNat, useUni b.toNat] →
    ureads c (c.base false) a.toNat = some (s1, x) → ureads c s1 b.toNat = some (s2, y) →
    (c.s.teamGroups c.g.team).find? (fun h => decide (h.index = x.toNat)) = some h → y.toNat ≠ 0 → h.gid ≠ c.g.gid → h.exited = false →
    (8 : Int) ≤ c.s.quotaAfter c.g - 8 * (y.toNat : Int) → c.s.quotaAfter h + 8 * (y.toNat : Int) ≤ 104 →
    c.s.namesFrom c.g.gid (c.s.quotaAfter c.g - 8 * (y.toNat : Int)).toNat = false →
    ∃ t, exec (.rquota a b) s = .next t ∧
      settles (inFlight c s2 c.cl.header.seta false [] (.quotaMove h.gid y.toNat) []) c.g.gid noWrites noUni t) ∧
  (∀ s c (a b : BitVec 7) s1 x s2 y, s.ctx? false = some c → fits [useUni a.toNat, useUni b.toNat] →
    ureads c (c.base false) a.toNat = some (s1, x) → ureads c s1 b.toNat = some (s2, y) →
    (y.toNat = 0 ∨ x.toNat = c.g.index ∨ ∀ h ∈ c.s.teamGroups c.g.team, h.index ≠ x.toNat ∨ h.exited) →
    (∀ h ∈ c.s.groups, h.team = c.g.team → h.index = c.g.index → h.gid = c.g.gid) →
    exec (.rquota a b) s = .next (c.take { kind := 2, info := c.run, addr := c.cl.base }))

/-- The system registers a group reads (R44): the 64-bit ones by halves, whose high half an SREAD of the low half latches. -/
def Sys2Proof.Claim.systemRegistersHold : Prop :=
  (∀ c : Ctx, (c.sysRead 0x05).1 = c.run ∧ (c.sysRead 0x06).1 = lanesWhere c.g (·.exited) ∧
    (c.sysRead 0x04).1 = BitVec.ofNat 32 (c.g.tileQuota * 256 + c.g.quota)) ∧
  (∀ (c : Ctx) g, c.s.gridOf c.g = some g →
    (c.sysRead 0x00).1 = BitVec.ofNat 32 g.handle ∧ (c.sysRead 0x0C).1 = g.launch.seed.extractLsb' 0 32) ∧
  (∀ (c : Ctx) x, c.s.insetOf c.g = some x → (c.sysRead 0x01).1 = BitVec.ofNat 32 (x.level * 4096 + x.id)) ∧
  (∀ c : Ctx, (c.sysRead 0x08).1 = BitVec.ofNat 32 c.cycle ∧ (c.sysRead 0x0A).1 = BitVec.ofNat 32 c.s.time) ∧
  (∀ (c d : Ctx) (n : Nat) (v : BitVec 64), n ∈ [0x08, 0x0A, 0x0C, 0x10] → c.sysWide n = some v → d.g.latch = (c.sysRead n).2 →
    (d.sysWide n).isSome → (d.sysRead (n + 1)).1 = v.extractLsb' 32 32) ∧
  (∀ (c : Ctx) (n : Nat), n < 128 → n ∉ [0, 1, 2, 3, 4, 5, 6, 8, 9, 0xA, 0xB, 0xC, 0xD, 0x10, 0x11, 0x12] → (c.sysRead n).1 = 0)

/-- The forms on groups and runs, and the system registers. -/
def Obligations.SystemFormsAndRegisters : Prop := systemFormsHold ∧ systemRegistersHold

/-! ## Taking an event, and returning from it (R28, R45, R89, R137, R202, R337 to R339) -/

/-- The fields of an event record (R338, R339), posted for a group at a word of its clause. -/
def Sys2Proof.Claim.recordsEvent (c : Ctx) (tr : Trap) (r : Record) : Prop :=
  r.kind = tr.kind ∧ r.sub = tr.sub ∧ r.info = tr.info ∧ r.addr = tr.addr ∧ r.stage = tr.stage ∧ r.ack = true ∧ r.awaits = true ∧
  r.index = c.cl.index ∧ r.group = c.g.index ∧ r.evtag = c.g.evtag ∧ r.gid = some c.g.gid ∧ r.seq = none ∧
  r.src = ((c.s.insetOf c.g).map (·.id)).getD 0 ∧ r.level = ((c.s.insetOf c.g).map (·.level)).getD 0 ∧
  r.grid = ((c.s.gridOf c.g).map (·.handle)).getD 0 ∧ r.cluster = ((c.s.clusterOf c.g).map (·.index)).getD 0 ∧
  r.team = ((c.s.teamOf c.g).map (·.index)).getD 0 ∧ r.route = tr.route.getD r.src

/-- The group stopped by an event: no register, flag, mask, tile or counter of it changes; its region is closed (R28, R89, R90). -/
def Sys2Proof.Claim.stoppedBy (g h : Group) (kind : Nat) : Prop :=
  h = { g with stop := h.stop, stepping := false, reads := [], writes := [], charged := if kind = 0x18 then none else g.charged } ∧
  ∃ st, h.stop = some st ∧ st.kind = kind

/-- Taking an event before an instruction's effect: the record is posted last, the group stops where it stands, and nothing else changes but
that its writes to its own package have performed. -/
def Sys2Proof.Claim.eventEntryHold : Prop :=
  ∀ (s : State) lane c (tr : Trap) g, s.ctx? lane = some c → s.group? c.g.gid = some g → (tr.kind ≠ 7 ∧ tr.kind ≠ 8) →
    ∃ r h, c.take tr = { s with records := s.records ++ [r], groups := (c.take tr).groups, pendingWrites := (c.take tr).pendingWrites } ∧
      recordsEvent c tr r ∧ (c.take tr).group? c.g.gid = some h ∧ stoppedBy g h tr.kind ∧
      (∀ st, h.stop = some st → st.after = false ∧ st.clauseStart = false ∧ st.run = c.cl.run ∧ st.index = c.cl.index) ∧
      (∀ id, id ≠ c.g.gid → (c.take tr).group? id = s.group? id) ∧
      (∀ p ∈ (c.take tr).pendingWrites, p.gid = c.g.gid → p.pkg.isSome) ∧
      (∀ p ∈ s.pendingWrites, p.gid ≠ c.g.gid → p ∈ (c.take tr).pendingWrites)

/-- BRK and TRAP: the record is a breakpoint's or a trap's, TRAP's carrying the s register, and the group stops behind the instruction: the
counters of its run have moved on, and no register changes (R202). Where the inset is being sealed the record is kept apart (R387). -/
def Sys2Proof.Claim.breakpointsAndTrapsHold : Prop :=
  (∀ (s : State) c, s.ctx? false = some c → (∀ x, c.s.insetOf c.g = some x → c.s.sealingOf x.id = none) → c.s.sealingOf 0 = none →
    (∃ t r h, exec .brk s = .next t ∧ t.records = s.records ++ [r] ∧ recordsEvent c { kind := 7, info := c.run, addr := c.cl.base } r ∧
      t.group? c.g.gid = some h ∧ (∃ st, h.stop = some st ∧ st.kind = 7 ∧ st.after = true) ∧ t.mem = s.mem ∧
      (∀ l x, c.run.getLsbD l → h.lanes[l]? = some x →
        (c.cl.index + 1 < c.cl.header.len → x.index = c.cl.index + 1) ∧ (lastWord c → x.header = following c ∧ x.index = 0)) ∧
      (∀ (l : Nat) (x y : Lane), c.g.lanes[l]? = some x → h.lanes[l]? = some y → laneAfter noWrites l x y)) ∧
    (∀ a : BitVec 7, fits [useS a.toNat] →
      ∃ t r h, exec (.trap a) s = .next t ∧ t.records = s.records ++ [r] ∧
      recordsEvent c { kind := 8, info := c.readS (a.toNat - 104), addr := c.cl.base } r ∧
      t.group? c.g.gid = some h ∧ (∃ st, h.stop = some st ∧ st.kind = 8 ∧ st.after = true) ∧ t.mem = s.mem ∧
      (∀ l x, c.run.getLsbD l → h.lanes[l]? = some x →
        (c.cl.index + 1 < c.cl.header.len → x.index = c.cl.index + 1) ∧ (lastWord c → x.header = following c ∧ x.index = 0)) ∧
      (∀ (l : Nat) (x y : Lane), c.g.lanes[l]? = some x → h.lanes[l]? = some y → laneAfter noWrites l x y)))

/-- Taking an event, and the events that are an instruction's own effect. -/
def Obligations.EventsTaken : Prop := eventEntryHold ∧ breakpointsAndTrapsHold

/-! ### The return of a stopped group (R202, R337), and the handler's queue (R335 to R337) -/

/-- A lane of the run behind the word at which its group stopped: at the next word of its clause, or at the header behind it. -/
def Sys2Proof.Claim.behind (st : Stop) (base : Nat) (x : Lane) : Nat × Nat :=
  if st.index + 1 < st.length then (x.header, st.index + 1) else (base + 8 + 4 * st.length, 0)

/-- RESUME, SKIP and EXIT on a group stopped by an event of an instruction that nothing met late: RESUME only lets the group go on where it
stands; SKIP moves the lanes of the run behind the word and no other, changing no register; after either, accesses that its stop held back
at their vaults are served; EXIT makes every lane exit. -/
def Obligations.EventReturn : Prop :=
  (∀ (s : State) gid g st, s.group? gid = some g → g.stop = some st → st.late = none → st.slot = none →
    ∃ p : State, s.resumeGroup gid 0 = p.serve ∧ p = { s with groups := p.groups } ∧ p.group? gid = some { g with stop := none } ∧
      ∀ id, id ≠ gid → p.group? id = s.group? id) ∧
  (∀ (s : State) gid g st cl, s.group? gid = some g → g.stop = some st → st.late = none → st.after = false → st.clauseStart = false →
    g.clause = some cl → cl.header.len = st.length →
    ∃ (p : State) (h : Group), s.resumeGroup gid 1 = p.serve ∧ p = { s with groups := p.groups } ∧ p.group? gid = some h ∧
      h.stop = none ∧ h = { g with stop := none, lanes := h.lanes, runs := h.runs, clause := h.clause } ∧
      (∀ (l : Nat) (x y : Lane), l < 32 → g.lanes[l]? = some x → h.lanes[l]? = some y → laneAfter noWrites l x y ∧
        ((y.header, y.index) = if (g.runMask st.run).getLsbD l then behind st cl.base x else (x.header, x.index))) ∧
      ∀ id, id ≠ gid → p.group? id = s.group? id) ∧
  (∀ (s : State) gid g st, s.group? gid = some g → g.stop = some st → st.late = none →
    g.lanes.length = 32 →
    ∃ h, (s.resumeGroup gid 2).group? gid = some h ∧ h.stop = none ∧ h.exited = true ∧ h.clause = none ∧ h.sregs = g.sregs ∧
      ∀ (l : Nat) (x y : Lane), g.lanes[l]? = some x → h.lanes[l]? = some y →
        (∀ r < 104, regOf y r = regOf x r) ∧ (∀ k < 24, predOf y k = predOf x k))

/-- HQARM arms this team where no team of the inset is armed and HQDISARM disarms this one; HQACK of a record that awaits it ends the record
and does to its group what RESUME, SKIP or EXIT say, as a release at device scope from which that group acquires; the other cases change nothing
and answer ARMED, NOTARMED or NOREC. -/
def Obligations.HandlerForms : Prop :=
  (∀ s c (d : BitVec 7) x, issues s false c → flagFree c c.cl.header.seta → c.s.insetOf c.g = some x → x.sys = true → fits [useS d.toNat] →
    (x.armed = none → ∃ t, exec (.hqarm d) s = .next t ∧
      settles (inFlight c ((c.base false).updInset x.id (fun y => { y with armed := some c.g.team })) c.cl.header.seta false
        [uniResult d.toNat 0] .none []) c.g.gid noWrites noUni t) ∧
    (x.armed ≠ none → ∃ t, exec (.hqarm d) s = .next t ∧
      settles (inFlight c (c.base false) c.cl.header.seta false [uniResult d.toNat 0x07000000] .none []) c.g.gid noWrites noUni t) ∧
    (x.armed = some c.g.team → ∃ t, exec (.hqdisarm d) s = .next t ∧
      settles (inFlight c ((c.base false).updInset x.id (fun y => { y with armed := none })) c.cl.header.seta false
        [uniResult d.toNat 0] .none []) c.g.gid noWrites noUni t) ∧
    (x.armed ≠ some c.g.team → ∃ t, exec (.hqdisarm d) s = .next t ∧
      settles (inFlight c (c.base false) c.cl.header.seta false [uniResult d.toNat 0x08000000] .none []) c.g.gid noWrites noUni t)) ∧
  (∀ s c (d a b : BitVec 7) x s1 n s2 w o gid g, issues s false c → flagFree c c.cl.header.seta → c.s.insetOf c.g = some x → x.sys = true →
    fits [useS d.toNat, useUni a.toNat, useUni b.toNat] → c.g.charged = none → c.s.unserved c.g.gid = false →
    ureads c (c.base false) a.toNat = some (s1, n) → ureads c s1 b.toNat = some (s2, w) → w.toNat < 3 →
    c.s.outstanding.find? (fun p => decide (p.inset = x.id ∧ p.seq = n.toNat)) = some o → o.record.op = none → o.record.gid = some gid →
    ((s2.release c.g.gid 3 []).group? gid) = some g → g.stop.isSome = true →
    (w.toNat = 1 → o.record.atStart = false ∨ (o.record.kind = 7 ∧ o.record.sub = 1)) → gid ≠ c.g.gid →
    let p := (((s2.release c.g.gid 3 []).resumeGroup gid w.toNat).closeRegion gid).teach c.g.gid gid
    ∃ t, exec (.hqack d a b) s = .next t ∧
      settles (inFlight c { p with outstanding := p.outstanding.filter (fun q => !decide (q.inset = x.id ∧ q.seq = n.toNat)) }
        c.cl.header.seta false [uniResult d.toNat 0] .none []) c.g.gid noWrites noUni t) ∧
  (∀ s c (d a b : BitVec 7) x s1 n s2 w, issues s false c → flagFree c c.cl.header.seta → c.s.insetOf c.g = some x → x.sys = true →
    fits [useS d.toNat, useUni a.toNat, useUni b.toNat] → c.g.charged = none → c.s.unserved c.g.gid = false →
    ureads c (c.base false) a.toNat = some (s1, n) → ureads c s1 b.toNat = some (s2, w) → w.toNat < 3 →
    (∀ o ∈ c.s.outstanding, o.inset ≠ x.id ∨ o.seq ≠ n.toNat) →
    ∃ t, exec (.hqack d a b) s = .next t ∧
      settles (inFlight c s2 c.cl.header.seta false [uniResult d.toNat 0x09000000] .none []) c.g.gid noWrites noUni t)

/-! ### Clauses and long operations (R18 to R24, R35, R123, R126, R128) -/

/-- The results of a long operation that no later short write overtook. -/
def Sys2Proof.Claim.leftOf (o : LongOp) : List RegWrite := o.results.filter (fun w => !w.loses && !o.overtaken.contains (w.lane, w.reg))
def Sys2Proof.Claim.laneResultsOf (rs : List RegWrite) : Writes :=
  fun l r => (rs.find? (fun w => decide (w.lane = some l ∧ w.reg = r))).map (fun w => (w.mask, w.value))
def Sys2Proof.Claim.uniResultsOf (rs : List RegWrite) : UniWrites :=
  fun r => (rs.find? (fun w => decide (w.lane = none ∧ w.reg = 104 + r))).map (·.value)

/-- A long operation that waits for nothing completes: exactly its results are written, its flag falls by one, and it is gone; a register
move lowers the giver's quota and raises the receiver's by its blocks, whose registers read as zero, once the team's earlier moves have landed
and no operation in flight names a register that moves (R16, R204). -/
def Obligations.LongOperationsComplete : Prop :=
  (∀ (s : State) op o g, s.op? op = some o → s.group? o.gid = some g → o.wait = .none → g.exited = false →
    (o.results.map (fun w => (w.lane, w.reg))).Nodup → (∀ w ∈ o.results, w.lane = none → 104 ≤ w.reg) →
    ∃ t h, exec (.longOpComplete op) s = .next t ∧ t = { s with groups := t.groups, ops := s.ops.filter (fun p => decide (p.id ≠ op)) } ∧
      t.group? o.gid = some h ∧ (∀ id, id ≠ o.gid → t.group? id = s.group? id) ∧
      h = { g with lanes := h.lanes, sregs := h.sregs, stkLo := h.stkLo, stkHi := h.stkHi, evtag := h.evtag, flags := g.flags.modify o.flag (· - 1) } ∧
      h.lanes.length = g.lanes.length ∧
      (∀ (l : Nat) (x y : Lane), g.lanes[l]? = some x → h.lanes[l]? = some y →
        laneAfter (laneResultsOf (leftOf o)) l x y ∧ y.header = x.header ∧ y.index = x.index ∧ y.run = x.run) ∧
      (∀ r < 16, uniOf h r = (uniResultsOf (leftOf o) r).getD (uniOf g r)) ∧
      h.stkLo = (uniResultsOf (leftOf o) (152 + 0x10)).getD g.stkLo ∧ h.stkHi = (uniResultsOf (leftOf o) (152 + 0x11)).getD g.stkHi ∧
      h.evtag = (uniResultsOf (leftOf o) (152 + 0x12)).getD g.evtag) ∧
  (∀ (s : State) op o g r m h, s.op? op = some o → s.group? o.gid = some g → o.wait = .quotaMove r m → g.exited = false →
    o.results = [] → r ≠ o.gid → s.group? r = some h →
    (∀ p ∈ s.ops, ∀ q k n, p.id < op → s.group? p.gid = some q → q.team = g.team → p.wait ≠ .quotaMove k n) →
    s.namesFrom o.gid (g.quota - 8 * m) = false →
    ∃ t g' h', exec (.longOpComplete op) s = .next t ∧ t.mem = s.mem ∧ t.ops = s.ops.filter (fun p => decide (p.id ≠ op)) ∧
      t.group? o.gid = some g' ∧ t.group? r = some h' ∧ g'.quota = g.quota - 8 * m ∧ h'.quota = h.quota + 8 * m ∧
      g'.flags = g.flags.modify o.flag (· - 1) ∧ h' = { h with quota := h'.quota, lanes := h'.lanes } ∧
      (∀ (l : Nat) (x y : Lane), g.lanes[l]? = some x → g'.lanes[l]? = some y → ∀ k < 104,
        y.reg k = if k < g.quota - 8 * m then x.reg k else 0) ∧
      ∀ (l : Nat) (x y : Lane), h.lanes[l]? = some x → h'.lanes[l]? = some y → ∀ k < 104,
        y.reg k = if k < h.quota then x.reg k else 0)

/-- A group that may issue starts the clause of one of its candidates, none undeferred lower; it then stands at the counters of its lanes,
with the words and header fetched there, at word 0 only with every flag of its WAIT field clear (R18, R20, R126). Where that clause met an
event the group stops instead; a clause in memory that no path leads to is no candidate (R340, R352). A form's acquire takes effect with the
clause that waits on its flag (R323). -/
def Sys2Proof.Claim.clauseStartsHold : Prop :=
  ∀ (s : State) gid g, s.group? gid = some g → g.stop = none → g.clause = none → g.exited = false → s.mayIssue g = true →
    s.candidates g ≠ [] →
    ∃ t h cand, exec (.clauseStart gid) s = .next t ∧ t.group? gid = some h ∧ cand ∈ s.candidates g ∧
      (∀ d ∈ s.candidates g, (g.deferred d.run = false ∨ ∀ e ∈ s.candidates g, g.deferred e.run = true) →
        cand.pc.1 < d.pc.1 ∨ (cand.pc.1 = d.pc.1 ∧ cand.pc.2 ≤ d.pc.2)) ∧
      (∀ id, id ≠ gid → t.group? id = s.group? id) ∧ h.lanes = g.lanes ∧ h.sregs = g.sregs ∧ h.flags = g.flags ∧ h.rejoin = g.rejoin ∧
      (match cand.fetched with
       | .clause hd ws =>
         (s.breakpointAt g cand = none → t = { s with groups := t.groups, pendingWrites := t.pendingWrites } ∧ h.stop = none ∧
           (g.acquiring = [] → t.pendingWrites = s.pendingWrites) ∧
           h.clause = some { run := cand.run, base := cand.pc.1, header := hd, words := ws, index := cand.pc.2, ximm := none, xmod := none, xsco := none } ∧
           (cand.pc.2 = 0 → ∀ f < 12, hd.wait.getLsbD f = true → g.flag f = 0)) ∧
         (∀ i, s.breakpointAt g cand = some i → ∃ st, h.stop = some st ∧ st.kind = 7 ∧ st.slot = some i ∧ h.clause = none)
       | .event tr => ∃ st, h.stop = some st ∧ st.kind = tr.kind ∧ st.clauseStart = true ∧ h.clause = none
       | .wait => False)

/-- Every lane that is left waits at a rejoin mask and none can complete: the group stops with a rejoin deadlock that names them (R24); a
parity error is logged, discards one entry of the queue that has arrived (which one is open, R35), posts its event and stops the group where it
runs. In every other state nothing changes but for the log. -/
def Sys2Proof.Claim.groupFailuresHold : Prop :=
  (∀ (s : State) gid g, s.group? gid = some g → g.stop = none → g.parkMask ≠ 0 → g.lanes.all (fun x => x.exited || x.parked.isSome) = true →
    (∀ j < 8, (g.rejoin.getD j (0, false)).2 = true →
      ∃ l, (g.rejoin.getD j (0, false)).1.getLsbD l = true ∧ (g.lane l).exited = false ∧ (g.lane l).parked ≠ some j) →
    ∃ t r h, exec (.rejoinDeadlock gid) s = .next t ∧
      t = { s with records := s.records ++ [r], groups := t.groups, pendingWrites := t.pendingWrites } ∧
      r.kind = 6 ∧ r.info = g.parkMask ∧ r.ack = true ∧ r.gid = some gid ∧ t.group? gid = some h ∧ stoppedBy g h 6 ∧
      ∀ id, id ≠ gid → t.group? id = s.group? id) ∧
  (∀ (s : State) gid g, s.group? gid = some g → (g.stop ≠ none ∨ g.parkMask = 0 ∨ ∃ x ∈ g.lanes, x.exited = false ∧ x.parked = none) →
    exec (.rejoinDeadlock gid) s = .next s) ∧
  (∀ (s : State) gid g (dir : BitVec 2), s.group? gid = some g → g.exited = false →
    (∃ e ∈ g.recv.getD dir.toNat [], e.op = none) →
    ∃ t r h e i, exec (.neighbourParityError gid dir) s = .next t ∧
      t = { s with records := s.records ++ [r], groups := t.groups, pendingWrites := t.pendingWrites, mem := t.mem } ∧
      r.kind = 0x19 ∧ r.ack = true ∧ r.gid = some gid ∧ t.group? gid = some h ∧
      (g.recv.getD dir.toNat [])[i]? = some e ∧ e.op = none ∧
      (let q : Group := { g with recv := g.recv.set dir.toNat ((g.recv.getD dir.toNat []).eraseIdx i) }
       if g.stop = none then stoppedBy q h 0x19 else h = q) ∧
      (∀ id, id ≠ gid → t.group? id = s.group? id) ∧
      ∀ b, b < Config.fleetBase ∨ Config.fleetBase + 0x10000 ≤ b → t.mem.byte b = s.mem.byte b) ∧
  (∀ (s : State) gid g (dir : BitVec 2), s.group? gid = some g → (∀ e ∈ g.recv.getD dir.toNat [], e.op ≠ none) →
    ∃ t, exec (.neighbourParityError gid dir) s = .next t ∧ t = { s with mem := t.mem })

/-- A clause starts, and what a group meets between and inside clauses. -/
def Obligations.ClausesAndFailures : Prop := clauseStartsHold ∧ groupFailuresHold

/-! ## Memory (R59 to R66, R74 to R76, R84 to R90, R176 to R184) -/

/-- Every access the instruction makes passes its checks for the needs given, at the physical addresses given (R60). -/
def Sys2Proof.Claim.allowed (c : Ctx) (lane : Bool) (needs : List Acc) (n a : Nat) (phys : Nat → Nat) : Prop :=
  ∀ l ∈ c.accessLanes lane, c.s.accessAll c.insetId needs (c.address a l) n = .ok (phys l)

/-- Nothing holds an access up and none conflicts: no charged MOX, no earlier access that has not performed, a path to each word, and no
other party's region (R82, R86, R352, R393). -/
def Sys2Proof.Claim.unhindered (c : Ctx) (ls : List Nat) (n : Nat) (write : Bool) (phys : Nat → Nat) : Prop :=
  c.g.charged = none ∧ c.s.unserved c.g.gid = false ∧
  ∀ l ∈ ls, c.s.unreachable (phys l) = false ∧ ∀ w ∈ wordsOf (phys l) n, c.s.conflicts c.g w write = false

/-- No access meets data marked uncorrectable (R372). -/
def Sys2Proof.Claim.unpoisoned (c : Ctx) (ls : List Nat) (n : Nat) (phys : Nat → Nat) : Prop := ∀ l ∈ ls, c.s.mem.poisoned (phys l) n = false

/-- The registers a load of 2^z bytes writes in a lane: the little-endian words of memory, zero-extended, from D up (R3, R178). -/
def Sys2Proof.Claim.loaded (m : Memory) (z : Nat) (lane : Option Nat) (p d : Nat) : List RegWrite :=
  if z < 2 then [{ lane := lane, reg := d, mask := whole, value := BitVec.ofNat 32 (m.nat p (2 ^ z)), loses := false }]
  else (List.range (2 ^ (z - 2))).map (fun i =>
    { lane := lane, reg := d + i, mask := whole, value := BitVec.ofNat 32 (m.nat (p + 4 * i) 4), loses := false })

/-- The words that the accesses touch. -/
def Sys2Proof.Claim.touched (ls : List Nat) (n : Nat) (phys : Nat → Nat) : List Nat := ls.flatMap (fun l => wordsOf (phys l) n)
def Sys2Proof.Claim.placesOf (ls : List Nat) (n : Nat) (phys : Nat → Nat) : List Place := (touched ls n phys).map Place.word

/-- The two 8-byte halves of a 16-byte access of some lanes, low half first, with the data registers they carry (R179). -/
def Sys2Proof.Claim.halves (c : Ctx) (lane : Bool) (a d : Nat) (ls : List Nat) (phys : Nat → Nat) : List TagLane :=
  ls.flatMap (fun l => [0, 1].map (fun i =>
    { lane := if lane then some l else none, vaddr := c.address a l + 8 * i, address := phys l + 8 * i,
      lo := c.reg l (d + 2 * i), hi := c.reg l (d + 2 * i + 1) }))

/-- What a 16-byte access still waits for. -/
def Sys2Proof.Claim.wideLeft (load : Bool) (o k d : Nat) (parts : List TagLane) : Waiting := if parts = [] then .none else .wide load o k d parts

/-- The state a load's accesses leave: a plain one joins the group's region, an acquire takes up what the releases at its words cover (R82,
R85). -/
def Sys2Proof.Claim.afterLoad (c : Ctx) (lane : Bool) (o k : Nat) (ws : List Nat) : State :=
  if o = 0 then (c.base lane).record c.g.gid ws false else (c.base lane).acquire c.g.gid k (ws.map Place.word).contains

/-- LD, ULD and LDNR: a long operation on SETA whose results are the bytes at each lane's translated address, and nothing of memory changes.
A plain load joins the group's region, an acquire closes it. Of 16 bytes the two halves are left to perform one by one, low half first (R179).
LDNR's lanes whose access would fault or meet poison receive zeros and p[P] = 0, the others their data and 1, and no conflict stops it (R178 to
R180). -/
def Obligations.Loads : Prop :=
  (∀ s c lane i (d a : BitVec 7) (z : BitVec 3) (o : BitVec 2) (k : BitVec 3) phys,
    (i = .ld d a z o k ∧ lane = true ∨ i = .uld d a z o k ∧ lane = false) → o.toNat < 2 →
    issues s lane c → flagFree c c.cl.header.seta →
    fits [useAddr lane c.g.quota a.toNat, useGroup lane true c.g.quota d.toNat z.toNat] →
    allowed c lane [.r] (2 ^ z.toNat) a.toNat phys → unpoisoned c (c.accessLanes lane) (2 ^ z.toNat) phys →
    unhindered c (c.accessLanes lane) (2 ^ z.toNat) false phys →
    ∃ t, exec i s = .next t ∧
      settles (inFlight c (afterLoad c lane o.toNat k.toNat (touched (c.accessLanes lane) (2 ^ z.toNat) phys)) c.cl.header.seta lane
        (if z = 4 then [] else (c.accessLanes lane).flatMap (fun l =>
          loaded c.s.mem z.toNat (if lane then some l else none) (phys l) d.toNat))
        (if z = 4 then wideLeft true o.toNat k.toNat d.toNat (halves c lane a.toNat d.toNat (c.accessLanes lane) phys) else .none) [])
        c.g.gid noWrites noUni t) ∧
  (∀ s c (d a : BitVec 7) (z : BitVec 3) (o : BitVec 2) (k p : BitVec 3) (found : Nat → Option Nat),
    o.toNat < 2 → issues s true c → flagFree c c.cl.header.seta →
    fits [useAddr true c.g.quota a.toNat, useGroup true true c.g.quota d.toNat z.toNat] →
    (∀ l ∈ lanesOf c.act, c.address a.toNat l % 2 ^ z.toNat = 0 ∧
      found l = (match c.s.access c.insetId .r (c.address a.toNat l) (2 ^ z.toNat) with
        | .ok q => if c.s.mem.poisoned q (2 ^ z.toNat) then none else some q
        | .error _ => none)) →
    let hits := (lanesOf c.act).filter (fun l => (found l).isSome)
    let phys (l : Nat) : Nat := (found l).getD 0
    c.g.charged = none → c.s.unserved c.g.gid = false → (∀ l ∈ hits, c.s.unreachable (phys l) = false) →
    ∃ t rs, exec (.ldnr d a z o k p) s = .next t ∧
      settles (inFlight c (afterLoad c true o.toNat k.toNat (touched hits (2 ^ z.toNat) phys)) c.cl.header.seta true rs
        (if z = 4 then wideLeft true o.toNat k.toNat d.toNat (halves c true a.toNat d.toNat hits phys) else .none) []) c.g.gid noWrites noUni t ∧
      ∀ w : RegWrite, w ∈ rs ↔ ∃ l ∈ lanesOf c.act,
        w ∈ (match found l with
          | some q => if z = 4 then [] else loaded c.s.mem z.toNat (some l) q d.toNat
          | none => (loaded c.s.mem z.toNat (some l) 0 d.toNat).map (fun v => { v with value := 0 })) ++
          [{ lane := some l, reg := Config.predBase + p.toNat, mask := 1, value := (if (found l).isSome then 1 else 0), loses := false }]) ∧
  (∀ s c lane i (d a : BitVec 7) (z : BitVec 3) (o : BitVec 2) (k p : BitVec 3),
    (i = .ld d a z o k ∧ lane = true ∨ i = .uld d a z o k ∧ lane = false ∨ i = .ldnr d a z o k p ∧ lane = true) → 2 ≤ o.toNat →
    s.ctx? lane = some c → exec i s = .next (c.take { kind := 2, info := if lane then c.act else c.run, addr := c.cl.base })) ∧
  (∀ (s : State) op o order scope dst l rest, s.op? op = some o → o.wait = .wide true order scope dst (l :: rest) →
    s.mem.poisoned l.address 8 = false →
    let done : LongOp := { o with
      wait := wideLeft true order scope dst rest,
      results := o.results ++ [0, 1].map (fun i =>
        { lane := l.lane, reg := dst + l.address / 8 % 2 * 2 + i, mask := whole, value := s.mem.word (l.address + 4 * i), loses := false : RegWrite }) }
    let t : State := { s with ops := s.ops.map (fun p => if p.id = o.id then done else p) }
    (∀ p ∈ s.ops, p.id = o.id → p = o) →
    exec (.longOpComplete op) s = .next (if order = 0 then t else t.acquire o.gid scope [Place.word l.address, Place.word (l.address + 4)].contains))

/-- The bytes a store of 2^z bytes writes for a lane: its data registers' low bytes, little-endian (R178). -/
def Sys2Proof.Claim.storedByte (c : Ctx) (l d i : Nat) : Byte :=
  (if d < 104 then c.readV l (d + i / 4) else c.readS (d + i / 4 - 104)).extractLsb' (8 * (i % 4)) 8

/-- ST and UST: every lane's data stands at its translated address, the highest lane's where two meet, every other byte of memory reads as
before and no tag changes; then what waited at a vault is served. A plain store joins the group's region, a release covers its earlier writes
and stands at the words it wrote (R81, R82, R85, R178). Of 16 bytes the halves are left to perform one by one, low half first (R179). -/
def Obligations.Stores : Prop :=
  (∀ s c lane i (d a : BitVec 7) (z : BitVec 3) (o : BitVec 2) (k : BitVec 3) phys,
    (i = .st d a z o k ∧ lane = true ∨ i = .ust d a z o k ∧ lane = false) → z ≠ 4 → (o = 0 ∨ o = 2) → (o = 2 → k.toNat = 4 → c.g.written = 0) →
    issues s lane c → flagFree c c.cl.header.seta →
    fits [useAddr lane c.g.quota a.toNat, useGroup lane false c.g.quota d.toNat z.toNat] →
    allowed c lane [.w] (2 ^ z.toNat) a.toNat phys → unhindered c (c.accessLanes lane) (2 ^ z.toNat) true phys →
    ∃ t m, exec i s = .next t ∧
      settles (inFlight c
        ((((if o = 0 then (c.base lane).record c.g.gid (touched (c.accessLanes lane) (2 ^ z.toNat) phys) true
            else (c.base lane).ordered c.g.gid o.toNat k.toNat (placesOf (c.accessLanes lane) (2 ^ z.toNat) phys)).setMem m).touchWrites c.g.gid
          ((c.accessLanes lane).map (fun l => { lane := l, address := c.address a.toNat l, phys := phys l }))).serve)
        c.cl.header.seta lane [] .none []) c.g.gid noWrites noUni t ∧
      m.empties = c.s.mem.empties ∧ m.veils = c.s.mem.veils ∧ (c.s.mem.inject = none → ∀ q ∈ m.poison, q ∈ c.s.mem.poison) ∧
      ∀ b, m.byte b = match ((c.accessLanes lane).filter (fun l => decide (phys l ≤ b ∧ b < phys l + 2 ^ z.toNat))).getLast? with
        | some l => storedByte c l d.toNat (b - phys l)
        | none => c.s.mem.byte b) ∧
  (∀ s c lane i (d a : BitVec 7) (o : BitVec 2) (k : BitVec 3) phys,
    (i = .st d a 4 o k ∧ lane = true ∨ i = .ust d a 4 o k ∧ lane = false) → (o = 0 ∨ o = 2) → (o = 2 → k.toNat = 4 → c.g.written = 0) →
    issues s lane c → flagFree c c.cl.header.seta → fits [useAddr lane c.g.quota a.toNat, useGroup lane false c.g.quota d.toNat 4] →
    allowed c lane [.w] 16 a.toNat phys → unhindered c (c.accessLanes lane) 16 true phys →
    ∃ t, exec i s = .next t ∧
      settles (inFlight c
        ((if o = 0 then (c.base lane).record c.g.gid (touched (c.accessLanes lane) 16 phys) true
            else (c.base lane).closeRegion c.g.gid).touchWrites c.g.gid
          ((c.accessLanes lane).map (fun l => { lane := l, address := c.address a.toNat l, phys := phys l })))
        c.cl.header.seta lane [] (wideLeft false o.toNat k.toNat d.toNat (halves c lane a.toNat d.toNat (c.accessLanes lane) phys)) [])
        c.g.gid noWrites noUni t) ∧
  (∀ (s : State) op o order scope dst l rest, s.op? op = some o → o.wait = .wide false order scope dst (l :: rest) →
    (∀ p ∈ s.ops, p.id = o.id → p = o) →
    let done : LongOp := { o with wait := wideLeft false order scope dst rest }
    ∃ m, (let t : State := { s with mem := m, ops := s.ops.map (fun p => if p.id = o.id then done else p) }
        exec (.longOpComplete op) s =
          .next (if order = 0 then t else t.ordered o.gid order scope [Place.word l.address, Place.word (l.address + 4)]).serve) ∧
      ∀ b, m.byte b = if l.address ≤ b ∧ b < l.address + 8 then
        ((if b < l.address + 4 then l.lo else l.hi) >>> (8 * ((b - l.address) % 4))).truncate 8 else s.mem.byte b) ∧
  (∀ s c lane i (d a : BitVec 7) (z : BitVec 3) (o : BitVec 2) (k : BitVec 3),
    (i = .st d a z o k ∧ lane = true ∨ i = .ust d a z o k ∧ lane = false) → (o = 1 ∨ o = 3) → s.ctx? lane = some c →
    exec i s = .next (c.take { kind := 2, info := if lane then c.act else c.run, addr := c.cl.base }))

/-- The checks of one access of n bytes, in R60's order: a non-canonical address, an alignment, translation and permission, each with its
own event; a store to a table page in use fails in the writer's own leaf stage, whatever its stages grant (R293); the lanes of the first kind
are named and the lowest of them gives the address, before any effect. -/
def Obligations.AccessFaults : Prop :=
  (∀ (s : State) inset need a n, 2 ^ 48 ≤ a → s.access inset need a n = .error { kind := 0x10, sub := 0, stage := 0, owner := inset }) ∧
  (∀ (s : State) inset need a n, a < 2 ^ 48 → a % n ≠ 0 → s.access inset need a n = .error { kind := 0x12, sub := 0, stage := 0, owner := inset }) ∧
  (∀ (s : State) inset need a n f, a < 2 ^ 48 → a % n = 0 → s.translate inset [need] a = .error f →
    (need = .w → ∀ t, s.translate inset [] a = .ok t → s.onTablePage t.phys n = false) → s.access inset need a n = .error f) ∧
  (∀ (s : State) inset a n t, a < 2 ^ 48 → a % n = 0 → s.translate inset [] a = .ok t → s.onTablePage t.phys n = true →
    s.access inset .w a n = .error { kind := 0x13, sub := 1, stage := ((s.inset? inset).map (·.level)).getD 0, owner := inset }) ∧
  (∀ (s : State) inset need a n p, s.access inset need a n = .ok p → a < 2 ^ 48 ∧ a % n = 0 ∧ backing p ≠ .none ∧
    ∃ x, s.translate inset [need] a = .ok x ∧ x.phys = p) ∧
  (∀ s c (d a : BitVec 7) (z : BitVec 3) (o : BitVec 2) (k : BitVec 3), s.ctx? true = some c → o.toNat < 2 →
    fits [useAddr true c.g.quota a.toNat, useGroup true true c.g.quota d.toNat z.toNat] →
    (∃ l ∈ lanesOf c.act, 2 ^ 48 ≤ c.address a.toNat l) →
    let failing := (lanesOf c.act).filter (fun l => decide (2 ^ 48 ≤ c.address a.toNat l))
    exec (.ld d a z o k) s = .next (c.take
      { kind := 0x10, sub := 0, info := maskOf (fun l => failing.contains l), addr := c.address a.toNat (failing.headD 0), stage := 0, route := some c.insetId })) ∧
  (∀ s c (d a : BitVec 7) (z : BitVec 3) (o : BitVec 2) (k : BitVec 3), s.ctx? true = some c → o.toNat < 2 →
    fits [useAddr true c.g.quota a.toNat, useGroup true true c.g.quota d.toNat z.toNat] →
    (∀ l ∈ lanesOf c.act, c.address a.toNat l < 2 ^ 48) → (∃ l ∈ lanesOf c.act, c.address a.toNat l % 2 ^ z.toNat ≠ 0) →
    let failing := (lanesOf c.act).filter (fun l => decide (c.address a.toNat l % 2 ^ z.toNat ≠ 0))
    exec (.ld d a z o k) s = .next (c.take
      { kind := 0x12, sub := 0, info := maskOf (fun l => failing.contains l), addr := c.address a.toNat (failing.headD 0), stage := 0, route := some c.insetId }))

/-! ### Tagged accesses (R63 to R66, R181) -/

/-- The kinds of R64: LDT WAITFULL, TAKE, PEEKTAG, STT PUT, FILL, DRAIN. -/
def Sys2Proof.Claim.taggedKind : Instr → Option (Nat × BitVec 7 × BitVec 7 × BitVec 1 × BitVec 3)
  | .ldtWaitfull d a z k => some (0, d, a, z, k)
  | .ldtTake d a z k => some (1, d, a, z, k)
  | .ldtPeektag d a z k => some (2, d, a, z, k)
  | .sttPut d a z k => some (3, d, a, z, k)
  | .sttFill d a z k => some (4, d, a, z, k)
  | .sttDrain d a z k => some (5, d, a, z, k)
  | _ => none

/-- What a kind waits for, and what it does to the tags: 0 leaves them, 1 empties them, 2 fills them (R64). -/
def Sys2Proof.Claim.mayServe (m : Memory) (kind : Nat) (words : List Nat) : Prop :=
  match kind with
  | 0 => ∀ w ∈ words, w ∉ m.empties
  | 1 => ∀ w ∈ words, w ∉ m.empties
  | 3 => ∀ w ∈ words, w ∈ m.empties
  | _ => True
def Sys2Proof.Claim.tagAfter (kind : Nat) (full : Bool) : Bool :=
  match kind with
  | 1 => false
  | 3 => true
  | 4 => true
  | 5 => false
  | _ => full

/-- The words of one tagged access. -/
def Sys2Proof.Claim.taggedWords (a size : Nat) : List Nat := if size = 8 then [a, a + 4] else [a]

/-- A tagged access issues as a long operation that waits at its vault, which closes the group's region (but for PEEKTAG, which may find its
tag empty); an address no vault backs is event 0x15. Once arrived, with the only waiting access, the indivisible step of R64 happens where the tags allow it and at no
other time: data and tag change at exactly its words, and PEEKTAG also tells p23; nothing of the group changes but its region, by the role of
the access. -/
def Obligations.TaggedAccesses : Prop :=
  (∀ s c i kind d a z k phys, taggedKind i = some (kind, d, a, z, k) → (3 ≤ kind → k.toNat = 4 → c.g.written = 0) →
    issues s true c → flagFree c c.cl.header.seta →
    fits [useAddr true c.g.quota a.toNat, useGroup true (decide (kind < 3)) c.g.quota d.toNat (z.toNat + 2)] →
    allowed c true [if kind < 3 then .r else .w] (2 ^ (z.toNat + 2)) a.toNat phys → (∀ l ∈ lanesOf c.act, vaultBacked (phys l) = true) →
    c.g.charged = none → c.s.unserved c.g.gid = false → (∀ l ∈ lanesOf c.act, c.s.unreachable (phys l) = false) →
    let p := if kind = 2 then c.base true else if kind < 3 then (c.base true).closeRegion c.g.gid
      else ((c.base true).closeRegion c.g.gid).touchWrites c.g.gid
        ((lanesOf c.act).map (fun l => { lane := l, address := c.address a.toNat l, phys := phys l }))
    ∃ t, exec i s = .next t ∧
      settles (inFlight c p c.cl.header.seta true []
        (if c.act = 0 then .none else .tagged kind (2 ^ (z.toNat + 2)) k.toNat d.toNat ((lanesOf c.act).map (fun l =>
          { lane := some l, vaddr := c.address a.toNat l, address := phys l,
            lo := if kind < 3 then 0 else c.reg l d.toNat, hi := if kind < 3 ∨ z = 0 then 0 else c.reg l (d.toNat + 1) }))) [])
        c.g.gid noWrites noUni t) ∧
  (∀ s c i kind d a z k phys, taggedKind i = some (kind, d, a, z, k) → s.ctx? true = some c →
    fits [useAddr true c.g.quota a.toNat, useGroup true (decide (kind < 3)) c.g.quota d.toNat (z.toNat + 2)] →
    allowed c true [if kind < 3 then .r else .w] (2 ^ (z.toNat + 2)) a.toNat phys → (∃ l ∈ lanesOf c.act, vaultBacked (phys l) = false) →
    let failing := (lanesOf c.act).filter (fun l => !vaultBacked (phys l))
    exec i s = .next (c.take
      { kind := 0x15, info := maskOf (fun l => failing.contains l), addr := c.address a.toNat (failing.headD 0) })) ∧
  (∀ (s : State) op o g kind size scope dst l, s.ops = [o] → o.id = op → s.group? o.gid = some g → o.wait = .tagged kind size scope dst [l] →
    kind < 6 → (size = 4 ∨ size = 8) → l.address % size = 0 → o.arrived = false → o.again = false → (∀ st, g.stop = some st → st.late ≠ some op) →
    (∀ w ∈ taggedWords l.address size, s.conflicts g w (decide (3 ≤ kind)) = false) → s.mem.poisoned l.address size = false →
    ∃ t o', exec (.taggedAccessArrival op) s = .next t ∧ t = { s with mem := t.mem, ops := [o'], groups := t.groups, pendingWrites := t.pendingWrites } ∧ o'.arrived = true ∧ o'.id = op ∧ o'.gid = o.gid ∧
      o'.flag = o.flag ∧ (∀ id, id ≠ o.gid → t.group? id = s.group? id) ∧
      (∃ h, t.group? o.gid = some h ∧ h = { g with reads := h.reads, writes := h.writes }) ∧
      (¬mayServe s.mem kind (taggedWords l.address size) → t = { s with ops := [o'] } ∧ o'.wait = o.wait ∧ o'.results = o.results) ∧
      (mayServe s.mem kind (taggedWords l.address size) → o'.wait = .none ∧
        o'.results = o.results ++
          (if kind < 3 then (taggedWords l.address size).mapIdx (fun i w =>
            { lane := l.lane, reg := dst + i, mask := whole, value := s.mem.word w, loses := false }) else []) ++
          (if kind = 2 then [({
              lane := l.lane, reg := Config.predBase + 23, mask := 1,
              value := (if (taggedWords l.address size).all (fun w => !s.mem.empties.contains w) then 1 else 0), loses := false } : RegWrite)] else []) ∧
        (∀ w, t.mem.full w = if w ∈ taggedWords l.address size then tagAfter kind (s.mem.full w) else s.mem.full w) ∧
        ∀ b, t.mem.byte b = if 3 ≤ kind ∧ l.address ≤ b ∧ b < l.address + size then
          (if b < l.address + 4 then l.lo else l.hi).extractLsb' (8 * (b % 4)) 8 else s.mem.byte b)) ∧
  (∀ (s : State) word, ∃ t, exec (.storePerformed word) s = .next t ∧
    t = { s with pendingWrites := t.pendingWrites } ∧
    ∀ p : PendingWrite, p ∈ t.pendingWrites ↔ p ∈ s.pendingWrites ∧ (p.word = word → s.unreachable word = true))

/-! ### Atomics and the atomic buffers (R74 to R76, R183 to R185) -/

/-- The operations of ATOM by code (R183). -/
def Sys2Proof.Claim.atomicTable (code : Nat) (old b b1 : Word) : Word :=
  match code with
  | 0 => old + b
  | 1 => old - b
  | 2 => if old.toInt < b.toInt then old else b
  | 3 => if old.toInt < b.toInt then b else old
  | 4 => if old.toNat < b.toNat then old else b
  | 5 => if old.toNat < b.toNat then b else old
  | 6 => old &&& b
  | 7 => old ||| b
  | 8 => old ^^^ b
  | 9 => b
  | 10 => if old = b then b1 else old
  | 11 => toF32 ((f32 old).add (f32 b))
  | 12 => toF32 ((f32 old).minimum (f32 b))
  | _ => toF32 ((f32 old).maximum (f32 b))

/-- One lane's contribution to a buffer: into the entry of its address and operation, else a new entry at the end (R74). -/
def Sys2Proof.Claim.combined (op : Nat) (address phys : Nat) (v : Word) (es : List AtomicEntry) : List AtomicEntry :=
  if es.any (fun e => decide (e.address = address ∧ e.op = op)) then
    es.map (fun e => if e.address = address ∧ e.op = op then
      { e with sum := atomicTable ([0, 2, 3, 4, 5, 6, 7, 8, 11, 12, 13].getD op 13) e.sum v 0 } else e)
  else es ++ [{ address := address, op := op, phys := phys, sum := v }]

/-- ATOM and UATOM with one lane read the word, store the operation's result there and return the old value, in one step, acquiring and
releasing as XSCO says (acq_rel at device scope without it); lanes of ATOM perform in ascending position. ARED combines into the group's
buffer and touches no memory while the buffer has room, ARFLUSH marks the group's flush and ARSTAT reads the buffer. At a flush point every entry
of the team drains into its word. -/
def Obligations.Atomics : Prop :=
  (∀ s c lane i (d a b : BitVec 7) (o : BitVec 4) phys l,
    (i = .atom d a b o ∧ lane = true ∨ i = .uatom d a b o ∧ lane = false) → o.toNat < 14 → issues s lane c → flagFree c c.cl.header.seta →
    fits [useAddr lane c.g.quota a.toNat, useAtomB lane c.g.quota b.toNat o.toNat, useGroup lane true c.g.quota d.toNat 2] →
    c.accessLanes lane = [l] → allowed c lane [.r, .w] 4 a.toNat phys → backing (phys l) ≠ .host → unpoisoned c [l] 4 phys →
    unhindered c [l] 4 true phys →
    let order := (c.cl.xsco.map (·.2.toNat)).getD 3
    let scope := (c.cl.xsco.map (·.1.toNat)).getD 3
    (order < 2 ∨ scope ≠ 4 ∨ c.g.written = 0) →
    let old := c.s.mem.word (phys l)
    ∃ t m, exec i s = .next t ∧
      settles (inFlight c
        ((((c.base lane).ordered c.g.gid order scope ((wordsOf (phys l) 4).map Place.word)).setMem m |>.touchWrites c.g.gid
          [{ lane := l, address := c.address a.toNat l, phys := phys l }]).serve)
        c.cl.header.seta lane [{ lane := if lane then some l else none, reg := d.toNat, mask := whole, value := old, loses := false }] .none [])
        c.g.gid noWrites noUni t ∧
      m.word (phys l) = atomicTable o.toNat old (c.reg l b.toNat) (if o = 10 then c.reg l (b.toNat + 1) else 0) ∧
      m.empties = c.s.mem.empties ∧ ∀ x, x < phys l ∨ phys l + 4 ≤ x → m.byte x = c.s.mem.byte x) ∧
  (∀ s c (d a b : BitVec 7) phys, issues s true c → flagFree c c.cl.header.seta →
    fits [useAddr true c.g.quota a.toNat, useAtomB true c.g.quota b.toNat 0, useGroup true true c.g.quota d.toNat 2] →
    allowed c true [.r, .w] 4 a.toNat phys → c.cl.xsco = none → unpoisoned c (lanesOf c.act) 4 phys → unhindered c (lanesOf c.act) 4 true phys →
    (∀ l ∈ lanesOf c.act, phys l = phys ((lanesOf c.act).headD 0) ∧ backing (phys l) ≠ .host) →
    let base := c.s.mem.word (phys ((lanesOf c.act).headD 0))
    let before (l : Nat) : Word := ((lanesOf c.act).filter (fun k => decide (k < l))).foldl (fun v k => v + c.reg k b.toNat) base
    ∃ t o, exec (.atom d a b 0) s = .next t ∧ t.ops.getLast? = some o ∧ o.wait = .none ∧
      o.results = (lanesOf c.act).map (fun l => { lane := some l, reg := d.toNat, mask := whole, value := before l, loses := false })) ∧
  (∀ s c (a b : BitVec 7) (o : BitVec 4) phys, issues s true c → flagFree c c.cl.header.seta →
    fits [useAddr true c.g.quota a.toNat, useNoPort c.g.quota b.toNat] → allowed c true [.r, .w] 4 a.toNat phys →
    (∀ l ∈ lanesOf c.act, backing (phys l) ≠ .host) → unpoisoned c (lanesOf c.act) 4 phys →
    c.g.atomics.length + (lanesOf c.act).length ≤ 32 →
    ∃ t, exec (.ared a b o) s = .next t ∧
      settles (inFlight c (((c.base true).updGroup c.g.gid (fun g => {
          g with
          atomics := (lanesOf c.act).foldl (fun es l => combined o.toNat (c.address a.toNat l) (phys l) (c.reg l b.toNat) es) g.atomics })).serve)
        c.cl.header.seta true [] .none []) c.g.gid noWrites noUni t) ∧
  (∀ s c (d : BitVec 7), issues s false c → flagFree c c.cl.header.seta →
    (c.g.charged = none → ∃ t, exec .arflush s = .next t ∧
      settles (((inFlight c ((c.base false).updGroup c.g.gid (fun g => { g with flushed := true })) c.cl.header.seta false [] .flushPoint []).checkFlush
        c.g.team).serve) c.g.gid noWrites noUni t) ∧
    (fits [useS d.toNat] → ∃ t, exec (.arstat d) s = .next t ∧
      settles (inFlight c (c.base false) c.cl.header.seta false
        [uniResult d.toNat (BitVec.ofNat 32 (c.g.atomics.length * 2 ^ 26 + c.g.overflow % 2 ^ 24))] .none []) c.g.gid noWrites noUni t)) ∧
  (∀ (s : State) tid, ((s.groups.filter (fun g => decide (g.team = tid))).map (·.index)).Nodup → (∀ g ∈ s.groups, g.team = tid → g.index < 32) →
    ((s.groups.filter (fun g => decide (g.team = tid))).flatMap (·.atomics)).Pairwise (fun e f => e.phys + 4 ≤ f.phys ∨ f.phys + 4 ≤ e.phys) →
    s.mem.inject = none → (∀ g ∈ s.groups, g.team = tid → ∀ e ∈ g.atomics, s.mem.poisoned e.phys 4 = false) →
    (∀ h ∈ (s.flushPoint tid).groups, h.team = tid → h.atomics = [] ∧ h.overflow = 0 ∧ h.flushed = false) ∧
    ∀ g ∈ s.groups, g.team = tid → ∀ e ∈ g.atomics,
      (s.flushPoint tid).mem.word e.phys = atomicTable ([0, 2, 3, 4, 5, 6, 7, 8, 11, 12, 13].getD e.op 13) (s.mem.word e.phys) e.sum 0)

/-! ## Tiles and the matrix unit (R38, R39, R212 to R226) -/

/-- Byte b of row r of tile t. -/
def Sys2Proof.Claim.tileAt (ts : List (Nat × Byte)) (t r b : Nat) : Byte := Sparse.get 0 ts (4096 * t + 128 * r + b)

/-- Row r of a tile as one little-endian number, and word column k of it. -/
def Sys2Proof.Claim.rowNumber (ts : List (Nat × Byte)) (t r : Nat) : Nat :=
  ((List.range 128).map (fun b => (tileAt ts t r b).toNat * 256 ^ b)).sum
def Sys2Proof.Claim.tileWord (ts : List (Nat × Byte)) (t r k : Nat) : Word := BitVec.ofNat 32 (rowNumber ts t r / 2 ^ (32 * k))

/-- A word's byte. -/
def Sys2Proof.Claim.byteOf (w : Word) (i : Nat) : Byte := w.extractLsb' (8 * i) 8

/-- The flag of a matrix or engine operation: SETB where it names one, else SETA (R126). -/
def Sys2Proof.Claim.longFlag (c : Ctx) : Nat := if c.cl.header.setb = 15 then c.cl.header.seta else c.cl.header.setb

/-- The tiles named lie within the quota, and no matrix stream under way names one of them (R213). -/
def Sys2Proof.Claim.tilesFree (c : Ctx) (ts : List Nat) : Prop := (∀ t ∈ ts, t < c.g.tileQuota) ∧ c.s.tileBusy c.g.gid ts true = false

/-- A tile instruction completes: a long operation on its flag, and the tiles hold, byte for byte, what is given; nothing else differs. -/
def Sys2Proof.Claim.tilesAfter (c : Ctx) (p : State) (lane : Bool) (t : State) (new : Nat → Nat → Nat → Byte) : Prop :=
  ∃ ts, settles (inFlight c (p.updGroup c.g.gid (fun g => { g with tiles := ts })) (longFlag c) lane [] .none []) c.g.gid noWrites noUni t ∧
    ∀ n r b, r < 32 → b < 128 → tileAt ts n r b = new n r b

/-- A value TCONF takes: reserved bits zero, and a row that is a whole number of elements where VALID is 1 (R215). -/
def Sys2Proof.Claim.configurable (w : Word) : Prop :=
  w.extractLsb' 18 13 = 0 ∧ w.extractLsb' 15 1 = 0 ∧ w.extractLsb' 5 3 = 0 ∧
  (w.getLsbD 31 = true → 8 * ((w.extractLsb' 8 7).toNat + 1) % (4 * 2 ^ (w.extractLsb' 16 2).toNat) = 0)

/-- TCONF writes a tile's control register and no tile, an illegal value stops it; TCREAD reads the register; TZERO clears the tile. A tile at
or above the group's tile quota is event 0x04 (R39, R213 to R215). -/
def Sys2Proof.Claim.tileControlHold : Prop :=
  (∀ s c (n a : BitVec 7), issues s false c → flagFree c (longFlag c) → fits [useS a.toNat] → tilesFree c [n.toNat] →
    c.s.tileBusy c.g.gid [n.toNat] false = false → configurable (c.readS (a.toNat - 104)) →
    ∃ t, exec (.tconf n a) s = .next t ∧
      settles (inFlight c ((c.base false).updGroup c.g.gid (fun g =>
        { g with tileCtl := Sparse.set 0 g.tileCtl n.toNat (c.readS (a.toNat - 104)) })) (longFlag c) false [] .none []) c.g.gid noWrites noUni t) ∧
  (∀ s c (n a : BitVec 7), s.ctx? false = some c → fits [useS a.toNat] → n.toNat < c.g.tileQuota → ¬configurable (c.readS (a.toNat - 104)) →
    exec (.tconf n a) s = .next (c.take { kind := 2, info := c.run, addr := c.cl.base })) ∧
  (∀ s c (d n : BitVec 7), issues s false c → flagFree c (longFlag c) → fits [useS d.toNat] → tilesFree c [n.toNat] →
    ∃ t, exec (.tcread d n) s = .next t ∧
      settles (inFlight c (c.base false) (longFlag c) false [uniResult d.toNat (Sparse.get 0 c.g.tileCtl n.toNat)] .none []) c.g.gid
        noWrites noUni t) ∧
  (∀ s c (n : BitVec 7), issues s false c → flagFree c (longFlag c) → tilesFree c [n.toNat] →
    ∃ t, exec (.tzero n) s = .next t ∧
      tilesAfter c (c.base false) false t (fun k r b => if k = n.toNat then 0 else tileAt c.g.tiles k r b)) ∧
  (∀ s c (n : BitVec 7), s.ctx? false = some c → c.g.tileQuota ≤ n.toNat →
    exec (.tzero n) s = .next (c.take { kind := 4, info := c.run, addr := c.cl.base }))

/-- The offset in a range of the byte at a physical address, where the range has a piece that holds it. -/
def Sys2Proof.Claim.offsetIn : List (Nat × Nat) → Nat → Option Nat
  | [], _ => none
  | p :: rest, b => match offsetIn rest b with
    | some o => some (p.2 + o)
    | none => if p.1 ≤ b ∧ b < p.1 + p.2 then some (b - p.1) else none

/-- The memory rows of TLD and TST (R216): one of ROWB bytes for each row of the tile; TLDT's are its columns. -/
def Sys2Proof.Claim.memoryRows (f : TileCfg) (transposed : Bool) (base stride : Nat) : List (Nat × Nat) :=
  let e := 2 ^ f.ew * 4
  if transposed then (List.range (8 * f.rowb / e)).map (fun k => ((base + k * stride) % 2 ^ 64, f.rows * e / 8))
  else (List.range f.rows).map (fun r => ((base + r * stride) % 2 ^ 64, f.rowb))

/-- The pieces of the rows of the tile, from those of the memory rows (R216). -/
def Sys2Proof.Claim.tilePieces (f : TileCfg) (transposed : Bool) (n : Nat) (pieces : Nat → List (Nat × Nat)) : List (List (Nat × Nat)) :=
  tileRows (if transposed then 2 else 0) f ((List.range n).map pieces)

/-- Every row of a tile access translates to the pieces given, nothing holds it up and nothing conflicts. -/
def Sys2Proof.Claim.rowsReady (c : Ctx) (need : Acc) (f : TileCfg) (transposed : Bool) (rows : List (Nat × Nat)) (pieces : Nat → List (Nat × Nat)) :
    Prop :=
  (∀ r q, rows[r]? = some q → c.s.checkSpan c.insetId need q.1 q.2 = (pieces r, none)) ∧ c.g.charged = none ∧ c.s.unserved c.g.gid = false ∧
  (∀ ps ∈ tilePieces f transposed rows.length pieces, ∀ p ∈ ps, c.s.unreachable p.1 = false ∧
    ∀ w ∈ wordsOf p.1 p.2, c.s.conflicts c.g w (decide (need = .w)) = false) ∧
  (need = .r → ∀ r < rows.length, ∀ p ∈ pieces r, c.s.mem.poisoned p.1 p.2 = false)

/-- Byte o of memory row r. -/
def Sys2Proof.Claim.rowByte (c : Ctx) (pieces : List (Nat × Nat)) (o : Nat) : Byte := (c.s.mem.pieceBytes pieces).getD o 0

/-- TLD, TLDT and TST move whole rows between a tile and memory, every row checked first; TLDT's memory row k becomes column k. Bytes of
the tile outside its rows, and of memory outside the rows, stay as they were (R216, R217). TRD and TWR move words of row l for lane l (R218). -/
def Sys2Proof.Claim.tileMovesHold : Prop :=
  (∀ s c i tr (tt : BitVec 4) (p k : BitVec 7) s1 stride pieces,
    (i = .tld tt p k ∧ tr = false ∨ i = .tldt tt p k ∧ tr = true) → issues s false c → flagFree c (longFlag c) →
    fits [useSPair p.toNat, useUni k.toNat] → ureads c (c.base false) k.toNat = some (s1, stride) → tilesFree c [tt.toNat] →
    let f := tileCfg (Sparse.get 0 c.g.tileCtl tt.toNat)
    let e := 2 ^ f.ew / 2
    f.valid = true → (tr = true → f.ew ≠ 0) → 8 * f.rowb % (4 * 2 ^ f.ew) = 0 → (c.spair p.toNat).toNat % 4 = 0 → stride.toNat % 4 = 0 →
    let rows := memoryRows f tr (c.spair p.toNat).toNat stride.toNat
    rowsReady c .r f tr rows pieces →
    ∃ t, exec i s = .next t ∧
      tilesAfter c (s1.record c.g.gid ((tilePieces f tr rows.length pieces).flatMap (fun ps => ps.flatMap (fun q => wordsOf q.1 q.2))) false) false t
        (fun n r b => if n = tt.toNat ∧ r < f.rows ∧ b < f.rowb then
            (if tr then rowByte c (pieces (b / e)) (r * e + b % e) else rowByte c (pieces r) b)
          else tileAt c.g.tiles n r b)) ∧
  (∀ s c (tt : BitVec 4) (p k : BitVec 7) s1 stride pieces, issues s false c → flagFree c (longFlag c) →
    fits [useSPair p.toNat, useUni k.toNat] → ureads c (c.base false) k.toNat = some (s1, stride) → tilesFree c [tt.toNat] →
    let f := tileCfg (Sparse.get 0 c.g.tileCtl tt.toNat)
    f.valid = true → (c.spair p.toNat).toNat % 4 = 0 → stride.toNat % 4 = 0 →
    let rows := memoryRows f false (c.spair p.toNat).toNat stride.toNat
    rowsReady c .w f false rows pieces →
    ∃ t m, exec (.tst tt p k) s = .next t ∧
      settles (inFlight c
        ((((s1.record c.g.gid ((List.range rows.length).flatMap (fun r => (pieces r).flatMap (fun q => wordsOf q.1 q.2))) true).setMem m).touchWrites
          c.g.gid ((List.range rows.length).flatMap (fun r => (pieces r).map (fun q => { lane := 0, address := (c.spair p.toNat).toNat, phys := q.1 })))).serve)
        (longFlag c) false [] .none []) c.g.gid noWrites noUni t ∧
      m.empties = c.s.mem.empties ∧
      ∀ b, m.byte b = match ((List.range rows.length).filterMap (fun r => (offsetIn (pieces r) b).map (fun o => (r, o)))).getLast? with
        | some q => tileAt c.g.tiles tt.toNat q.1 q.2
        | none => c.s.mem.byte b) ∧
  (∀ s c (d : BitVec 7) (tt : BitVec 4) (col n : BitVec 5), issues s true c → flagFree c (longFlag c) →
    fits [useRun c.g.quota d.toNat (n.toNat + 1)] → tilesFree c [tt.toNat] →
    let f := tileCfg (Sparse.get 0 c.g.tileCtl tt.toNat)
    f.valid = true → 4 * (col.toNat + n.toNat + 1) ≤ f.rowb →
    (∃ t, exec (.trd d tt col n) s = .next t ∧
      settles (inFlight c (c.base true) (longFlag c) true (((lanesOf c.act).filter (fun l => decide (l < f.rows))).flatMap (fun l =>
        (List.range (n.toNat + 1)).map (fun j =>
          { lane := some l, reg := d.toNat + j, mask := whole, value := tileWord c.g.tiles tt.toNat l (col.toNat + j), loses := false }))) .none [])
        c.g.gid noWrites noUni t) ∧
    (∃ t, exec (.twr d tt col n) s = .next t ∧
      tilesAfter c (c.base true) true t (fun k r b =>
        if k = tt.toNat ∧ r < f.rows ∧ c.act.getLsbD r = true ∧ 4 * col.toNat ≤ b ∧ b < 4 * (col.toNat + n.toNat + 1) then
          byteOf (c.readV r (d.toNat + (b / 4 - col.toNat))) (b % 4)
        else tileAt c.g.tiles k r b)))

/-- The tile control words, and the moves between registers and tiles. -/
def Obligations.TileControlAndMoves : Prop := tileControlHold ∧ tileMovesHold

/-! ### Matrix instructions (R219 to R224) -/

/-- The contraction length of an element format (R220). -/
def Sys2Proof.Claim.contraction (elem : Nat) : Nat := if elem ∈ [7, 10, 11, 12] then 64 else if elem ∈ [1, 2] then 16 else 32

/-- Element k of row i of an operand tile; of column i of a transposed one (R219, R224). -/
def Sys2Proof.Claim.operandCode (ts : List (Nat × Byte)) (elem t : Nat) (transposed : Bool) (i k : Nat) : Nat :=
  let w := elemBits elem
  if elem = 12 then intBits 2 (trit (rowNumber ts t i / 2 ^ (8 * (k / 5)) % 256) (k % 5))
  else if transposed then rowNumber ts t k / 2 ^ (w * i) % 2 ^ w
  else rowNumber ts t i / 2 ^ (w * k) % 2 ^ w

/-- The scale word of a row of A (side 0) or a column of B (side 1) for the block that holds element k. -/
def Sys2Proof.Claim.scaleAt (ts : List (Nat × Byte)) (st block side i k : Nat) : Word := tileWord ts st (2 * (k / block) + side) i

/-- The block length of a geometry (R220). -/
def Sys2Proof.Claim.blockOf (geom : Nat) : Nat :=
  match geom with
  | 1 => 32
  | 2 => 64
  | 3 => 128
  | 4 => 16
  | 5 => 32
  | _ => 0

/-- One operand element as an exact value, with its block's scale (R222). -/
def Sys2Proof.Claim.operandValue (ts : List (Nat × Byte)) (f : FormatSlot) (t : Nat) (transposed : Bool) (st side i k : Nat) : FVal :=
  let q := elemVal f.elem (operandCode ts f.elem t transposed i k)
  if f.geom = 0 then q else q.mul (widenScale f.scale ((scaleAt ts st (blockOf f.geom) side i k).extractLsb' 0 16).toNat)

/-- D(i, j) of MMA and MMAT: D plus the exact sum of products, modulo 2^32 for integers without a scale, else rounded once (R222). -/
def Sys2Proof.Claim.matrixElement (ts : List (Nat × Byte)) (f : FormatSlot) (d a b : Nat) (transposed : Bool) (st i j : Nat) : Word :=
  let old := tileWord ts d i j
  let ks := List.range (contraction f.elem)
  if f.geom = 0 ∧ f.elem ∈ [8, 10, 12] then
    old + BitVec.ofInt 32 ((ks.map (fun k => elemInt f.elem (operandCode ts f.elem a false i k) * elemInt f.elem (operandCode ts f.elem b transposed j k))).sum)
  else toF32 (FVal.sum false (f32 old :: ks.map (fun k => (operandValue ts f a false st 0 i k).mul (operandValue ts f b transposed st 1 j k))))

/-- D(i, j) of MMAQ: the zero points taken off, the exact sum scaled by both scales and added to D, three roundings in that order (R224). -/
def Sys2Proof.Claim.affineElement (ts : List (Nat × Byte)) (f : FormatSlot) (d a b st i j : Nat) : Word :=
  let signed := decide (f.elem = 8 ∨ f.elem = 10)
  let width := elemBits f.elem
  let wa := tileWord ts st 0 i
  let wb := tileWord ts st 1 j
  let za := intOf signed width (wa.extractLsb' 16 8).toNat
  let zb := intOf signed width (wb.extractLsb' 16 8).toNat
  let sum := ((List.range (contraction f.elem)).map (fun k =>
    (elemInt f.elem (operandCode ts f.elem a false i k) - za) * (elemInt f.elem (operandCode ts f.elem b false j k) - zb))).sum
  let x := toF32 ((FVal.ofInt sum).mul (widenScale f.scale (wa.extractLsb' 0 16).toNat))
  let y := toF32 ((f32 x).mul (widenScale f.scale (wb.extractLsb' 0 16).toNat))
  toF32 ((f32 (tileWord ts d i j)).add (f32 y))

/-- MMA, MMAQ and MMAT write every element of D and nothing else, with all 32 lanes in the run; a run that lacks one is event 0x05, before any
other test (R221). -/
def Obligations.MatrixResults : Prop :=
  (∀ s c i form (d a b : BitVec 4) (sl : BitVec 3) (u : BitVec 6),
    (i = .mma d a b sl u ∧ form = 0 ∨ i = .mmaq d a b sl u ∧ form = 1 ∨ i = .mmat d a b sl u ∧ form = 2) →
    issues s false c → flagFree c (longFlag c) → c.run = BitVec.allOnes 32 →
    let f := c.slot sl.toNat
    let st := u.toNat % 16
    matrixOk c.g f form d.toNat a.toNat (some b.toNat) st = true →
    tilesFree c ([d.toNat, a.toNat, b.toNat] ++ if f.geom = 0 then [] else [st]) →
    ∃ t, exec i s = .next t ∧
      tilesAfter c (c.base false) false t (fun n r k => if n = d.toNat then
          byteOf (if form = 1 then affineElement c.g.tiles f d.toNat a.toNat b.toNat st r (k / 4)
            else matrixElement c.g.tiles f d.toNat a.toNat b.toNat (decide (form = 2)) st r (k / 4)) (k % 4)
        else tileAt c.g.tiles n r k)) ∧
  (∀ s c (d a b : BitVec 4) (sl : BitVec 3) (u : BitVec 6), s.ctx? false = some c → c.run ≠ BitVec.allOnes 32 →
    ∀ i ∈ [Instr.mma d a b sl u, .mmaq d a b sl u, .mmat d a b sl u, .mmab d a b sl u],
      exec i s = .next (c.take { kind := 5, info := c.run, addr := c.cl.base }))

/-! ### Row operations (R225, R226) -/

/-- A tile of 32-bit elements. -/
def Sys2Proof.Claim.wordTile (f : TileCfg) : Prop := f.valid = true ∧ f.ew = 3
/-- A vector: word column k of a tile of 32-bit elements, for as many rows. -/
def Sys2Proof.Claim.vectorIn (f : TileCfg) (rows k : Nat) : Prop := wordTile f ∧ rows ≤ f.rows ∧ 4 * (k + 1) ≤ f.rowb

/-- The words of a row. -/
def Sys2Proof.Claim.rowOf (c : Ctx) (t r : Nat) : List Word :=
  (List.range ((tileCfg (Sparse.get 0 c.g.tileCtl t)).rowb / 4)).map (tileWord c.g.tiles t r)

/-- TRMAX and TRSUM of one row, with the old vector element where they accumulate (R226). -/
def Sys2Proof.Claim.rowMaximum (xs : List Word) : Word :=
  match xs with
  | [] => 0
  | x :: rest => toF32 ((rest.map f32).foldl FVal.maximum (f32 x))
def Sys2Proof.Claim.rowSum (xs : List Word) : Word :=
  let r := foldTree (fun x y => toF32 ((f32 x).add (f32 y))) (xs.map some)
  if (f32 r).isNan then 0x7FC00000 else r

/-- TRSCL, TEXP2 and TMASK of one element: column, element, vector element (R226). -/
def Sys2Proof.Claim.rowMapped : Instr → Option (BitVec 4 × BitVec 4 × BitVec 4 × BitVec 6 × (Nat → Word → Word → Word))
  | .trscl d a b _ u => some (d, a, b, u, fun _ x v =>
      if u.getLsbD 5 then (if (f32 x).isNan then 0x7FC00000 else if (f32 v).isZero then 0 else toF32 ((f32 x).div (f32 v)))
      else toF32 ((f32 x).mul (f32 v)))
  | .texp2 d a b _ u => some (d, a, b, u, fun _ x v => if x = 0xFF800000 then 0 else exp2CR (toF32 ((f32 x).add (f32 v).neg)))
  | .tmask d a b _ u => some (d, a, b, u, fun k x v => if v.toInt ≤ (k : Int) then 0xFF800000 else x)
  | _ => none

/-- A generator after n draws (R41). -/
def Sys2Proof.Claim.drawn (x : BitVec 64) (n : Nat) : BitVec 64 := (List.range n).foldl (fun x _ => stepGen x) x

/-- The row operations, TMOV and TCVT: every byte of D's rows, and no other byte of any tile. -/
def Obligations.TileRowOperations : Prop :=
  (∀ s c i max (d a b : BitVec 4) (sl : BitVec 3) (u : BitVec 6),
    (i = .trmax d a b sl u ∧ max = true ∨ i = .trsum d a b sl u ∧ max = false) → issues s false c → flagFree c (longFlag c) →
    tilesFree c [d.toNat, a.toNat] →
    let fa := tileCfg (Sparse.get 0 c.g.tileCtl a.toNat)
    let k := u.toNat % 32
    wordTile fa → vectorIn (tileCfg (Sparse.get 0 c.g.tileCtl d.toNat)) fa.rows k →
    ∃ t, exec i s = .next t ∧
      tilesAfter c (c.base false) false t (fun n r j => if n = d.toNat ∧ r < fa.rows ∧ j / 4 = k then
          byteOf (
            let old := tileWord c.g.tiles d.toNat r k
            let xs := rowOf c a.toNat r
            if max then rowMaximum (if u.getLsbD 5 then xs ++ [old] else xs)
            else if u.getLsbD 5 then toF32 ((f32 old).add (f32 (rowSum xs))) else rowSum xs) (j % 4)
        else tileAt c.g.tiles n r j)) ∧
  (∀ s c i d a b u f, rowMapped i = some (d, a, b, u, f) → issues s false c → flagFree c (longFlag c) →
    tilesFree c [d.toNat, a.toNat, b.toNat] →
    let fa := tileCfg (Sparse.get 0 c.g.tileCtl a.toNat)
    wordTile fa → fa.rowb % 4 = 0 → tileCfg (Sparse.get 0 c.g.tileCtl d.toNat) = fa →
    vectorIn (tileCfg (Sparse.get 0 c.g.tileCtl b.toNat)) fa.rows (u.toNat % 32) →
    ∃ t, exec i s = .next t ∧
      tilesAfter c (c.base false) false t (fun n r j => if n = d.toNat ∧ r < fa.rows ∧ j < fa.rowb then
          byteOf (f (j / 4) (tileWord c.g.tiles a.toNat r (j / 4)) (tileWord c.g.tiles b.toNat r (u.toNat % 32))) (j % 4)
        else tileAt c.g.tiles n r j)) ∧
  (∀ s c (d a b : BitVec 4) (sl : BitVec 3) (u : BitVec 6), issues s false c → flagFree c (longFlag c) → tilesFree c [d.toNat, a.toNat] →
    let fa := tileCfg (Sparse.get 0 c.g.tileCtl a.toNat)
    let fd := tileCfg (Sparse.get 0 c.g.tileCtl d.toNat)
    fa.valid = true → fd.valid = true → fd.rows ≤ fa.rows → 4 * (u.toNat % 32) + fd.rowb ≤ fa.rowb →
    ∃ t, exec (.tmov d a b sl u) s = .next t ∧
      tilesAfter c (c.base false) false t (fun n r j => if n = d.toNat ∧ r < fd.rows ∧ j < fd.rowb then
          tileAt c.g.tiles a.toNat r (4 * (u.toNat % 32) + j) else tileAt c.g.tiles n r j)) ∧
  (∀ s c (d a b : BitVec 4) (sl : BitVec 3) (u : BitVec 6), issues s false c → flagFree c (longFlag c) → tilesFree c [d.toNat, a.toNat] →
    let fa := tileCfg (Sparse.get 0 c.g.tileCtl a.toNat)
    let fd := tileCfg (Sparse.get 0 c.g.tileCtl d.toNat)
    let f := c.slot sl.toNat
    let w := elemBits f.elem
    let lo := 32 * (u.toNat % 2)
    slotWellFormed f = true → f.geom = 0 → f.elem ≠ 12 → fd.rows = fa.rows →
    (u.getLsbD 1 = true → fa.valid = true → fa.ew = elemEw f.elem → w * (lo + 32) ≤ 8 * fa.rowb → wordTile fd → fd.rowb = 128 →
      ∃ t, exec (.tcvt d a b sl u) s = .next t ∧
        tilesAfter c (c.base false) false t (fun n r j => if n = d.toNat ∧ r < fa.rows then
            byteOf (toF32 (widenCode f.elem (rowNumber c.g.tiles a.toNat r / 2 ^ (w * (lo + j / 4)) % 2 ^ w))) (j % 4)
          else tileAt c.g.tiles n r j)) ∧
    (u.getLsbD 1 = false → u.toNat / 8 < 6 → fd.valid = true → fd.ew = elemEw f.elem → w * (lo + 32) ≤ 8 * fd.rowb → wordTile fa → fa.rowb = 128 →
      ∃ t ts, exec (.tcvt d a b sl u) s = .next t ∧
        settles (inFlight c ((c.base false).updGroup c.g.gid (fun g =>
          { (if u.toNat / 8 = 5 then g.updLanes (maskOf (fun l => decide (l < fa.rows))) (fun _ x => { x with gen := drawn x.gen 32 }) else g) with
            tiles := ts })) (longFlag c) false [] .none []) c.g.gid noWrites noUni t ∧
        ∀ n r, r < 32 → rowNumber ts n r = if n = d.toNat ∧ r < fa.rows then
            rowNumber c.g.tiles n r - rowNumber c.g.tiles n r / 2 ^ (w * lo) % 2 ^ (w * 32) * 2 ^ (w * lo) +
              ((List.range 32).map (fun k => 2 ^ (w * (lo + k)) * (roundElem f.elem (u.toNat / 8) (u.getLsbD 2) (drawn (c.g.lane r).gen (k + 1))
                (f32 (tileWord c.g.tiles a.toNat r k)) % 2 ^ w))).sum
          else rowNumber c.g.tiles n r))

/-! ## Fences, barriers and synchronisation objects (R67 to R69, R79 to R94, R182, R186 to R193) -/

/-- Nothing holds a synchronising instruction up: no charged MOX, and no earlier access of the group that has not performed. -/
def Sys2Proof.Claim.caughtUp (c : Ctx) : Prop := c.g.charged = none ∧ c.s.unserved c.g.gid = false

/-- The group's team, or cluster, once the group has arrived at its barrier: a phase more where it is the last participant (R187). -/
def Sys2Proof.Claim.teamLast (c : Ctx) (tm : Team) : Bool :=
  (c.s.teamGroups c.g.team).all (fun h => h.exited || (tm.arrived ++ [c.g.index]).contains h.index)
def Sys2Proof.Claim.clusterLast (c : Ctx) (tm : Team) (cl : Cluster) : Bool :=
  (c.s.clusterTeams cl.cid).all (fun t => !t.away && (c.s.teamGroups t.tid).all (fun h =>
    h.exited || (cl.arrived ++ [(tm.index, c.g.index)]).contains (t.index, h.index)))

/-- The forms of BAR by whether they arrive and wait. -/
def Sys2Proof.Claim.teamBarrier : Instr → Option (Bool × Bool)
  | .barTeam => some (true, true)
  | .arriveTeam => some (true, false)
  | .waitTeam => some (false, true)
  | _ => none
def Sys2Proof.Claim.clusterBarrier : Instr → Option (Bool × Bool)
  | .barCluster => some (true, true)
  | .arriveCluster => some (true, false)
  | .waitCluster => some (false, true)
  | _ => none

/-- Barriers: an arrival is a release at the barrier's scope and is counted in the phase under way, the last one ends the phase, and what
waited for it is served; a waiting form waits for the phase of the pending arrival, and does nothing without one. A second arrival while one
pends is an illegal operand. -/
def Sys2Proof.Claim.barriersHold : Prop :=
  (∀ s c i arrive wait tm, teamBarrier i = some (arrive, wait) → issues s false c → flagFree c c.cl.header.seta → c.s.teamOf c.g = some tm →
    (arrive = true → c.g.pendTeam = none) → caughtUp c →
    let w : Waiting := if wait then (match (if arrive then some tm.phase else c.g.pendTeam) with
      | some p => .teamPhase p
      | none => .none) else .none
    let q := if arrive then
        (((c.base false).release c.g.gid 1 [.team c.g.team tm.phase]).updGroup c.g.gid (fun g => { g with pendTeam := some tm.phase })).updTeam c.g.team (fun t =>
          if teamLast c tm then { t with phase := t.phase + 1, arrived := [] } else { t with arrived := t.arrived ++ [c.g.index] })
      else if c.g.pendTeam.isSome then (c.base false).closeRegion c.g.gid else c.base false
    ∃ t, exec i s = .next t ∧ settles ((inFlight c q c.cl.header.seta false [] w []).serve) c.g.gid noWrites noUni t) ∧
  (∀ s c i arrive wait tm cl, clusterBarrier i = some (arrive, wait) → issues s false c → flagFree c c.cl.header.seta →
    c.s.teamOf c.g = some tm → c.s.cluster? tm.cluster = some cl → (arrive = true → c.g.pendCluster = none) → caughtUp c →
    let w : Waiting := if wait then (match (if arrive then some cl.phase else c.g.pendCluster) with
      | some p => .clusterPhase p
      | none => .none) else .none
    let q := if arrive then
        (((c.base false).release c.g.gid 2 [.cluster cl.cid cl.phase]).updGroup c.g.gid (fun g => { g with pendCluster := some cl.phase })).updCluster cl.cid (fun k =>
          if clusterLast c tm cl then { k with phase := k.phase + 1, arrived := [] } else { k with arrived := k.arrived ++ [(tm.index, c.g.index)] })
      else if c.g.pendCluster.isSome then (c.base false).closeRegion c.g.gid else c.base false
    ∃ t, exec i s = .next t ∧ settles ((inFlight c q c.cl.header.seta false [] w []).serve) c.g.gid noWrites noUni t) ∧
  (∀ s c, s.ctx? false = some c →
    (c.g.pendTeam ≠ none → ∀ i ∈ [Instr.barTeam, .arriveTeam], exec i s = .next (c.take { kind := 2, info := c.run, addr := c.cl.base })) ∧
    (c.g.pendCluster ≠ none → ∀ i ∈ [Instr.barCluster, .arriveCluster], exec i s = .next (c.take { kind := 2, info := c.run, addr := c.cl.base })))

/-- FENCE closes the region and covers the earlier writes at its scope once the group's earlier accesses have performed; at system scope,
with writes to other packages, it first sends a marker down every path to each of them and performs when all have been gathered (R87, R94,
R186); no marker is gathered at a package that no path leads to (R352). A release at device scope leaves pending no write to this package
that happens before it (R85). -/
def Sys2Proof.Claim.fencesHold : Prop :=
  (∀ s c (k : BitVec 4), issues s false c → flagFree c c.cl.header.seta → caughtUp c → (k.toNat ≠ 4 ∨ c.g.written = 0) →
    ∃ t, exec (.fence k) s = .next t ∧
      settles (inFlight c ((c.base false).fence c.g.gid k.toNat) c.cl.header.seta false [] .none []) c.g.gid noWrites noUni t) ∧
  (∀ s c, s.ctx? false = some c → caughtUp c → c.g.written ≠ 0 → (∀ m ∈ c.s.markers, m.1 ≠ c.g.gid) →
    (∀ k < 64, c.g.written.getLsbD k = true → ∃ p, (k, p) ∈ c.s.fabric.paths) →
    ∃ t, exec (.fence 4) s = .next t ∧ t = { s with markers := t.markers } ∧
      ∀ m, m ∈ t.markers ↔ m ∈ s.markers ∨ (m.1 = c.g.gid ∧ m.2.1 < 64 ∧ c.g.written.getLsbD m.2.1 = true ∧ m.2 ∈ s.fabric.paths)) ∧
  (∀ (s : State) gid pkg, s.markers.Nodup → (∃ p, (gid, pkg, p) ∈ s.markers ∧ (pkg, p) ∈ s.fabric.paths) →
    ∃ (p : Nat) (q : State), (gid, pkg, p) ∈ s.markers ∧ (pkg, p) ∈ s.fabric.paths ∧ (∀ m, m ∈ q.markers ↔ m ∈ s.markers ∧ m ≠ (gid, pkg, p)) ∧
      ((∃ m ∈ s.markers, m.1 = gid ∧ m ≠ (gid, pkg, p)) →
        exec (.flushMarkerGathered gid pkg) s = .next q ∧ q = { s with markers := q.markers }) ∧
      ((∀ m ∈ s.markers, m.1 = gid → m = (gid, pkg, p)) → exec (.flushMarkerGathered gid pkg) s = .next q.serve ∧
        q = { s with markers := q.markers, groups := q.groups, commands := q.commands, pendingWrites := q.pendingWrites } ∧
        (∀ g, s.group? gid = some g → q.group? gid = some { g with written := 0 }) ∧
        (∀ p, p ∈ q.pendingWrites ↔ p ∈ s.pendingWrites ∧ ¬(p.gid = gid ∧ p.pkg.isSome = true)))) ∧
  (∀ (s : State) gid pkg, (∀ p, (pkg, p) ∉ s.fabric.paths) → exec (.flushMarkerGathered gid pkg) s = .next s) ∧
  (∀ (s : State) gid scope places g, s.group? gid = some g → 3 ≤ scope →
    ∀ p, p ∈ (s.release gid scope places).pendingWrites → p.gid = gid ∨ gid ∈ p.known → p.pkg.isSome = true)

/-- The barriers of a team and of a cluster, and the fences. -/
def Obligations.BarriersAndFences : Prop := barriersHold ∧ fencesHold

/-! ### Barrier objects (R67, R68, R188) -/

/-- A barrier object: phase number, error bit, the posted expectation, the bytes arrived, the error code (R67). -/
structure Sys2Proof.Claim.Object where
  phase : Nat
  err : Bool
  expected : Option Int
  arrived : Int
  code : Word
deriving DecidableEq, Repr

/-- The object at an address: PHASE at +0 with ERR in bit 31, EXPECTED at +4, posted while its tag is full, ARRIVED at +8, CODE at +12. -/
def Sys2Proof.Claim.objectAt (m : Memory) (p : Nat) : Object :=
  { phase := (m.word p).toNat % 2 ^ 31, err := (m.word p).getLsbD 31, expected := if m.full (p + 4) then some (m.word (p + 4)).toInt else none,
    arrived := (m.word (p + 8)).toInt, code := m.word (p + 12) }

/-- The flip and the entry to the error phase, and the three operations on an object (R68). -/
def Sys2Proof.Claim.flipped (o : Object) : Object :=
  { o with phase := (o.phase + 1) % 2 ^ 31, err := false, expected := none, arrived := 0 }
def Sys2Proof.Claim.failed (code : Word) (o : Object) : Object :=
  if o.err then o else { o with phase := (o.phase + 1) % 2 ^ 31, err := true, expected := none, code := code }
def Sys2Proof.Claim.expectation (n : Int) (o : Object) : Object :=
  if o.err then o
  else if o.expected.isSome then failed 2 o
  else if n < o.arrived then failed 1 o
  else if o.arrived = n then flipped o
  else { o with expected := some n }
def Sys2Proof.Claim.arrival (b : Int) (o : Object) : Object :=
  if o.err then o
  else if 2 ^ 31 ≤ o.arrived + b then failed 1 o
  else
    let q := { o with arrived := o.arrived + b }
    match o.expected with
    | none => q
    | some e => if e < q.arrived then failed 1 q else if q.arrived = e then flipped q else q

/-- An object that a uniform instruction names passes its checks at its physical address, for the words that are read and written there
(R60, R67, R86, R177). -/
def Sys2Proof.Claim.objectReady (c : Ctx) (a : BitVec 7) (needs : List Acc) (align : Nat) (reads writes : List Nat) (p : Nat) : Prop :=
  (c.spair a.toNat).toNat % align = 0 ∧ c.s.accessAll c.insetId needs (c.spair a.toNat).toNat 1 = .ok p ∧ vaultBacked p = true ∧
  caughtUp c ∧ c.s.unreachable p = false ∧ (∀ w ∈ reads, c.s.mem.poisoned w 4 = false ∧ c.s.conflicts c.g w false = false) ∧
  ∀ w ∈ writes, c.s.conflicts c.g w true = false

/-- Two memories differ at most in the bytes of one range, and in no tag outside it. -/
def Sys2Proof.Claim.onlyWithin (m old : Memory) (p n : Nat) : Prop :=
  (∀ b, b < p ∨ p + n ≤ b → m.byte b = old.byte b) ∧ (∀ w, w < p ∨ p + n ≤ w → m.full w = old.full w) ∧ m.veils = old.veils

/-- The address operands of a wait, kept for its reissue (R66). -/
def Sys2Proof.Claim.addressWords (c : Ctx) (a : BitVec 7) : List Word :=
  [(c.spair a.toNat).extractLsb' 0 32, (c.spair a.toNat).extractLsb' 32 32]

/-- The BO instructions act on the object as R68's operations do, on no other byte or tag, and wake what waits on it; words that an operation
does not write are no conflict for it (R188); BOEXP and BOARR refuse a
negative count as an illegal operand; BOWAIT waits for the word to differ and BOTEST reads it, both 16-aligned in a vault-backed page or event
0x16. -/
def Obligations.BarrierObjects : Prop :=
  (∀ s c (a : BitVec 7) p, issues s false c → flagFree c c.cl.header.seta → fits [useSPair a.toNat] → objectReady c a [.w] 16 [] [p, p + 4, p + 8, p + 12] p →
    ∃ t m, exec (.boinit a) s = .next t ∧
      settles (inFlight c ((((c.base false).overwrite (objectPlace p)).setMem m).serve) c.cl.header.seta false [] .none []) c.g.gid noWrites noUni t ∧
      objectAt m p = { phase := 0, err := false, expected := none, arrived := 0, code := 0 } ∧
      m.full p = true ∧ m.full (p + 8) = true ∧ m.full (p + 12) = true ∧ onlyWithin m c.s.mem p 16) ∧
  (∀ s c i (a b : BitVec 7) p f released,
    (i = .boexp a b ∧ f = expectation (c.readS (b.toNat - 104)).toInt ∧ released = false ∧ 0 ≤ (c.readS (b.toNat - 104)).toInt ∨
     i = .boarr a b ∧ f = arrival (c.readS (b.toNat - 104)).toInt ∧ released = true ∧ 0 ≤ (c.readS (b.toNat - 104)).toInt ∨
     i = .bofault a b ∧ f = failed (0x80000000 ||| c.readS (b.toNat - 104)) ∧ released = true) →
    issues s false c → flagFree c c.cl.header.seta → fits [useSPair a.toNat, useS b.toNat] →
    objectReady c a [.w] 16 (if (objectAt c.s.mem p).err then [p] else [p, p + 4, p + 8])
      (if f (objectAt c.s.mem p) = objectAt c.s.mem p then [] else [p, p + 4, p + 8, p + 12]) p →
    ∃ t m, exec i s = .next t ∧
      settles (inFlight c (((if released then (c.base false).release c.g.gid 3
            (if (objectAt c.s.mem p).err then [] else [.object p (c.s.mem.word p)]) else c.base false).setMem m).serve) c.cl.header.seta false [] .none [])
        c.g.gid noWrites noUni t ∧
      objectAt m p = f (objectAt c.s.mem p) ∧ m.full p = c.s.mem.full p ∧ m.full (p + 8) = c.s.mem.full (p + 8) ∧
      m.full (p + 12) = c.s.mem.full (p + 12) ∧ onlyWithin m c.s.mem p 16) ∧
  (∀ s c (a b : BitVec 7), s.ctx? false = some c → fits [useSPair a.toNat, useS b.toNat] → (c.readS (b.toNat - 104)).toInt < 0 →
    ∀ i ∈ [Instr.boexp a b, .boarr a b], exec i s = .next (c.take { kind := 2, info := c.run, addr := c.cl.base })) ∧
  (∀ s c (d a b : BitVec 7) p, issues s false c → flagFree c c.cl.header.seta → fits [useSPair a.toNat, useS b.toNat, useS d.toNat] →
    (objectReady c a [.r] 16 [] [] p → ∃ t, exec (.bowait d a b) s = .next t ∧
      settles (inFlight c ((c.base false).closeRegion c.g.gid) c.cl.header.seta false [] (.bo p (c.readS (b.toNat - 104)) d.toNat)
        (addressWords c a)) c.g.gid noWrites noUni t) ∧
    (objectReady c a [.r] 16 [p] [] p → ∃ t, exec (.botest d a b) s = .next t ∧
      settles (inFlight c (if c.s.mem.word p = c.readS (b.toNat - 104) then c.base false
          else (c.base false).acquire c.g.gid 3 (endedPhase p (c.s.mem.word p)))
        c.cl.header.seta false [uniResult d.toNat (c.s.mem.word p)] .none []) c.g.gid noWrites noUni t)) ∧
  (∀ s c (d a b : BitVec 7) i, s.ctx? false = some c → fits [useSPair a.toNat, useS b.toNat, useS d.toNat] →
    i ∈ [Instr.bowait d a b, .botest d a b] → (c.spair a.toNat).toNat < 2 ^ 48 → (c.spair a.toNat).toNat % 16 ≠ 0 →
    exec i s = .next (c.take { kind := 0x16, info := c.run, addr := (c.spair a.toNat).toNat }))

/-- What a wait of BOWAIT, TKWAIT or WPWAIT is for, and what it then returns (R69, R190, R191). -/
def Sys2Proof.Claim.waitOver (m : Memory) : Waiting → Option (List RegWrite)
  | .bo p last d => if m.word p = last then none else some [uniResult d (m.word p)]
  | .ticket p turn d => if (m.word (p + 4) - turn).toNat < 2 ^ 31 then some [uniResult d (m.word (p + 4))] else none
  | .pointer p least d => if least.toNat ≤ (m.dword p).toNat then
      some [uniResult d ((m.dword p).extractLsb' 0 32), uniResult (d + 1) ((m.dword p).extractLsb' 32 32)] else none
  | _ => none
def Sys2Proof.Claim.waitsOn : Waiting → Option (Nat × Nat)
  | .bo p _ _ => some (p, 16)
  | .ticket p _ _ => some (p, 8)
  | .pointer p _ _ => some (p, 8)
  | _ => none

/-- A wait that arrives at its vault ends at once where its condition holds, and else stays; memory is not changed, and of the group nothing but
its region, where the wait ends as an acquire (R65, R81, R182). -/
def Obligations.WaitsAtVault : Prop :=
  ∀ (s : State) op o g p n, s.ops = [o] → o.id = op → s.group? o.gid = some g → waitsOn o.wait = some (p, n) →
    o.arrived = false → o.again = false → (∀ st, g.stop = some st → st.late ≠ some op) → (∀ w ∈ wordsOf p n, s.conflicts g w false = false) →
    s.mem.poisoned p n = false →
    ∃ t o', exec (.taggedAccessArrival op) s = .next t ∧
      t = { s with ops := [o'], groups := t.groups, pendingWrites := t.pendingWrites } ∧ (∀ id, id ≠ o.gid → t.group? id = s.group? id) ∧
      (∃ h, t.group? o.gid = some h ∧ h = { g with reads := h.reads, writes := h.writes }) ∧ o'.arrived = true ∧ o'.id = op ∧ o'.flag = o.flag ∧
      o'.gid = o.gid ∧
      match waitOver s.mem o.wait with
      | some rs => o'.wait = .none ∧ o'.results = o.results ++ rs
      | none => t = { s with ops := [o'] } ∧ o'.wait = o.wait ∧ o'.results = o.results

/-! ### Tickets, write pointers and deques (R189 to R193) -/

/-- A word of the issuing core's vault that a write-pointer instruction names. -/
def Sys2Proof.Claim.pointerReady (c : Ctx) (a : BitVec 7) (p : Nat) : Prop :=
  (c.spair a.toNat).toNat % 8 = 0 ∧ c.s.access c.insetId .r (c.spair a.toNat).toNat 1 = .ok p ∧ inVault (c.s.coreOf c.g) p 8 = true ∧ caughtUp c ∧
  c.s.unreachable p = false

/-- Tickets: TKGET hands out NEXT and raises it, arming a notice where B asks for one and the ticket is not served yet; TKWAIT waits for its
turn; TKNEXT raises SERVING where tickets are out. Write pointers: WPREAD and WPWAIT read the 64-bit word. -/
def Obligations.TicketsAndPointers : Prop :=
  (∀ s c (a : BitVec 7) p, issues s false c → flagFree c c.cl.header.seta → fits [useSPair a.toNat] → objectReady c a [.w] 8 [] [p, p + 4] p →
    ∃ t m, exec (.tkinit a) s = .next t ∧
      settles (inFlight c (((((c.base false).overwrite [Place.word (p + 4)].contains).setMem m).ticketReached p).serve) c.cl.header.seta false [] .none []) c.g.gid noWrites noUni t ∧
      m.word p = 0 ∧ m.word (p + 4) = 0 ∧ onlyWithin m c.s.mem p 8) ∧
  (∀ s c (d a b : BitVec 7) p, issues s false c → flagFree c c.cl.header.seta → fits [useSPair a.toNat, useS b.toNat, useS d.toNat] →
    objectReady c a [.r, .w] 8 [p, p + 4] [p] p →
    let next := c.s.mem.word p
    let free := decide (next = c.s.mem.word (p + 4))
    let arm := !free && (c.readS (b.toNat - 104)).getLsbD 0
    (arm = true → c.s.ticketWords p < 64) →
    ∃ t m, exec (.tkget d a b) s = .next t ∧
      settles (inFlight c { (if free then (c.base false).acquire c.g.gid 3 [Place.word (p + 4)].contains else c.base false).setMem m with
          armedTickets := c.s.armedTickets ++ (if arm then [(p, next, c.g.team)] else []) }
        c.cl.header.seta false [uniResult d.toNat next] .none []) c.g.gid noWrites noUni t ∧
      m.word p = next + 1 ∧ onlyWithin m c.s.mem p 4) ∧
  (∀ s c (d a b : BitVec 7) p, issues s false c → flagFree c c.cl.header.seta → fits [useSPair a.toNat, useS b.toNat, useS d.toNat] →
    objectReady c a [.r] 8 [] [] p →
    ∃ t, exec (.tkwait d a b) s = .next t ∧
      settles (inFlight c (c.base false) c.cl.header.seta false [] (.ticket p (c.readS (b.toNat - 104)) d.toNat)
        (addressWords c a)) c.g.gid noWrites noUni t) ∧
  (∀ s c (d a : BitVec 7) p, issues s false c → flagFree c c.cl.header.seta → fits [useSPair a.toNat, useS d.toNat] →
    objectReady c a [.r, .w] 8 [p, p + 4] (if c.s.mem.word (p + 4) = c.s.mem.word p then [] else [p + 4]) p →
    let serving := c.s.mem.word (p + 4)
    (serving = c.s.mem.word p → ∃ t, exec (.tknext d a) s = .next t ∧
      settles (inFlight c (c.base false) c.cl.header.seta false [uniResult d.toNat serving] .none []) c.g.gid noWrites noUni t) ∧
    (serving ≠ c.s.mem.word p → ∃ t m, exec (.tknext d a) s = .next t ∧
      settles (inFlight c (((((c.base false).ordered c.g.gid 2 3 [.word (p + 4)]).setMem m).ticketReached p).serve) c.cl.header.seta false
        [uniResult d.toNat (serving + 1)] .none []) c.g.gid noWrites noUni t ∧
      m.word (p + 4) = serving + 1 ∧ onlyWithin m c.s.mem (p + 4) 4)) ∧
  (∀ (s : State) p tm e, s.team? e.2.2 = some tm → s.armedTickets = [e] → e.1 = p →
    (e.2.1 ≠ s.mem.word (p + 4) → s.ticketReached p = s) ∧
    (e.2.1 = s.mem.word (p + 4) → tm.hasRoom 3 1 = true → tm.residency ≠ .freed → s.notices = [] →
      (s.ticketReached p) = { s with armedTickets := [] }.updTeam e.2.2 (fun t => t.setPort 3
        { t.port 3 with entries := (t.port 3).entries ++ [[BitVec.ofNat 32 (2 ^ 28 + e.2.1.toNat % 2 ^ 24)]] }))) ∧
  (∀ s c (d a : BitVec 7) p, issues s false c → flagFree c c.cl.header.seta → fits [useSPair a.toNat, useSPair d.toNat] → pointerReady c a p →
    (∀ w ∈ wordsOf p 8, c.s.meetsGroup c.g w false = false ∧ c.s.mem.poisoned w 4 = false) →
    ∃ t, exec (.wpread d a) s = .next t ∧
      settles (inFlight c ((c.base false).acquire c.g.gid 1 [Place.word p].contains) c.cl.header.seta false
        [uniResult d.toNat ((c.s.mem.dword p).extractLsb' 0 32), uniResult (d.toNat + 1) ((c.s.mem.dword p).extractLsb' 32 32)] .none [])
        c.g.gid noWrites noUni t) ∧
  (∀ s c (d a b : BitVec 7) p, issues s false c → flagFree c c.cl.header.seta → fits [useSPair a.toNat, useSPair b.toNat, useSPair d.toNat] →
    pointerReady c a p →
    ∃ t, exec (.wpwait d a b) s = .next t ∧
      settles (inFlight c ((c.base false).closeRegion c.g.gid) c.cl.header.seta false [] (.pointer p (c.spair b.toNat) d.toNat) (addressWords c a))
        c.g.gid noWrites noUni t)

/-- An initialised deque of the issuing grid: its header's object, the words that are read and written, and the physical pieces of its whole
range in one vault (R192, R193). -/
def Sys2Proof.Claim.dequeReady (c : Ctx) (a : BitVec 7) (needs : List Acc) (reads writes : List Nat) (p cap : Nat) (ps : List (Nat × Nat)) : Prop :=
  (∃ g, c.s.gridOf c.g = some g ∧ g.launch.deque = true) ∧ objectReady c a needs 32 reads writes p ∧
  c.s.checkSpan c.insetId .w (c.spair a.toNat).toNat (32 + 8 * cap) = (ps, none) ∧ ∃ v, backing p = .vault v ∧ ∀ q ∈ ps, inVault v q.1 q.2 = true

/-- The words of a deque's header that its instructions read. -/
def Sys2Proof.Claim.headerOf (p : Nat) : List Nat := wordsOf p 16

/-- The empty mark of a deque. -/
def Sys2Proof.Claim.noEntry : BitVec 64 := BitVec.allOnes 64

/-- Deques: DQINIT writes the header; the owner pushes and pops at BOTTOM, any team steals at TOP; an empty deque gives all ones, a full one
2 of DQPUSH's codes; another team's push or pop is an illegal operand, and without the grid's capability all are illegal instructions. -/
def Obligations.Deques : Prop :=
  (∀ s c (a b : BitVec 7) p ps, issues s false c → flagFree c c.cl.header.seta → fits [useSPair a.toNat, useS b.toNat] →
    let k := (c.readS (b.toNat - 104)).toNat % 32
    4 ≤ k → k ≤ 16 → dequeReady c a [.w] [] (wordsOf p 32) p (2 ^ k) ps →
    ∃ t m, exec (.dqinit a b) s = .next t ∧
      settles (inFlight c ((((c.base false).ordered c.g.gid 3 3 [.word p]).setMem m).serve) c.cl.header.seta false [] .none []) c.g.gid noWrites noUni t ∧
      m.word p = 0 ∧ m.word (p + 4) = 0 ∧ m.word (p + 8) = BitVec.ofNat 32 k ∧ m.word (p + 12) = c.ownerWord ∧
      (∀ i < 16, m.byte (p + 16 + i) = 0) ∧ onlyWithin m c.s.mem p 32) ∧
  (∀ s c (d a b : BitVec 7) p ps, issues s false c → flagFree c c.cl.header.seta → fits [useSPair a.toNat, useSPair b.toNat, useS d.toNat] →
    let cap := 2 ^ ((c.s.mem.word (p + 8)).toNat % 32)
    let top := c.s.mem.word p
    let bottom := c.s.mem.word (p + 4)
    let v := c.spair b.toNat
    let entry := pieceAt ps (32 + 8 * (bottom.toNat % cap))
    let code : Word := if v = noEntry then 2 else if (bottom - top).toNat = cap then 1 else 0
    dequeReady c a [.r, .w] (headerOf p) (if code = 0 then (p + 4) :: wordsOf entry 8 else []) p cap ps → c.s.mem.word (p + 12) = c.ownerWord →
    let m := if code = 0 then (c.s.mem.putDword entry v.toNat).putWord (p + 4) (bottom + 1) else c.s.mem
    ∃ t, exec (.dqpush d a b) s = .next t ∧
      settles (inFlight c ((((c.base false).ordered c.g.gid 3 3 [.word p]).setMem m).serve) c.cl.header.seta false [uniResult d.toNat code] .none [])
        c.g.gid noWrites noUni t) ∧
  (∀ s c (d a : BitVec 7) p ps, issues s false c → flagFree c c.cl.header.seta → fits [useSPair a.toNat, useSPair d.toNat] →
    let cap := 2 ^ ((c.s.mem.word (p + 8)).toNat % 32)
    let top := c.s.mem.word p
    let bottom := c.s.mem.word (p + 4)
    let place (i : Word) : Nat := pieceAt ps (32 + 8 * (i.toNat % cap))
    let entry (i : Word) : BitVec 64 := c.s.mem.dword (place i)
    let both (v : BitVec 64) : List RegWrite := [uniResult d.toNat (v.extractLsb' 0 32), uniResult (d.toNat + 1) (v.extractLsb' 32 32)]
    (dequeReady c a [.r, .w] (headerOf p ++ if bottom = top then [] else wordsOf (place (bottom - 1)) 8) (if bottom = top then [] else [p + 4]) p cap ps →
      c.s.mem.word (p + 12) = c.ownerWord → ∃ t, exec (.dqpop d a) s = .next t ∧
      settles (inFlight c ((((c.base false).ordered c.g.gid 3 3 [.word p]).setMem
        (if bottom = top then c.s.mem else c.s.mem.putWord (p + 4) (bottom - 1))).serve) c.cl.header.seta false
        (both (if bottom = top then noEntry else entry (bottom - 1))) .none []) c.g.gid noWrites noUni t) ∧
    (dequeReady c a [.r, .w] (headerOf p) [] p cap ps → c.s.mem.word (p + 12) ≠ c.ownerWord →
      exec (.dqpop d a) s = .next (c.take { kind := 2, info := c.run, addr := c.cl.base })) ∧
    (dequeReady c a [.r, .w] (headerOf p ++ if bottom = top then [] else wordsOf (place top) 8) (if bottom = top then [] else [p]) p cap ps →
      ∃ t, exec (.dqsteal d a) s = .next t ∧
      settles (inFlight c ((((c.base false).ordered c.g.gid 3 3 [.word p]).setMem
        (if bottom = top then c.s.mem else c.s.mem.putWord p (top + 1))).serve) c.cl.header.seta false
        (both (if bottom = top then noEntry else entry top)) .none []) c.g.gid noWrites noUni t)) ∧
  (∀ s c (d a b : BitVec 7), s.ctx? false = some c → (∀ g, c.s.gridOf c.g = some g → g.launch.deque = false) →
    ∀ i ∈ [Instr.dqinit a b, .dqpush d a b, .dqpop d a, .dqsteal d a],
      exec i s = .next (c.take { kind := 1, info := c.run, addr := c.cl.base }))

/-! ## Engines (R30, R70 to R72, R223, R227 to R238, R360) -/

/-- Descriptor register i, and the pair at i, as read at issue (R227). -/
def Sys2Proof.Claim.reg (c : Ctx) (d i : Nat) : Nat := (c.readS (d - 104 + i)).toNat
def Sys2Proof.Claim.long (c : Ctx) (d i : Nat) : Nat := reg c d i + 2 ^ 32 * reg c d (i + 1)

/-- A word or object the command names: aligned, in a vault of the package, at its physical address (R67, R71, R228). -/
def Sys2Proof.Claim.named (c : Ctx) (need : Acc) (addr align p : Nat) : Prop :=
  addr % align = 0 ∧ c.s.access c.insetId need addr 1 = .ok p ∧ ∃ k, backing p = .vault k

/-- A range wholly in the issuing core's vault, by its physical pieces (R71). -/
def Sys2Proof.Claim.localRange (c : Ctx) (need : Acc) (a n : Nat) (ps : List (Nat × Nat)) : Prop :=
  c.s.checkSpan c.insetId need a n = (ps, none) ∧ ∀ p ∈ ps, inVault (c.s.coreOf c.g) p.1 p.2 = true

/-- A word of n bytes in the issuing core's vault. -/
def Sys2Proof.Claim.localAt (c : Ctx) (need : Acc) (addr n p : Nat) : Prop :=
  addr % n = 0 ∧ c.s.access c.insetId need addr n = .ok p ∧ inVault (c.s.coreOf c.g) p n = true

/-- Both ends of a copy: word-aligned, apart, and one of them, the destination first, wholly in the issuing core's vault (R230). -/
def Sys2Proof.Claim.ends (c : Ctx) (sa sn da dn : Nat) (sp dp : List (Nat × Nat)) : Prop :=
  sa % 4 = 0 ∧ da % 4 = 0 ∧ (sn = 0 ∨ dn = 0 ∨ da + dn ≤ sa ∨ sa + sn ≤ da) ∧
  (c.s.checkSpan c.insetId .r sa sn).1 = sp ∧ (c.s.checkSpan c.insetId .w da dn).1 = dp ∧
  (localRange c .w da dn dp ∨ localRange c .r sa sn sp)

/-- A command has been issued: it stands last among the commands, as a release of the issuer's writes at device scope, or system scope
where it reaches another package, from which it acquires; its operation waits for the engine to accept it (R81, R228). -/
def Sys2Proof.Claim.commanded (c : Ctx) (t : State) (kind : Nat) (object : Option Nat) (told : Command → Prop) : Prop :=
  ∃ cm : Command,
    settles (inFlight c
      { ((c.base false).release c.g.gid
          (if (cm.region ++ cm.entries.flatMap (·.ranges)).any (fun r => (packageOf r.1).isSome) then 4 else 3) []).teach c.g.gid cm.id with
        commands := c.s.commands ++ [cm], fresh := c.s.fresh + 1 } (longFlag c) false [] (.accept cm.id) []) c.g.gid noWrites noUni t ∧
    cm.id = c.s.fresh ∧ cm.gid = c.g.gid ∧ cm.team = c.g.team ∧ cm.core = c.s.coreOf c.g ∧ cm.inset = c.insetId ∧ cm.kind = kind ∧
    cm.object = object ∧ cm.state = .issued ∧ cm.progress = 0 ∧ cm.delivered = 0 ∧ told cm

/-- The words an issue of a command needs clear, and the places its pieces may lie: on this package, or with no marker to gather first. -/
def Sys2Proof.Claim.mayIssue (c : Ctx) (pieces : List (Nat × Nat)) : Prop :=
  caughtUp c ∧ (c.g.written = 0 ∨ ∀ p ∈ pieces, packageOf p.1 = none)

/-- The command's two spans. -/
def Sys2Proof.Claim.between (cm : Command) (sa sn da dn : Nat) : Prop :=
  cm.src.base = sa ∧ cm.src.length = sn ∧ cm.dst.base = da ∧ cm.dst.length = dn

/-- The entries of a chain before its END, as its list holds them: each is legal for its kind and all copies together are within the limit
(R234, R235). -/
def Sys2Proof.Claim.entryLegal (c : Ctx) (bs : List Byte) (i : Nat) : Prop :=
  let w (j : Nat) : Nat := entryWord bs i j
  let x := w 2 + 2 ^ 32 * w 3
  let y := w 4 + 2 ^ 32 * w 5
  w 0 < 8 ∧ w 7 = 0 ∧
  match w 0 with
  | 1 => w 1 % 4 = 0 ∧ ∃ sp dp, ends c x (w 1) y (w 1) sp dp ∧ (c.g.written = 0 ∨ ∀ p ∈ sp ++ dp, packageOf p.1 = none)
  | 2 => ∃ p, named c .r x 16 p
  | 3 => ∃ p, named c .w x 16 p
  | 4 => ∃ p, named c .w x 4 p
  | 5 => (∃ p, named c .r x 4 p) ∧ ∃ q, localAt c .w y 4 q
  | 6 => ∃ p, localAt c .r x 8 p
  | 7 => ∃ p, localAt c .w x 8 p
  | _ => False

/-- Collectives by variant: ALLRED, ALLGATH, REDSCAT, BCAST. -/
def Sys2Proof.Claim.collectives : Instr → Option (Nat × BitVec 7 × BitVec 7)
  | .allred d a => some (0, d, a)
  | .allgath d a => some (1, d, a)
  | .redscat d a => some (2, d, a)
  | .bcast d a => some (3, d, a)
  | _ => none

/-- Every FE form with a legal descriptor issues exactly the command its descriptor describes, and nothing of memory, no register and no
other command changes by the issue. A chain's list is read up to its first END (R234); a matrix stream has its vault side judged at issue and
meets its faults as it is read (R223). -/
def Obligations.EngineIssue : Prop :=
  (∀ s c (d a : BitVec 7) (w ch : BitVec 1) obj sp dp wp, issues s false c → flagFree c (longFlag c) →
    fits [useDesc d.toNat (if w = 1 then 7 else 5), useSPair a.toNat] →
    let len := reg c d.toNat 4
    len % 4 = 0 → len ≤ 0x7FFFFFFC → named c .w (c.spair a.toNat).toNat 16 obj → (w = 1 → localAt c .w (long c d.toNat 5) 8 wp) →
    ends c (long c d.toNat 0) len (long c d.toNat 2) len sp dp → mayIssue c (sp ++ dp) →
    ∃ t, exec (.cpy d a w ch) s = .next t ∧ commanded c t 0 (some obj) (fun cm => cm.channel = ch.toNat ∧
      cm.wp = (if w = 1 then some wp else none) ∧ between cm (long c d.toNat 0) len (long c d.toNat 2) len)) ∧
  (∀ s c (d a : BitVec 7) (w ch : BitVec 1) obj sp dp wp, issues s false c → flagFree c (longFlag c) →
    fits [useDesc d.toNat (if w = 1 then 8 else 6), useSPair a.toNat] →
    let n := reg c d.toNat 4
    let k := reg c d.toNat 5
    let sf := c.slot (k % 8)
    let df := c.slot (k / 16 % 8)
    let sn := if sf.elem = 12 then n / 5 else n * elemBits sf.elem / 8
    let dn := n * elemBits df.elem / 8
    k / 2 ^ 12 = 0 → k / 2 ^ 7 % 2 = 0 → k / 2 ^ 3 % 2 = 0 → k / 2 ^ 8 % 8 < 5 → slotWellFormed sf = true → sf.geom = 0 → slotWellFormed df = true →
    df.geom = 0 → df.elem ≠ 12 → n % (if sf.elem = 12 then 40 else 8) = 0 →
    named c .w (c.spair a.toNat).toNat 16 obj → (w = 1 → localAt c .w (long c d.toNat 6) 8 wp) →
    ends c (long c d.toNat 0) sn (long c d.toNat 2) dn sp dp → mayIssue c (sp ++ dp) →
    ∃ t, exec (.cpyc d a w ch) s = .next t ∧ commanded c t 2 (some obj) (fun cm => cm.channel = ch.toNat ∧
      cm.wp = (if w = 1 then some wp else none) ∧ between cm (long c d.toNat 0) sn (long c d.toNat 2) dn)) ∧
  (∀ s c (d a : BitVec 7) (r ch : BitVec 1) obj sp (dst : Nat → List (Nat × Nat)) (own : Nat → Nat), issues s false c → flagFree c (longFlag c) →
    fits [useDesc d.toNat (if r = 1 then 9 else 8), useSPair a.toNat] →
    let len := reg c d.toNat 4
    let sa := long c d.toNat 0
    let bits := (List.range 16).filter (fun i => (c.readS (d.toNat - 104 + 6)).getLsbD i)
    let dest (i : Nat) : Nat := (long c d.toNat 2 + i * reg c d.toNat 5) % 2 ^ 64
    len % 4 = 0 → len ≤ 0x7FFFFFFC → reg c d.toNat 5 % 64 = 0 → reg c d.toNat 6 < 2 ^ 16 → reg c d.toNat 7 < 2 ^ 20 →
    len * bits.length ≤ 0x7FFFFFFF → sa % 4 = 0 → reg c d.toNat 2 % 4 = 0 → (∀ i ∈ bits, len = 0 ∨ dest i + len ≤ sa ∨ sa + len ≤ dest i) →
    named c .w (c.spair a.toNat).toNat 16 obj → localRange c .r sa len sp →
    (∀ i ∈ bits, c.s.checkSpan c.insetId .w (dest i) len = (dst i, none) ∧
      ∃ k ∈ c.s.partitionCores (((c.s.gridOf c.g).map (·.handle)).getD 0) (reg c d.toNat 7 + i), ∀ p ∈ dst i, inVault k p.1 p.2 = true) →
    (r = 1 → ∀ i ∈ bits, named c .w (((dest i : Int) + (c.readS (d.toNat - 104 + 8)).toInt) % (2 ^ 64 : Nat)).toNat 16 (own i)) →
    mayIssue c (sp ++ bits.flatMap dst) →
    ∃ t, exec (.cpym d a r ch) s = .next t ∧ commanded c t 1 (some obj) (fun cm => cm.channel = ch.toNat ∧ cm.src.base = sa ∧ cm.src.length = len ∧
      cm.targets.map (fun q => (q.bit, q.dst.base, q.dst.length, q.progress, q.object)) =
        bits.map (fun i => (i, dest i, len, 0, if r = 1 then some (own i) else none)))) ∧
  (∀ s c i scatter (d a : BitVec 7) obj lp bp, (i = .gath d a ∧ scatter = false ∨ i = .scat d a ∧ scatter = true) →
    issues s false c → flagFree c (longFlag c) → fits [useDesc d.toNat 9, useSPair a.toNat] →
    let rowb := reg c d.toNat 3
    let n := reg c d.toNat 6
    reg c d.toNat 2 % 4 = 0 → rowb % 4 = 0 → 4 ≤ rowb → rowb ≤ 65536 → n ≤ 65536 → n * rowb ≤ 0x7FFFFFFC → long c d.toNat 4 % 4 = 0 →
    long c d.toNat 7 % 4 = 0 → named c .w (c.spair a.toNat).toNat 16 obj → localRange c .r (long c d.toNat 4) (4 * n) lp →
    localRange c (if scatter then .r else .w) (long c d.toNat 7) (n * rowb) bp → mayIssue c (lp ++ bp) →
    ∃ t, exec i s = .next t ∧ commanded c t (if scatter then 4 else 3) (some obj) (fun cm =>
      cm.list.base = long c d.toNat 4 ∧ cm.list.length = 4 * n ∧ (if scatter then cm.src else cm.dst).base = long c d.toNat 7 ∧
      (if scatter then cm.src else cm.dst).length = n * rowb)) ∧
  (∀ s c (d a : BitVec 7) obj lp bs k, issues s false c → flagFree c (longFlag c) → fits [useDesc d.toNat 3, useSPair a.toNat] →
    let n := reg c d.toNat 2
    long c d.toNat 0 % 32 = 0 → 1 ≤ n → n ≤ 8 → named c .w (c.spair a.toNat).toNat 16 obj →
    localRange c .r (long c d.toNat 0) (32 * n) lp → mayIssue c lp →
    let told : State := ((c.base false).release c.g.gid 3 []).teach c.g.gid c.s.fresh
    (∀ i < min n (k + 1), ∀ p ∈ slicePieces lp (32 * i) 32, c.s.mem.poisoned p.1 p.2 = false ∧ ∀ w ∈ wordsOf p.1 p.2,
      told.engineConflict (c.newCommand 5 0 (24 * 16) (c.desc d 3) (some obj)) w false = false) →
    bs = (List.range (min n (k + 1))).flatMap (fun i => c.s.mem.pieceBytes (slicePieces lp (32 * i) 32)) → k ≤ n → (∀ i < k, entryWord bs i 0 ≠ 0 ∧ entryLegal c bs i) → (k < n → entryWord bs k 0 = 0 ∧ entryWord bs k 7 = 0) →
    (((List.range k).filter (fun i => decide (entryWord bs i 0 = 1))).map (fun i => entryWord bs i 1)).sum ≤ 0x7FFFFFFC →
    ∃ t, exec (.chain d a) s = .next t ∧ commanded c t 5 (some obj) (fun cm =>
      cm.entries.map (fun e => (e.op, e.n, e.x, e.y.toNat, e.v.toNat)) = (List.range k).map (fun i =>
        (entryWord bs i 0, entryWord bs i 1, entryWord bs i 2 + 2 ^ 32 * entryWord bs i 3, entryWord bs i 4 + 2 ^ 32 * entryWord bs i 5, entryWord bs i 6)))) ∧
  (∀ s c i v d a obj sp dp, collectives i = some (v, d, a) → issues s false c → flagFree c (longFlag c) →
    fits [useDesc d.toNat 6, useSPair a.toNat] →
    let n := reg c d.toNat 4
    let k := reg c d.toNat 5
    let bytes := n * (if k % 64 = 1 ∨ k % 64 = 2 then 2 else 4)
    let sn := if v = 2 then c.clusterSize * bytes else bytes
    let dn := if v = 1 then c.clusterSize * bytes else bytes
    k < 2 ^ 24 → k / 2 ^ 10 % 64 = 0 → k / 2 ^ 6 % 4 = 0 → k / 2 ^ 8 % 4 < 3 → k % 64 ∈ [0, 1, 2, 14] → 1 ≤ n → n ≤ 2 ^ 20 → bytes % 4 = 0 →
    (if v = 3 then k / 2 ^ 16 % 256 < c.clusterSize else k / 2 ^ 16 % 256 = 0) → long c d.toNat 0 % 4 = 0 → long c d.toNat 2 % 4 = 0 →
    named c .w (c.spair a.toNat).toNat 16 obj → localRange c .r (long c d.toNat 0) sn sp → localRange c .w (long c d.toNat 2) dn dp →
    mayIssue c (sp ++ dp) →
    ∃ t, exec i s = .next t ∧ commanded c t (6 + v) (some obj) (fun cm => between cm (long c d.toNat 0) sn (long c d.toNat 2) dn ∧ cm.matched = false)) ∧
  (∀ s c (d a b : BitVec 4) (sl : BitVec 3) (u : BitVec 6) obj sp, issues s false c → flagFree c (longFlag c) → c.run = BitVec.allOnes 32 →
    let f := c.slot sl.toNat
    u.toNat % 2 = 0 → u.toNat ≤ 12 → matrixOk c.g f 0 d.toNat a.toNat none b.toNat = true →
    tilesFree c ([d.toNat, a.toNat] ++ if f.geom = 0 then [] else [b.toNat]) →
    let base := (c.spair (104 + u.toNat)).toNat
    let len := 32 * (tileCfg (Sparse.get 0 c.g.tileCtl a.toNat)).rowb
    base < 2 ^ 48 → base % 64 = 0 → (c.s.checkSpan c.insetId .r base len).1 = sp →
    (∀ p ∈ sp, inVault (c.s.coreOf c.g) p.1 p.2 = true) → named c .w (c.spair (104 + u.toNat + 2)).toNat 16 obj → mayIssue c sp →
    ∃ t, exec (.mmab d a b sl u) s = .next t ∧ commanded c t 10 (some obj) (fun cm => cm.src.base = base ∧ cm.src.length = len))

/-! ### The engines' own steps -/

/-- The command leaves: no command of its identifier is left, its grid's count on its core falls, what waited for it goes on (R30, R228). -/
def Sys2Proof.Claim.counts (d : Grid) (core : Nat) : Nat := Sparse.get 0 d.counters core

/-- The code an engine's failure leaves in the object, the record's kind and SUB (R228, R339, R360). -/
def Sys2Proof.Claim.failure : EngineFail → Option (Word × Nat × Nat)
  | .fault f _ => some (if f.kind = 0x13 then (4, 0x20, 1) else (3, 0x20, 0))
  | .poison _ => some (5, 0x20, 2)
  | .conflict _ => some (7, 0x18, 3)
  | .overlap _ => some (8, 0x20, 3)
  | .wait => none

/-- The next bytes of a copy: 64, or what is left, so that only the last step is shorter (R70, R228). -/
def Sys2Proof.Claim.lineBytes (k : Command) : Nat := min (k.dst.length - k.progress) 64

/-- Commands are accepted where the core's scoreboard and the grid's counters have room, begin once no older one of the core conflicts, move
line by line and complete with one arrival of their bytes; a failed access ends the command, its object taking the bytes moved and then the
failure's code, with one record (R30, R72, R228, R229). -/
def Obligations.EngineSteps : Prop :=
  (∀ (s : State) cmd k, s.command? cmd = some k → k.state = .issued → (6 ≤ k.kind → 9 < k.kind) → (k.finished = false ∨ k.kind = 5) →
    (s.engineRoom k = true → ∃ t, exec (.engineCommandAccept cmd) s = .next t ∧
      t = { s with fresh := s.fresh + 1, commands := t.commands, grids := t.grids, ops := t.ops } ∧
      t.command? cmd = some { k with state := .accepted, order := s.fresh, sequence := 0 } ∧
      (∀ id, id ≠ cmd → t.command? id = s.command? id) ∧
      t.ops = s.ops.map (fun o => if o.wait = .accept cmd then { o with wait := if 10 ≤ k.kind then .stream cmd else .none } else o) ∧
      (∀ d, s.grid? k.grid = some d → ∃ d', t.grid? k.grid = some d' ∧ counts d' k.core = counts d k.core + 1 ∧ d' = { d with counters := d'.counters })) ∧
    (64 ≤ (s.commands.filter (fun d => decide (d.core = k.core ∧ (d.state = .accepted ∨ d.state = .running)))).length →
      exec (.engineCommandAccept cmd) s = .next s)) ∧
  (∀ (s : State) cmd k, s.command? cmd = some k → k.state = .accepted → (6 ≤ k.kind → 9 < k.kind) →
    ((∀ d ∈ s.commands, d.core = k.core → d.id ≠ k.id → d.order < k.order → (d.state = .accepted ∨ d.state = .running) →
        ∀ a ∈ d.ranges, ∀ b ∈ k.ranges, rangesClash a b = false) →
      ∃ t, exec (.engineCommandStart cmd) s = .next t ∧ t = { s with commands := t.commands } ∧
        t.command? cmd = some { k with state := .running } ∧ ∀ id, id ≠ cmd → t.command? id = s.command? id) ∧
    ((∃ d ∈ s.commands, d.core = k.core ∧ d.id ≠ k.id ∧ d.order < k.order ∧ (d.state = .accepted ∨ d.state = .running) ∧
        ∃ a ∈ d.ranges, ∃ b ∈ k.ranges, rangesClash a b = true) →
      exec (.engineCommandStart cmd) s = .next s)) ∧
  (∀ (s : State) cmd k sp dp, s.command? cmd = some k → k.kind = 0 → k.state = .running → k.wp = none → k.progress < k.dst.length →
    let n := lineBytes k
    s.reach k .r k.src k.progress n = .ok sp → s.reach k .w k.dst k.progress n = .ok dp → s.engineClash k sp false = none →
    s.engineClash k dp true = none → (∀ p ∈ sp, s.mem.poisoned p.1 p.2 = false) → (∀ p ∈ dp, packageOf p.1 = none) →
    (s.mem.pieceBytes sp).length = n → (dp.map (·.2)).sum = n →
    ∃ t m, exec (.engineAccess cmd) s = .next t ∧
      t = ((({ s with mem := m } : State).updCommand cmd (fun q => { q with progress := q.progress + n, delivered := q.delivered + n })).chargeUnits
        k.inset ((k.delivered + n) / 256 - k.delivered / 256)).serve ∧
      m.empties = s.mem.empties ∧
      ∀ b, m.byte b = match offsetIn dp b with
        | some o => (s.mem.pieceBytes sp).getD o 0
        | none => s.mem.byte b) ∧
  (∀ (s : State) cmd k f code kind sub, s.command? cmd = some k → k.kind = 0 → k.state = .running → k.progress < k.dst.length → s.bufferFull = false →
    s.readSpan k k.src k.progress (lineBytes k) = .error f → failure f = some (code, kind, sub) → k.origin.kind = 0x20 → k.targets = [] →
    ∀ p, k.object = some p →
    ∃ t m r, exec (.engineAccess cmd) s = .next t ∧
      t = { (((({ s with mem := m } : State).chargeRest k).leaveEngine k).serve) with
        records := (((({ s with mem := m } : State).chargeRest k).leaveEngine k).serve).records ++ [r] } ∧
      r.kind = kind ∧ r.sub = sub ∧ (kind = 0x18 → r.ack = true ∧ r.info = k.run) ∧ objectAt m p = failed code (arrival k.delivered (objectAt s.mem p)) ∧ onlyWithin m s.mem p 16) ∧
  (∀ (s : State) cmd k p, s.command? cmd = some k → k.kind < 6 → k.state = .running → k.finished = true → k.object = some p →
    (k.packages = 0 → ∃ t m, exec (.engineCommandComplete cmd) s = .next t ∧
      t = ((({ s with mem := m } : State).chargeRest k).leaveEngine k).serve ∧
      objectAt m p = arrival k.delivered (objectAt s.mem p) ∧ onlyWithin m s.mem p 16) ∧
    (k.packages ≠ 0 → (∀ m ∈ s.markers, m.1 ≠ cmd) → (∀ i < 64, k.packages.getLsbD i = true → ∃ q, (i, q) ∈ s.fabric.paths) →
      ∃ t, exec (.engineCommandComplete cmd) s = .next t ∧ t = { s with markers := t.markers } ∧
      ∀ m, m ∈ t.markers ↔ m ∈ s.markers ∨ (m.1 = cmd ∧ m.2.1 < 64 ∧ k.packages.getLsbD m.2.1 = true ∧ m.2 ∈ s.fabric.paths))) ∧
  (∀ (s : State) cmd k e rest, s.command? cmd = some k → k.kind = 5 → k.state = .running → k.begun = false → k.entries = e :: rest →
    ((e.op = 1 ∨ e.op = 3 ∨ e.op = 7) → ∃ t, exec (.chainEntryStart cmd) s = .next t ∧ t = { s with commands := t.commands } ∧
      t.command? cmd = some { k with begun := true, progress := 0 } ∧ ∀ id, id ≠ cmd → t.command? id = s.command? id) ∧
    (e.op = 2 → s.tablePlaces (backing e.px) < 2048 → s.mem.poisoned e.px 4 = false → s.engineClash k [(e.px, 16)] false = none → ∃ t o, exec (.chainEntryStart cmd) s = .next t ∧
      o.wait = .bo e.px e.v 0 ∧ o.arrived = true ∧ o.id = s.fresh ∧
      t = (({ s with ops := s.ops ++ [o], fresh := s.fresh + 1 } : State).updCommand cmd (fun q => { q with begun := true, waiting := some s.fresh })).serve)) ∧
  (∀ (s : State) cmd k tm d (cms : List Command) (bytes : Nat → List Byte), s.command? cmd = some k → 6 ≤ k.kind → k.kind ≤ 9 → k.state = .accepted →
    s.team? k.team = some tm → s.grid? k.grid = some d → cms.length = d.launch.width * d.launch.height → (s.commands.map (·.id)).Nodup →
    (s.teams.map (·.tid)).Nodup →
    (∀ i e, cms[i]? = some e → e ∈ s.commands ∧ (∃ u, (s.clusterTeams tm.cluster).find? (fun u => decide (u.index = i)) = some u ∧
        s.participant k.sequence u.tid = some e ∧ s.leftBefore k.sequence u = false) ∧
      k.agrees e = true ∧ s.mayBegin e = true ∧ s.readSpan e e.src 0 e.src.length = .ok (bytes i)) →
    ∃ t, exec (.collectiveMatch cmd) s = .next t ∧ t = { s with commands := t.commands } ∧
      ∀ (i : Nat) (e : Command), cms[i]? = some e → t.command? e.id = some { e with
        state := .running, matched := true,
        buffer := match k.kind with
          | 7 => ((List.range cms.length).map bytes).flatten
          | 9 => ((List.range cms.length).map bytes).getD (descWord k.desc 5 / 2 ^ 16 % 256) []
          | 6 => reduceSources (descWord k.desc 5 % 64) (descWord k.desc 5 / 2 ^ 8 % 4) 0 (descWord k.desc 4) ((List.range cms.length).map bytes)
          | _ => reduceSources (descWord k.desc 5 % 64) (descWord k.desc 5 / 2 ^ 8 % 4) (i * descWord k.desc 4) (descWord k.desc 4)
              ((List.range cms.length).map bytes) })

/-! ## Page-major attention (R95 to R111, R239 to R243) -/

/-- The 16-bit pages of a list. -/
def Sys2Proof.Claim.pagesOf (c : Ctx) (ps : List (Nat × Nat)) (n : Nat) : List Nat :=
  (List.range n).map (fun i => bytesNat (((c.s.mem.pieceBytes ps).drop (2 * i)).take 2))

/-- A sweep that a handle names for the issuer: running, pending or the last one of its unit. -/
def Sys2Proof.Claim.sweepOf (c : Ctx) (d : Nat) : Option (SweepPlace × Sweep) := c.s.findSweep c.insetId (reg c d 0)

/-- The words of an SV answer, from register D up. -/
def Sys2Proof.Claim.answer (d : Nat) (ws : List Word) : List RegWrite := ws.mapIdx (fun i w => uniResult (d + i) w)

/-- SVSWEEP starts or queues a sweep under the unit's next sequence number, FULL (6) where one runs and one waits; SVSUB adds a query; SVPART
posts a partial through its engine; SVCLOSE, SVCANCEL and SVSTAT act on the sweep their handle names, CLOSED (3) where none of theirs is. A
cancelled sweep's pages in flight keep their slots (R110); a closed sweep with nothing to do closes, running or pending (R96). -/
def Obligations.SurveyInstructions : Prop :=
  (∀ s c (d : BitVec 7), issues s false c → flagFree c (longFlag c) → fits [useDesc d.toNat 5] →
    let w0 := reg c d.toNat 0
    let u := w0 % 8
    let v := c.s.survey u
    w0 / 2 ^ 11 % 32 = 0 → w0 / 2 ^ 6 % 4 = 0 → w0 / 8 % 2 = 0 → reg c d.toNat 3 < 2 ^ 16 → reg c d.toNat 1 % 8 = 0 →
    ((v.running ≠ none ∧ v.pending ≠ none) → ∃ t, exec (.svsweep d) s = .next t ∧
      settles (inFlight c (c.base false) (longFlag c) false [uniResult d.toNat 0x06000000] .none []) c.g.gid noWrites noUni t) ∧
    (v.running = none ∨ v.pending = none → ∃ (t : State) (w : Sweep), exec (.svsweep d) s = .next t ∧
      settles (inFlight c (((c.base false).updSurvey u (fun v => { v with
        sequence := if v.sequence = 8191 then 1 else v.sequence + 1,
        running := (v.running.orElse (fun _ => v.pending)).orElse (fun _ => some w),
        pending := if v.running = none ∧ v.pending = none then none else some w })).checkClose u) (longFlag c) false
        [uniResult d.toNat (BitVec.ofNat 32 (u * 2 ^ 13 + v.sequence))] .none []) c.g.gid noWrites noUni t ∧
      w.sequence = v.sequence ∧ w.inset = c.insetId ∧ w.desc = c.desc d 5 ∧ w.subs = [] ∧ w.highest = none ∧ w.closed = false ∧ w.cancelled = false)) ∧
  (∀ s c (d a : BitVec 7) tid obj lp p w slots, issues s false c → flagFree c (longFlag c) → fits [useDesc d.toNat 9, useSPair a.toNat] →
    let r (i : Nat) : Nat := reg c d.toNat i
    let core := 16 * (r 3 / 16 % 16) + r 3 % 16
    let n := r 3 / 2 ^ 16 + 1
    let fmt := r 6 / 2 ^ 24 % 64
    let list := pagesOf c lp n
    let v := c.s.survey (r 0 % 2 ^ 16 / 2 ^ 13)
    c.destination core = some tid → r 3 / 2 ^ 8 % 256 = 0 → r 6 < 2 ^ 30 → fmt ≤ 4 → long c d.toNat 7 % outputBytes fmt = 0 → long c d.toNat 1 % 2 = 0 →
    named c .w (c.spair a.toNat).toNat 16 obj → c.s.checkSpan c.insetId .r (long c d.toNat 1) (2 * n) = (lp, none) →
    (∀ q ∈ lp, c.s.mem.poisoned q.1 q.2 = false) → c.s.findSweep c.insetId (r 0 % 2 ^ 16) = some (p, w) → p ≠ .last → w.closed = false →
    list.Pairwise (· < ·) → (∀ x ∈ list, x < w.count) → c.s.ringSlots c.insetId core (long c d.toNat 4) = some slots →
    (∀ q ∈ w.subs, q.core = core → q.ring = long c d.toNat 4) → w.subs.length < 2016 → (w.subs.filter (fun q => decide (q.core = core))).length < 32 →
    (((v.running.map (·.subs)).getD [] ++ (v.pending.map (·.subs)).getD []).filter (fun q => !q.finished)).length < 4096 →
    (∀ h, w.highest = some h → h < list.headD 0) →
    ∃ (t : State) (q : Subscription), exec (.svsub d a) s = .next t ∧
      settles (inFlight c ((c.base false).updSweep (r 0 % 2 ^ 16 / 2 ^ 13) p (fun w => { w with subs := w.subs ++ [q] })) (longFlag c) false
        [uniResult d.toNat (BitVec.ofNat 32 (q.number * 2 ^ 16))] .none []) c.g.gid noWrites noUni t ∧
      q.query = r 0 / 2 ^ 16 ∧ q.number = (w.subs.filter (fun q => decide (q.team = tid))).length ∧ q.list = list ∧ q.core = core ∧ q.team = tid ∧
      q.ring = long c d.toNat 4 ∧ q.slots = slots ∧ q.limit = r 6 % 2 ^ 24 ∧ q.format = fmt ∧ q.output = long c d.toNat 7 ∧ q.object = obj ∧
      q.owner = c.g.team ∧ q.acc = none ∧ q.due = [] ∧ q.masked = [] ∧ q.held = [] ∧ q.served = false ∧ q.finished = false ∧ q.barred = false) ∧
  (∀ s c (d : BitVec 7) p0 ps, issues s false c → flagFree c (longFlag c) → fits [useDesc d.toNat 2] → long c d.toNat 0 < 2 ^ 48 →
    c.s.access c.insetId .r (long c d.toNat 0) 16 = .ok p0 →
    let u := (c.s.mem.word p0).toNat / 2 ^ 21 % 8
    let n := 16 + (((c.s.survey u).running).map (fun w => 4 * w.dim)).getD 0
    localRange c .r (long c d.toNat 0) n ps → mayIssue c ps →
    ∃ t, exec (.svpart d) s = .next t ∧ commanded c t 11 none (fun cm =>
      cm.src.base = long c d.toNat 0 ∧ cm.src.length = n ∧ cm.origin.kind = 0x25 ∧ cm.origin.addr = long c d.toNat 0)) ∧
  (∀ s c (d : BitVec 7), issues s false c → flagFree c (longFlag c) → fits [useDesc d.toNat 1] → reg c d.toNat 0 < 2 ^ 16 →
    let u := reg c d.toNat 0 / 2 ^ 13
    (∀ p w, sweepOf c d.toNat = some (p, w) → p ≠ .last → w.closed = false → ∃ t, exec (.svclose d) s = .next t ∧
      settles (inFlight c (((c.base false).updSweep u p (fun w => { w with closed := true })).checkClose u) (longFlag c) false
        [uniResult d.toNat 0] .none []) c.g.gid noWrites noUni t) ∧
    (∀ p w, sweepOf c d.toNat = some (p, w) → p = .last ∨ w.closed = true → ∃ t, exec (.svclose d) s = .next t ∧
      settles (inFlight c (c.base false) (longFlag c) false [uniResult d.toNat 0x03000000] .none []) c.g.gid noWrites noUni t) ∧
    (∀ p w, sweepOf c d.toNat = some (p, w) → p ≠ .last → ∃ t, exec (.svcancel d) s = .next t ∧
      settles (inFlight c ((c.base false).cancelSweep u p w 7 true) (longFlag c) false [uniResult d.toNat 0] .none []) c.g.gid noWrites noUni t) ∧
    (sweepOf c d.toNat = none → ∀ i ∈ [Instr.svclose d, .svcancel d], ∃ t, exec i s = .next t ∧
      settles (inFlight c (c.base false) (longFlag c) false [uniResult d.toNat 0x03000000] .none []) c.g.gid noWrites noUni t)) ∧
  (∀ s c (d : BitVec 7), issues s false c → flagFree c (longFlag c) → reg c d.toNat 0 < 2 ^ 16 →
    (fits [useDesc d.toNat 4] → ∃ t, exec (.svstat d) s = .next t ∧
      settles (inFlight c (c.base false) (longFlag c) false (answer d.toNat (match sweepOf c d.toNat with
        | some (p, w) => [(match p with
            | .pending => 0
            | .running => if w.closed then 2 else 1
            | .last => 3), BitVec.ofNat 32 w.fetched, BitVec.ofNat 32 (w.next - w.committed), BitVec.ofNat 32 w.subs.length]
        | none => [0x03000000, 0, 0, 0])) .none []) c.g.gid noWrites noUni t) ∧
    (fits [useDesc d.toNat 5] → ∃ t, exec (.svstatDesc d) s = .next t ∧
      settles (inFlight c (c.base false) (longFlag c) false (answer d.toNat (match sweepOf c d.toNat with
        | some (_, w) => [0, w.desc.getD 0 0, w.desc.getD 3 0, w.desc.getD 4 0, w.desc.getD 1 0]
        | none => [0x03000000, 0, 0, 0, 0])) .none []) c.g.gid noWrites noUni t)) ∧
  (∀ (s : State) u w, u < s.surveys.length → (s.survey u).running = some w →
    let t := s.cancelSweep u .running w 7 true
    (t.survey u).running = none ∧ (t.survey u).pending = (s.survey u).pending ∧
    (t.survey u).staging = (s.survey u).staging.filter (fun e => decide (e.sweep ≠ w.sequence) || !e.landed) ∧
    ∃ x, (t.survey u).last = some x ∧ x.sequence = w.sequence ∧ x.cancelled = true ∧ ∀ q ∈ x.subs, q.finished = true)

/-- The merge of R107: both sides rescaled to the larger maximum; once an accumulator is marked it takes no more. -/
def Sys2Proof.Claim.merged (acc : Option Accumulator) (b : Accumulator) : Accumulator :=
  let infinite (w : Word) : Bool := decide (w.extractLsb' 23 8 = 255#8)
  let bad := (f32 b.m).isNan || decide (b.m = 0x7F800000) || infinite b.l || b.o.any infinite
  match acc with
  | none => { b with nonfinite := bad }
  | some a =>
    if a.nonfinite then a
    else if bad then { a with nonfinite := true }
    else
      let m := toF32 ((f32 a.m).maximum (f32 b.m))
      let weight (x : Word) : Word := if x = 0xFF800000 then 0 else exp2CR (toF32 ((f32 x).add (f32 m).neg))
      let sum (x y : Word) : Word := toF32 ((f32 (toF32 ((f32 x).mul (f32 (weight a.m))))).add ((f32 y).mul (f32 (weight b.m))))
      let o := (a.o.zip b.o).map (fun p => sum p.1 p.2)
      { m := m, l := sum a.l b.l, o := o, nonfinite := infinite (sum a.l b.l) || o.any infinite }

/-- The running sweep of a unit, and the state with another one in its place. -/
def Sys2Proof.Claim.runningOf (s : State) (u : Nat) : Option Sweep := (s.surveys[u]?).bind (·.running)

/-- A unit's steps: pages go up in order, each read once for all its subscribers and sent to each core that has one; a hole counts as a fully
masked partial; a fault finishes the page's subscribers with its code; partials merge in page order; and a query's result is O / L, rounded. A page
with nobody to get it is passed for good, a query finishes once its last listed page is passed, and one with a refused partial does not (R100, R106, R109). -/
def Obligations.SurveyEvents : Prop :=
  (∀ (s : State) (u : BitVec 3) v w, s.surveys[u.toNat]? = some v → v.running = none → v.pending = some w → w.closed = false →
    ∃ t, exec (.sweepStart u) s = .next t ∧ t = { s with surveys := s.surveys.set u.toNat { v with running := some w, pending := none } }) ∧
  (∀ (s : State) (u : BitVec 3) v w, s.surveys[u.toNat]? = some v → v.running = some w → w.lowestPage = none → v.pending = none → w.closed = false →
    (∀ q ∈ w.subs, q.finished = true ∨ q.barred = true ∨ q.due ≠ [] ∨ (q.served = false ∧ min (w.next + 1) w.count ≤ q.list.getLastD 0)) →
    ∃ t, exec (.pageCommit u) s = .next t ∧
      t = { s with surveys := s.surveys.set u.toNat { v with running := some { w with next := min (w.next + 1) w.count } } }) ∧
  (∀ (s : State) (u : BitVec 3) v w p bytes, s.surveys[u.toNat]? = some v → v.running = some w → s.nextPage u.toNat w = .ready p bytes →
    ∃ t v' w', exec (.pageCommit u) s = .next t ∧ t = ({ s with surveys := s.surveys.set u.toNat v' } : State).checkQueries u.toNat w.subs.length ∧
      v' = { v with running := some w', staging := v'.staging } ∧ w'.highest = some p ∧ w'.fetched = w.fetched + 1 ∧ w'.committed = w.committed + 1 ∧
      w'.next = max w.next (p + 1) ∧ w'.subs.length = w.subs.length ∧
      (∀ q ∈ w.subs, ∀ x, w.nextPage q = some x → p ≤ x) ∧
      (∀ (i : Nat) (x y : Subscription), w.subs[i]? = some x → w'.subs[i]? = some y →
        y = if w.nextPage x = some p then { x with due := x.due ++ [p], served := true } else x) ∧
      ∃ new, v'.staging = v.staging ++ new ∧ (new.map (·.core)).Nodup ∧
        (∀ core, core ∈ new.map (·.core) ↔ ∃ q ∈ w.subs, w.nextPage q = some p ∧ q.core = core) ∧
        ∀ e ∈ new, e.sweep = w.sequence ∧ e.page = p ∧ e.bytes = bytes ∧ e.landed = false ∧ e.told = [] ∧
          ∀ i, i ∈ e.owed ↔ ∃ q, w.subs[i]? = some q ∧ w.nextPage q = some p ∧ q.core = e.core) ∧
  (∀ (s : State) (u : BitVec 3) v w q p, s.surveys[u.toNat]? = some v → v.running = some w → w.subs = [q] → s.nextPage u.toNat w = .hole p →
    q.due = [] → q.held = [] → q.masked = [] → (∃ x ∈ q.list, p < x) → (∀ x ∈ q.list, x < w.count) → q.list.Pairwise (· < ·) →
    q.list.length * w.tokens ≤ q.limit → v.staging = [] →
    ∃ t w', exec (.holeCommit u) s = .next t ∧ t = { s with surveys := s.surveys.set u.toNat { v with running := some w' } } ∧
      w'.highest = some p ∧ w'.next = p + 1 ∧ w'.committed = w.committed ∧ w'.fetched = w.fetched ∧
      w'.subs = [{ q with
        served := true,
        acc := some (merged q.acc { m := 0xFF800000, l := 0, o := List.replicate w.dim 0, nonfinite := false }) }]) ∧
  (∀ (s : State) (u : BitVec 3) (core : BitVec 8) v e w q tm, s.surveys[u.toNat]? = some v → v.staging = [e] → e.core = core.toNat → e.landed = false →
    v.running = some w → w.sequence = e.sweep → e.owed = [0] → w.subs[0]? = some q → s.team? q.team = some tm → tm.residency ≠ .freed → tm.core = e.core → e.told = [] → e.slot < 8 → e.page < 2 ^ 16 →
    tm.hasRoom 0 2 = true → s.notices = [] →
    ∃ t, exec (.pageArrival u core) s = .next t ∧
      t = ((((s.charge (wordsOf e.phys 0x10000) none).setMem (s.mem.store e.phys e.bytes)).updSurvey u.toNat (fun v =>
          { v with staging := [{ e with landed := true, bytes := [], told := [q.team] }] })).updTeam q.team (fun t => t.setPort 0 { t.port 0 with
            entries := (t.port 0).entries ++ [[BitVec.ofNat 32 (u.toNat * 2 ^ 19 + e.slot * 2 ^ 16 + e.page), 1 <<< q.number]] })).serve) ∧
  (∀ (s : State) n tm, s.notices.find? (fun m => decide (m.id = n.id)) = some n → s.team? n.team = some tm → tm.residency ≠ .freed →
    (∀ m ∈ s.notices, m.team = n.team → m.port = n.port → n.id ≤ m.id) → tm.hasRoom n.port n.words.length = true →
    let w0 := (n.words.headD 0).toNat
    ∃ t, exec (.qsvNoticePush n.id) s = .next t ∧
      t = { s.updTeam n.team (fun t => t.setPort n.port { t.port n.port with entries := (t.port n.port).entries ++ [n.words] }) with
        notices := s.notices.filter (fun m => decide (m.id ≠ n.id))
        surveys := if n.port = 0 then s.surveys.modify (w0 / 2 ^ 19 % 8) (fun v => { v with staging := v.staging.map (fun e =>
            if e.slot = w0 / 2 ^ 16 % 8 ∧ e.page = w0 % 2 ^ 16 ∧ e.core = tm.core then { e with told := e.told ++ [n.team] } else e) })
          else s.surveys }) ∧
  (∀ (s : State) (u : BitVec 3) v w q p code addr x tm, s.surveys[u.toNat]? = some v → v.running = some w → w.subs = [q] → w.closed = false →
    s.nextPage u.toNat w = .fails p code addr → s.bufferFull = false → s.inset? w.inset = some x → s.team? q.owner = some tm → tm.residency ≠ .freed →
    tm.hasRoom 1 2 = true → s.notices = [] → s.ops = [] →
    ∃ t r m, exec (.pageFetchFault u) s = .next t ∧ t.records = s.records ++ [r] ∧ r.kind = 0x24 ∧ r.src = x.id ∧ r.ack = false ∧
      r.info = BitVec.ofNat 32 (u.toNat * 2 ^ 16 + p) ∧ r.addr = addr ∧ t.mem = m ∧
      objectAt m q.object = failed code (objectAt s.mem q.object) ∧ onlyWithin m s.mem q.object 16 ∧
      (∃ w', runningOf t u.toNat = some w' ∧ w'.highest = some p ∧ ∀ y ∈ w'.subs, y.finished = true) ∧
      ∃ tm', t.team? q.owner = some tm' ∧ (tm'.port 1).entries = (tm.port 1).entries ++
        [[BitVec.ofNat 32 (4 * 2 ^ 16 + q.query), BitVec.ofNat 32 (u.toNat * 2 ^ 16 + (u.toNat * 2 ^ 13 + w.sequence))]]) ∧
  (∀ (s : State) (u : BitVec 3) i v w q p rest b, s.surveys[u.toNat]? = some v → v.running = some w → w.subs[i]? = some q → q.due = p :: rest →
    findKey q.held p = some b → s.teamGone q.team = false → (rest ≠ [] ∨ w.nextPage q ≠ none ∨ q.barred = true ∨ q.finished = true) →
    ∃ t w', exec (.partialMerge u i) s = .next t ∧ t = { s with surveys := s.surveys.set u.toNat { v with running := some w' } } ∧
      w' = { w with subs := w.subs.set i { q with
        acc := some (merged q.acc b), due := rest, masked := q.masked.erase p, held := q.held.filter (fun e => decide (e.1 ≠ p)) } }) ∧
  (∀ (s : State) u i v w q, s.surveys[u]? = some v → v.running = some w → w.subs[i]? = some q →
    s.checkQuery u i = if q.finished = false ∧ q.due = [] ∧ w.nextPage q = none ∧ (q.served = true ∨ q.list.getLastD 0 < w.next) ∧ q.barred = false ∧
        s.outputUp w q = true then (s.finishQuery u w i q).checkClose u else s) ∧
  (∀ (q : Subscription) dim f, fmtOf q.format = some f →
    (q.acc = none → q.result dim = (List.replicate dim 0, 1)) ∧
    (∀ a, q.acc = some a → a.nonfinite = true → q.result dim = (List.replicate dim f.canonical, 2)) ∧
    (∀ a, q.acc = some a → a.nonfinite = false → (f32 a.l).isZero = true → q.result dim = (List.replicate dim 0, 1)) ∧
    (∀ a, q.acc = some a → a.nonfinite = false → (f32 a.l).isZero = false → q.result dim = (a.o.map (fun o => f.rne ((f32 o).div (f32 a.l))), 0)))

/-! ## Tolerance (R112 to R119, R244) -/

/-- A TOL instruction went to the unit with the operands it read. -/
def Sys2Proof.Claim.sentToUnit (c : Ctx) (p : State) (minor dst : Nat) (ws : List Word) (t : State) : Prop :=
  settles (inFlight c p (longFlag c) false [] (.tol ws minor dst) ws) c.g.gid noWrites noUni t

/-- Field [hi:lo] of a word, of 6 bits for an operand of TOLNODE. -/
def Sys2Proof.Claim.nodeOperand (w : Word) (i : Nat) : Nat := (w.extractLsb' (8 + 6 * i) 6).toNat

/-- The legal operands of TOLNODE: as many operands as D says, each below the node, and nothing beyond them. -/
def Sys2Proof.Claim.nodeLegal (w k0 k1 : Word) (k : Nat) : Prop :=
  k ≤ 4 ∧ w.extractLsb' 6 2 = 0 ∧ w.toNat < 2 ^ (8 + 6 * k) ∧ (∀ i < k, nodeOperand w i < w.toNat % 64) ∧
  (k0 &&& 0xF000F000#32 = 0 ∧ k1 &&& 0xF000F000#32 = 0) ∧ (k < 1 → k0.extractLsb' 0 12 = 0) ∧ (k < 2 → k0.extractLsb' 16 12 = 0) ∧
  (k < 3 → k1.extractLsb' 0 12 = 0) ∧ (k < 4 → k1.extractLsb' 16 12 = 0)

/-- Every TOL instruction whose operands alone are legal goes to the Tolerance unit with them, as a long operation. -/
def Sys2Proof.Claim.toleranceIssueHold : Prop :=
  (∀ s c (k a b : BitVec 7) s1 w, issues s false c → flagFree c (longFlag c) → fits [useUni a.toNat] → (k = 0 → b = 0) →
    (k ≠ 0 → fits [useSPair b.toNat]) → ureads c (c.base false) a.toNat = some (s1, w) →
    let k0 : Word := if k = 0 then 0 else c.readS (b.toNat - 104)
    let k1 : Word := if k.toNat ≤ 2 then 0 else c.readS (b.toNat - 103)
    (nodeLegal w k0 k1 k.toNat →
      ∃ t, exec (.tolnode k a b) s = .next t ∧ sentToUnit c s1 0 0 [w, k0, k1, BitVec.ofNat 32 k.toNat] t)) ∧
  (∀ s c (d a b : BitVec 7) s1 x s2 y, issues s false c → flagFree c (longFlag c) → fits [useUni a.toNat, useUni b.toNat] →
    ureads c (c.base false) a.toNat = some (s1, x) → ureads c s1 b.toNat = some (s2, y) →
    (x.toNat < 64 → y.toNat < 4096 → ∃ t, exec (.demand a b) s = .next t ∧ sentToUnit c s2 1 0 [x, y] t) ∧
    (fits [useS d.toNat] → y ≠ 0 → y.toNat < 2 ^ 15 → y.getLsbD 13 = false →
      ∃ t, exec (.fmtsel d a b) s = .next t ∧ sentToUnit c s2 3 d.toNat [x, y] t) ∧
    (fits [useS d.toNat] → x.toNat ≤ 10 → ∃ t, exec (.itersel d a b) s = .next t ∧ sentToUnit c s2 4 d.toNat [x, y] t)) ∧
  (∀ s c (d a : BitVec 7) s1 x, issues s false c → flagFree c (longFlag c) → fits [useUni a.toNat, useS d.toNat] →
    ureads c (c.base false) a.toNat = some (s1, x) → x.toNat < 64 →
    ∃ t, exec (.tolget d a) s = .next t ∧ sentToUnit c s1 2 d.toNat [x] t) ∧
  (∀ s c (d : BitVec 7), issues s false c → flagFree c (longFlag c) →
    (fits [useSPair d.toNat] → (∃ t, exec (.tolchk d) s = .next t ∧ sentToUnit c (c.base false) 5 d.toNat [] t) ∧
      ∃ t, exec (.tolclr d) s = .next t ∧ sentToUnit c (c.base false) 6 0 [c.readS (d.toNat - 104), c.readS (d.toNat - 103)] t) ∧
    ∃ t, exec .tolclrAll s = .next t ∧ sentToUnit c (c.base false) 7 0 [] t)

/-- The share constants of R115. -/
def Sys2Proof.Claim.shareOf : Nat → Nat
  | 1 => 16
  | 2 => 26
  | 3 => 32
  | 4 => 38
  | _ => 0

/-- A table as the unit keeps it: at most one entry a node, in index order, and each operand a declared node of a lower index (R113). -/
def Sys2Proof.Claim.nodesOk (t : List (Nat × TolNode)) : Prop :=
  (t.map (·.1)).Pairwise (· < ·) ∧ ∀ e ∈ t, e.2.operands.length ≤ 4 ∧ ∀ o ∈ e.2.operands, o.1 < e.1 ∧ (findKey t o.1).isSome = true

/-- Node j's requirement on its operand o is met by a table of tolerances (R115). -/
def Sys2Proof.Claim.meets (tau : Nat → Nat) (j : Nat) (v : TolNode) : Prop :=
  ∀ o ∈ v.operands, min 4095 (max 0 ((tau j : Int) + shareOf v.operands.length + o.2)) ≤ tau o.1

/-- A demand raises the node to what is demanded and its operands to what the apportioning rule then needs, and no node higher than that;
exactly the nodes it raised are tightened (R115). -/
def Obligations.DemandIsLeast : Prop :=
  ∀ (t : List (Nat × TolNode)) n need, nodesOk t → (findKey t n).isSome = true → need ≤ 4095 →
    let u := tolDemand n need t
    let tau (k : Nat) : Nat := ((findKey u k).map (·.tau)).getD 0
    u.map (fun e => (e.1, e.2.operands)) = t.map (fun e => (e.1, e.2.operands)) ∧
    (∀ k v w, findKey t k = some v → findKey u k = some w → v.tau ≤ w.tau ∧ w.tight = (v.tight || decide (v.tau < w.tau))) ∧
    need ≤ tau n ∧
    (∀ j ≤ n, ∀ v, findKey u j = some v → meets tau j v) ∧
    ∀ f : Nat → Nat, (∀ k v, findKey t k = some v → v.tau ≤ f k) → need ≤ f n → (∀ j ≤ n, ∀ v, findKey t j = some v → meets f j v) →
      ∀ k, (findKey t k).isSome = true → tau k ≤ f k

/-- The word of R114. -/
def Sys2Proof.Claim.nodeWord (v : TolNode) : Word :=
  let share := if v.operands = [] then v.tau else min 4095 (v.tau + shareOf v.operands.length)
  1#1 ++ BitVec.ofBool v.tight ++ BitVec.ofNat 3 v.operands.length ++ 0#3 ++ BitVec.ofNat 12 share ++ BitVec.ofNat 12 v.tau

/-- Rank and error exponent of a format code (R118), and the error exponents of R119. -/
def Sys2Proof.Claim.formats : Nat → Option (Nat × Nat)
  | 12 => some (0, 4095)
  | 7 => some (1, 32)
  | 10 => some (2, 48)
  | 11 => some (2, 48)
  | 5 => some (3, 48)
  | 6 => some (4, 64)
  | 4 => some (5, 48)
  | 3 => some (6, 64)
  | 8 => some (7, 112)
  | 9 => some (7, 112)
  | 1 => some (8, 128)
  | 2 => some (9, 176)
  | 0 => some (10, 384)
  | 14 => some (11, 496)
  | _ => none
def Sys2Proof.Claim.counts119 (f : Nat) : Nat × Nat × Nat × Nat :=
  match f with
  | 0 => (128, 256, 336, 368)
  | 1 => (120, 240, 328, 360)
  | 2 => (112, 224, 320, 352)
  | 3 => (128, 256, 352, 368)
  | 4 => (112, 224, 336, 360)
  | 5 => (112, 224, 336, 368)
  | 6 => (96, 192, 304, 352)
  | 7 => (96, 192, 304, 352)
  | 8 => (96, 176, 288, 352)
  | 9 => (96, 176, 288, 352)
  | _ => (96, 160, 272, 352)

/-- A candidate code c is preferred to d: a lower rank, or the lower code of one rank. -/
def Sys2Proof.Claim.preferred (c d : Nat) : Prop :=
  ∀ x y, formats c = some x → formats d = some y → x.1 < y.1 ∨ (x.1 = y.1 ∧ c ≤ d)

/-- The TOL instruction that a team's unit takes next: by the cycle of arrival, and within one by logical position, scheduler by scheduler
(R13, R116). One that was refused and not yet issued again does not count. -/
def Sys2Proof.Claim.unitNext (s : State) (team : Nat) (o : LongOp) (ws : List Word) (minor dst : Nat) : Prop :=
  let place (p : LongOp) : Nat := let i := ((s.group? p.gid).map (·.index)).getD 0; 32 * p.cycle + 8 * (i % 4) + i / 4
  let waits (p : LongOp) : Prop := ((s.group? p.gid).map (·.team)) = some team ∧ p.held = false ∧ ∃ w m d, p.wait = .tol w m d
  ∃ before after, s.ops = before ++ o :: after ∧ (∀ p ∈ before, waits p → place o < place p) ∧ (∀ p ∈ after, waits p → place o ≤ place p) ∧
    (s.ops.map (·.id)).Nodup ∧ ((s.group? o.gid).map (·.team)) = some team ∧ o.held = false ∧ o.wait = .tol ws minor dst

/-- The unit took instruction o: the table is u and the operation has the results named; what arrives from now on arrives later, and nothing
else differs. -/
def Sys2Proof.Claim.unitDid (s t : State) (team : Nat) (o : LongOp) (u : List (Nat × TolNode)) (rs : List RegWrite) : Prop :=
  t = { s with
    cycle := max s.cycle (o.cycle + 1)
    teams := s.teams.map (fun y : Team => if y.tid = team then { y with tol := u } else y)
    ops := s.ops.map (fun p : LongOp => if p.id = o.id then { p with wait := .none, results := p.results ++ rs } else p) }

/-- What the unit does with each instruction as it takes it; the cases that the table makes illegal change nothing of it, and stop the group
with an illegal operand whose record names the instruction (R113 to R119). -/
def Sys2Proof.Claim.toleranceUnitHold : Prop :=
  ∀ (s : State) team tm o ws minor dst, s.team? team = some tm → unitNext s team o ws minor dst → nodesOk tm.tol →
    let w (i : Nat) : Word := ws.getD i 0
    let n := (w 0).toNat
    let operands := (List.range (w 3).toNat).map (fun i =>
      (nodeOperand (w 0) i, (if i % 2 = 0 then (w (1 + i / 2)).extractLsb' 0 12 else (w (1 + i / 2)).extractLsb' 16 12).toInt))
    (minor = 0 → nodeLegal (w 0) (w 1) (w 2) (w 3).toNat → findKey tm.tol (n % 64) = none → (∀ p ∈ operands, (findKey tm.tol p.1).isSome = true) →
      ∃ t u, exec (.tolUnitTake team) s = .next t ∧ unitDid s t team o u [] ∧ (u.map (·.1)).Pairwise (· < ·) ∧
        ∀ k, findKey u k = if k = n % 64 then some { operands := operands, tau := 0, tight := false } else findKey tm.tol k) ∧
    (minor = 1 → n < 64 → (w 1).toNat < 4096 → (findKey tm.tol n).isSome = true →
      ∃ t, exec (.tolUnitTake team) s = .next t ∧ unitDid s t team o (tolDemand n (w 1).toNat tm.tol) []) ∧
    (minor = 2 → n < 64 → ∃ t, exec (.tolUnitTake team) s = .next t ∧
      unitDid s t team o tm.tol [uniResult dst (((findKey tm.tol n).map nodeWord).getD 0)]) ∧
    (minor = 3 → w 1 ≠ 0 → (w 1).toNat < 2 ^ 15 → (w 1).getLsbD 13 = false →
      ∃ t code, exec (.tolUnitTake team) s = .next t ∧ (w 1).getLsbD code = true ∧
        let tau := ((w 0).extractLsb' 0 12).toNat
        let reaches (c : Nat) : Prop := (w 1).getLsbD c = true ∧ ∃ x, formats c = some x ∧ tau ≤ x.2
        (reaches code → unitDid s t team o tm.tol [uniResult dst (BitVec.ofNat 32 code)] ∧ ∀ d, reaches d → preferred code d) ∧
        (¬ reaches code → unitDid s t team o tm.tol [uniResult dst (BitVec.ofNat 32 (2 ^ 31 + code))] ∧ (∀ d, ¬ reaches d) ∧
          ∀ d, (w 1).getLsbD d = true → ∀ x y, formats code = some x → formats d = some y → y.1 < x.1 ∨ (y.1 = x.1 ∧ code ≤ d))) ∧
    (minor = 4 → n ≤ 10 →
      let tau := ((w 1).extractLsb' 0 12).toNat
      let e := counts119 n
      ∃ t, exec (.tolUnitTake team) s = .next t ∧ unitDid s t team o tm.tol [uniResult dst
        (if tau ≤ e.1 then 1 else if tau ≤ e.2.1 then 2 else if tau ≤ e.2.2.1 then 3 else if tau ≤ e.2.2.2 then 0 else 0x80000000)]) ∧
    (minor = 5 → ∃ t mask, exec (.tolUnitTake team) s = .next t ∧ unitDid s t team o tm.tol (uniPair dst mask) ∧
      ∀ k < 64, mask.getLsbD k = ((findKey tm.tol k).map (·.tight)).getD false) ∧
    (minor = 6 → ∃ t u, exec (.tolUnitTake team) s = .next t ∧ unitDid s t team o u [] ∧ u.map (·.1) = tm.tol.map (·.1) ∧
      ∀ k v, findKey tm.tol k = some v → findKey u k = some { v with tight := v.tight && !((w 1) ++ (w 0)).getLsbD k }) ∧
    (minor = 7 → ∃ t, exec (.tolUnitTake team) s = .next t ∧ unitDid s t team o [] []) ∧
    (∀ g, s.group? o.gid = some g → g.stop = none → s.bufferFull = false →
      ((minor = 0 ∧ ((findKey tm.tol (n % 64)).isSome = true ∨ ∃ p ∈ operands, findKey tm.tol p.1 = none)) ∨ (minor = 1 ∧ findKey tm.tol n = none)) →
      ∃ t r h st, exec (.tolUnitTake team) s = .next t ∧ t.records = s.records ++ [r] ∧ r.kind = 2 ∧ r.index = o.index ∧ r.gid = some o.gid ∧
        t.team? team = s.team? team ∧ t.mem = s.mem ∧ t.group? o.gid = some h ∧ h.stop = some st ∧ st.kind = 2 ∧ st.late = some o.id ∧
        h.flags = g.flags.modify o.flag (· - 1) ∧ h.lanes = g.lanes ∧ h.sregs = g.sregs ∧ r.evtag = o.evtag ∧ r.ack = true) ∧
    (∀ g st, s.group? o.gid = some g → g.stop = some st → s.bufferFull = false → minor = 1 → findKey tm.tol n = none →
      ∃ t r, exec (.tolUnitTake team) s = .next t ∧ t.records = s.records ++ [r] ∧ r.kind = 2 ∧ r.index = o.index ∧ r.gid = none ∧ r.evtag = o.evtag ∧
        t.team? team = s.team? team ∧ t.mem = s.mem ∧ t.ops = s.ops.filter (fun p => decide (p.id ≠ o.id)))

/-- The instructions of the Tolerance table, and what its unit then does. -/
def Obligations.ToleranceInstructions : Prop := toleranceIssueHold ∧ toleranceUnitHold

/-! ## Launches and queues (R7 to R14, R26, R30 to R32, R302 to R309, R318, R319, R346) -/

/-- Little-endian fields of a block in memory: a double word and a word at an offset. -/
def Sys2Proof.Claim.dword (bs : List Byte) (o : Nat) : Nat := bytesNat ((bs.drop o).take 8)
def Sys2Proof.Claim.field (bs : List Byte) (o lo n : Nat) : Nat := bytesNat ((bs.drop o).take 4) / 2 ^ lo % 2 ^ n

/-- The fields of a launch record (R302). -/
def Sys2Proof.Claim.recordSays (bs : List Byte) (l : Launch) : Prop :=
  l.entry = dword bs 0 ∧ l.args = dword bs 8 ∧ l.height = field bs 0x10 28 4 + 1 ∧ l.width = field bs 0x10 24 4 + 1 ∧ l.threads = field bs 0x10 0 11 ∧
  l.clusters = field bs 0x14 0 20 + 1 ∧ l.deque = decide (field bs 0x18 18 1 = 1) ∧ l.restart = decide (field bs 0x18 17 1 = 1) ∧
  l.coop = decide (field bs 0x18 16 1 = 1) ∧ l.tiles = field bs 0x18 8 5 ∧ l.quota = field bs 0x18 0 7 ∧ l.cycles = field bs 0x1C 0 32 ∧
  l.seed.toNat = dword bs 0x20 ∧ l.cbo = dword bs 0x28 ∧ l.nkind = field bs 0x30 28 4 ∧ l.tag = field bs 0x30 0 28 ∧
  l.serial = decide (field bs 0x34 31 1 = 1) ∧ l.imgCount = field bs 0x34 0 4 ∧ l.imgList = dword bs 0x38 ∧ l.slots.length = 8 ∧
  ∀ i < 8, (l.slots.getD i 0).toNat = dword bs (0x40 + 8 * i)

/-- The reserved fields of a record are zero. -/
def Sys2Proof.Claim.recordZeros (bs : List Byte) : Prop :=
  field bs 0x10 11 13 = 0 ∧ field bs 0x14 20 12 = 0 ∧ field bs 0x18 19 13 = 0 ∧ field bs 0x18 13 3 = 0 ∧ field bs 0x18 7 1 = 0 ∧ field bs 0x34 4 27 = 0

/-- The limits of R7, R12 and R302. -/
def Sys2Proof.Claim.recordLimits (l : Launch) : Prop :=
  let groups := (l.threads + 31) / 32
  l.entry < 2 ^ 48 ∧ l.entry % 4 = 0 ∧ 1 ≤ l.threads ∧ l.threads ≤ 1024 ∧ l.width * l.height ≤ 12 ∧ l.width * l.height * l.threads ≤ 4096 ∧
  8 ≤ l.quota ∧ l.quota ≤ 104 ∧ l.quota % 8 = 0 ∧ l.quota / 8 * groups ≤ 208 ∧ l.tiles ≤ 16 ∧ l.tiles * groups ≤ 256 ∧ l.imgCount ≤ 8 ∧
  l.imgList % 8 = 0

/-- The completion object a record names, if any, may be one (R303). -/
def Sys2Proof.Claim.recordObject (s : State) (inset cbo : Nat) (p : Option Nat) : Prop :=
  (cbo = 0 ∧ p = none) ∨ (cbo ≠ 0 ∧ ∃ a, p = some a ∧ s.access inset .w cbo 1 = .ok a ∧ cbo % 16 = 0 ∧ vaultBacked a = true)

/-- A launching form may go on: nothing of the group's is unserved, no marker is to be gathered, the event buffer has room. -/
def Sys2Proof.Claim.mayLaunch (c : Ctx) : Prop := caughtUp c ∧ c.g.written = 0 ∧ c.s.bufferFull = false

/-- The state after a launching form's release of the issuer's writes (R92). -/
def Sys2Proof.Claim.launched (c : Ctx) (x : Inset) : State := (c.base false).release c.g.gid (c.s.launchScope x) []

/-- The grid acquires from the launching group as its clusters start (R92). -/
def Sys2Proof.Claim.handedOver (c : Ctx) (x : Inset) (s : State) (h : Nat) : State :=
  s.publish ((launched c x).party c.g) (c.s.launchScope x) [.grid h]

/-- The handle after the last one given names no grid on the device, nor a write of one under way (R30, R359). -/
def Sys2Proof.Claim.freeHandle (s : State) : Prop :=
  let h := s.handles % 0xFFFFFF + 1
  (s.grids.all (fun g => decide (g.handle ≠ h))) = true ∧ ∀ p ∈ s.pendingWrites, p.grid ≠ h

/-- A grid as it is accepted: nothing placed, its record's fields, and who is told of its end. -/
def Sys2Proof.Claim.newGrid (g : Grid) (x : Inset) (h addr : Nat) (bs : List Byte) (obj team : Option Nat) (queue gate : Option (Nat × Nat × Nat))
    (order : Nat) : Prop :=
  g = { handle := h, inset := x.id, launch := g.launch, record := addr, object := obj, placed := 0, notifyTeam := team, queue := queue,
        counters := [], gate := gate, order := order, completed := false } ∧ recordSays bs g.launch

/-- LAUNCH and LAUNCHQ: a record with every check passed becomes a grid under the next free handle, and D says so; one that fails a check
leaves nothing but its event record, and D the lowest code (R303, R318, R319). -/
def Obligations.Launches : Prop :=
  (∀ s c (d : BitVec 7) x bs l, issues s false c → flagFree c (longFlag c) → c.s.insetOf c.g = some x → c.s.inset? x.id = some x →
    fits [useDesc d.toNat 2] → let addr := long c d.toNat 0
    addr % 128 = 0 → c.s.readSpace x.id addr 128 = .ok bs → mayLaunch c → recordSays bs l →
    (∀ obj, recordZeros bs → recordLimits l → recordObject (launched c x) x.id l.cbo obj → (∀ v ∈ l.slots, slotLaunchable v = true) → l.nkind < 3 →
      l.coop = false → l.imgCount = 0 → freeHandle (launched c x) →
      ∃ (t : State) (g : Grid), exec (.launch d) s = .next t ∧ newGrid g x (c.s.handles % 0xFFFFFF + 1) addr bs obj (some c.g.team) none none c.s.fresh ∧
        settles (inFlight c (handedOver c x { launched c x with grids := c.s.grids ++ [g], handles := g.handle, fresh := c.s.fresh + 1 } g.handle) (longFlag c) false
          [uniResult d.toNat (BitVec.ofNat 32 g.handle)] .none []) c.g.gid noWrites noUni t) ∧
    (∀ code, (code = 0x20 ∧ (¬ recordZeros bs ∨ ¬ recordLimits l ∨ ∀ obj, ¬ recordObject (launched c x) x.id l.cbo obj)) ∨
        (code = 0x21 ∧ recordZeros bs ∧ recordLimits l ∧ (∃ obj, recordObject (launched c x) x.id l.cbo obj) ∧ ∃ v ∈ l.slots, slotLaunchable v = false) ∨
        (code = 0x24 ∧ recordZeros bs ∧ recordLimits l ∧ (∃ obj, recordObject (launched c x) x.id l.cbo obj) ∧
          (∀ v ∈ l.slots, slotLaunchable v = true) ∧ 3 ≤ l.nkind) →
      ∃ (t : State) (r : Record), exec (.launch d) s = .next t ∧ r.kind = 0x30 ∧ r.src = x.id ∧ r.ack = false ∧ r.info = BitVec.ofNat 32 code ∧
        r.addr = addr ∧ settles (inFlight c { launched c x with records := c.s.records ++ [r] } (longFlag c) false
          [uniResult d.toNat (BitVec.ofNat 32 (code * 2 ^ 24))] .none []) c.g.gid noWrites noUni t)) ∧
  (∀ s c (d : BitVec 7) x bs l qb, issues s false c → flagFree c (longFlag c) → c.s.insetOf c.g = some x → c.s.inset? x.id = some x →
    fits [useDesc d.toNat 4] → let addr := long c d.toNat 0
    let qcb := long c d.toNat 2
    addr % 128 = 0 → c.s.readSpace x.id addr 128 = .ok bs → recordSays bs l → qcb % 64 = 0 → c.s.readSpace x.id qcb 64 = .ok qb →
    c.s.slotOf x.id qcb = none →
    let n := field qb 8 0 5
    let read := field qb 0x10 0 32
    let write := field qb 0x14 0 32
    let good : Prop := field qb 8 28 4 = 0 ∧ field qb 8 5 11 = 0 ∧ field qb 0xC 17 15 = 0 ∧ (∀ b ∈ (qb.drop 0x24).take 28, b = 0) ∧ 4 ≤ n ∧ n ≤ 16 ∧
      dword qb 0 % 128 = 0 ∧ dword qb 0x18 % 8 = 0 ∧ field qb 8 16 12 = x.id
    (∀ obj, good → idxDiff write read ≠ 2 ^ n → field qb 0xC 16 1 = 0 → mayLaunch c → recordZeros bs → recordLimits l →
      recordObject (launched c x) x.id l.cbo obj → (∀ v ∈ l.slots, slotLaunchable v = true) → l.nkind < 3 →
      l.coop = false → l.imgCount = 0 → freeHandle (launched c x) →
      ∃ (t : State) (g : Grid), exec (.launchq d) s = .next t ∧
        newGrid g x (c.s.handles % 0xFFFFFF + 1) addr bs obj (some c.g.team) none (some (qcb, read, idxDiff write read)) c.s.fresh ∧
        settles (inFlight c (handedOver c x { launched c x with grids := c.s.grids ++ [g], handles := g.handle, fresh := c.s.fresh + 1 } g.handle) (longFlag c) false
          [uniResult d.toNat (BitVec.ofNat 32 g.handle)] .none []) c.g.gid noWrites noUni t) ∧
    (∀ code, (code = 3 ∧ ¬ good) ∨ (code = 0x25 ∧ good ∧ idxDiff write read = 2 ^ n) ∨ (code = 0x26 ∧ good ∧ idxDiff write read ≠ 2 ^ n ∧
        field qb 0xC 16 1 = 1) →
      ∃ t, exec (.launchq d) s = .next t ∧ settles (inFlight c (c.base false) (longFlag c) false
        [uniResult d.toNat (BitVec.ofNat 32 (code * 2 ^ 24))] .none []) c.g.gid noWrites noUni t))

/-! ### Placement and completion of grids -/

/-- The core of team i of a cluster at an anchor (R9). -/
def Sys2Proof.Claim.coreAt (l : Launch) (ax ay i : Nat) : Nat := 16 * ((ay + i / l.width) % 16) + (ax + i % l.width) % 16

/-- A lane as its cluster starts (R10, R12, R41, R43). -/
def Sys2Proof.Claim.laneStart (l : Launch) (cluster team group i : Nat) (x : Lane) : Prop :=
  let g := (cluster * (l.width * l.height) + team) * 1024 + 32 * group + i
  let z := l.seed ^^^ BitVec.ofNat 64 ((g + 1) * 0x100000001)
  x.header = l.entry ∧ x.index = 0 ∧ x.exited = decide (l.threads ≤ 32 * group + i) ∧ x.parked = none ∧ x.pend = [] ∧ x.preds = 0 ∧
  x.gen = (if z = 0 then 1 else z) ∧
  ∀ r, x.reg r = if r = 0 then BitVec.ofNat 32 (32 * group + i) else if r = 1 then BitVec.ofNat 32 g else 0

/-- A group as its cluster starts (R10, R13). -/
def Sys2Proof.Claim.groupStart (l : Launch) (cluster team tid i : Nat) (g : Group) : Prop :=
  g.team = tid ∧ g.index = i ∧ g.quota = l.quota ∧ g.tileQuota = l.tiles ∧ g.flags = List.replicate 12 0 ∧ g.rejoin = List.replicate 8 (0, false) ∧
  g.stop = none ∧ g.clause = none ∧ g.tiles = [] ∧ g.tileCtl = [] ∧ g.recv = List.replicate 4 [] ∧ g.pendTeam = none ∧ g.pendCluster = none ∧
  uniOf g 0 = BitVec.ofNat 32 l.args ∧ uniOf g 1 = BitVec.ofNat 32 (l.args / 2 ^ 32) ∧ uniOf g 2 = BitVec.ofNat 32 cluster ∧
  uniOf g 3 = BitVec.ofNat 32 team ∧ uniOf g 4 = BitVec.ofNat 32 i ∧ uniOf g 5 = BitVec.ofNat 32 l.threads ∧ (∀ r, 6 ≤ r → r < 16 → uniOf g r = 0) ∧
  g.lanes.length = 32 ∧ ∀ (k : Nat) (x : Lane), g.lanes[k]? = some x → laneStart l cluster team i k x

/-- A grid holds a counter entry of a core: by commands and partials, by stores that have not performed, or by a team seated there (R11, R30). -/
def Sys2Proof.Claim.holdsAt (s : State) (core : Nat) (d : Grid) : Bool :=
  decide (0 < counts d core) || s.pendingWrites.any (fun p => decide (p.grid = d.handle ∧ p.core = core)) ||
    (s.gridTeams d.handle).any (fun t => t.seated && decide (t.core = core))

/-- What a core has room for (R11, R13, R30): quota blocks, tiles, wave slots of each scheduler, a grid counter. -/
def Sys2Proof.Claim.roomOn (s : State) (d : Grid) (core : Nat) : Prop :=
  let l := d.launch
  let n := (l.threads + 31) / 32
  let gs := s.coreGroups core
  s.power.pstate = 0 ∧ s.power.rows.getLsbD (core / 16) = true ∧ (gs.map (fun g => g.quota / 8)).sum + n * (l.quota / 8) ≤ 208 ∧
  (l.tiles = 0 ∨ (gs.map (·.tileQuota)).sum + n * l.tiles ≤ 256) ∧
  (∀ k < 4, ((List.range n).filter (fun i => decide (i % 4 = k))).length ≤ (s.freeSlots core k).length) ∧
  (holdsAt s core d = true ∨ (s.grids.filter (holdsAt s core)).length < 16)

/-- The Grid Scheduler places the next cluster of a grid at the first anchor, by y and then x, whose cores its inset holds and have room,
with every team, group and lane in its first state; where no grid may be placed nothing changes. A grid with every cluster placed, every
group exited, no counter and no write under way completes: its object flips and its notice is sent; with its last team freed, nothing of it
is left (R9 to R14, R29, R31, R309). -/
def Obligations.GridsRun : Prop :=
  (∀ (s : State) d x ax ay, s.grids = [d] → d.launch.coop = false → d.placed + 1 < d.launch.clusters → d.gate = none → s.queueDown d = false → s.running d.inset = true →
    s.inset? d.inset = some x → 1 ≤ d.launch.threads → d.launch.threads ≤ 1024 → 8 ≤ d.launch.quota → d.launch.quota % 8 = 0 →
    1 ≤ d.launch.width → 1 ≤ d.launch.height → d.launch.width * d.launch.height ≤ 12 → ax < 16 → ay < 16 →
    (∀ i < d.launch.width * d.launch.height, x.cores.getLsbD (coreAt d.launch ax ay i) = true ∧ roomOn s d (coreAt d.launch ax ay i)) →
    (∀ bx < 16, ∀ b < 16, b < ay ∨ (b = ay ∧ bx < ax) → ∃ i < d.launch.width * d.launch.height,
      x.cores.getLsbD (coreAt d.launch bx b i) = false ∨ ¬ roomOn s d (coreAt d.launch bx b i)) →
    ∃ (t : State) (cl : Cluster) (ts : List Team) (gs : List Group), exec .clusterPlacement s = .next t ∧
      t = { s with grids := [{ d with placed := d.placed + 1 }], clusters := s.clusters ++ [cl], teams := s.teams ++ ts, groups := s.groups ++ gs,
                   fresh := t.fresh
                   pendingWrites := s.pendingWrites.map (fun p =>
                     if p.released.any (fun r => decide (r.place = .grid d.handle)) then { p with known := p.known ++ gs.map (·.gid) } else p) } ∧
      s.fresh < t.fresh ∧ cl.cid = s.fresh ∧ cl.grid = d.handle ∧ cl.index = d.placed ∧ cl.ax = ax ∧ cl.ay = ay ∧ cl.arrived = [] ∧ cl.phase = 0 ∧
      ts.length = d.launch.width * d.launch.height ∧
      (∀ (i : Nat) (tm : Team), ts[i]? = some tm → tm.cluster = cl.cid ∧ tm.index = i ∧ tm.core = coreAt d.launch ax ay i ∧ tm.residency = .resident ∧
        tm.tol = [] ∧ tm.phase = 0 ∧ tm.arrived = [] ∧ (∀ p < 4, (tm.port p).entries = []) ∧
        ∀ k < (d.launch.threads + 31) / 32, ∃ g ∈ gs, groupStart d.launch d.placed i tm.tid k g) ∧
      gs.length = ts.length * ((d.launch.threads + 31) / 32) ∧ (gs.map (·.gid)).Nodup ∧ (ts.map (·.tid)).Nodup) ∧
  (∀ (s : State), (∀ d ∈ s.grids, d.placed = d.launch.clusters ∨ s.running d.inset = false ∨ s.gateOpen d = false ∨ s.queueDown d = true ∨
      ∀ x, s.inset? d.inset = some x → x.cores = 0 ∧ 1 ≤ d.launch.width ∧ 1 ≤ d.launch.height) → (∀ d ∈ s.grids, (s.inset? d.inset).isSome = true) →
    (∀ d ∈ s.grids, d.placed ≤ d.launch.clusters) →
    exec .clusterPlacement s = .next s) ∧
  (∀ (s : State) d h, s.grid? h = some d → d.placed = d.launch.clusters → d.completed = false →
    (∀ t ∈ s.gridTeams h, t.residency = .freed ∧ t.missed = none) → d.counters = [] → (∀ p ∈ s.pendingWrites, p.grid ≠ h) →
    d.launch.nkind = 0 → s.ops = [] → (∀ p, d.object = some p → p % 16 = 0 ∧ vaultBacked p = true) →
    ∃ t, exec (.gridComplete h) s = .next t ∧ t.grid? h = none ∧ t.grids = s.grids.filter (fun e => decide (e.handle ≠ h)) ∧
      t.clusters = s.clusters.filter (fun c => decide (c.grid ≠ h)) ∧ t.insets = s.insets ∧ t.records = s.records ∧ t.notices = s.notices ∧
      (∀ tm ∈ s.gridTeams h, tm ∉ t.teams) ∧
      (match d.object with
        | none => t.mem = s.mem
        | some p => ((objectAt s.mem p).err = true → t.mem = s.mem) ∧ ((objectAt s.mem p).err = false →
            objectAt t.mem p = flipped (objectAt s.mem p) ∧ onlyWithin t.mem s.mem p 16))) ∧
  (∀ (s : State) d h tm, s.grid? h = some d → d.placed = d.launch.clusters → d.completed = false → tm ∈ s.gridTeams h → tm.residency ≠ .freed →
    (∀ t ∈ s.gridTeams h, s.teamGroups t.tid ≠ [] ∧ ∀ g ∈ s.teamGroups t.tid ++ t.kept, g.exited = true) → d.counters = [] →
    (∀ p ∈ s.pendingWrites, p.grid ≠ h) → d.launch.nkind = 0 → d.object = none → s.ops = [] →
    exec (.gridComplete h) s = .next { s with grids := s.grids.map (fun e : Grid => if e.handle = h then { e with completed := true } else e) })

/-! ### User queues (R305 to R308, R346) -/

/-- A queue control block lies at one physical place, which can be reached, read and written (R305). -/
def Sys2Proof.Claim.blockAt (s : State) (inset qcb p : Nat) : Prop :=
  s.unreachable p = false ∧ s.checkSpan inset .r qcb 64 = ([(p, 64)], none) ∧ s.mem.poisoned p 64 = false ∧
  ∀ o n, 0 < n → o + n ≤ 64 → s.checkSpan inset .w (qcb + o) n = ([(p + o, n)], none)

/-- A well-formed control block of an inset (R306). -/
def Sys2Proof.Claim.blockGood (bs : List Byte) (inset : Nat) : Prop :=
  field bs 8 28 4 = 0 ∧ field bs 8 5 11 = 0 ∧ field bs 0xC 17 15 = 0 ∧ (∀ b ∈ (bs.drop 0x24).take 28, b = 0) ∧ 4 ≤ field bs 8 0 5 ∧
  field bs 8 0 5 ≤ 16 ∧ dword bs 0 % 128 = 0 ∧ dword bs 0x18 % 8 = 0 ∧ field bs 8 16 12 = inset

/-- A record of an inset that no group waits on. -/
def Sys2Proof.Claim.told (r : Record) (x kind sub : Nat) (info : Word) (addr : Nat) : Prop :=
  r.kind = kind ∧ r.sub = sub ∧ r.src = x ∧ r.info = info ∧ r.addr = addr ∧ r.ack = false ∧ r.gid = none ∧ r.op = none

/-- A kick in a low-power state wakes the device (R368). -/
def Sys2Proof.Claim.woken (s : State) : State :=
  if s.power.pstate = 0 then s else { s with power := { s.power with wake := true } }

/-- The doorbell of an index, of a live inset, that the host reaches. -/
def Sys2Proof.Claim.rung (s : State) (index : Nat) (d : Doorbell) (x : Inset) : Prop :=
  s.ctl.boot = .run ∧ s.fabric.linkUp = true ∧ s.doorbells.find? (fun e => decide (e.index = index)) = some d ∧ s.inset? d.inset = some x ∧
  x.id = d.inset

/-- Kicks, the start of records, mapping and ageing. A kick stands beside its queue as long as the block cannot be reached; a SERIAL record waits
for the grid of the record before it alone; a queue found malformed stays so until DBSET registers it again; an inset's mapped queues stay
within its grant and those above it (R288, R306 to R308). -/
def Obligations.Queues : Prop :=
  (∀ (s : State) index (v : BitVec 32) d x q, rung s index d x → s.slotOf d.inset d.qcb = some q →
    (∀ e ∈ s.slots, e.slot = q.slot → e = q) →
    let w := woken s
    (idxDiff v.toNat q.read ≤ 2 ^ q.logsize → exec (.doorbellKick index v) s =
      .next { w with slots := s.slots.map (fun e : Slot => if e.slot = q.slot then { e with write := v.toNat } else e) }) ∧
    (2 ^ q.logsize < idxDiff v.toNat q.read → s.bufferFull = false → ∃ r, told r x.id 0x31 0 v d.qcb ∧ exec (.doorbellKick index v) s =
      .next { w with slots := s.slots.map (fun e : Slot => if e.slot = q.slot then { e with err := true } else e), records := s.records ++ [r] })) ∧
  (∀ (s : State) index (v : BitVec 32) d x p, rung s index d x → s.slotOf d.inset d.qcb = none → blockAt s d.inset d.qcb p → s.ops = [] →
    let bs := s.mem.pieceBytes [(p, 64)]
    let past := blockGood bs d.inset ∧ 2 ^ field bs 8 0 5 < idxDiff v.toNat (field bs 0x10 0 32)
    (¬ past → ∃ m, exec (.doorbellKick index v) s = .next { woken s with
        mem := m
        doorbells := s.doorbells.map (fun e : Doorbell => if e.inset = d.inset ∧ e.qcb = d.qcb then { e with pending := true, kick := none } else e) } ∧
      m.pieceBytes [(p + 0x14, 4)] = natBytes 4 v.toNat ∧ onlyWithin m s.mem (p + 0x14) 4) ∧
    (past → s.bufferFull = false → ∃ m r, told r x.id 0x31 0 v d.qcb ∧
      exec (.doorbellKick index v) s = .next { woken s with mem := m, records := s.records ++ [r] } ∧
      m.pieceBytes [(p + 0xD, 2)] = [bs.getD 0xD 0, bs.getD 0xE 0 ||| 1] ∧ onlyWithin m s.mem (p + 0xD) 2)) ∧
  (∀ (s : State) index (v : BitVec 32) d x, rung s index d x → s.slotOf d.inset d.qcb = none → s.spaceDown d.inset .r d.qcb 64 = true →
    exec (.doorbellKick index v) s = .next { woken s with
      doorbells := s.doorbells.map (fun e : Doorbell =>
        if e.inset = d.inset ∧ e.qcb = d.qcb then { e with pending := true, kick := some v.toNat } else e) }) ∧
  (∀ (s : State) index off width, s.ctl.boot = .run → s.fabric.linkUp = true →
    (off ≠ 0 ∨ width ≠ 4 ∨ ∀ d ∈ s.doorbells, d.index ≠ index) →
    let t := { s with ctl := { s.ctl with dberr := min 0xFFFFFFFF (s.ctl.dberr + 1) } }
    exec (.doorbellIgnoredWrite index off width) s = .next t ∧
    ((∀ d ∈ s.doorbells, d.index ≠ index) → ∀ v, exec (.doorbellKick index v) s = .next t)) ∧
  (∀ (s : State) n q x bs l, s.slots.find? (fun e => decide (e.slot = n)) = some q → (∀ e ∈ s.slots, e.slot = n → e = q) →
    s.slotOf q.inset q.qcb = some q → s.inset? q.inset = some x →
    x.id = q.inset → q.err = false → q.read ≠ q.write → s.running q.inset = true → s.bufferFull = false →
    (∀ d ∈ s.grids, ∀ i, d.queue = some (q.inset, q.qcb, i) → d.placed = d.launch.clusters) →
    let addr := q.ring + 128 * (q.read % 2 ^ q.logsize)
    let next := { s with slots := s.slots.map (fun e : Slot => if e.slot = n then { e with read := (e.read + 1) % 2 ^ 32 } else e) }
    (s.readSpace x.id addr 128 = .error .wait → exec (.queueRecordStart n) s = .next s) ∧
    (∀ f, s.readSpace x.id addr 128 = .error f → f ≠ .wait → ∃ r, told r x.id 0x30 0 0x27 addr ∧
      exec (.queueRecordStart n) s = .next { next with records := s.records ++ [r] }) ∧
    (s.readSpace x.id addr 128 = .ok bs → recordSays bs l →
      (l.serial = true → (∃ d ∈ s.grids, d.completed = false ∧ ∃ i, d.queue = some (q.inset, q.qcb, i) ∧ idxDiff q.read i = 1) → exec (.queueRecordStart n) s = .next s) ∧
      ((l.serial = true → ∀ d ∈ s.grids, d.completed = false → ∀ i, d.queue = some (q.inset, q.qcb, i) → idxDiff q.read i ≠ 1) →
        (∀ obj, recordZeros bs → recordLimits l → recordObject s x.id l.cbo obj → (∀ v ∈ l.slots, slotLaunchable v = true) →
          l.nkind = 0 ∨ (l.nkind = 2 ∧ s.completionDown q.inset q.qcb = false) → l.coop = false → l.imgCount = 0 → freeHandle s →
          ∃ g, newGrid g x (s.handles % 0xFFFFFF + 1) addr bs obj none (some (q.inset, q.qcb, q.read)) none s.fresh ∧
            exec (.queueRecordStart n) s = .next { s with grids := s.grids ++ [g], handles := g.handle, fresh := s.fresh + 1 }) ∧
        (recordZeros bs → recordLimits l → (∃ obj, recordObject s x.id l.cbo obj) → (∀ v ∈ l.slots, slotLaunchable v = true) → l.nkind = 1 →
          ∃ r, told r x.id 0x30 0 0x24 addr ∧ exec (.queueRecordStart n) s = .next { next with records := s.records ++ [r] })))) ∧
  (∀ (s : State) die d x p i, s.doorbells = [d] → d.pending = true → (∀ e ∈ s.slots, e.inset ≠ d.inset ∨ e.qcb ≠ d.qcb) → s.inset? d.inset = some x →
    x.id = d.inset → (s.slots.filter (fun e => decide (e.inset = d.inset))).length < s.ownSlots d.inset →
    (∀ y ∈ s.ancestors d.inset, (s.slotsUnder y.id).length < y.qslots) →
    (∀ y ∈ s.insets, s.inset? y.id = some y ∧ (s.slots.filter (fun e => decide (e.inset = y.id))).length ≤ s.ownSlots y.id ∧
      (s.slotsUnder y.id).length ≤ y.qslots) → s.bufferFull = false → die < 2 →
    s.ctl.boot = .run → i < 64 → (∀ e ∈ s.slots, e.slot ≠ 64 * die + i) → (∀ j < i, ∃ e ∈ s.slots, e.slot = 64 * die + j) →
    blockAt s d.inset d.qcb p → s.ops = [] →
    let bs := s.mem.pieceBytes [(p, 64)]
    let write := d.kick.getD (field bs 0x14 0 32)
    (blockGood bs d.inset → d.malformed = false → (d.kick = none ∨ idxDiff write (field bs 0x10 0 32) ≤ 2 ^ field bs 8 0 5) → ∃ m e, exec (.queueMap die) s = .next { s with
        mem := m
        doorbells := [{ d with pending := false, kick := none }]
        slots := s.slots ++ [e] } ∧
      e = { slot := 64 * die + i, qcb := d.qcb, inset := d.inset, ring := dword bs 0, logsize := field bs 8 0 5, read := field bs 0x10 0 32,
            write := write, prio := field bs 0xC 0 8, age := 0, err := decide (field bs 0xC 16 1 = 1), cring := dword bs 0x18 } ∧
      m.byte (p + 0xD) = 0 ∧ onlyWithin m s.mem (p + 0xD) 1) ∧
    (¬ blockGood bs d.inset ∨ d.malformed = true → ∃ m r, told r x.id 0x31 1 0 d.qcb ∧
      exec (.queueMap die) s = .next { s with mem := m, doorbells := [{ d with pending := false, malformed := true }], records := s.records ++ [r] } ∧
      m.byte (p + 0xE) = bs.getD 0xE 0 ||| 1 ∧ onlyWithin m s.mem (p + 0xE) 1)) ∧
  (∀ (s : State), (∀ d ∈ s.doorbells, d.pending = false) →
    exec .queueAgeingTick s = .next { s with aged := s.aged + 940000, cycle := max s.cycle (s.aged + 940000) }) ∧
  (∀ (s : State) d p, s.doorbells = [d] → d.pending = true → (∀ e ∈ s.slots, e.inset ≠ d.inset ∨ e.qcb ≠ d.qcb) → blockAt s d.inset d.qcb p →
    s.ops = [] →
    let bs := s.mem.pieceBytes [(p, 64)]
    field bs 0xC 8 8 + field bs 0xC 0 8 ≤ 255 →
    ∃ m, exec .queueAgeingTick s = .next { s with mem := m, aged := s.aged + 940000, cycle := max s.cycle (s.aged + 940000) } ∧
      (m.byte (p + 0xD)).toNat = min (255 - field bs 0xC 0 8) (field bs 0xC 8 8 + 1) ∧ onlyWithin m s.mem (p + 0xD) 1)

/-! ## Insets: children, their forms and their tables (R286 to R298, R315 to R334) -/

/-- An inset creation block: the fields of R320 in a creation or a grant. -/
def Sys2Proof.Claim.blockZeros (bs : List Byte) : Prop :=
  field bs 0x18 11 13 = 0 ∧ field bs 0x1C 1 31 = 0 ∧ ∀ b ∈ (bs.drop 0x48).take 56, b = 0
def Sys2Proof.Claim.blockCores (bs : List Byte) : BitVec 256 := BitVec.ofNat 256 (bytesNat ((bs.drop 0x20).take 32))
def Sys2Proof.Claim.blockLimits (bs : List Byte) : Prop :=
  dword bs 0 % 0x1000 = 0 ∧ dword bs 0 < 2 ^ 48 ∧ dword bs 8 % 0x10000 = 0 ∧ dword bs 8 + field bs 0x10 0 32 ≤ 2 ^ 48 ∧
  field bs 0x10 0 32 % 0x10000 = 0 ∧ 0 < field bs 0x10 0 32 ∧ 0 < field bs 0x14 16 16 ∧ 0 < field bs 0x14 0 16 ∧ field bs 0x18 24 8 ≤ 128 ∧
  field bs 0x18 0 11 ≤ 1024 ∧ dword bs 0x40 % 128 = 0

/-- A child as CTXNEW makes it (R320). -/
def Sys2Proof.Claim.childOf (x : Inset) (bs : List Byte) (id share : Nat) (y : Inset) : Prop :=
  y.id = id ∧ y.level = x.level + 1 ∧ y.parent = x.id ∧ y.tbase = dword bs 0 ∧ y.saveBase = dword bs 8 ∧ y.saveSize = field bs 0x10 0 32 ∧
  y.cw = field bs 0x14 16 16 ∧ y.lw = field bs 0x14 0 16 ∧ y.qslots = field bs 0x18 24 8 ∧ y.iquota = field bs 0x18 0 11 ∧
  y.sys = decide (field bs 0x1C 0 1 = 1) ∧ y.cores = blockCores bs ∧ y.share = share ∧ y.frozen = false ∧ y.shed = false ∧ y.revoking = false ∧
  y.armed = none ∧ y.images = [] ∧ y.breakpoints = List.replicate 4 none ∧ y.nextSeq = 0

/-- Every page that the tables reach from a table base is HBM or vault memory of this package (R293). -/
def Sys2Proof.Claim.tablesHeld (s : State) (p tbase : Nat) : Prop :=
  ∀ t ∈ s.reachable p 3 tbase, backing t.2 = .hbm ∨ ∃ k, backing t.2 = .vault k

/-- The launch record that a creation block names, if it is aligned, can be read (R316). -/
def Sys2Proof.Claim.launchReads (s : State) (x : Nat) (bs : List Byte) : Prop :=
  dword bs 0x40 = 0 ∨ dword bs 0x40 % 128 ≠ 0 ∨ ∃ lb, s.readSpace x (dword bs 0x40) 128 = .ok lb

/-- The selected fields of a creation block can be read, each for itself (R321). -/
def Sys2Proof.Claim.fieldsRead (s : State) (x addr : Nat) (aux : BitVec 5) (bs : List Byte) : Prop :=
  bs.length = 128 ∧ ∀ f ∈ [(2, 0x14, 2), (1, 0x16, 2), (4, 0x18, 2), (3, 0x1B, 1), (0, 0x20, 32)], aux.getLsbD f.1 = true →
    s.readSpace x (addr + f.2.1) f.2.2 = .ok ((bs.drop f.2.1).take f.2.2)

/-- A checkpoint of one inset and no team image, with nothing reserved in it and its fields within their limits (R316, R325). -/
def Sys2Proof.Claim.oneRecord (bs : List Byte) : Prop :=
  let rec_ := bs.drop 64
  field bs 8 0 32 = 1 ∧ field bs 0xC 0 32 = 0 ∧ field bs 0x10 12 20 = 0 ∧ (∀ b ∈ (bs.drop 0x14).take 44, b = 0) ∧ blockLimits rec_ ∧
  field rec_ 0x18 11 13 = 0 ∧ field rec_ 0x1C 1 31 = 0 ∧ dword rec_ 0x40 = 0 ∧ field rec_ 0x48 12 20 = 0 ∧ field rec_ 0x4C 12 20 = 0 ∧
  field rec_ 0x50 1 31 = 0 ∧ ∀ b ∈ (rec_.drop 0x54).take 44, b = 0

/-- The lowest identifier that no inset has, and the lowest share entry that no child of p has. -/
def Sys2Proof.Claim.freeNames (s : State) (p id share : Nat) : Prop :=
  0 < id ∧ id < 0xFFF ∧ s.inset? id = none ∧ (∀ j, 0 < j → j < id → (s.inset? j).isSome = true) ∧ 0 < share ∧ share < 64 ∧
  (∀ y ∈ s.insets, y.parent = p → y.share ≠ share) ∧ ∀ j, 0 < j → j < share → ∃ y ∈ s.insets, y.parent = p ∧ y.share = j

/-- A SYS form by an inset that holds SYS may be judged. -/
def Sys2Proof.Claim.sysIssues (s : State) (c : Ctx) (x : Inset) (d : BitVec 7) (n : Nat) : Prop :=
  issues s false c ∧ flagFree c (longFlag c) ∧ c.s.insetOf c.g = some x ∧ c.s.inset? x.id = some x ∧ x.sys = true ∧ fits [useDesc d.toNat n] ∧
  c.s.bufferFull = false ∧ (∀ o ∈ c.s.ops, o.id < c.s.fresh) ∧ ∀ k ∈ c.s.commands, ∀ w, k.waiting = some w → w < c.s.fresh

/-- A form answered at once with a status code and a result field (R316). -/
def Sys2Proof.Claim.replied (c : Ctx) (p : State) (d : BitVec 7) (code result : Nat) (t : State) : Prop :=
  settles (inFlight c p (longFlag c) false [uniResult d.toNat (BitVec.ofNat 32 (code * 2 ^ 24 + result))] .none []) c.g.gid noWrites noUni t

/-- The child a descriptor's first register names, and no other form on it under way (R287, R329). -/
def Sys2Proof.Claim.childFree (c : Ctx) (x y : Inset) (d : BitVec 7) : Prop :=
  c.s.inset? (reg c d.toNat 0 % 2 ^ 12) = some y ∧ y.id = reg c d.toNat 0 % 2 ^ 12 ∧ y.parent = x.id ∧
  ∀ o ∈ c.s.ops, ∀ n ws dst, o.wait = .form n y.id ws dst → 12 < n ∧ n ≠ 16

/-- The operation of a form that has begun, with what it still waits for and its results. -/
def Sys2Proof.Claim.begun (s : State) (id : Nat) (wait : Waiting) (rs : List RegWrite) : State :=
  { s with ops := s.ops.map (fun o : LongOp => if o.id = id then { o with arrived := true, wait := wait, results := rs } else o) }

/-- The form's operation stands, has begun, and waits or has its results. -/
def Sys2Proof.Claim.formStands (c : Ctx) (p : State) (wait : Waiting) (rs : List RegWrite) : State :=
  begun (inFlight c p (longFlag c) false [] .none []) c.s.fresh wait rs

/-- The answer of a form that has begun, from register D up. -/
def Sys2Proof.Claim.formDone (c : Ctx) (p : State) (d : BitVec 7) (ws : List Word) : State :=
  formStands c p .none (answer d.toNat ws)

/-- Forms on a child whose operands are their descriptor alone. -/
def Sys2Proof.Claim.plainForms : Instr → Option (BitVec 7 × Nat)
  | .ctxfrz d => some (d, 2)
  | .ctxthaw d => some (d, 1)
  | .ctxrevk d => some (d, 1)
  | .ctxstat d => some (d, 4)
  | .ctxdbgSetbp d => some (d, 5)
  | .ctxdbgClrbp d => some (d, 5)
  | .ctxdbgRdstate d => some (d, 5)
  | .ctxdbgWrstate d => some (d, 5)
  | .ctxdbgStep d => some (d, 5)
  | _ => none

/-- The forms that need the SYS bit (R315). -/
def Sys2Proof.Claim.needsSys : Instr → Bool
  | .ctxnew _ => true
  | .ctxgrant _ _ => true
  | .ctxfrz _ => true
  | .ctxthaw _ => true
  | .ctxckpt _ _ => true
  | .ctxrest _ => true
  | .ctxrevk _ => true
  | .ctxstat _ => true
  | .ctxdbgSetbp _ => true
  | .ctxdbgClrbp _ => true
  | .ctxdbgRdstate _ => true
  | .ctxdbgWrstate _ => true
  | .ctxdbgStep _ => true
  | .mapg _ => true
  | .unmapg _ => true
  | .pinv _ => true
  | .hqarm _ => true
  | .hqdisarm _ => true
  | .hqack _ _ _ => true
  | _ => false

/-- A group's position as record word W3 and CTXDBG give it (R331, R338). -/
def Sys2Proof.Claim.position (s : State) (g : Group) (inset handle pos : Nat) : Prop :=
  g.index = pos / 8 % 32 ∧ (∃ tm, s.teamOf g = some tm ∧ tm.seated = true ∧ tm.index = pos / 2 ^ 8 % 16) ∧
  (∃ cl, s.clusterOf g = some cl ∧ cl.index = pos / 2 ^ 12 % 2 ^ 20) ∧ ∃ gr, s.gridOf g = some gr ∧ gr.handle = handle ∧ gr.inset = inset

/-- A SYS form of an inset without SYS posts a privilege record and stops the group (R315); every form on a name that is no child of the
issuer answers NOCHILD, changing nothing else (R287); and each form has its own effect on the child it names. -/
def Obligations.ChildForms : Prop :=
  (∀ s c i x, needsSys i = true → s.ctx? false = some c → c.s.insetOf c.g = some x → x.sys = false →
    exec i s = .next (c.take { kind := 9, info := c.run, addr := c.cl.base })) ∧
  (∀ s c i d n x, plainForms i = some (d, n) → sysIssues s c x d n →
    (∀ y, c.s.inset? (reg c d.toNat 0 % 2 ^ 12) = some y → y.parent ≠ x.id) →
    ∃ t, exec i s = .next t ∧ replied c (c.base false) d 1 0 t) ∧
  (∀ s c (d : BitVec 7) x bs id share, sysIssues s c x d 2 → long c d.toNat 0 % 128 = 0 → c.s.readSpace x.id (long c d.toNat 0) 128 = .ok bs →
    freeNames c.s x.id id share → c.s.insets.length < 1024 → launchReads c.s x.id bs →
    (blockZeros bs → blockLimits bs → blockCores bs &&& ~~~x.cores = 0 → field bs 0x18 24 8 ≤ c.s.ownSlots x.id → x.level < 5 →
      1 + field bs 0x18 0 11 ≤ c.s.ownQuota x.id → dword bs 0x40 = 0 → x.id ≠ 0 → tablesHeld c.s x.id (dword bs 0) →
      (∀ t ∈ c.s.teams, t.runs = true → c.s.teamInset t = x.id → (x.cores &&& ~~~ blockCores bs).getLsbD t.core = true) →
      ∃ (t : State) (y : Inset), exec (.ctxnew d) s = .next t ∧ childOf x bs id share y ∧
        replied c (({ c.base false with insets := c.s.insets.map (fun z : Inset =>
          if z.id = x.id then { z with cores := z.cores &&& ~~~ blockCores bs } else z) ++ [y] } : State).unmapExcess x.id c.s.slots.length)
          d 0 (share * 2 ^ 12 + id) t) ∧
    (∀ code, (code = 3 ∧ (¬ blockZeros bs ∨ ¬ blockLimits bs ∨ c.s.ownSlots x.id < field bs 0x18 24 8 ∨ ¬ tablesHeld c.s x.id (dword bs 0))) ∨
        (code = 4 ∧ tablesHeld c.s x.id (dword bs 0) ∧ blockZeros bs ∧ blockLimits bs ∧ x.id ≠ 0 ∧ blockCores bs &&& ~~~x.cores = 0 ∧ field bs 0x18 24 8 ≤ c.s.ownSlots x.id ∧ 5 ≤ x.level) ∨
        (code = 5 ∧ tablesHeld c.s x.id (dword bs 0) ∧ blockZeros bs ∧ blockLimits bs ∧ x.id ≠ 0 ∧ blockCores bs &&& ~~~x.cores = 0 ∧ field bs 0x18 24 8 ≤ c.s.ownSlots x.id ∧ x.level < 5 ∧
          c.s.ownQuota x.id < 1 + field bs 0x18 0 11) →
      ∃ t, exec (.ctxnew d) s = .next t ∧ replied c (c.base false) d code 0 t)) ∧
  (∀ s c (d : BitVec 7) (aux : BitVec 5) x y bs, sysIssues s c x d 3 → childFree c x y d → aux ≠ 0 → long c d.toNat 1 % 128 = 0 →
    fieldsRead c.s x.id (long c d.toNat 1) aux bs →
    (aux = 16 → field bs 0x18 0 11 ≤ min 1024 (c.s.ownQuota x.id + y.iquota) → (c.s.subtree y.id).length ≤ field bs 0x18 0 11 + 1 →
      ∃ t, exec (.ctxgrant d aux) s = .next t ∧
        settles (formDone c ((c.base false).updInset y.id (fun z => { z with iquota := field bs 0x18 0 11 })) d [0]) c.g.gid noWrites noUni t) ∧
    (aux.toNat &&& 25 = 0 → (aux.getLsbD 1 = true → 0 < field bs 0x14 16 16) → (aux.getLsbD 2 = true → 0 < field bs 0x14 0 16) →
      ∃ t, exec (.ctxgrant d aux) s = .next t ∧
        settles (formStands c ((c.base false).updInset y.id (fun z => { z with
          cw := if aux.getLsbD 1 then field bs 0x14 16 16 else z.cw
          lw := if aux.getLsbD 2 then field bs 0x14 0 16 else z.lw }))
          (.form 16 y.id [BitVec.ofNat 32 c.s.refill, BitVec.ofNat 32 (c.s.refill / 2 ^ 32)] d.toNat) []) c.g.gid noWrites noUni t) ∧
    ((aux.getLsbD 1 = true ∧ field bs 0x14 16 16 = 0) ∨ (aux.getLsbD 2 = true ∧ field bs 0x14 0 16 = 0) ∨
        (aux.getLsbD 4 = true ∧ min 1024 (c.s.ownQuota x.id + y.iquota) < field bs 0x18 0 11) →
      ∃ t, exec (.ctxgrant d aux) s = .next t ∧ settles (formDone c (c.base false) d [0x03000000]) c.g.gid noWrites noUni t)) ∧
  (∀ s c (d : BitVec 7) x y, sysIssues s c x d 2 → childFree c x y d → let ws := c.desc d 2
    (y.frozen = false → ∃ t, exec (.ctxfrz d) s = .next t ∧
      settles ((formStands c (c.base false) (.form 2 y.id ws d.toNat) []).freezeInset y.id (some (reg c d.toNat 1)) 0) c.g.gid noWrites noUni t) ∧
    (y.frozen = true → ∃ t, exec (.ctxfrz d) s = .next t ∧
      settles (formStands c (c.base false) (.form 2 y.id ws d.toNat) []) c.g.gid noWrites noUni t)) ∧
  (∀ s c (d : BitVec 7) x y, sysIssues s c x d 1 → childFree c x y d →
    (y.frozen = true → (∀ z ∈ c.s.insets, c.s.protected z = false) → ∃ t, exec (.ctxthaw d) s = .next t ∧
      settles (formDone c { (c.base false).updInset y.id (fun z => { z with frozen := false }) with
        teams := c.s.teams.map (fun u : Team => if c.s.under y.id (c.s.teamInset u) then { u with refused := false } else u) } d [0])
        c.g.gid noWrites noUni t) ∧
    (y.frozen = false → ∃ t, exec (.ctxthaw d) s = .next t ∧ settles (formDone c (c.base false) d [0x02000000]) c.g.gid noWrites noUni t)) ∧
  (∀ s c (d : BitVec 7) (aux : BitVec 1) x y, sysIssues s c x d 5 → childFree c x y d → long c d.toNat 2 % 64 = 0 → y.frozen = false →
    ∃ t, exec (.ctxckpt d aux) s = .next t ∧
      settles ((formStands c (c.base false) (.form 4 y.id (c.desc d 5 ++ [aux.setWidth 32]) d.toNat) []).freezeInset y.id (some (reg c d.toNat 1)) 1)
        c.g.gid noWrites noUni t) ∧
  (∀ s c (d : BitVec 7) x y head bs, sysIssues s c x d 3 → childFree c x y d → let addr := long c d.toNat 1
    c.s.readSpace x.id addr 64 = .ok head → c.s.readSpace x.id addr (dword head 0) = .ok bs → bs.length = dword head 0 → dword head 0 = 64 + 128 →
    c.s.areasDown y.id = false → field bs (64 + 0x48) 0 12 = y.id → field bs (64 + 0x4C) 0 12 = x.id →
    c.s.under y.id y.id = true → (∀ t ∈ c.s.teams, c.s.under y.id (c.s.teamInset t) = false) →
    (y.frozen = true → ¬ oneRecord bs → field bs 8 0 32 = 1 → field bs 0xC 0 32 = 0 →
      ∃ t, exec (.ctxrest d) s = .next t ∧ settles (formDone c (c.base false) d [0x03000000]) c.g.gid noWrites noUni t) ∧
    (y.frozen = true → oneRecord bs → ∃ t, exec (.ctxrest d) s = .next t ∧
      settles (formDone c { c.base false with
        insets := c.s.insets.map (fun z : Inset => if c.s.under y.id z.id then { z with images := [] } else z) } d [0]) c.g.gid noWrites noUni t) ∧
    (y.frozen = false → oneRecord bs → ∃ t, exec (.ctxrest d) s = .next t ∧ settles (formDone c (c.base false) d [0x02000000]) c.g.gid noWrites noUni t)) ∧
  (∀ s c (d : BitVec 7) x y, sysIssues s c x d 1 → childFree c x y d →
    ∃ t, exec (.ctxrevk d) s = .next t ∧
      settles (formStands c ((c.base false).updInset y.id (fun z => { z with revoking := true })) (.form 6 y.id (c.desc d 1) d.toNat) [])
        c.g.gid noWrites noUni t) ∧
  (∀ s c (d : BitVec 7) x y, sysIssues s c x d 4 → childFree c x y d →
    let count (p : Team → Bool) : Nat := (c.s.teams.filter (fun u => p u && c.s.under y.id (c.s.teamInset u))).length
    let standing : Nat := if y.revoking then 4 else if y.frozen then (if c.s.freezeDone y.id then 2 else 1)
      else if c.s.running y.id then 0 else 3
    ∃ t, exec (.ctxstat d) s = .next t ∧
      settles (formDone c (c.base false) d [BitVec.ofNat 32 (y.level * 2 ^ 8 + standing), BitVec.ofNat 32 ((c.s.subtree y.id).length - 1),
        BitVec.ofNat 32 (count Team.seated), BitVec.ofNat 32 (count (fun u => decide (u.residency = .saved)))]) c.g.gid noWrites noUni t) ∧
  (∀ s c (d : BitVec 7) x y, sysIssues s c x d 5 → childFree c x y d →
    let slot := reg c d.toNat 0 / 2 ^ 16 % 4
    (∃ t, exec (.ctxdbgSetbp d) s = .next t ∧ settles (formDone c ((c.base false).updInset y.id (fun z =>
      { z with breakpoints := z.breakpoints.set slot (some (long c d.toNat 1)) })) d [0]) c.g.gid noWrites noUni t) ∧
    (∃ t, exec (.ctxdbgClrbp d) s = .next t ∧ settles (formDone c ((c.base false).updInset y.id (fun z =>
      { z with breakpoints := z.breakpoints.set slot none })) d [0]) c.g.gid noWrites noUni t)) ∧
  (∀ s c (d : BitVec 7) x y g st, sysIssues s c x d 5 → childFree c x y d → c.s.group? g.gid = some g → g.stop = some st → g.freed = false → g.gid ≠ c.g.gid →
    position c.s g y.id (reg c d.toNat 1 % 2 ^ 24) (reg c d.toNat 2) →
    (∀ h ∈ c.s.groups, position c.s h y.id (reg c d.toNat 1 % 2 ^ 24) (reg c d.toNat 2) → h = g) → g.lanes.length = 32 →
    (∀ (l : Nat) (z : Lane), g.lanes[l]? = some z → z.pend = []) →
    let buf := long c d.toNat 3
    (∀ ps, c.s.checkSpan x.id .w buf 1024 = (ps, none) → (ps.map (·.2)).sum = 1024 → (ps.map (·.1)).Nodup → ps.length = 1 → (∀ p ∈ ps, c.s.unreachable p.1 = false) → c.s.ops = [] →
      ∃ (t : State) (m : Memory), exec (.ctxdbgRdstate d) s = .next t ∧ settles (formDone c { c.base false with mem := m } d [0]) c.g.gid noWrites noUni t ∧
        let bs := m.pieceBytes ps
        (∀ b, (∀ p ∈ ps, b < p.1 ∨ p.1 + p.2 ≤ b) → m.byte b = c.s.mem.byte b) ∧ (∀ w, m.full w = c.s.mem.full w) ∧
        (∀ r < 16, field bs (128 + 4 * r) 0 32 = (uniOf g r).toNat) ∧
        ∀ (l : Nat) (z : Lane), g.lanes[l]? = some z → field bs (192 + 4 * l) 0 32 = z.preds.toNat ∧
          (z.header < 2 ^ 48 → z.index < 2 ^ 16 → dword bs (384 + 8 * l) = z.header + z.index * 2 ^ 48) ∧ dword bs (640 + 8 * l) = z.gen.toNat) ∧
    (∀ bs, c.s.readSpace x.id buf 1024 = .ok bs → bs.length = 1024 →
      ∃ (t : State) (h : Group), exec (.ctxdbgWrstate d) s = .next t ∧
        settles (formDone c ((c.base false).updGroup g.gid (fun _ => h)) d [0]) c.g.gid noWrites noUni t ∧
        h = { g with lanes := h.lanes, sregs := h.sregs, runs := h.runs, clause := h.clause, lastRun := h.lastRun, stop := h.stop } ∧
        h.stop.isSome = true ∧ (∀ r < 16, uniOf h r = BitVec.ofNat 32 (field bs (128 + 4 * r) 0 32)) ∧ h.lanes.length = 32 ∧
        ∀ (l : Nat) (z w : Lane), g.lanes[l]? = some z → h.lanes[l]? = some w →
          w.preds = BitVec.ofNat 24 (field bs (192 + 4 * l) 0 32) ∧ w.header = dword bs (384 + 8 * l) % 2 ^ 48 ∧
          w.index = dword bs (384 + 8 * l) / 2 ^ 48 ∧ w.gen = BitVec.ofNat 64 (dword bs (640 + 8 * l)) ∧
          w.exited = z.exited ∧ w.parked = z.parked ∧ ∀ r < 104, regOf w r = regOf z r) ∧
    (st.late = none → st.slot = none → c.s.ops = [] → ∃ t, exec (.ctxdbgStep d) s = .next t ∧
      settles (formDone c ((c.base false).updGroup g.gid (fun h => { h with stop := none, stepping := true })) d [0]) c.g.gid noWrites noUni t)) ∧
  (∀ (s : State) op o n child ws dst x y g, s.op? op = some o → (s.ops.map (·.id)).Nodup → s.group? o.gid = some g → g.exited = false →
    s.insetOf g = some x → x.id = y.parent → x.id < 2 ^ 12 → child < 2 ^ 12 → s.inset? child = some y → y.id = child → o.arrived = true → o.wait = .form n child ws dst → 104 ≤ dst → dst < 120 → o.overtaken = [] →
    (n = 2 → s.freezeDone child = true → s.othersDone child = true → ∃ t h, exec (.longOpComplete op) s = .next t ∧ t.insets = s.insets ∧ t.teams = s.teams ∧ t.mem = s.mem ∧
      t.ops = s.ops.filter (fun p => decide (p.id ≠ op)) ∧ t.group? o.gid = some h ∧
      uniOf h (dst - 104) = BitVec.ofNat 32 (((s.commandsOf child).filter s.blocked).length % 2 ^ 24) ∧ h.flags = g.flags.modify o.flag (· - 1)) ∧
    (n = 2 ∨ n = 4 → s.freezeDone child = false ∨ s.othersDone child = false → exec (.longOpComplete op) s = .next s) ∧
    (n = 4 → s.freezeDone child = true → s.othersDone child = true → s.formDown x.id 4 child ws = false → s.commandsOf child = [] → s.children child = [] → s.savedTeams child = [] → s.ops = [o] →
      (∀ w, ws[4]? = some w → 192 ≤ w.toNat) → ws.length = 6 → (ws.getD 5 0).getLsbD 0 = false →
      ∀ p, s.checkSpan x.id .w ((ws.getD 2 0).toNat + 2 ^ 32 * (ws.getD 3 0).toNat) 192 = ([(p, 192)], none) →
      ∃ t h, exec (.longOpComplete op) s = .next t ∧ t.ops = [] ∧ t.insets = s.insets ∧ t.group? o.gid = some h ∧ uniOf h (dst - 104) = 0 ∧
        onlyWithin t.mem s.mem p 192 ∧ let bs := t.mem.pieceBytes [(p, 192)]
        dword bs 0 = 192 ∧ field bs 8 0 32 = 1 ∧ field bs 0xC 0 32 = 0 ∧ field bs 0x10 0 32 = child ∧ field bs (64 + 0x48) 0 32 = child ∧
        field bs (64 + 0x4C) 0 32 = x.id ∧ field bs (64 + 0x50) 0 1 = (if y.frozen then 1 else 0) ∧ dword bs 64 = y.tbase % 2 ^ 64 ∧
        (y.cw < 2 ^ 16 → y.lw < 2 ^ 16 → field bs (64 + 0x14) 16 16 = y.cw ∧ field bs (64 + 0x14) 0 16 = y.lw)) ∧
    (n = 6 → s.othersDone child = false → exec (.longOpComplete op) s = .next s) ∧
    (n = 6 → s.othersDone child = true → y.level ≠ 1 → y.ranges = [] → s.subtree child = [y] → s.commands = [] → (∀ v ∈ s.surveys, v.running = none ∧ v.pending = none) → (∀ d ∈ s.grids, d.inset ≠ child) → s.ops = [o] →
      child ≠ x.id →
      ∃ t h, exec (.longOpComplete op) s = .next t ∧ t.ops = [] ∧ t.mem = s.mem ∧ t.teams = s.teams ∧ t.grids = s.grids ∧ t.group? o.gid = some h ∧
        uniOf h (dst - 104) = 0 ∧ t.insets = (s.insets.filter (fun z => decide (z.id ≠ child))).map (fun z : Inset =>
          if z.id = x.id then { z with cores := z.cores ||| y.cores } else z) ∧
        t.doorbells = s.doorbells.filter (fun d => decide (d.inset ≠ child)) ∧ t.slots = s.slots.filter (fun d => decide (d.inset ≠ child)) ∧
        t.outstanding = s.outstanding.filter (fun q => decide (q.inset ≠ child))) ∧
    (n = 16 → (ws.getD 0 0).toNat + 2 ^ 32 * (ws.getD 1 0).toNat < s.refill → ∃ t h, exec (.longOpComplete op) s = .next t ∧ t.insets = s.insets ∧
      t.ops = s.ops.filter (fun p => decide (p.id ≠ op)) ∧ t.group? o.gid = some h ∧ uniOf h (dst - 104) = 0))

/-! ### Translation, mapping and page requests (R291 to R298, R332 to R334) -/

/-- The entry at an index of a table of inset x, read through the stages above it (R291, R294). -/
def Sys2Proof.Claim.entryIn (s : State) (above : List Inset) (table i : Nat) (e : Nat) : Prop :=
  ∃ u, s.compose above [.r] (table + 8 * i) = .ok u ∧ s.readEntry u.phys = e

/-- A pointer to the next table: valid, no leaf, every other bit outside its address and permissions zero. -/
def Sys2Proof.Claim.pointer (e : Nat) : Prop := e % 4 = 1 ∧ e / 2 ^ 5 % 2 ^ 7 = 0 ∧ e / 2 ^ 48 = 0

/-- A leaf of 64 KiB. -/
def Sys2Proof.Claim.leaf (e : Nat) : Prop := e % 4 = 3 ∧ e / 2 ^ 5 % 2 ^ 11 = 0 ∧ e / 2 ^ 48 = 0

/-- X, W, R of an entry, and the address it holds. -/
def Sys2Proof.Claim.rights (e : Nat) : BitVec 3 := BitVec.ofNat 3 (e / 4)
def Sys2Proof.Claim.held (e : Nat) : Nat := e / 2 ^ 12 % 2 ^ 36 * 2 ^ 12

/-- The three upper entries of a walk stand: they lead from the top table to the last one. -/
def Sys2Proof.Claim.walked (s : State) (above : List Inset) (top va : Nat) (e3 e2 e1 : Nat) : Prop :=
  entryIn s above top (va / 2 ^ 39 % 512) e3 ∧ pointer e3 ∧ entryIn s above (held e3) (va / 2 ^ 30 % 512) e2 ∧ pointer e2 ∧
  entryIn s above (held e2) (va / 2 ^ 21 % 512) e1 ∧ pointer e1

/-- A walk of four levels to a 64 KiB leaf gives the leaf's page and the offset, with the rights that every entry grants; in the stage above,
or for a level-1 inset in its root range, the address goes on, and the smallest page of the chain is kept. An invalid entry is an unmapped
address, the first right the access needs that is missing a permission fault, of the lowest stage that fails (R291, R294, R295). -/
def Sys2Proof.Claim.translation : Prop :=
  ∀ (s : State) x above needs va e3 e2 e1 e0, x.id ≠ 0 → s.ancestors x.id = x :: above → walked s above x.tbase va e3 e2 e1 →
    entryIn s above (held e1) (va / 2 ^ 16 % 32) e0 →
    let p := rights e3 &&& rights e2 &&& rights e1 &&& rights e0
    let a := held e0 + va % 0x10000
    (e0 % 2 = 0 → s.translate x.id needs va = .error { kind := 0x11, sub := 0, stage := x.level, owner := x.id }) ∧
    (leaf e0 → ∀ first n rest, needs = first ++ n :: rest → (∀ m ∈ first, p.getLsbD m.bit = true) → p.getLsbD n.bit = false →
      s.translate x.id needs va = .error { kind := 0x13, sub := n.bit, stage := x.level, owner := x.id }) ∧
    (leaf e0 → (∀ n ∈ needs, p.getLsbD n.bit = true) →
      (x.level ≠ 1 → ∀ u, s.compose above needs a = .ok u →
        s.translate x.id needs va = .ok { u with size := min 0x10000 u.size, perms := p &&& u.perms }) ∧
      (x.level ≠ 1 → ∀ f, s.compose above needs a = .error f → s.translate x.id needs va = .error f) ∧
      (x.level = 1 → above = [] → ∀ r, x.ranges.find? (fun r => decide (r.base ≤ a ∧ a < r.base + r.length)) = some r →
        ((∀ n ∈ needs, r.perms.getLsbD n.bit = true) → packageOf a = none →
          s.translate x.id needs va = .ok { phys := a, size := 0x10000, perms := p &&& r.perms, key := r.key }) ∧
        ∀ first n rest, needs = first ++ n :: rest → (∀ m ∈ first, r.perms.getLsbD m.bit = true) → r.perms.getLsbD n.bit = false →
          s.translate x.id needs va = .error { kind := 0x13, sub := n.bit, stage := 0, owner := 0 }) ∧
      (x.level = 1 → (∀ r ∈ x.ranges, a < r.base ∨ r.base + r.length ≤ a) →
        s.translate x.id needs va = .error { kind := 0x11, sub := 0, stage := 0, owner := 0 }))

/-- The descriptor of a MAPG of one 64 KiB page on a child with its limits met (R332). -/
def Sys2Proof.Claim.mapsOne (c : Ctx) (x : Inset) (d : BitVec 7) : Prop :=
  let w := reg c d.toNat 1
  let va := long c d.toNat 2
  let pa := long c d.toNat 4
  w / 2 ^ 8 = 0 ∧ w / 2 ^ 5 % 2 = 0 ∧ w % 4 = 0 ∧ w / 2 ^ 6 % 4 = 0 ∧ reg c d.toNat 6 = 1 ∧ va % 0x10000 = 0 ∧ pa % 0x10000 = 0 ∧
  va + 0x10000 ≤ 2 ^ 48 ∧ pa + 0x10000 ≤ 2 ^ 48 ∧ long c d.toNat 7 % 0x1000 = 0 ∧ reg c d.toNat 9 = 0 ∧
  ∃ u, c.s.translate x.id [] pa = .ok u ∧ u.perms &&& rights w = rights w ∧ backing u.phys = .hbm

/-- The last table's entry of a page of the child, at its own place, and what it holds. -/
def Sys2Proof.Claim.leafPlace (c : Ctx) (x y : Inset) (va e3 e2 e1 e0 pw : Nat) : Prop :=
  let above := c.s.ancestors x.id
  walked c.s above y.tbase va e3 e2 e1 ∧ entryIn c.s above (held e1) (va / 2 ^ 16 % 32) e0 ∧
  ∃ u, c.s.translate x.id [.w] (held e1 + 8 * (va / 2 ^ 16 % 32)) = .ok u ∧ u.phys = pw

/-- Images of the issuer's children that waited on a fault start again, as every MAPG it completes has it (R313). -/
def Sys2Proof.Claim.retriedUnder (s : State) (x : Nat) (p : State) : State :=
  { p with teams := s.teams.map (fun t : Team =>
      if (s.children x).any (fun z => decide (t.imageFault = some z.id)) then { t with imageFault := none } else t) }

/-- MAPG and UNMAPG write and clear the leaf entries of a child's table, PINV ends what old entries are still used for, PGREQ posts a record
that awaits a reply; where a check fails the lowest code is answered and nothing changes. -/
def Sys2Proof.Claim.mapping : Prop :=
  (∀ s c (d : BitVec 7) x y, sysIssues s c x d 10 → c.s.child? x.id (reg c d.toNat 0 % 2 ^ 12) = some y → y.parent = x.id → x.id ≠ 0 → mapsOne c x d → c.s.ops = [] →
    let va := long c d.toNat 2
    (∀ e3 e2 e1 e0 pw, leafPlace c x y va e3 e2 e1 e0 pw →
      (e0 % 2 = 0 → (∀ m : Memory, onlyWithin m c.s.mem pw 8 →
          ({ c.s with mem := m } : State).translate x.id [] (long c d.toNat 4) = c.s.translate x.id [] (long c d.toNat 4)) → ∃ (t : State) (m : Memory), exec (.mapg d) s = .next t ∧ replied c (retriedUnder c.s x.id ({ c.base false with mem := m } : State).learnTables) d 0 0 t ∧
        (m.dword pw).toNat = long c d.toNat 4 + reg c d.toNat 1 / 4 % 8 * 4 + 3 ∧ onlyWithin m c.s.mem pw 8) ∧
      (e0 % 4 = 3 → c.s.pinned y.id va 0x10000 = true → ∃ t, exec (.mapg d) s = .next t ∧ replied c (retriedUnder c.s x.id (c.base false)) d 6 0 t) ∧
      (e0 % 4 = 1 → ∃ t, exec (.mapg d) s = .next t ∧ replied c (retriedUnder c.s x.id (c.base false)) d 2 0 t)) ∧
    (∀ e, entryIn c.s (c.s.ancestors x.id) y.tbase (va / 2 ^ 39 % 512) e → e % 2 = 0 →
      ∃ t, exec (.mapg d) s = .next t ∧ replied c (retriedUnder c.s x.id (c.base false)) d 5 0 t)) ∧
  (∀ s c (d : BitVec 7) x y e3 e2 e1 e0 pw, sysIssues s c x d 5 → c.s.child? x.id (reg c d.toNat 0 % 2 ^ 12) = some y → y.parent = x.id → x.id ≠ 0 →
    reg c d.toNat 1 / 2 ^ 6 % 4 = 0 → reg c d.toNat 4 = 1 → long c d.toNat 2 % 0x10000 = 0 → long c d.toNat 2 + 0x10000 ≤ 2 ^ 48 →
    let va := long c d.toNat 2
    leafPlace c x y va e3 e2 e1 e0 pw →
    (leaf e0 → c.s.pinned y.id va 0x10000 = false → ∃ (t : State) (m : Memory), exec (.unmapg d) s = .next t ∧
      settles (formStands c { c.base false with
        mem := m
        projections := let q : Projection := { inset := y.id, base := va, size := 0x10000, entry := pw, span := 1, value := e0 }
          if c.s.projections.contains q then c.s.projections else c.s.projections ++ [q] }
        (.form 14 y.id [BitVec.ofNat 32 va, BitVec.ofNat 32 (va / 2 ^ 32), 0x10000, 0, 0] d.toNat) []) c.g.gid noWrites noUni t ∧
      m.dword pw = 0 ∧ onlyWithin m c.s.mem pw 8) ∧
    (e0 % 2 = 0 → ∃ t, exec (.unmapg d) s = .next t ∧ replied c (c.base false) d 2 0 t) ∧
    (leaf e0 → c.s.pinned y.id va 0x10000 = true → ∃ t, exec (.unmapg d) s = .next t ∧ replied c (c.base false) d 6 0 t)) ∧
  (∀ s c (d : BitVec 7) x y, sysIssues s c x d 5 → c.s.child? x.id (reg c d.toNat 0 % 2 ^ 12) = some y → long c d.toNat 3 ≠ 0 →
    ∃ t, exec (.pinv d) s = .next t ∧ settles (formStands c (c.base false) (.form 15 y.id
      [c.readS (d.toNat - 104 + 1), c.readS (d.toNat - 104 + 2), c.readS (d.toNat - 104 + 3), c.readS (d.toNat - 104 + 4), 0] d.toNat) [])
      c.g.gid noWrites noUni t) ∧
  (∀ s c (d : BitVec 7) x n i, (i = .mapg d ∧ n = 10 ∨ i = .unmapg d ∧ n = 5 ∨ i = .pinv d ∧ n = 5) → sysIssues s c x d n →
    c.s.child? x.id (reg c d.toNat 0 % 2 ^ 12) = none → (n = 10 → mapsOne c x d) → (i = .pinv d → long c d.toNat 3 ≠ 0) →
    ∃ t, exec i s = .next t ∧ replied c (c.base false) d 1 0 t) ∧
  (∀ (s : State) op o n child ws dst x y g, s.op? op = some o → (s.ops.map (·.id)).Nodup → s.group? o.gid = some g → g.exited = false →
    s.insetOf g = some x → s.child? x.id child = some y → y.id = child → o.arrived = true → o.wait = .form n child ws dst → 104 ≤ dst → dst < 120 → o.overtaken = [] →
    (n = 14 ∨ n = 15) → let a := (ws.getD 0 0).toNat + 2 ^ 32 * (ws.getD 1 0).toNat
    let len := (ws.getD 2 0).toNat + 2 ^ 32 * (ws.getD 3 0).toNat
    (s.oldAccess y a len = true → exec (.longOpComplete op) s = .next s) ∧
    (s.oldAccess y a len = false → ∃ t h, exec (.longOpComplete op) s = .next t ∧
      t = { s with ops := s.ops.filter (fun p => decide (p.id ≠ op)), groups := t.groups,
                   projections := s.projections.filter (fun p => !decide (p.inset = child ∧ p.base < a + len ∧ a < p.base + p.size)) } ∧
      t.group? o.gid = some h ∧ (∀ id, id ≠ o.gid → t.group? id = s.group? id) ∧
      uniOf h (dst - 104) = (if n = 14 then BitVec.ofNat 32 ((ws.getD 4 0).toNat * 2 ^ 24) else 0) ∧ h.flags = g.flags.modify o.flag (· - 1))) ∧
  (∀ s c (d : BitVec 7) (w : BitVec 1) x, issues s false c → flagFree c (longFlag c) → c.s.insetOf c.g = some x → fits [useDesc d.toNat 2] →
    c.s.bufferFull = false →
    ∃ (t : State) (r : Record), exec (.pgreq d w) s = .next t ∧ r.kind = 0x33 ∧ r.sub = w.toNat ∧ r.addr = long c d.toNat 0 ∧ r.src = x.id ∧ r.ack = true ∧
      r.gid = none ∧ r.op = some c.s.fresh ∧ r.group = c.g.index ∧
      settles (inFlight c { c.base false with records := c.s.records ++ [r] } (longFlag c) false [] (.pageRequest d.toNat) []) c.g.gid noWrites noUni t)

/-- Translation tables: what a walk gives, and what the MAP forms do to them. -/
def Obligations.TranslationAndMapping : Prop := translation ∧ mapping

/-! ## Residency and shares (R26 to R28, R290, R310 to R314, R366, R367) -/

/-- What a team is offered as it is asked to leave: code, latency and cost (R310). -/
def Sys2Proof.Claim.offered (s : State) (x : Inset) (tm : Team) (l : Launch) (code lat cost : Nat) : Prop :=
  let e := s.cycle - tm.since
  let size := s.imageBytes x tm
  (code = 0 ∧ l.cycles ≠ 0 ∧ lat = l.cycles - e ∧ cost = lat) ∨
  (code = 1 ∧ (x.room size).isSome = true ∧ lat = (size + 255) / 256 + 1880 ∧ cost = lat) ∨
  (code = 2 ∧ l.restart = true ∧ lat = 64 ∧ cost = e)

/-- The choice is the cheapest of those that some condition allows, in the order drain, save, flush. -/
def Sys2Proof.Claim.cheapestOf (s : State) (x : Inset) (tm : Team) (l : Launch) (may : Nat → Prop) (code lat : Nat) : Prop :=
  ∃ cost, offered s x tm l code lat cost ∧ may lat ∧
    ∀ c n k, offered s x tm l c n k → may n → cost < k ∨ (cost = k ∧ code ≤ c)

/-- The team after its choice: it drains until its latency has passed, is saved, or is flushed (R311). -/
def Sys2Proof.Claim.left (s t : State) (team : Nat) (code lat : Nat) : Prop :=
  ∃ tm', t.team? team = some tm' ∧
    (code = 0 → tm'.residency = .draining (some (s.cycle + lat))) ∧ (code = 1 → tm'.residency = .saving) ∧ (code = 2 → tm'.residency = .flushing)

/-- Teams leave by the cheapest choice within the bound, are saved whole and come back as their image says; a record of a missed bound waits for
room in the event buffer (R301); accounts and link buckets are
refilled at each boundary by the shares of the tree. -/
def Obligations.Residency : Prop :=
  (∀ (s : State) team tm d x bound reason, s.team? team = some tm → s.teamGrid tm = some d → s.inset? (s.teamInset tm) = some x → tm.runs = true →
    let t := State.leaveTeam (some bound) reason s team
    (∀ code lat, cheapestOf s x tm d.launch (· ≤ bound) code lat → left s t team code lat ∧ t.records = s.records) ∧
    (∀ code lat, (∀ c n k, offered s x tm d.launch c n k → bound < n) → cheapestOf s x tm d.launch (fun _ => True) code lat → s.bufferFull = true →
      left s t team code lat ∧ t.records = s.records ∧ ∃ tm', t.team? team = some tm' ∧ tm'.missed = some (code, lat)) ∧
    (∀ code lat, (∀ c n k, offered s x tm d.launch c n k → bound < n) → cheapestOf s x tm d.launch (fun _ => True) code lat → s.bufferFull = false →
      left s t team code lat ∧ ∃ r, t.records = s.records ++ [r] ∧ told r x.id 0x32 0 (BitVec.ofNat 32 code) lat) ∧
    ((∀ c n k, ¬ offered s x tm d.launch c n k) → s.bufferFull = false →
      (∃ tm', t.team? team = some tm' ∧ tm'.residency = .draining none) ∧
      ∃ r, t.records = s.records ++ [r] ∧ told r x.id 0x32 0 3 0xFFFFFFFFFFFFFFFF)) ∧
  (∀ (s : State) team tm x d, s.team? team = some tm → s.inset? (s.teamInset tm) = some x → tm.residency = .draining (some d) →
    (s.teams.map (·.tid)).Nodup →
    (∀ o, x.room (s.imageBytes x tm) = some o → ∃ t, exec (.drainLatencyExpiry team) s = .next t ∧
      t = { s with
        cycle := max s.cycle d
        groups := t.groups
        pendingWrites := t.pendingWrites
        insets := s.insets.map (fun z : Inset => if z.id = x.id then { z with images := z.images ++ [(o, s.imageBytes x tm)] } else z)
        teams := s.teams.map (fun u : Team => if u.tid = team then { u with
          residency := .saving, image := o, imageSize := s.imageBytes x tm, imageFault := none, refused := false, acks := [] } else u) }) ∧
    (x.room (s.imageBytes x tm) = none → exec (.drainLatencyExpiry team) s = .next { s with
      cycle := max s.cycle d
      teams := s.teams.map (fun u : Team => if u.tid = team then { u with residency := .overdue } else u) })) ∧
  (∀ (s : State) team tm x code lat, s.team? team = some tm → s.inset? (s.teamInset tm) = some x → tm.missed = some (code, lat) → tm.tid = team →
    (∀ d ∈ s.grids, d.completed = false) →
    (s.bufferFull = true → exec (.requestBoundPassed team) s = .next s) ∧
    (s.bufferFull = false → ∃ r, told r x.id 0x32 0 (BitVec.ofNat 32 code) lat ∧ exec (.requestBoundPassed team) s = .next { s with
      records := s.records ++ [r]
      teams := s.teams.map (fun u : Team => if u.tid = team then { u with missed := none } else u) })) ∧
  (∀ (s : State) team tm x b f, s.team? team = some tm → s.inset? (s.teamInset tm) = some x → tm.missed = none → tm.bound = some b → tm.imageFault = some f →
    tm.residency = .saving → s.bufferFull = false →
    ∃ r, told r x.id 0x32 0 1 ((tm.imageSize + 255) / 256 + 1880) ∧ exec (.requestBoundPassed team) s = .next { s with
      cycle := max s.cycle b
      records := s.records ++ [r]
      teams := s.teams.map (fun u : Team => if u.tid = team then { u with bound := none } else u) }) ∧
  (∀ (s : State) team tm x g p, s.team? team = some tm → s.inset? (s.teamInset tm) = some x → tm.residency = .saving → tm.imageFault = none →
    s.confidential = false → s.bufferFull = false → s.ops = [] → s.anchorTurn tm = true → s.teamGroups team = [g] → g.freed = false →
    s.group? g.gid = some g → (∀ h ∈ s.groups, h.gid = g.gid → h = g) →
    g.recv = List.replicate 4 [] → g.atomics = [] → tm.tol = [] → (∀ i < 4, (tm.port i).entries = []) → g.lanes.length = 32 →
    (∀ z ∈ g.lanes, z.pend = []) → (s.teams.map (·.tid)).Nodup → tm.tid = team →
    s.spaceDown x.parent .w (x.saveBase + tm.image) tm.imageSize = false →
    let n := 8768 + 128 * g.quota + 4096 * g.tileQuota
    s.checkSpan x.parent .w (x.saveBase + tm.image) n = ([(p, n)], none) →
    ∃ t tm', exec (.teamSave team) s = .next t ∧ t.team? team = some tm' ∧ tm'.residency = .saved ∧ tm'.imageSize = n ∧
      (∃ k, tm'.kept = [k] ∧ k.gid = g.gid ∧ k.lanes = g.lanes ∧ k.clause = g.clause) ∧
      t.groups = s.groups.filter (fun h => decide (h.gid ≠ g.gid)) ∧ (∀ id, id ≠ team → t.team? id = s.team? id) ∧ onlyWithin t.mem s.mem p n ∧
      let bs := t.mem.pieceBytes [(p, n)]
      dword bs 0 = n % 2 ^ 64 ∧ field bs 8 0 32 = 1 ∧ field bs 20 0 32 = tm.index % 2 ^ 32 ∧
      (∀ r < 16, field bs (3136 + 128 + 4 * r) 0 32 = (uniOf g r).toNat) ∧
      ∀ (l : Nat) (z : Lane), g.lanes[l]? = some z → ∀ r < g.quota, field bs (3136 + 5632 + 128 * r + 4 * l) 0 32 = (z.reg r).toNat) ∧
  (∀ (s : State) team tm x, s.team? team = some tm → s.inset? (s.teamInset tm) = some x → tm.residency = .flushing → s.quiet team = true →
    s.bufferFull = false → (∀ z ∈ s.insets, z.armed ≠ some team) → tm.tid = team → (s.teams.map (·.tid)).Nodup →
    ∃ t tm', exec (.teamSave team) s = .next t ∧ t.team? team = some tm' ∧ tm'.residency = .flushed ∧ tm'.tol = [] ∧ tm'.phase = 0 ∧ tm'.arrived = [] ∧
      (∀ i < 4, (tm'.port i).entries = []) ∧ t.teamGroups team = [] ∧ t.mem = s.mem ∧
      ∀ id, id ≠ team → t.team? id = s.team? id) ∧
  (∀ (s : State) team tm x d cl bs ax ay, s.team? team = some tm → tm.tid = team → s.teamGrid tm = some d → s.cluster? tm.cluster = some cl →
    s.inset? (s.teamInset tm) = some x →
    x.id = s.teamInset tm → d.launch.coop = false → s.clusterTeams tm.cluster = [tm] → tm.index = 0 → d.launch.width = 1 → d.launch.height = 1 →
    s.running x.id = true → s.bufferFull = false → tm.refused = false → tm.imageFault = none → tm.acks = [] → tm.residency = .saved →
    s.readImage x tm d.launch = .ok bs → field bs 8 0 32 = 1 → field bs (3136 + 12) 0 32 = 0 → s.ops = [] → s.teamGroups team = [] →
    (∀ h ∈ s.groups, h.gid ≤ team ∨ team + 32 < h.gid) →
    (∀ h ∈ tm.kept, ∀ z ∈ h.lanes, z.pend = []) →
    (s.anchors d x.cores [some (teamNeed d.launch (some bs))]).head? = some (16 * ay + ax) → ax < 16 → ay < 16 →
    ∃ t tm' g, exec (.teamRestore team) s = .next t ∧ t.team? team = some tm' ∧ tm'.residency = .resident ∧ tm'.core = 16 * ay + ax ∧
      t.teamGroups team = [g] ∧ g.quota = field bs 3136 0 32 ∧ (∀ r < 16, uniOf g r = BitVec.ofNat 32 (field bs (3136 + 128 + 4 * r) 0 32)) ∧
      (∀ (l : Nat) (z : Lane), g.lanes[l]? = some z → z.header = dword bs (3136 + 384 + 8 * l) % 2 ^ 48 ∧
        z.index = dword bs (3136 + 384 + 8 * l) / 2 ^ 48 ∧ ∀ r < g.quota, regOf z r = BitVec.ofNat 32 (field bs (3136 + 5632 + 128 * r + 4 * l) 0 32)) ∧
      ∀ id, id ≠ team → t.team? id = s.team? id) ∧
  (∀ (s : State), s.power.pstate = 0 → (∀ u ∈ s.teams, u.seated = false) → (s.insets.map (·.id)).Nodup →
    (∀ z ∈ s.insets, z.id ≠ 0 ∧ z.buckets = []) → s.torus = [] →
    ∃ t, exec .refillBoundary s = .next t ∧ t = { s with refill := s.refill + 1024, cycle := max s.cycle (s.refill + 1024), insets := t.insets } ∧
      t.insets.length = s.insets.length ∧
      ∀ (i : Nat) (y z : Inset), s.insets[i]? = some y → t.insets[i]? = some z →
        z = { y with e := z.e, l := z.l, ownE := z.ownE, ownL := z.ownL, balance := z.balance } ∧
        (y.parent = 0 → z.e = 2 ^ 32 * y.cw / ((s.insets.filter (fun w => decide (w.parent = 0))).map (·.cw)).sum ∧
          z.l = 2 ^ 32 * y.lw / ((s.insets.filter (fun w => decide (w.parent = 0))).map (·.lw)).sum) ∧
        (∀ p q, s.inset? y.parent = some p → t.inset? y.parent = some q → p.parent = 0 →
          z.e = q.e * y.cw / (p.ownCw + ((s.insets.filter (fun w => decide (w.parent = y.parent))).map (·.cw)).sum)) ∧
        z.ownE = z.e * y.ownCw / (y.ownCw + ((s.insets.filter (fun w => decide (w.parent = y.id))).map (·.cw)).sum) ∧
        let g : Int := (z.ownE / 16384 : Nat)
        let gain : Int := if y.slowed then (z.ownE / 16384 / 4 : Nat) else g
        z.balance ≤ 2 * g ∧ min (2 * g) (y.balance + gain) ≤ z.balance ∧
        (s.unplaced y.id = false → z.balance = min (2 * g) (y.balance + gain))) ∧
  (∀ (s : State) (core : BitVec 8) inset bytes x, s.inset? inset = some x → x.id = inset →
    let level : Int := (findKey x.buckets core.toNat).getD 0
    ((0 < level ∧ ∀ q ∈ s.torus, q.1 ≠ core.toNat ∨ q.2.1 ≠ inset) →
      ∃ t z, exec (.torusPacketSend core inset bytes) s = .next t ∧ t = { s with insets := t.insets } ∧ t.inset? inset = some z ∧
        findKey z.buckets core.toNat = some (level - bytes) ∧ (∀ k, k ≠ core.toNat → findKey z.buckets k = findKey x.buckets k) ∧
        ∀ id, id ≠ inset → t.inset? id = s.inset? id) ∧
    ((level ≤ 0 ∨ ∃ q ∈ s.torus, q.1 = core.toNat ∧ q.2.1 = inset) →
      ∃ t, exec (.torusPacketSend core inset bytes) s = .next t ∧ t = { s with torus := s.torus ++ [(core.toNat, inset, bytes)], insets := t.insets } ∧
        ∀ id, id ≠ inset → t.inset? id = s.inset? id))

/-! ## Records, the host interface and the mailbox (R299 to R301, R338 to R347) -/

/-- The eight words of a record (R338). -/
def Sys2Proof.Claim.recordWords (r : Record) (seq : Nat) (ws : List Word) : Prop :=
  ws = [BitVec.ofNat 8 r.kind ++ BitVec.ofBool r.ack ++ 0#3 ++ BitVec.ofNat 4 r.sub ++ 0#1 ++ BitVec.ofNat 3 r.level ++ BitVec.ofNat 12 r.src,
    BitVec.ofNat 32 seq, 0#5 ++ BitVec.ofNat 3 r.stage ++ BitVec.ofNat 24 r.grid,
    BitVec.ofNat 20 r.cluster ++ BitVec.ofNat 4 r.team ++ BitVec.ofNat 5 r.group ++ BitVec.ofNat 3 r.index,
    r.evtag, r.info, BitVec.ofNat 32 r.addr, BitVec.ofNat 32 (r.addr / 2 ^ 32)]

/-- The control window after a change of it alone. -/
def Sys2Proof.Claim.window (s : State) (f : Control → Control) : State := { s with ctl := f s.ctl }

/-- A record goes to the armed team of the parent of its inset, numbered, and stays outstanding where it awaits HQACK; with no team armed it
becomes "unhandled in child" one level up and its inset freezes; a record for the root goes to the host's ring. -/
def Sys2Proof.Claim.delivery : Prop :=
  (∀ (s : State) r x p tm team before after, s.records = before ++ r :: after → (∀ q ∈ before, s.receiverOf q = 0) → s.inset? r.route = some x → r.dest = none → s.inset? x.parent = some p → p.id = x.parent → p.id ≠ 0 →
    p.armed = some team → s.team? team = some tm → tm.hasRoom 2 8 = true → r.seq = none →
    ∃ t ws, exec .recordDelivery s = .next t ∧ recordWords r p.nextSeq ws ∧ t = { s with
      records := before ++ after
      insets := s.insets.map (fun z : Inset => if z.id = p.id then { z with nextSeq := (p.nextSeq + 1) % 2 ^ 32 } else z)
      teams := s.teams.map (fun u : Team => if u.tid = team then u.setPort 2 { u.port 2 with entries := (u.port 2).entries ++ [ws] } else u)
      outstanding := if r.awaits then s.outstanding ++ [{ inset := p.id, seq := p.nextSeq, record := r }] else s.outstanding }) ∧
  (∀ (s : State) r x p before after, s.records = before ++ r :: after → (∀ q ∈ before, s.receiverOf q = 0) → s.inset? r.route = some x → r.dest = none → s.inset? x.parent = some p → p.id = x.parent → p.id ≠ 0 →
    p.armed = none → r.kind ≠ 0x34 → r.kind < 2 ^ 8 → (s.insets.map (·.id)).Nodup → p.id < 2 ^ 12 → (∀ u ∈ s.teams, u.runs = true → s.under r.route (s.teamInset u) = false) →
    ∃ t q, exec .recordDelivery s = .next t ∧ t = { s with
        records := before ++ q :: after
        insets := s.insets.map (fun z : Inset => if z.id = r.route then { z with frozen := true } else z) } ∧
      q = { r with kind := 0x34, sub := 0, info := BitVec.ofNat 8 r.kind ++ 0#4 ++ BitVec.ofNat 4 r.sub ++ 0#4 ++ BitVec.ofNat 12 p.id,
                   route := p.id, dest := none, seq := none }) ∧
  (∀ (s : State) r x before after, s.records = before ++ r :: after → (∀ q ∈ before, s.receiverOf q ≠ 0) → r ∉ before → s.inset? r.route = some x → x.parent = 0 →
    r.dest = none → r.seq = none → s.fabric.linkUp = true →
    ((s.ctl.evbase ≠ 0 ∧ idxDiff s.ctl.evwrite s.ctl.evread ≠ 2 ^ s.ctl.evlog) →
      let at_ := 0x800000000000 + s.ctl.evbase.toNat + 32 * (s.ctl.evwrite % 2 ^ s.ctl.evlog)
      ∃ t ws m, exec .hostEventRingWrite s = .next t ∧ recordWords r s.ctl.evwrite ws ∧ t = { window s (fun c =>
          { c with evwrite := (c.evwrite + 1) % 2 ^ 32, vectors := c.vectors ++ [0] }) with mem := m, records := before ++ after } ∧
        m.pieceBytes [(at_, 32)] = ws.flatMap (fun w => natBytes 4 w.toNat) ∧ onlyWithin m s.mem at_ 32) ∧
    ((s.ctl.evbase = 0 ∨ idxDiff s.ctl.evwrite s.ctl.evread = 2 ^ s.ctl.evlog) → exec .hostEventRingWrite s = .next s))

/-- A vault of a package in confidential mode, which the host neither reads nor writes (R377). -/
def Sys2Proof.Claim.hidden (s : State) (a : Nat) : Bool := s.confidential && (match backing a with
  | .vault _ => true
  | _ => false)

/-- A byte as the host reads it through its window: HBM as it is stored, enciphered or not (R341, R377). -/
def Sys2Proof.Claim.hostSees (s : State) (a : Nat) : Byte :=
  if hidden s a then 0 else if backing a = .hbm then s.mem.stored a else s.mem.byte a

/-- The offsets that the map of the control window lists, by words (R343). -/
def Sys2Proof.Claim.listed (off : Nat) : Bool :=
  decide (off ∈ [0, 8, 0x10, 0x14, 0x18, 0x100, 0x104, 0x108, 0x10C, 0x110, 0x118, 0x120, 0x124] ∨ (0x20 ≤ off ∧ off < 0x60))

/-- What a read of each word of the control window returns; an offset that its map does not list reads as zero (R341, R343, R348). -/
def Sys2Proof.Claim.windowReads : Prop :=
  ∀ s : State,
    (let w := s.controlWord 0
     w.extractLsb' 28 4 = (match s.ctl.boot with
       | .rom => 0#4
       | .waitimg => 1#4
       | .verify => 2#4
       | .run => 3#4
       | .bootfail => 15#4) ∧ w.extractLsb' 16 12 = 0 ∧ w.extractLsb' 0 16 = BitVec.ofNat 16 s.ctl.bfail) ∧
    s.controlWord 8 = s.ctl.straps ∧ s.controlWord 0x10 = 0#16 ++ s.ctl.cmd ∧
    s.controlWord 0x14 = BitVec.ofBool s.ctl.busy ++ BitVec.ofBool s.ctl.overrun ++ 0#22 ++ s.ctl.mstatus ∧
    s.controlWord 0x18 = 0#8 ++ s.ctl.mresult ∧
    (∀ i < 8, s.controlWord (0x24 + 8 * i) ++ s.controlWord (0x20 + 8 * i) = s.ctl.args.getD i 0) ∧
    s.controlWord 0x104 ++ s.controlWord 0x100 = s.ctl.evbase ∧ s.controlWord 0x108 = BitVec.ofNat 32 s.ctl.evlog ∧
    s.controlWord 0x10C = BitVec.ofNat 32 s.ctl.evwrite ∧ s.controlWord 0x110 = BitVec.ofNat 32 s.ctl.evread ∧
    s.controlWord 0x118 = BitVec.ofNat 32 s.ctl.dberr ∧ s.controlWord 0x124 ++ s.controlWord 0x120 = s.ctl.dmbase ∧
    ∀ off, listed off = false → s.controlWord off = 0

/-- Each register of the control window takes what R343 lets the host write; the ring's registers as R347 says; a GO starts a command or, while
one runs, only sets OVERRUN; while the link is down nothing arrives. The device-memory window reads and writes device physical memory. -/
def Sys2Proof.Claim.hostWindow : Prop :=
  (∀ (s : State) (v : BitVec 64), s.fabric.linkUp = true →
    (s.ctl.busy = false → v.getLsbD 31 = true → exec (.controlRegisterWrite 0x010 v) s = .next (window (woken s) (fun c => { c with
      busy := true, cmd := v.setWidth 16, command := some (v.setWidth 16).toNat, begun := false, outcome := none, taken := c.args, waits := [] }))) ∧
    (s.ctl.busy = true → v.getLsbD 31 = true → exec (.controlRegisterWrite 0x010 v) s = .next (window s (fun c => { c with overrun := true })) ∧
      exec .mailboxOverrun s = .next (window s (fun c => { c with overrun := true }))) ∧
    (v.getLsbD 31 = false → exec (.controlRegisterWrite 0x010 v) s = .next (window s (fun c => { c with cmd := v.setWidth 16 }))) ∧
    (v.getLsbD 30 = true → exec (.controlRegisterWrite 0x014 v) s = .next (window s (fun c => { c with overrun := false }))) ∧
    (∀ i < 8, exec (.controlRegisterWrite (0x020 + 8 * i) v) s = .next (window s (fun c => { c with args := c.args.set i v }))) ∧
    (∀ i ∈ [Instr.controlRegisterWrite 0x100 v, .eventRingConfigWrite false v],
      (s.ctl.evwrite = s.ctl.evread → v.toNat % 0x1000 = 0 → exec i s = .next (window s (fun c => { c with evbase := v }))) ∧
      (s.ctl.evwrite ≠ s.ctl.evread → exec i s = .next s)) ∧
    (∀ i ∈ [Instr.controlRegisterWrite 0x108 v, .eventRingConfigWrite true v],
      (s.ctl.evwrite = s.ctl.evread → 6 ≤ v.toNat % 32 → v.toNat % 32 ≤ 16 → exec i s = .next (window s (fun c => { c with evlog := v.toNat % 32 }))) ∧
      ((s.ctl.evwrite ≠ s.ctl.evread ∨ v.toNat % 32 < 6 ∨ 16 < v.toNat % 32) → exec i s = .next s)) ∧
    (∀ w : BitVec 32, ∀ i ∈ [Instr.controlRegisterWrite 0x110 (w.setWidth 64), .evreadWrite w],
      (idxDiff s.ctl.evwrite w.toNat < 2 ^ 31 → exec i s = .next (window s (fun c => { c with evread := w.toNat }))) ∧
      (2 ^ 31 ≤ idxDiff s.ctl.evwrite w.toNat → exec i s = .next s)) ∧
    exec (.controlRegisterWrite 0x120 v) s = .next (window s (fun c => { c with dmbase := v >>> 36 <<< 36 }))) ∧
  (∀ (s : State) off (v : BitVec 64) (w : BitVec 32) log, s.fabric.linkUp = false →
    ∀ i ∈ [Instr.controlRegisterWrite off v, .evreadWrite w, .eventRingConfigWrite log v, .hostEventRingWrite, .mailboxOverrun], exec i s = .next s) ∧
  (∀ (s : State) off (bs : List Byte), s.ctl.boot = .run → s.fabric.linkUp = true → off + bs.length ≤ 2 ^ 36 →
    let at_ := s.ctl.dmbase.toNat + off
    (∀ i < bs.length, backing (at_ + i) ≠ .none) →
    (∀ i < bs.length, backing (at_ + i) = .hbm → at_ + i < 0x5FFFFF0000) →
    exec (.hostMemoryAccess false off bs) s = .next (window s (fun c => { c with window := (List.range bs.length).map (fun i => hostSees s (at_ + i)) })) ∧
    (s.ops = [] → ∃ m, exec (.hostMemoryAccess true off bs) s = .next ({ s with mem := m } : State).learnTables ∧
      (∀ b, m.stored b = if at_ ≤ b ∧ b < at_ + bs.length ∧ hidden s b = false then bs.getD (b - at_) 0 else s.mem.stored b) ∧
      m.veils = s.mem.veils ∧ ∀ w, m.full w = s.mem.full w)) ∧
  (∀ (s : State) write off (bs : List Byte) i, s.ctl.boot = .run → s.fabric.linkUp = true → off + bs.length ≤ 2 ^ 36 → i < bs.length →
    backing (s.ctl.dmbase.toNat + off + i) = .none → (∀ j < i, backing (s.ctl.dmbase.toNat + off + j) ≠ .none) →
    exec (.hostMemoryAccess write off bs) s = .fault (.noSuchAddress (s.ctl.dmbase.toNat + off + i)))

/-- Records reach handlers and the host, and the host's windows. -/
def Obligations.RecordsAndHost : Prop := delivery ∧ hostWindow ∧ windowReads

/-- RECORD_DELIVERY, HOST_EVENT_RING_WRITE, CONTROL_REGISTER_WRITE, MAILBOX_OVERRUN, EVREAD_WRITE, EVENT_RING_CONFIG_WRITE and
HOST_MEMORY_ACCESS each complete: a record that its receiver's team has room for enters the port, the oldest record for the host enters its
ring, and the host's accesses take the effect that R341, R343 and R347 give them, or none where the link is down (R299, R300, R340). -/
def Obligations.HostFormsComplete : Prop :=
  (∀ (s : State) r p tm before after n, s.records = before ++ r :: after → (∀ q ∈ before, s.receiverOf q = 0) → s.receiverOf r = p.id → p.id ≠ 0 →
    s.inset? p.id = some p → p.armed = some tm.tid → s.team? tm.tid = some tm → tm.hasRoom 2 8 = true →
    (r.seq = some (p.id, n) ∨ ((∀ m, r.seq ≠ some (p.id, m)) ∧ n = p.nextSeq)) →
    ∃ t ws tm', exec .recordDelivery s = .next t ∧ recordWords r n ws ∧ t.records = before ++ after ∧ t.team? tm.tid = some tm' ∧
      (tm'.port 2).entries = (tm.port 2).entries ++ [ws] ∧ t.mem = s.mem ∧ t.groups = s.groups ∧
      t.outstanding = if r.awaits then s.outstanding ++ [{ inset := p.id, seq := n, record := r }] else s.outstanding) ∧
  (∀ (s : State) r before after n, s.records = before ++ r :: after → (∀ q ∈ before, s.receiverOf q ≠ 0) → r ∉ before → s.receiverOf r = 0 →
    s.fabric.linkUp = true → s.ctl.evbase ≠ 0 → idxDiff s.ctl.evwrite s.ctl.evread ≠ 2 ^ s.ctl.evlog →
    (r.seq = some (0, n) ∨ ((∀ m, r.seq ≠ some (0, m)) ∧ n = s.ctl.evwrite)) →
    let at_ := 0x800000000000 + s.ctl.evbase.toNat + 32 * (s.ctl.evwrite % 2 ^ s.ctl.evlog)
    ∃ t ws, exec .hostEventRingWrite s = .next t ∧ recordWords r n ws ∧ t.records = before ++ after ∧
      t.mem.pieceBytes [(at_, 32)] = ws.flatMap (fun w => natBytes 4 w.toNat) ∧ onlyWithin t.mem s.mem at_ 32 ∧
      t.ctl = { s.ctl with evwrite := (s.ctl.evwrite + 1) % 2 ^ 32, vectors := s.ctl.vectors ++ [0] } ∧ t.groups = s.groups) ∧
  (∀ (s : State) off (v : BitVec 64), ∃ t, exec (.controlRegisterWrite off v) s = .next t ∧ t = { s with ctl := t.ctl, power := t.power } ∧
    (s.fabric.linkUp = true → ∀ i < 8, off = 0x20 + 8 * i → t.ctl = { s.ctl with args := s.ctl.args.set i v }) ∧
    (s.fabric.linkUp = false ∨ off ∉ [0x10, 0x14, 0x20, 0x28, 0x30, 0x38, 0x40, 0x48, 0x50, 0x58, 0x100, 0x108, 0x110, 0x118, 0x120] → t = s)) ∧
  (∀ s : State, exec .mailboxOverrun s = .next (if s.ctl.busy = true ∧ s.fabric.linkUp = true then window s (fun c => { c with overrun := true }) else s)) ∧
  (∀ (s : State) (v : BitVec 32), exec (.evreadWrite v) s = .next (if s.fabric.linkUp = true ∧ idxDiff s.ctl.evwrite v.toNat < 2 ^ 31 then
    window s (fun c => { c with evread := v.toNat }) else s)) ∧
  (∀ (s : State) (v : BitVec 64),
    exec (.eventRingConfigWrite false v) s = .next (if s.fabric.linkUp = true ∧ s.ctl.evwrite = s.ctl.evread ∧ v.toNat % 0x1000 = 0 then
      window s (fun c => { c with evbase := v }) else s) ∧
    exec (.eventRingConfigWrite true v) s = .next (if s.fabric.linkUp = true ∧ s.ctl.evwrite = s.ctl.evread ∧ 6 ≤ v.toNat % 32 ∧ v.toNat % 32 ≤ 16 then
      window s (fun c => { c with evlog := v.toNat % 32 }) else s)) ∧
  (∀ (s : State) write off (bs : List Byte), (∀ i < bs.length, backing (s.ctl.dmbase.toNat + off + i) ≠ .none) →
    ∃ t, exec (.hostMemoryAccess write off bs) s = .next t ∧
      (write = false → t = { s with ctl := t.ctl } ∧ t.ctl = { s.ctl with window := t.ctl.window }) ∧
      (write = true → s.ops = [] → t = { s with mem := t.mem, insets := t.insets, power := t.power } ∧
        ∀ b, b < s.ctl.dmbase.toNat + off ∨ s.ctl.dmbase.toNat + off + bs.length ≤ b → t.mem.byte b = s.mem.byte b))

/-- A mailbox command that has been taken, in state RUN, and has not begun (or has). -/
def Sys2Proof.Claim.taken (s : State) (code : Nat) (begun : Bool) : Prop :=
  s.ctl.command = some code ∧ s.ctl.outcome = none ∧ s.fabric.linkUp = true ∧ s.ctl.boot = .run ∧ s.ctl.begun = begun

/-- Argument i of the command, as it stood at GO. -/
def Sys2Proof.Claim.argument (s : State) (i : Nat) : Nat := (s.ctl.taken.getD i 0).toNat

/-- The command has its status and result, or waits on. -/
def Sys2Proof.Claim.finished (s : State) (code result : Nat) : State := window s (fun c => { c with begun := true, outcome := some (code, result) })
def Sys2Proof.Claim.pending (s : State) (ws : List Nat) : State := window s (fun c => { c with begun := true, waits := ws })

/-- The level-1 inset that a command names. -/
def Sys2Proof.Claim.rootChild (s : State) (x : Inset) : Prop :=
  s.inset? (argument s 0 % 2 ^ 12) = some x ∧ x.parent = 0 ∧ x.id = argument s 0 % 2 ^ 12

/-- A block in host memory. -/
def Sys2Proof.Claim.hostBlockAt (s : State) (a n : Nat) (bs : List Byte) : Prop :=
  0x800000000000 + a + n ≤ 2 ^ 48 ∧ bs = s.mem.bytes (0x800000000000 + a) n

/-- The commands on a level-1 inset, by code (R345). -/
def Sys2Proof.Claim.onInset : List (Instr × Nat) :=
  [(.insetgrant, 2), (.freeze, 3), (.thaw, 4), (.ckpt, 5), (.rest, 6), (.revoke, 7), (.stat, 8), (.map, 9), (.unmap, 0xA), (.inval, 0xB),
   (.rootmap, 0x10), (.rootunmap, 0x11)]
def Sys2Proof.Claim.others : List (Instr × Nat) :=
  [(.insetnew, 1), (.dbset, 0x20), (.dbclr, 0x21), (.rgtset, 0x30), (.rgtwithdraw, 0x31), (.gangset, 0x40), (.hotread, 0x50)]

/-- The gang that GANGSET describes (R356). -/
def Sys2Proof.Claim.newGang (s : State) : Gang :=
  let list := (List.range 8).map (fun i => argument s (1 + i / 4) / 2 ^ (16 * (i % 4)) % 2 ^ 16)
  { period := argument s 0, coordinator := argument s 3 % 2 ^ 6, current := 0, ready := 0, switch := none,
    slots := list.takeWhile (fun n => decide (n ≠ 0)) }

/-- What a command ends with: its status, its result and the interrupt; before RUN every command but two answers STATE; a code of no command
answers LIMIT; a command on a name that is no level-1 inset answers NOCHILD. Each command does to level-1 insets what the form of an inset
would do to its child, and the commands on doorbells, grants, gangs, counters, the clock and the firmware do what R345 says. -/
def Obligations.Mailbox : Prop :=
  (∀ (s : State) code result, s.ctl.outcome = some (code, result) → exec .mailboxComplete s = .next (window s (fun c => { c with
    busy := false, mstatus := BitVec.ofNat 8 code, mresult := BitVec.ofNat 24 result, command := none, begun := false, outcome := none, waits := [],
    vectors := c.vectors ++ [2] }))) ∧
  (∀ (s : State) i n, (i, n) ∈ onInset ++ others → s.ctl.command = some n → s.ctl.outcome = none → s.fabric.linkUp = true → s.ctl.boot ≠ .run →
    exec i s = .next (finished s 2 0)) ∧
  (∀ (s : State) n, taken s n false → n ∉ (onInset ++ others).map (·.2) ++ [0x60, 0x7F] → exec .mailboxUnknownCommand s = .next (finished s 3 0)) ∧
  (∀ (s : State) i n, (i, n) ∈ onInset → taken s n false → (∀ x, s.inset? (argument s 0 % 2 ^ 12) = some x → x.parent ≠ 0) →
    exec i s = .next (finished s 1 0)) ∧
  (∀ (s : State) bs id share, taken s 1 false → argument s 0 % 128 = 0 → hostBlockAt s (argument s 0) 128 bs → freeNames s 0 id share →
    s.insets.length < 1024 → (∀ z ∈ s.insets, z.id ≠ 0) → argument s 1 = 0 → tablesHeld s 0 (dword bs 0) →
    (blockZeros bs → blockLimits bs → (∀ z ∈ s.insets, blockCores bs &&& z.cores = 0) → field bs 0x18 24 8 ≤ s.ownSlots 0 →
      1 + field bs 0x18 0 11 ≤ s.ownQuota 0 →
      ∃ y, exec .insetnew s = .next (finished { s with insets := s.insets ++ [y] } 0 id) ∧
        y.id = id ∧ y.level = 1 ∧ y.parent = 0 ∧ y.tbase = dword bs 0 ∧ y.saveBase = dword bs 8 ∧ y.saveSize = field bs 0x10 0 32 ∧
        y.cw = field bs 0x14 16 16 ∧ y.lw = field bs 0x14 0 16 ∧ y.qslots = field bs 0x18 24 8 ∧ y.iquota = field bs 0x18 0 11 ∧
        y.sys = decide (field bs 0x1C 0 1 = 1) ∧ y.cores = blockCores bs ∧ y.share = share ∧ y.armed = none ∧ y.ranges = [] ∧
        y.frozen = decide (dword bs 0x40 ≠ 0) ∧ y.held = (if dword bs 0x40 = 0 then none else some (dword bs 0x40))) ∧
    (¬ blockZeros bs ∨ ¬ blockLimits bs → exec .insetnew s = .next (finished s 3 0))) ∧
  (∀ (s : State) x bs, taken s 2 false → rootChild s x → argument s 1 % 128 = 0 → hostBlockAt s (argument s 1) 128 bs →
    (argument s 2 % 32 = 16 → field bs 0x18 0 11 ≤ min 1024 (s.ownQuota 0 + x.iquota) → (s.subtree x.id).length ≤ field bs 0x18 0 11 + 1 →
      exec .insetgrant s = .next (finished (s.updInset x.id (fun z => { z with iquota := field bs 0x18 0 11 })) 0 0)) ∧
    (argument s 2 % 32 = 2 → 0 < field bs 0x14 16 16 →
      exec .insetgrant s = .next (pending (s.updInset x.id (fun z => { z with cw := field bs 0x14 16 16 })) [s.refill])) ∧
    (argument s 2 % 32 = 0 → exec .insetgrant s = .next (finished s 3 0))) ∧
  (∀ (s : State), taken s 2 true → s.ctl.waits.headD 0 < s.refill → exec .insetgrant s = .next (finished s 0 0)) ∧
  (∀ (s : State) x, rootChild s x →
    (taken s 3 false → x.frozen = false → exec .freeze s = .next (pending (s.freezeInset x.id (some (argument s 1 % 2 ^ 32)) 0) [])) ∧
    (taken s 3 true → s.freezeDone x.id = true → s.othersDone x.id = true → exec .freeze s = .next (finished s 0 ((s.commandsOf x.id).filter s.blocked).length)) ∧
    (taken s 4 false → x.frozen = true → x.sealing = false → s.security.migrations = [] → s.bufferFull = false → x.held = none → x.pendingBreaks = [] →
      s.confidential = false → exec .thaw s = .next (finished { s.updInset x.id (fun z => { z with frozen := false, held := z.held, pendingBreaks := [] }) with
        teams := s.teams.map (fun u : Team => if s.under x.id (s.teamInset u) then { u with refused := false } else u) } 0 0)) ∧
    (taken s 4 false → x.frozen = false → exec .thaw s = .next (finished s 2 0)) ∧
    (taken s 5 false → s.confidential = false → argument s 2 % 64 = 0 → x.frozen = false →
      exec .ckpt s = .next (pending (s.freezeInset x.id (some (argument s 1 % 2 ^ 32)) 1) [])) ∧
    (taken s 5 false → s.confidential = true → exec .ckpt s = .next (finished s 2 0)) ∧
    (taken s 5 true → s.freezeDone x.id = true → s.othersDone x.id = true → s.areasDown x.id = false →
      s.spaceDown 0 .w (argument s 2) (argument s 3 % 2 ^ 32) = false → s.commandsOf x.id = [] → s.children x.id = [] → s.savedTeams x.id = [] → s.ops = [] →
      192 ≤ argument s 3 % 2 ^ 32 → (∀ i < 192, backing (argument s 2 + i) = .hbm) → argument s 2 % 64 = 0 → (∀ z ∈ s.insets, z.tablePages = []) →
      ∃ m, exec .ckpt s = .next (finished { s with mem := m } 0 0) ∧ onlyWithin m s.mem (argument s 2) 192 ∧
        let bs := m.pieceBytes [(argument s 2, 192)]
        dword bs 0 = 192 ∧ field bs 8 0 32 = 1 ∧ field bs 0xC 0 32 = 0 ∧ field bs 0x10 0 32 = x.id ∧ field bs (64 + 0x48) 0 32 = x.id) ∧
    (∀ bs, taken s 6 false → s.confidential = false → s.readSpace 0 (argument s 1) 64 = .ok (bs.take 64) → bs.length = 192 → dword bs 0 = 192 →
      s.readSpace 0 (argument s 1) 192 = .ok bs → oneRecord bs → s.areasDown x.id = false → field bs (64 + 0x48) 0 12 = x.id →
      field bs (64 + 0x4C) 0 12 = 0 → s.under x.id x.id = true → (∀ t ∈ s.teams, s.under x.id (s.teamInset t) = false) → x.frozen = true →
      exec .rest s = .next (finished { s with
        insets := s.insets.map (fun z : Inset => if s.under x.id z.id then { z with images := [] } else z) } 0 0)) ∧
    (taken s 7 false → s.security.migrations = [] → exec .revoke s = .next (pending (s.updInset x.id (fun z => { z with revoking := true })) [])) ∧
    (taken s 7 true → s.othersDone x.id = false → exec .revoke s = .next s) ∧
    (taken s 7 true → s.othersDone x.id = true → s.mem.veils = [] → s.subtree x.id = [x] → s.commands = [] → (∀ v ∈ s.surveys, v.running = none ∧ v.pending = none) → (∀ d ∈ s.grids, d.inset ≠ x.id) →
      s.ops = [] → (∀ z ∈ s.insets, z.id ≠ 0) → ∃ t, exec .revoke s = .next (finished t 0 0) ∧ t.insets = s.insets.filter (fun z => decide (z.id ≠ x.id)) ∧
        t.mem = s.mem ∧ t.teams = s.teams ∧ t.ctl = s.ctl ∧ t.doorbells = s.doorbells.filter (fun d => decide (d.inset ≠ x.id)) ∧
        t.slots = s.slots.filter (fun d => decide (d.inset ≠ x.id))) ∧
    (taken s 8 false → s.ctl.args.length = 8 → ∃ st n a b, exec .stat s = .next (finished (window s (fun c => { c with
          args := c.args.take 4 ++ [BitVec.ofNat 64 (x.level * 2 ^ 8 + st), BitVec.ofNat 64 n, BitVec.ofNat 64 a, BitVec.ofNat 64 b] })) 0 (x.level * 2 ^ 8 + st)) ∧
        n + 1 = max 1 (s.subtree x.id).length ∧ st = s.standing x ∧
        a = (s.teams.filter (fun u => u.seated && s.under x.id (s.teamInset u))).length ∧
        b = (s.teams.filter (fun u => decide (u.residency = .saved) && s.under x.id (s.teamInset u))).length ∨
      2 ^ 24 ≤ x.level * 2 ^ 8 + 4 ∨ 2 ^ 32 ≤ (s.subtree x.id).length ∨ 2 ^ 32 ≤ s.teams.length)) ∧
  (∀ (s : State) y va pa e3 e2 e1 pw, rootChild s y → walked s [] y.tbase va e3 e2 e1 → pw = held e1 + 8 * (va / 2 ^ 16 % 32) →
    va % 0x10000 = 0 → va + 0x10000 ≤ 2 ^ 48 → s.ops = [] →
    (taken s 9 false → argument s 1 / 2 ^ 8 = 0 → argument s 1 / 2 ^ 5 % 8 = 0 → argument s 1 % 4 = 0 → argument s 2 = va → argument s 3 = pa →
      argument s 4 = 1 → argument s 5 = 0 → argument s 6 = 0 → pa % 0x10000 = 0 → pa + 0x10000 ≤ 0x6000000000 → s.readEntry pw % 2 = 0 →
      ∃ m, exec .map s = .next (finished (retriedUnder s 0 ({ s with mem := m } : State).learnTables) 0 0) ∧ (m.dword pw).toNat = pa + argument s 1 / 4 % 8 * 4 + 3 ∧ onlyWithin m s.mem pw 8) ∧
    (taken s 0xA false → argument s 1 / 2 ^ 6 % 4 = 0 → argument s 2 = va → argument s 3 = 1 → leaf (s.readEntry pw) →
      s.pinned y.id va 0x10000 = false →
      ∃ m, exec .unmap s = .next (pending { s with
          mem := m
          projections :=
            let q : Projection := { inset := y.id, base := va, size := 0x10000, entry := pw, span := 1, value := s.readEntry pw }
            if s.projections.contains q then s.projections else s.projections ++ [q] }
          [y.id, va, 0x10000, 0]) ∧ m.dword pw = 0 ∧ onlyWithin m s.mem pw 8)) ∧
  (∀ (s : State) y, rootChild s y → taken s 0xB false → argument s 2 ≠ 0 →
    exec .inval s = .next (pending s [y.id, argument s 1, argument s 2, 0])) ∧
  (∀ (s : State) i n y a len code, (i = .unmap ∧ n = 0xA ∨ i = .inval ∧ n = 0xB) → taken s n true → s.ctl.waits = [y.id, a, len, code] →
    s.inset? y.id = some y → y.parent = 0 → y.id < 2 ^ 12 → s.oldAccess y a len = false →
    exec i s = .next (finished { s with
      projections := s.projections.filter (fun p => !decide (p.inset = y.id ∧ p.base < a + len ∧ a < p.base + p.size)) } code 0)) ∧
  (∀ (s : State) x, rootChild s x → let r : RootRange :=
      { base := argument s 1, length := argument s 2, key := argument s 3 % 2 ^ 6, perms := BitVec.ofNat 3 (argument s 3 / 2 ^ 8),
        tweak := argument s 1 }
    (taken s 0x10 false → s.confidential = false → r.base % 0x10000 = 0 → r.length % 0x10000 = 0 → 0 < r.length → r.base + r.length ≤ 0x5FFFFF0000 →
      r.key = 0 → (∀ k, s.keySlot 0 ≠ .loaded k) → (∀ t ∈ s.teams, t.imageFault ≠ some 0) → s.ops = [] →
      exec .rootmap s = .next (finished (s.updInset x.id (fun z => { z with ranges := z.ranges ++ [r] })).learnTables 0 0)) ∧
    (taken s 0x10 false → s.confidential = false → (r.base % 0x10000 ≠ 0 ∨ r.length % 0x10000 ≠ 0 ∨ r.length = 0 ∨
      (0x6000000000 < r.base + r.length ∧ r.base < 0x10000000000) ∨
      (let w := 0x400000000000 + x.package * 0x10000000000
       (0x5FFFFF0000 < r.base + r.length ∧ r.base < 0x6000000000) ∨ (w + 0x5FFFFF0000 < r.base + r.length ∧ r.base < w + 0x6000000000))) → exec .rootmap s = .next (finished s 3 0)) ∧
    (∀ q, taken s 0x11 false → x.ranges.find? (fun r => decide (r.base = argument s 1)) = some q →
      exec .rootunmap s = .next (pending ((s.unveilRanges x [q]).updInset x.id (fun z => { z with ranges := z.ranges.erase q })) [localPhys x q.base, q.length])) ∧
    (taken s 0x11 false → (∀ q ∈ x.ranges, q.base ≠ argument s 1) → exec .rootunmap s = .next (finished s 2 0)) ∧
    (∀ a n, taken s 0x11 true → s.ctl.waits = [a, n] → s.oldRange x a n = false → exec .rootunmap s = .next (finished s 0 0))) ∧
  (∀ (s : State) x bs, taken s 0x20 false → s.inset? (argument s 2 % 2 ^ 12) = some x → x.id = argument s 2 % 2 ^ 12 → argument s 1 % 64 = 0 →
    s.readSpace x.id (argument s 1) 64 = .ok bs → argument s 0 < 8192 →
    (blockGood bs x.id → exec .dbset s = .next (finished { s with
      doorbells := (s.doorbells.map (fun d : Doorbell => if d.inset = x.id ∧ d.qcb = argument s 1 then { d with malformed := false } else d)).filter
        (fun d => decide (d.index ≠ argument s 0)) ++
      [{ index := argument s 0, qcb := argument s 1, inset := x.id, malformed := false,
         pending := s.doorbells.any (fun d => decide (d.inset = x.id ∧ d.qcb = argument s 1) && d.pending),
         kick := (s.doorbells.filter (fun d => decide (d.inset = x.id ∧ d.qcb = argument s 1))).findSome? Doorbell.kick }] } 0 0)) ∧
    (¬ blockGood bs x.id → exec .dbset s = .next (finished s 3 0))) ∧
  (∀ (s : State), taken s 0x21 false →
    (∀ d, s.doorbells.find? (fun d => decide (d.index = argument s 0)) = some d → d.pending = false → exec .dbclr s = .next (finished { s with
      doorbells := s.doorbells.filter (fun d => decide (d.index ≠ argument s 0)) } 0 0)) ∧
    (∀ d, s.doorbells.find? (fun d => decide (d.index = argument s 0)) = some d → d.pending = true → exec .dbclr s = .next (pending s [])) ∧
    ((∀ d ∈ s.doorbells, d.index ≠ argument s 0) → exec .dbclr s = .next (finished s 2 0))) ∧
  (∀ (s : State) bs, taken s 0x30 false → argument s 0 < 1024 → findKey s.fabric.grants (argument s 0) = none → hostBlockAt s (argument s 1) 32 bs →
    dword bs 0 % 0x10000 = 0 → dword bs 8 % 0x10000 = 0 → 0 < dword bs 8 → field bs 24 3 13 = 0 → field bs 28 0 32 = 0 →
    ∃ g, exec .rgtset s = .next (finished { s with fabric := { s.fabric with
        grants := s.fabric.grants.filter (fun e => decide (e.1 ≠ argument s 0)) ++ [(argument s 0, g)] } } 0 0) ∧
      g.base.toNat = dword bs 0 ∧ g.length.toNat = dword bs 8 ∧ g.reqmask.toNat = dword bs 16 ∧ g.subtree = field bs 24 16 16 ∧
      g.w = decide (field bs 24 2 1 = 1) ∧ g.r = decide (field bs 24 1 1 = 1) ∧ g.valid = decide (field bs 24 0 1 = 1) ∧ g.withdrawing = false) ∧
  (∀ (s : State) g, argument s 0 < 1024 → findKey s.fabric.grants (argument s 0) = some g →
    let put (h : Grant) : State := { s with fabric := { s.fabric with
      grants := s.fabric.grants.filter (fun e => decide (e.1 ≠ argument s 0)) ++ [(argument s 0, h)] } }
    (taken s 0x31 false → g.valid = true → exec .rgtwithdraw s = .next (pending (put { g with valid := false, withdrawing := true }) [])) ∧
    (taken s 0x31 false → g.valid = false → exec .rgtwithdraw s = .next (finished s 2 0)) ∧
    (taken s 0x31 true → g.inflight = 0 → exec .rgtwithdraw s = .next (finished (put { g with withdrawing := false }) 0 0)) ∧
    (taken s 0x31 true → g.inflight ≠ 0 → exec .rgtwithdraw s = .next (put { g with inflight := g.inflight - 1 })) ∧
    (taken s 0x30 false → g.valid = true → exec .rgtset s = .next (finished s 2 0))) ∧
  (∀ (s : State), taken s 0x40 false → 100 ≤ argument s 0 → argument s 0 ≤ 1000000 → argument s 3 % 2 ^ 6 = s.ctl.straps.toNat % 2 ^ 6 →
    exec .gangset s = .next (finished { s with
      fabric := { s.fabric with gang := some (newGang s) }
      insets := s.insets.map (fun x : Inset => { x with ganged := false }) } 0 0)) ∧
  (∀ (s : State) m, taken s 0x50 false → argument s 0 % 0x10000 = 0 → argument s 0 + 0x10000 * argument s 1 ≤ 0x6000000000 →
    0x800000000000 + argument s 2 + 2 * argument s 1 ≤ 2 ^ 48 → m = argument s 1 →
    ∃ t, exec .hotread s = .next (finished t 0 0) ∧ t = { s with mem := t.mem, hotness := t.hotness } ∧
      onlyWithin t.mem s.mem (0x800000000000 + argument s 2) (2 * m) ∧
      ∀ i < m, let p := argument s 0 / 0x10000 + i
        let n := t.mem.nat (0x800000000000 + argument s 2 + 2 * i) 2
        min 0xFFFF (Sparse.get 0 s.hotness p) ≤ n ∧ Sparse.get 0 t.hotness p = (if (argument s 3).testBit 0 then 0 else n)) ∧
  (∀ (s : State), s.ctl.outcome = none → s.fabric.linkUp = true →
    (s.ctl.command = some 0x60 → s.ctl.begun = false → exec .timeset s = .next (finished { s with
      time := argument s 0, security := { s.security with timeSet := true } } 0 0)) ∧
    (s.ctl.command = some 0x7F → s.ctl.begun = false → s.ctl.boot = .waitimg ∨ s.ctl.boot = .bootfail →
      exec .loadfw s = .next (finished (window s (fun c => { c with
        boot := .verify, image := some (argument s 0, argument s 1), vectors := c.vectors ++ [1] })) 0 0)) ∧
    (s.ctl.command = some 0x7F → s.ctl.begun = false → s.ctl.boot = .run ∨ s.ctl.boot = .rom ∨ s.ctl.boot = .verify →
      exec .loadfw s = .next (finished s 2 0)))

/-! ## Boot, power and soft errors (R348 to R350, R365, R368 to R376, R379) -/

/-- Both device clocks stand at least at an instant since reset. -/
def Sys2Proof.Claim.laterAt (s : State) (a : Nat) : State := { s with uptime := max s.uptime a, time := s.time + (a - s.uptime) }

/-- The power fields changed alone. -/
def Sys2Proof.Claim.powered (s : State) (f : Power → Power) : State := { s with power := f s.power }

/-- The boot state, with its vector 1. -/
def Sys2Proof.Claim.bootedTo (s : State) (b : Boot) : State := window s (fun c => { c with boot := b, vectors := c.vectors ++ [1] })

/-- A check of a firmware image ends. -/
def Sys2Proof.Claim.imageChecked (s : State) : State := window s (fun c => { c with image := none })
def Sys2Proof.Claim.imageRefused (s : State) (n : Nat) : State := bootedTo (window s (fun c => { c with image := none, bfail := n })) .bootfail

/-- The header of a firmware image is good (R349). -/
def Sys2Proof.Claim.headerGood (bs : List Byte) (len : Nat) : Prop :=
  dword bs 0 = 0x325257464E4D4C00 ∧ dword bs 0x10 = 0 ∧ dword bs 0x18 = 0 ∧ 0x1000 + field bs 0xC 0 32 ≤ len

/-- A reset scrubs the package's memory, encryption included, leaves what is stored outside it, and puts every register at its reset value,
with the board's straps; STATE goes from ROM to WAITIMG,
and from VERIFY to RUN or to BOOTFAIL with the code of R349, each with vector 1; core rows and matrix arrays start one after the other. -/
def Sys2Proof.Claim.booting : Prop :=
  (∀ (s : State) straps, s.mem.wf = true →
    ∃ m, exec (.deviceReset straps) s = .next { State.reset with
        mem := m
        ctl := { State.reset.ctl with straps := straps }
        agenda := s.agenda
        issuer := s.issuer
        fresh := s.fresh
        oracle := s.oracle } ∧
      (∀ a, backing a = .hbm ∨ (∃ k, backing a = .vault k) → m.byte a = 0) ∧
      (∀ a, backing a ≠ .hbm → (∀ k, backing a ≠ .vault k) → m.byte a = s.mem.stored a) ∧ m.veils = [] ∧ m.inject = none ∧ m.latent = none ∧
      (∀ a, m.full a = true) ∧ (∀ a n, m.poisoned a n = false) ∧ m.wf = true) ∧
  (∀ (s : State), (s.ctl.boot = .rom → exec .bootRomComplete s = .next (bootedTo s .waitimg)) ∧
    (s.ctl.boot ≠ .rom → exec .bootRomComplete s = .next s)) ∧
  (∀ (s : State) addr len ecdsa lms fault, s.ctl.boot = .verify → s.ctl.image = some (addr, len) →
    let bs := s.mem.bytes (0x800000000000 + addr) 0x20
    let answer := exec (.firmwareVerifyComplete ecdsa lms fault) s
    (fault = true ∨ 2 ^ 48 < 0x800000000000 + addr + len → answer = .next (imageRefused s 5)) ∧
    (fault = false → 0x800000000000 + addr + len ≤ 2 ^ 48 →
      (¬ headerGood bs len → answer = .next (imageRefused s 1)) ∧
      (headerGood bs len → ecdsa = false → answer = .next (imageRefused s 2)) ∧
      (headerGood bs len → ecdsa = true → lms = false → answer = .next (imageRefused s 3)) ∧
      (headerGood bs len → ecdsa = true → lms = true → field bs 8 0 32 < s.ctl.straps.toNat / 2 ^ 8 % 2 ^ 6 → answer = .next (imageRefused s 4)) ∧
      (headerGood bs len → ecdsa = true → lms = true → s.ctl.straps.toNat / 2 ^ 8 % 2 ^ 6 ≤ field bs 8 0 32 →
        answer = .next { powered (bootedTo (imageChecked s) .run) (fun p => { p with start := s.uptime, lastSample := s.uptime }) with
          security := { s.security with
            version := field bs 8 0 32
            payload := s.mem.bytes (0x800000001000 + addr) (field bs 0xC 0 32) } }))) ∧
  (∀ (s : State) ecdsa lms fault, s.ctl.boot ≠ .verify → exec (.firmwareVerifyComplete ecdsa lms fault) s = .next s) ∧
  (∀ (s : State) (row : BitVec 4),
    (s.ctl.boot = .run → s.power.pstate = 0 → s.power.rows.getLsbD row.toNat = false → ∃ w : BitVec 16,
      exec (.coreRowWake row) s = .next (laterAt (powered s (fun p => { p with rows := w })) (s.power.start + 1000 * row.toNat)) ∧
      ∀ j < 16, w.getLsbD j = (s.power.rows.getLsbD j || decide (j = row.toNat))) ∧
    (s.ctl.boot ≠ .run ∨ s.power.pstate ≠ 0 ∨ s.power.rows.getLsbD row.toNat = true → exec (.coreRowWake row) s = .next s)) ∧
  (∀ (s : State) (core : BitVec 8), let n := Sparse.get 0 s.power.ramp core.toNat
    (s.power.rows.getLsbD (core.toNat / 16) = true → n < 4 → ∃ w, exec (.matrixRampStep core) s =
        .next (laterAt (powered s (fun p => { p with ramp := w })) (s.power.start + 1000 * (core.toNat / 16 + n + 1))) ∧
      ∀ k, Sparse.get 0 w k = if k = core.toNat then n + 1 else Sparse.get 0 s.power.ramp k) ∧
    (s.power.rows.getLsbD (core.toNat / 16) = false ∨ 4 ≤ n → exec (.matrixRampStep core) s = .next s))

/-- A word of the fleet block. -/
def Sys2Proof.Claim.fleet (s : State) (o : Nat) : Nat := (s.mem.word (0x5FFFFF0000 + o)).toNat

/-- The injection mask in force: one outside its limits is not applied (R365). -/
def Sys2Proof.Claim.maskOf (s : State) : Nat :=
  let given := fleet s 0x090 + 2 ^ 32 * fleet s 0x094
  if given < 2 ^ 39 then given else s.power.injmask

/-- What an armed injection names, in array 3 or 4: its physical word. -/
def Sys2Proof.Claim.armed (s t : State) (array unit addr : Nat) (place : Nat) : Prop :=
  t.power.injection = some (array, unit, addr, maskOf s) ∧ t.power.refused = false ∧ t.power.done = false ∧
  t.mem.inject = some (place, maskOf s) ∧ t.mem.struck = false

/-- The cap in force. -/
def Sys2Proof.Claim.capOf (s : State) : Nat := if s.power.capw = 0 then 1700 else s.power.capw

/-- A measurement of PWR is kept, with the time since when it stays at or below 95 % of the cap (R371). -/
def Sys2Proof.Claim.gauged (s : State) (pwr : Nat) : State := powered s (fun p =>
  { p with pwr := pwr, easySince := if 100 * pwr ≤ 95 * capOf s then some (p.easySince.getD s.uptime) else none })

/-- The Security Core samples GEN; where it differs every RW field of the block within its limits is applied, the injection included; one
outside its limits leaves what was in force. -/
def Sys2Proof.Claim.fleetBlock : Prop :=
  (∀ (s : State), s.ctl.boot ≠ .run → exec .fleetGenSample s = .next s) ∧
  (∀ (s : State), s.ctl.boot = .run → let u := laterAt s (s.power.lastSample + 100000)
    (fleet s 0 = s.power.gen → exec .fleetGenSample s = .next (powered u (fun p => { p with lastSample := u.uptime }))) ∧
    (fleet s 0 ≠ s.power.gen → s.power.armSeen = true ∨ (s.power.done = false ∧ s.mem.struck = false) →
      ∃ t, exec .fleetGenSample s = .next t ∧
        t = { u with
          mem := { s.mem with inject := t.mem.inject, struck := t.mem.struck }
          power := { s.power with
            gen := fleet s 0
            lattol := fleet s 4
            capw := if fleet s 8 < 2 ^ 16 then fleet s 8 else s.power.capw
            shedn := if fleet s 0x14 ≤ 16 then fleet s 0x14 else s.power.shedn
            shed := t.power.shed
            easySince := if 100 * s.power.pwr ≤ 95 * capOf t then some (s.power.easySince.getD u.uptime) else none
            injmask := maskOf s
            lastSample := u.uptime
            injection := t.power.injection
            refused := t.power.refused
            done := t.power.done
            armSeen := t.power.armSeen } } ∧
        (∀ i < 16, let w := fleet s (0x020 + 4 * i)
          (w / 2 ^ 30 ≠ 3 → w / 2 ^ 12 % 2 ^ 18 = 0 → ∀ e, e ∈ t.power.shed ∧ e.1 = i ↔ e = (i, w % 2 ^ 12, w / 2 ^ 30)) ∧
          (w / 2 ^ 30 = 3 ∨ w / 2 ^ 12 % 2 ^ 18 ≠ 0 → ∀ e, e ∈ t.power.shed ∧ e.1 = i ↔
            e = (s.power.shed.find? (fun q => decide (q.1 = i))).getD (i, 0, 0))) ∧
        let w := fleet s 0x080
        let addr := fleet s 0x088 + 2 ^ 32 * fleet s 0x08C
        (w % 2 = 0 → t.power.injection = none ∧ t.power.refused = false ∧ t.mem.inject = none) ∧
        (w % 2 = 1 → s.confidential = true ∨ (w / 2 ^ 28 = 3 ∧ 0x4000000 ≤ addr) ∨ (w / 2 ^ 28 = 4 ∧ (0xC00000000 ≤ addr ∨ 8 ≤ w / 2 ^ 20 % 2 ^ 8)) →
          t.power.injection = none ∧ t.power.refused = true ∧ t.mem.inject = none) ∧
        (w % 2 = 1 → s.confidential = false → w / 2 ^ 28 = 3 → addr < 0x4000000 →
          armed s t 3 (w / 2 ^ 20 % 2 ^ 8) addr (0x10000000000 + 0x4000000 * (w / 2 ^ 20 % 2 ^ 8) + addr / 4 * 4)) ∧
        (w % 2 = 1 → s.confidential = false → w / 2 ^ 28 = 4 → addr < 0xC00000000 → w / 2 ^ 20 % 2 ^ 8 < 8 →
          armed s t 4 (w / 2 ^ 20 % 2 ^ 8) addr (Config.hbmPlace (w / 2 ^ 20 % 2 ^ 8) addr))))

/-- Idle, as R369 says. -/
def Sys2Proof.Claim.packageIdle (s : State) : Prop :=
  (∀ u ∈ s.teams, u.seated = false) ∧ (∀ c ∈ s.commands, s.blocked c = true ∨ c.state = .done) ∧ (∀ v ∈ s.surveys, v.running = none) ∧
  ∀ q ∈ s.slots, q.read = q.write

/-- The power states below Run with their exit latencies in µs. -/
def Sys2Proof.Claim.lowPower : List (Nat × Nat) := [(1, 2), (2, 20), (3, 220)]

/-- The record of a shedding or throttling step (R371). -/
def Sys2Proof.Claim.stepTold (r : Record) (n : Nat) : Prop := told r 0 0x36 0 (BitVec.ofNat 32 n) 0 ∧ r.route = 0 ∧ r.level = 0 ∧ r.dest = none ∧ r.seq = none

/-- The step of the list at index i is the next. -/
def Sys2Proof.Claim.stepNext (s : State) (i x action : Nat) : Prop :=
  i < s.power.shedn ∧ (∀ j < i, ∃ a ∈ s.power.actions, a.1 = j) ∧ (∀ a ∈ s.power.actions, a.1 ≠ i) ∧
  s.power.shed.find? (fun e => decide (e.1 = i)) = some (i, x, action)
def Sys2Proof.Claim.listEnded (s : State) : Prop := ∀ i < s.power.shedn, (∃ a ∈ s.power.actions, a.1 = i) ∨ ∀ e ∈ s.power.shed, e.1 ≠ i

/-- The device may act on the power it measured. -/
def Sys2Proof.Claim.acts (s : State) : Prop := s.ctl.boot = .run ∧ s.bufferFull = false

/-- The measurement is kept, and a step is made no sooner than 1 ms after the last. -/
def Sys2Proof.Claim.stepping (s : State) (pwr : Nat) : State :=
  powered (laterAt (gauged s pwr) (s.power.lastAct + 1000000)) (fun p => { p with lastAct := max s.uptime (s.power.lastAct + 1000000) })

/-- The measurement is kept, and a step is undone once PWR has stayed at or below 95 % of the cap for 10 consecutive ms; the next 10 ms count
from then. -/
def Sys2Proof.Claim.easing (s : State) (pwr : Nat) : State :=
  let at_ := s.power.easySince.getD s.uptime + 10000000
  powered (laterAt (gauged s pwr) at_) (fun p => { p with lastAct := max s.uptime at_, easySince := some (max s.uptime at_) })

/-- A step as it stands applied, with its record. -/
def Sys2Proof.Claim.applied_ (w : State) (i x action : Nat) (r : Record) : State :=
  { powered w (fun p => { p with actions := p.actions ++ [(i, x, action)] }) with records := w.records ++ [r] }

/-- Power states by LATTOL; the shedding list and the throttle by the measured power. -/
def Sys2Proof.Claim.powerRules : Prop :=
  (∀ (s : State) d lat, (d, lat) ∈ lowPower → s.ctl.boot = .run → packageIdle s → s.ctl.busy = false → s.power.wake = false → lat ≤ s.power.lattol →
    (∀ e ∈ lowPower, d < e.1 → s.power.lattol < e.2) → s.power.pstate < d →
    exec .powerStateEntry s = .next (powered s (fun p => { p with pstate := d }))) ∧
  (∀ (s : State), ¬ packageIdle s ∨ s.power.lattol < 2 ∨ s.power.wake = true ∨ s.ctl.busy = true → exec .powerStateEntry s = .next s) ∧
  (∀ (s : State) d lat, (d, lat) ∈ lowPower → s.power.pstate = d →
    (s.power.wake = true ∨ s.power.lattol < lat → exec .powerStateExit s = .next (powered (laterAt s (s.uptime + 1000 * lat)) (fun p =>
      if d = 1 then { p with pstate := 0, wake := false } else { p with pstate := 0, wake := false, rows := 0, ramp := [], start := s.uptime + 1000 * lat }))) ∧
    (s.power.wake = false → lat ≤ s.power.lattol → exec .powerStateExit s = .next s)) ∧
  (∀ (s : State) pwr, pwr ≤ capOf s → ∀ i ∈ [Instr.shedStep pwr, .throttleStep pwr, .throttleFloorReport pwr],
    exec i s = .next (gauged s pwr)) ∧
  (∀ (s : State) pwr, 95 * capOf s < 100 * pwr → ∀ i ∈ [Instr.shedUndo pwr, .throttleUndo pwr],
    exec i s = .next (gauged s pwr)) ∧
  (∀ (s : State) pwr i x action, acts s → capOf s < pwr → stepNext s i x action →
    let u := stepping s pwr
    let n := s.power.throttle * 2 ^ 11 + action * 2 ^ 8 + i
    ∃ r, stepTold r n ∧
      ((∀ z, s.inset? x = some z → z.parent ≠ 0) → exec (.shedStep pwr) s = .next (applied_ u i 0 action r)) ∧
      (∀ z, s.inset? x = some z → z.parent = 0 →
        (action = 0 → exec (.shedStep pwr) s = .next (applied_ { u with insets := s.insets.map (fun y : Inset =>
          if y.id ∈ (s.subtree x).map (·.id) then { y with slowed := true } else y) } i x 0 r)) ∧
        (action = 1 → exec (.shedStep pwr) s = .next (applied_ (State.leave
            { u with insets := s.insets.map (fun y : Inset => if y.id = x then { y with shed := true } else y) } (some 18800) 3
            ((s.teams.filter (fun v => v.runs && s.under x (s.teamInset v))).map (·.tid))) i x 1 r)) ∧
        (action = 2 → exec (.shedStep pwr) s = .next (applied_ (State.revokeInset u x) i x 2 r)))) ∧
  (∀ (s : State) pwr i x action before after, acts s → 100 * pwr ≤ 95 * capOf s → s.power.throttle = 0 →
    s.power.actions = before ++ (i, x, action) :: after → (∀ a ∈ after, a.2.2 = 2) → action < 2 → (i, x, action) ∉ before →
    let u := powered (easing s pwr) (fun p => { p with actions := before ++ after })
    ∃ r, stepTold r (2 ^ 15 + action * 2 ^ 8 + i) ∧
      (x = 0 ∨ (∃ a ∈ before, a.2.1 = x ∧ a.2.2 = action) → exec (.shedUndo pwr) s = .next { u with records := s.records ++ [r] }) ∧
      (x ≠ 0 → (∀ a ∈ before, a.2.1 ≠ x ∨ a.2.2 ≠ action) →
        (action = 0 → exec (.shedUndo pwr) s = .next { u with
          records := s.records ++ [r]
          insets := s.insets.map (fun y : Inset => if y.id ∈ (s.subtree x).map (·.id) then { y with slowed := false } else y) }) ∧
        (action = 1 → exec (.shedUndo pwr) s = .next { u with
          records := s.records ++ [r]
          insets := s.insets.map (fun y : Inset => if y.id = x then { y with shed := false } else y) }))) ∧
  (∀ (s : State) pwr, acts s → capOf s < pwr → listEnded s → s.power.throttle < 7 →
    ∃ r, stepTold r ((s.power.throttle + 1) * 2 ^ 11 + 3 * 2 ^ 8) ∧ exec (.throttleStep pwr) s = .next { powered (stepping s pwr) (fun p =>
      { p with throttle := s.power.throttle + 1 }) with records := s.records ++ [r] }) ∧
  (∀ (s : State) pwr, acts s → 100 * pwr ≤ 95 * capOf s → s.power.throttle ≠ 0 →
    ∃ r, stepTold r (2 ^ 15 + (s.power.throttle - 1) * 2 ^ 11 + 3 * 2 ^ 8) ∧ exec (.throttleUndo pwr) s = .next { powered (easing s pwr) (fun p =>
      { p with throttle := s.power.throttle - 1 }) with records := s.records ++ [r] }) ∧
  (∀ (s : State) pwr, acts s → capOf s < pwr → s.power.throttle = 7 →
    let at_ := s.power.lastReport + 1000000000
    ∃ r, stepTold r (2 ^ 14 + 7 * 2 ^ 11 + 3 * 2 ^ 8) ∧ exec (.throttleFloorReport pwr) s = .next { powered (laterAt (gauged s pwr) at_) (fun p =>
      { p with lastReport := max s.uptime at_ }) with records := s.records ++ [r] })

/-- The error log entry of an index, as bytes (R374). -/
def Sys2Proof.Claim.logPlace (j : Nat) : Nat := 0x5FFFFF1000 + 32 * (j % 1024)

/-- A detected error is in the log: merged into the newest entry, or a new one and LOGWRITE raised (R373). -/
def Sys2Proof.Claim.logged (s : State) (m : Memory) (array unit addr unc inset : Nat) (syndrome : Word) : Prop :=
  let j := fleet s 0x100
  let newest := logPlace (j + 1023)
  let same := (s.mem.word (newest + 4)).toNat ≠ 0 ∧ (s.mem.word newest).toNat / 2 ^ 28 = array ∧ (s.mem.word newest).toNat / 2 ^ 20 % 2 ^ 8 = unit ∧
    (s.mem.dword (newest + 8)).toNat = addr
  (same → (m.word (newest + 4)).toNat = min 0xFFFFFFFF ((s.mem.word (newest + 4)).toNat + 1) ∧ onlyWithin m s.mem (newest + 4) 4) ∧
  (¬ same → let bs := m.bytes (logPlace j) 32
    field bs 0 28 4 = array ∧ field bs 0 20 8 = unit ∧ field bs 0 19 1 = unc ∧ field bs 0 12 7 = 0 ∧ field bs 0 0 12 = inset % 2 ^ 12 ∧ field bs 4 0 32 = 1 ∧
    dword bs 8 = addr % 2 ^ 64 ∧ field bs 16 0 32 = syndrome.toNat ∧ field bs 20 0 32 = 0 ∧ dword bs 24 = s.time % 2 ^ 64 ∧
    (m.word 0x5FFFFF0100).toNat = (j + 1) % 2 ^ 32 ∧
    ∀ b, (b < logPlace j ∨ logPlace j + 32 ≤ b) → (b < 0x5FFFFF0100 ∨ 0x5FFFFF0104 ≤ b) → m.byte b = s.mem.byte b)

/-- The unit and the address of an error as the log has them: in a vault or HBM the unit is that of the address, and a link has no address
(R374). -/
def Sys2Proof.Claim.errorAt (array unit addr u a : Nat) : Prop :=
  (array ≤ 1 ∧ u = unit ∧ a = addr) ∨ (array = 2 ∧ backing addr ≠ .none ∧ u = unit ∧ a = addr) ∨ (array = 3 ∧ backing addr = .vault u ∧ a = addr) ∨
  (array = 4 ∧ backing addr = .hbm ∧ u = Config.hbmStack addr % 8 ∧ a = addr) ∨ (5 ≤ array ∧ array ≤ 8 ∧ u = unit ∧ a = 0)

/-- A detected error is logged, and an uncorrectable one poisons its word or line or stops the reading group; an armed injection strikes the next
write to its word and is logged before the next move; a burst that fails four times poisons its line; the link logs and retries a flit and
retrains after eight failures. -/
def Sys2Proof.Claim.softErrors : Prop :=
  (∀ (s : State) (array : BitVec 4) (unit : BitVec 8) addr unc inset (syndrome : BitVec 32), (∀ u a, ¬ errorAt array.toNat unit.toNat addr u a) →
    exec (.memoryErrorDetected array unit addr unc inset syndrome) s = .next s) ∧
  (∀ (s : State) (array : BitVec 4) (unit : BitVec 8) addr unc inset (syndrome : BitVec 32) u a, errorAt array.toNat unit.toNat addr u a →
    s.bufferFull = false → s.power.injection = none →
    ∃ t m, exec (.memoryErrorDetected array unit addr unc inset syndrome) s = .next t ∧
      logged s m array.toNat u a (if unc then 1 else 0) inset syndrome ∧
      ((unc = false ∨ 5 ≤ array.toNat) → t = { s with mem := m }) ∧
      (unc = true → 2 ≤ array.toNat → array.toNat ≤ 4 → t = { s with mem := t.mem } ∧ (∀ b, t.mem.byte b = m.byte b) ∧
        let size := if array.toNat = 4 then 64 else 4
        ∀ b, t.mem.poisoned b 1 = (s.mem.poisoned b 1 || decide (a / size * size ≤ b ∧ b < a / size * size + size))) ∧
      (unc = true → array.toNat ≤ 1 → ∀ g cl x, s.groups = [g] → g.clause = some cl → g.stop = none → s.coreOf g = unit.toNat → s.insetOf g = some x →
        x.id = inset → ∃ r h, t = { s with mem := m, records := s.records ++ [r], groups := [h], pendingWrites := t.pendingWrites } ∧
          r.kind = 0x14 ∧ r.addr = addr ∧ r.ack = true ∧ r.gid = some g.gid ∧ r.route = x.id ∧ stoppedBy g h 0x14)) ∧
  (∀ (m : Memory) w mask a bs, m.inject = some (w, mask) →
    (w < a + bs.length → a < w + 4 → (m.store a bs).inject = none ∧ (m.store a bs).struck = true ∧ (m.store a bs).latent = some (w, mask) ∧
      (2 ≤ bitCount mask → (m.store a bs).poisoned w 1 = true)) ∧
    (a + bs.length ≤ w ∨ w + 4 ≤ a → (m.store a bs).inject = m.inject ∧ (m.store a bs).struck = m.struck ∧ (m.store a bs).latent = m.latent) ∧
    ∀ b, (m.store a bs).byte b = if a ≤ b ∧ b < a + bs.length then bs.getD (b - a) 0 else m.byte b) ∧
  (∀ (s : State) w mask array u, s.mem.latent = some (w, mask) → errorAt array u w u w → array = 3 ∨ array = 4 → ∃ m syndrome v, s.elapse = v ∧
    logged s m array u w (if 2 ≤ bitCount mask then 1 else 0) 0xFFF syndrome ∧ v.mem = { m with latent := none }) ∧
  (∀ (s : State) line tries,
    (s.confidential = true → 4 ≤ tries → backing line = .hbm → ∃ m syndrome w, exec (.burstTagFailure line tries) s = .next { s with mem := w } ∧
      logged s m 4 (Config.hbmStack line % 8) (line / 64 * 64) 1 0xFFF syndrome ∧ (∀ b, w.byte b = m.byte b) ∧ w.poisoned line 1 = true) ∧
    (s.confidential = false ∨ tries < 4 ∨ backing line ≠ .hbm → exec (.burstTagFailure line tries) s = .next s)) ∧
  (∀ (s : State),
    (s.fabric.linkUp = true → ∃ n m unit syndrome, (n = 1 ∨ n = s.fabric.flitFailures + 1) ∧ unit < 256 ∧ logged s m 7 unit 0 0 0xFFF syndrome ∧
      exec .flitCrcFailure s = .next { s with
      mem := m
      fabric := if 8 ≤ n then { s.fabric with linkUp := false, flitFailures := 0 } else { s.fabric with flitFailures := n } }) ∧
    (s.fabric.linkUp = false → exec .flitCrcFailure s = .next s) ∧
    exec .linkRetrainComplete s = .next { s with fabric := { s.fabric with linkUp := true, flitFailures := 0 } })

/-- Reset and boot; the fleet block. -/
def Obligations.BootAndFleetBlock : Prop := booting ∧ fleetBlock

/-- Power states, shedding and throttling; soft errors and the links. -/
def Obligations.PowerAndErrors : Prop := powerRules ∧ softErrors

/-! ## The Rilsola fabric (R351 to R357, R392) -/

/-- The fabric's fields changed alone. -/
def Sys2Proof.Claim.fabricked (s : State) (f : Fabric → Fabric) : State := { s with fabric := f s.fabric }

/-- The ports are up. -/
def Sys2Proof.Claim.portsUp (s : State) : Prop := s.ctl.straps.getLsbD 16 = true ∧ s.ctl.boot = .run

/-- This package's index. -/
def Sys2Proof.Claim.ownIndex (s : State) : Nat := s.ctl.straps.toNat % 2 ^ 6

/-- The entry grants the request (R354). -/
def Sys2Proof.Claim.grants (g : Grant) (pkg subtree addr len : Nat) (write : Bool) : Prop :=
  g.valid = true ∧ g.subtree = subtree ∧ g.reqmask.getLsbD pkg = true ∧ (write = true → g.w = true) ∧ (write = false → g.r = true) ∧
  g.base.toNat ≤ addr ∧ addr + len ≤ g.base.toNat + g.length.toNat

/-- An access of another package to a word meets this package's parties whatever that package has acquired (R79, R86, R88); and it meets
none of them. -/
def Sys2Proof.Claim.meetsHere (s : State) (w : Nat) (write : Bool) : Prop :=
  s.tracks w = true ∧ ((∃ h ∈ s.groups, w ∈ h.writes ∨ (write = true ∧ w ∈ h.reads)) ∨
    (∃ p ∈ s.pendingWrites, p.word = w ∧ ∀ r ∈ p.released, r.scope < 4) ∨ ∃ c ∈ s.commands, c.touches w write = true)
def Sys2Proof.Claim.meetsNone (s : State) (w : Nat) (write : Bool) : Prop :=
  s.tracks w = false ∨ ((∀ h ∈ s.groups, w ∉ h.writes ∧ (write = true → w ∉ h.reads)) ∧ (∀ p ∈ s.pendingWrites, p.word ≠ w) ∧
    ∀ c ∈ s.commands, c.touches w write = false)

/-- Packets, paths and requests of other packages: an arriving packet may acknowledge any that are under way to its package. -/
def Sys2Proof.Claim.transport : Prop :=
  (∀ (s : State) pkg path seq, portsUp s → (pkg, path) ∈ s.fabric.paths →
    ∃ sent, sent.Sublist s.fabric.sent ∧ (∀ p ∈ s.fabric.sent, p.pkg ≠ pkg → p ∈ sent) ∧
    (s.fabric.received.contains (pkg, seq) = true → exec (.fabricPacketReceive pkg path seq) s = .next (fabricked (woken s) (fun f =>
      { f with sent := sent, acks := f.acks ++ [(pkg, seq)] }))) ∧
    (s.fabric.received.contains (pkg, seq) = false → exec (.fabricPacketReceive pkg path seq) s = .next (fabricked (woken s) (fun f =>
      { f with sent := sent, acks := f.acks ++ [(pkg, seq)], received := f.received ++ [(pkg, seq)] })))) ∧
  (∀ (s : State) pkg seq, portsUp s → (∀ p ∈ s.fabric.sent, p.pkg = pkg → p.seq ≠ seq) →
    ((∀ path, (pkg, path) ∉ s.fabric.paths) → exec (.packetRetransmit pkg seq) s = .next s) ∧
    ((∃ path, (pkg, path) ∈ s.fabric.paths) → ∃ path, (pkg, path) ∈ s.fabric.paths ∧ exec (.packetRetransmit pkg seq) s = .next (fabricked s (fun f =>
      { f with sent := f.sent ++ [{ pkg := pkg, seq := seq, path := path, sent := s.uptime }] })))) ∧
  (∀ (s : State) pkg seq p, portsUp s → s.fabric.sent.find? (fun q => decide (q.pkg = pkg ∧ q.seq = seq)) = some p →
    ((∃ path, (pkg, path) ∈ s.fabric.paths ∧ path ≠ p.path) → ∃ path, (pkg, path) ∈ s.fabric.paths ∧ path ≠ p.path ∧
      exec (.packetRetransmit pkg seq) s = .next (fabricked (laterAt s (p.sent + 20000)) (fun f =>
        { f with sent := f.sent.filter (fun q => !decide (q.pkg = pkg ∧ q.seq = seq)) ++ [{ pkg := pkg, seq := seq, path := path, sent := max s.uptime (p.sent + 20000) }] }))) ∧
    ((∀ path, (pkg, path) ∈ s.fabric.paths → path = p.path) → exec (.packetRetransmit pkg seq) s = .next s)) ∧
  (∀ (s : State) pkg path, (∀ p ∈ s.fabric.sent, p.pkg = pkg → p.path ≠ path) ∨ (pkg, path) ∉ s.fabric.paths → exec (.pathRemoval pkg path) s = .next s) ∧
  (∀ (s : State) pkg path p, s.fabric.paths.Nodup → (pkg, path) ∈ s.fabric.paths →
    s.fabric.sent.find? (fun p => decide (p.pkg = pkg ∧ p.path = path)) = some p →
    let u := fabricked (laterAt s (p.sent + 1000000)) (fun f => { f with paths := f.paths.erase (pkg, path) })
    ((∀ q, (pkg, q) ∈ s.fabric.paths → q = path) → exec (.pathRemoval pkg path) s = .next u) ∧
    ((∀ op, (op, pkg, path) ∉ s.markers) → exec (.pathRemoval pkg path) s = .next u) ∧
    (∀ op q, (pkg, q) ∈ s.fabric.paths → q ≠ path → s.markers.Nodup → (op, pkg, path) ∈ s.markers → (∀ m ∈ s.markers, m.2 = (pkg, path) → m.1 = op) →
      ∃ t : State, (∀ m, m ∈ t.markers ↔ m ∈ s.markers ∧ m ≠ (op, pkg, path)) ∧
        ((∃ m ∈ s.markers, m.1 = op ∧ m ≠ (op, pkg, path)) → exec (.pathRemoval pkg path) s = .next t ∧ t = { u with markers := t.markers }) ∧
        ((∀ m ∈ s.markers, m.1 = op → m = (op, pkg, path)) → exec (.pathRemoval pkg path) s = .next t.serve ∧
          t = { u with markers := t.markers, groups := t.groups, commands := t.commands, pendingWrites := t.pendingWrites } ∧
          (∀ g, s.group? op = some g → t.group? op = some { g with written := 0 }) ∧
          ∀ w, w ∈ t.pendingWrites ↔ w ∈ s.pendingWrites ∧ ¬(w.gid = op ∧ w.pkg.isSome = true)))) ∧
  (∀ (s : State) pkg path, let known := s.fabric.paths.filter (fun p => decide (p.1 = pkg))
    (portsUp s → pkg < 64 → known.length < 8 → (pkg, path) ∉ s.fabric.paths → ∃ t, exec (.pathReturn pkg path) s = .next t ∧
      t = { fabricked s (fun f => { f with paths := f.paths ++ [(pkg, path)] }) with markers := t.markers } ∧
      (known ≠ [] → ∀ m, m ∈ t.markers ↔ m ∈ s.markers) ∧
      (known = [] → ∀ m, m ∈ t.markers ↔ (m ∈ s.markers ∧ m.2.1 ≠ pkg) ∨ (m.2 = (pkg, path) ∧ ∃ q, (m.1, pkg, q) ∈ s.markers))) ∧
    (¬ portsUp s ∨ 8 ≤ known.length ∨ (pkg, path) ∈ s.fabric.paths → exec (.pathReturn pkg path) s = .next s)) ∧
  (∀ (s : State) pkg path seq a n write, ¬ portsUp s → ∀ i ∈ [Instr.fabricPacketReceive pkg path seq, .packetRetransmit pkg seq, .remoteRequestCheck pkg a a n write],
    exec i s = .next s) ∧
  (∀ (s : State) pkg subtree addr len write, portsUp s →
    let refused := exec (.remoteRequestCheck pkg subtree addr len write) s =
      .next (fabricked (woken s) (fun f => { f with answers := f.answers ++ [(pkg, false)] }))
    ((∀ e ∈ s.fabric.grants, ¬ grants e.2 pkg subtree addr len write) → refused) ∧
    ((∃ i < len, backing (addr + i) = .none ∨ backing (addr + i) = .host ∨ ∃ k, backing (addr + i) = .package k) → refused) ∧
    (∀ i g, s.fabric.grants = [(i, g)] → grants g pkg subtree addr len write → addr + len ≤ 0x6000000000 → 0 < len →
      ∃ t h, exec (.remoteRequestCheck pkg subtree addr len write) s = .next t ∧
        h = { g with inflight := h.inflight } ∧ h.inflight ≤ g.inflight + 1 ∧ g.inflight ≤ h.inflight + 1 ∧
        let answered : State := fabricked (woken s) (fun f => { f with answers := f.answers ++ [(pkg, true)], grants := [(i, h)] })
        ((∃ w ∈ wordsOf addr len, meetsHere s w write) → t = answered) ∧
        ((∀ w ∈ wordsOf addr len, meetsNone s w write) →
          (∀ p, Sparse.get 0 t.hotness p = if addr / 0x10000 ≤ p ∧ p ≤ (addr + len - 1) / 0x10000 then min 0xFFFF (Sparse.get 0 s.hotness p + 1)
            else Sparse.get 0 s.hotness p) ∧
          (write = false → t = { answered with hotness := t.hotness }) ∧
          (s.ops = [] → t.mem.veils = s.mem.veils ∧
            (∀ b, b < addr ∨ addr + len ≤ b → t.mem.byte b = s.mem.byte b) ∧ ∀ w, t.mem.full w = s.mem.full w)))) ∧
  (∀ (s : State) (v : BitVec 64),
    (s.ctl.straps.getLsbD 16 = true → exec (.ptpSync v) s = .next { s with time := v.toNat, security := { s.security with timeSet := true } }) ∧
    (s.ctl.straps.getLsbD 16 = false → exec (.ptpSync v) s = .next s))

/-- A rotation, and a switch of it under way. -/
def Sys2Proof.Claim.rotating (s : State) (g : Gang) (w : Option Switch) : Prop := s.fabric.gang = some g ∧ g.switch = w

/-- The level-1 insets of a subtree number here. -/
def Sys2Proof.Claim.member (n : Nat) (x : Inset) : Prop := x.level = 1 ∧ n ≠ 0 ∧ x.subtree = n

/-- The subtree still holds a core. -/
def Sys2Proof.Claim.holdsCores (s : State) (n : Nat) : Prop :=
  ∃ u ∈ s.teams, u.seated = true ∧ ∃ x ∈ s.insets, member n x ∧ s.under x.id (s.teamInset u) = true

/-- The next tick of R356 by the device clock, as an instant since reset. -/
def Sys2Proof.Claim.tickOf (s : State) (g : Gang) (at_ : Nat) : Prop := s.time ≤ at_ ∧ at_ % (1000 * g.period) = 0 ∧ at_ < s.time + 1000 * g.period

/-- The gang rotation. -/
def Sys2Proof.Claim.gangRules : Prop :=
  (∀ (s : State) g, rotating s g none → 2 ≤ g.slots.length → 0 < g.period → (s.insets.map (·.id)).Nodup →
    ∃ t at_ w, exec .gangTick s = .next t ∧ tickOf s g at_ ∧ t.time = at_ ∧ t.uptime = s.uptime + (at_ - s.time) ∧
      t.fabric = { s.fabric with gang := some { g with ready := 0, switch := some w } } ∧
      w.tick = at_ ∧ w.outgoing = g.slots.getD g.current 0 ∧ w.decision = none ∧
      (let n := g.slots.getD ((g.current + 1) % g.slots.length) 0
       ((∀ x ∈ s.insets, member n x → x.frozen = false ∧ x.revoking = false) → w.incoming = some n) ∧
       ((∃ x ∈ s.insets, member n x ∧ (x.frozen = true ∨ x.revoking = true)) → w.incoming = none)) ∧
      (∀ u ∈ t.insets, u.ganged = true ∨ ∀ n ∈ g.slots, ¬ member n u) ∧
      (s.teams = [] → t = { laterAt s (s.uptime + (at_ - s.time)) with
        fabric := t.fabric
        insets := s.insets.map (fun x : Inset => if g.slots.any (fun n => decide (x.level = 1 ∧ n ≠ 0 ∧ x.subtree = n)) then { x with ganged := true } else x) })) ∧
  (∀ (s : State) g w pkg, rotating s g (some w) → w.tick + 20000 < s.time → exec (.gangReady pkg) s = .next s) ∧
  (∀ (s : State) g w pkg, rotating s g (some w) → w.decision = none → s.time ≤ w.tick + 20000 → pkg < 64 →
    let come := (fabricked s (fun f => { f with gang := some { g with ready := g.ready ||| BitVec.ofNat 64 (2 ^ pkg) } }))
    (pkg = ownIndex s → ¬ holdsCores s w.outgoing → exec (.gangReady pkg) s = .next come) ∧
    (pkg = ownIndex s → holdsCores s w.outgoing → exec (.gangReady pkg) s = .next s) ∧
    (pkg ≠ ownIndex s → g.coordinator = ownIndex s → exec (.gangReady pkg) s = .next come) ∧
    (pkg ≠ ownIndex s → g.coordinator ≠ ownIndex s → exec (.gangReady pkg) s = .next s)) ∧
  (∀ (s : State) g w, rotating s g (some w) → w.decision = none → g.coordinator = ownIndex s → s.bufferFull = false →
    let all := ∀ k < 64, (k = ownIndex s ∨ ∃ n ∈ g.slots, ∃ x ∈ s.insets, member n x ∧ x.packages.getLsbD k = true) → g.ready.getLsbD k = true
    let decided (b : Bool) : State :=
      fabricked (laterAt s (s.uptime + (w.tick + 20000 - s.time))) (fun f => { f with gang := some { g with switch := some { w with decision := some b } } })
    (all → exec .gangDecision s = .next (decided true)) ∧
    (¬ all → ∃ r, told r 0 0x35 0 0 0 ∧ r.route = 0 ∧ exec .gangDecision s = .next { decided false with records := s.records ++ [r] })) ∧
  (∀ (s : State) g w, rotating s g (some w) →
    ((g.coordinator = ownIndex s → w.decision = some true) → (g.coordinator ≠ ownIndex s → g.ready.getLsbD (ownIndex s) = true) →
      ∃ t, exec .commit s = .next t ∧ t = { fabricked s (fun f => { f with gang := some { g with current := (g.current + 1) % g.slots.length, ready := 0, switch := none } }) with
          insets := t.insets } ∧
        (w.incoming = none → t.insets = s.insets) ∧
        (∀ n, w.incoming = some n → (s.insets.map (·.id)).Nodup → t.insets = s.insets.map (fun x : Inset =>
          if x.level = 1 ∧ n ≠ 0 ∧ x.subtree = n then { x with ganged := false } else x))) ∧
    ((g.coordinator = ownIndex s → w.decision = some false) → (s.insets.map (·.id)).Nodup → (s.teams.map (·.tid)).Nodup →
      ∃ t, exec .abort s = .next t ∧ t = { fabricked s (fun f => { f with gang := some { g with ready := 0, switch := none } }) with
          insets := s.insets.map (fun x : Inset => if x.level = 1 ∧ w.outgoing ≠ 0 ∧ x.subtree = w.outgoing then { x with ganged := false } else x)
          teams := t.teams } ∧
        ∀ (k : Nat) (u v : Team), s.teams[k]? = some u → t.teams[k]? = some v → v = u ∨ (u.runs = true ∧ v = { u with residency := .resident, bound := none })) ∧
    (g.coordinator = ownIndex s → w.decision = none → exec .commit s = .next s ∧ exec .abort s = .next s))

/-- Transport over the fabric, remote checks, device time, and the gang rotation. -/
def Obligations.Fabric : Prop := transport ∧ gangRules

/-! ## The Security Core: keys, attestation, sealing, migration (R381 to R389) -/

/-- The Security Core's state changed alone. -/
def Sys2Proof.Claim.secured (s : State) (f : Security → Security) : State := { s with security := f s.security }

/-- The session state, and a response. -/
def Sys2Proof.Claim.sessionTo (s : State) (n : Nat) : State := secured s (fun x => { x with session := n })
def Sys2Proof.Claim.said (s : State) (code status : Nat) (payload : List Byte) : State :=
  secured s (fun x => { x with responses := x.responses ++ [{ code := code, status := status, payload := payload }] })

/-- An SPDM error, and the answer of a vendor request. -/
def Sys2Proof.Claim.spdmFails (s : State) (why : Nat) : State := said s 0x7F why []
def Sys2Proof.Claim.replies (s : State) (code : Nat) : State := said s 0x7E code []

/-- A request reaches the responder. -/
def Sys2Proof.Claim.reached (s : State) : Prop := s.fabric.linkUp = true ∧ s.ctl.boot ≠ .rom

/-- The top-level leaf of the present. -/
def Sys2Proof.Claim.leafNow (s : State) : Nat := s.time / (16 * 10 ^ 9) % 2 ^ 25

/-- A signed response: it takes a leaf of the bottom tree in use, else a fresh top-level leaf, else waits for one (R383). -/
def Sys2Proof.Claim.signs (s : State) (o : Host.Outcome State Fault Refusal) (code status : Nat) (payload : List Byte) : Prop :=
  (s.security.tree ≠ none → s.security.leaves < 32768 → o = .next (said (secured s (fun x => { x with leaves := x.leaves + 1 })) code status payload)) ∧
  (s.security.tree = none ∨ (32768 ≤ s.security.leaves ∧ s.security.tree ≠ some (leafNow s)) →
    o = .next (said (secured s (fun x => { x with tree := some (leafNow s), leaves := 1 })) code status payload)) ∧
  (32768 ≤ s.security.leaves → s.security.tree = some (leafNow s) → o = .next (secured s (fun x =>
    { x with awaiting := x.awaiting ++ [{ code := code, status := status, payload := payload }] })))

/-- A measurement block (R384). -/
def Sys2Proof.Claim.measured (s : State) (i : Nat) : List Byte :=
  if i = 1 then (List.range 48).map Config.romDigest
  else if i = 2 then (List.range 48).map (Config.digest s.security.payload)
  else if i = 3 then natBytes 4 s.security.version ++ natBytes 4 s.ctl.straps.toNat
  else if i = 4 then [if s.ctl.straps.getLsbD 17 then 1 else 0] else []

/-- The vendor requests. -/
def Sys2Proof.Claim.vendorRequests (slot inset addr block : Nat) (key : BitVec 512) (bases : List Nat) : List Instr :=
  [.keyload slot key, .keykill slot, .keystat slot, .unsealInset addr bases, .migin addr block bases, .migabort inset, .migstat inset]

/-- The requests of R384 by the state of their connection; vendor requests only inside a secured session. -/
def Sys2Proof.Claim.attestation : Prop :=
  (∀ (s : State), reached s → let n := s.security.session
    exec .getVersion s = .next (said (sessionTo s 1) 0x04 0x12 []) ∧
    (n = 1 → exec .getCapabilities s = .next (said (sessionTo s 2) 0x61 0 [])) ∧ (n ≠ 1 → exec .getCapabilities s = .next (spdmFails s 4)) ∧
    (n = 2 → exec (.negotiateAlgorithms true) s = .next (said (sessionTo s 3) 0x63 0 []) ∧ exec (.negotiateAlgorithms false) s = .next (spdmFails s 7)) ∧
    (∀ b, n ≠ 2 → exec (.negotiateAlgorithms b) s = .next (spdmFails s 4)) ∧
    (3 ≤ n → exec .getDigests s = .next (said s 0x01 1 []) ∧ exec (.getCertificate 0) s = .next (said s 0x02 0 [])) ∧
    (∀ nonce, 3 ≤ n → signs s (exec (.challenge 0 nonce) s) 0x03 0 (natBytes 32 nonce.toNat)) ∧
    (∀ nonce, 3 ≤ n → signs s (exec (.getMeasurements 0 nonce) s) 0x60 4 (natBytes 32 nonce.toNat)) ∧
    (∀ nonce i, 3 ≤ n → 1 ≤ i → i ≤ 4 → signs s (exec (.getMeasurements i nonce) s) 0x60 1 (measured s i ++ natBytes 32 nonce.toNat)) ∧
    (∀ nonce, 3 ≤ n → signs s (exec (.getMeasurements 0xFF nonce) s) 0x60 4
      (measured s 1 ++ measured s 2 ++ measured s 3 ++ measured s 4 ++ natBytes 32 nonce.toNat)) ∧
    (∀ nonce i, 3 ≤ n → 4 < i → i ≠ 0xFF → exec (.getMeasurements i nonce) s = .next (spdmFails s 1)) ∧
    (∀ slot nonce, 3 ≤ n → slot ≠ 0 → ∀ i ∈ [Instr.getCertificate slot, .challenge slot nonce], exec i s = .next (spdmFails s 1)) ∧
    (∀ slot nonce, n < 3 → ∀ i ∈ [Instr.getDigests, .getCertificate slot, .challenge slot nonce, .getMeasurements slot nonce], exec i s = .next (spdmFails s 4)) ∧
    (n = 3 → signs (sessionTo s 4) (exec (.keyExchange 0) s) 0x64 0 []) ∧
    (∀ slot, n = 3 → slot ≠ 0 → exec (.keyExchange slot) s = .next (spdmFails s 1)) ∧
    (∀ slot, n ≠ 3 → exec (.keyExchange slot) s = .next (spdmFails s 4)) ∧
    (n = 4 → exec (.finish true) s = .next (said (sessionTo s 5) 0x65 0 []) ∧ exec (.finish false) s = .next (spdmFails (sessionTo s 3) 6)) ∧
    (∀ b, n ≠ 4 → exec (.finish b) s = .next (spdmFails s 4)) ∧
    (n = 5 → exec .endSession s = .next (said (sessionTo s 3) 0x6C 0 [])) ∧ (n ≠ 5 → exec .endSession s = .next (spdmFails s 4))) ∧
  (∀ (s : State) slot inset addr block key bases, ∀ i ∈ vendorRequests slot inset addr block key bases,
    (reached s → s.security.session ≠ 5 → exec i s = .next (spdmFails s 4)) ∧ (¬ reached s → exec i s = .next s)) ∧
  (∀ (s : State) inset addr size bound, reached s → s.security.session ≠ 5 → s.inset? inset = none →
    ∀ i ∈ [Instr.sealInset inset addr size bound, .migout inset bound], exec i s = .next (spdmFails s 4)) ∧
  (∀ (s : State), let u := if s.security.tree = some (leafNow s) then laterAt s (s.uptime + ((s.time / (16 * 10 ^ 9) + 1) * (16 * 10 ^ 9) - s.time)) else s
    (s.security.awaiting ≠ [] → exec .freshTopLevelLeaf s = .next (secured u (fun x => { x with
      tree := some (leafNow u), leaves := min 32768 x.awaiting.length, responses := x.responses ++ x.awaiting.take 32768, awaiting := x.awaiting.drop 32768 }))) ∧
    (s.security.awaiting = [] → exec .freshTopLevelLeaf s = .next s))

/-- A vendor request inside a secured session. -/
def Sys2Proof.Claim.inSession (s : State) : Prop := reached s ∧ s.security.session = 5

/-- The state of a key slot. -/
def Sys2Proof.Claim.keyAt (s : State) (n : Nat) : KeySlot := (findKey s.security.keys n).getD .empty

/-- One key slot changed. -/
def Sys2Proof.Claim.keyed (s : State) (ks : List (Nat × KeySlot)) : State := secured s (fun x => { x with keys := ks })
def Sys2Proof.Claim.onlyKey (s : State) (ks : List (Nat × KeySlot)) (n : Nat) (k : KeySlot) : Prop :=
  ∀ j, (findKey ks j).getD .empty = if j = n then k else keyAt s j

/-- Key slots by R381 and R382. -/
def Sys2Proof.Claim.keySlots : Prop :=
  (∀ (s : State) slot (key : BitVec 512), inSession s → 0 < slot → slot < 64 → let named := ∃ x ∈ s.insets, ∃ r ∈ x.ranges, r.key = slot
    (keyAt s slot = .empty → ∃ ks, onlyKey s ks slot (.loaded key) ∧ exec (.keyload slot key) s = .next (replies (keyed s ks) 0)) ∧
    (keyAt s slot ≠ .empty → exec (.keyload slot key) s = .next (replies s 2)) ∧
    (∀ v, keyAt s slot = .loaded v → ¬ named → ∃ ks, onlyKey s ks slot (.killing 0 true) ∧ exec (.keykill slot) s = .next (keyed s ks)) ∧
    (named ∨ (∀ v, keyAt s slot ≠ .loaded v) → exec (.keykill slot) s = .next (replies s 2)) ∧
    (keyAt s slot = .empty → exec (.keystat slot) s = .next (said s 0x7E 0 [0, 0])) ∧
    (∀ v, keyAt s slot = .loaded v → exec (.keystat slot) s = .next (said s 0x7E 0 [1, 0])) ∧
    (∀ done a, keyAt s slot = .killing done a → ∃ b : Byte, exec (.keystat slot) s = .next (said s 0x7E 0 [2, b]) ∧ ∀ j < 8, b.getLsbD j = !done.getLsbD j)) ∧
  (∀ (s : State) slot (key : BitVec 512), inSession s → slot = 0 ∨ 64 ≤ slot → ∀ i ∈ [Instr.keyload slot key, .keykill slot, .keystat slot],
    exec i s = .next (replies s 3)) ∧
  (∀ (s : State) slot die done answer, keyAt s slot = .killing done answer → die < 8 →
    ((∃ j < 8, j ≠ die ∧ done.getLsbD j = false) → ∃ ks, ∃ b : BitVec 8, onlyKey s ks slot (.killing b answer) ∧
      (∀ j < 8, b.getLsbD j = (done.getLsbD j || decide (j = die))) ∧ exec (.killConfirm slot die) s = .next (keyed s ks)) ∧
    ((∀ j < 8, j ≠ die → done.getLsbD j = true) → ∃ ks, onlyKey s ks slot .empty ∧
      exec (.killConfirm slot die) s = .next (if answer then replies (keyed s ks) 0 else keyed s ks))) ∧
  (∀ (s : State) slot die, (∀ done a, keyAt s slot ≠ .killing done a) → exec (.killConfirm slot die) s = .next s)

/-- A level-1 inset by its name. -/
def Sys2Proof.Claim.levelOne (s : State) (id : Nat) (x : Inset) : Prop := s.inset? id = some x ∧ x.parent = 0 ∧ x.id = id

/-- Alone in its subtree, with nothing of it left in the package. -/
def Sys2Proof.Claim.bare (s : State) (x : Inset) : Prop :=
  s.subtree x.id = [x] ∧ (s.insets.map (·.id)).Nodup ∧ (∀ z ∈ s.insets, z.id ≠ 0) ∧ s.commands = [] ∧ s.grids = [] ∧ s.teams = [] ∧ s.groups = [] ∧ s.ops = [] ∧ s.records = [] ∧
  s.outstanding = [] ∧ (∀ v ∈ s.surveys, v.running = none ∧ v.pending = none) ∧ x.pendingBreaks = []

/-- What enciphers a range of HBM, once it is granted under a loaded key (R378). -/
def Sys2Proof.Claim.enciphers (s : State) (r : RootRange) (v : Veil) : Prop :=
  r.base < 0x6000000000 ∧ ∃ key, keyAt s r.key = .loaded key ∧ v = { base := r.base, size := r.length, key := key.toNat, tweak := r.tweak }

/-- The inset is gone, the keys that only it named are being killed, and no range of its is enciphered any more: ciphertext stays where it
is. -/
def Sys2Proof.Claim.goneWithKeys (s t : State) (x : Inset) : Prop :=
  (t.mem.veils.Sublist s.mem.veils ∧ (s.mem.veils.Nodup → ∀ r ∈ x.ranges, ∀ v, enciphers s r v → v ∉ t.mem.veils)) ∧
  t.insets = s.insets.filter (fun z => decide (z.id ≠ x.id)) ∧
  ∀ k, keyAt t k = match keyAt s k with
    | .loaded v => if k ≠ 0 ∧ (∃ r ∈ x.ranges, r.key = k) ∧ ∀ z ∈ s.insets, z.id ≠ x.id → ∀ r ∈ z.ranges, r.key ≠ k then .killing 0 false else .loaded v
    | other => other

/-- A seal freezes the inset and, once the freeze has ended, leaves an image in host memory and releases the inset; it comes back once. -/
def Sys2Proof.Claim.sealing : Prop :=
  (∀ (s : State) inset addr size bound, inSession s → (∀ x, s.inset? inset = some x → x.parent ≠ 0) →
    ∀ i ∈ [Instr.sealInset inset addr size bound, .migout inset bound], exec i s = .next (replies s 1)) ∧
  (∀ (s : State) inset addr size bound x, levelOne s inset x → x.sealing = false → inSession s →
    (s.confidential = false → exec (.sealInset inset addr size bound) s = .next (replies s 2)) ∧
    (s.confidential = true → s.security.sealed.length < 256 → let u := { s with insets := s.insets.map (fun z : Inset => if z.id = inset then { z with sealing := true } else z) }
      (x.frozen = false → exec (.sealInset inset addr size bound) s = .next (State.freezeInset u inset (some (bound % 2 ^ 32)) 1)) ∧
      (x.frozen = true → exec (.sealInset inset addr size bound) s = .next u)) ∧
    (s.confidential = true → 256 ≤ s.security.sealed.length → exec (.sealInset inset addr size bound) s = .next (replies s 5))) ∧
  (∀ (s : State) inset addr size bound x, levelOne s inset x → x.sealing = true → s.bufferFull = false → s.fabric.linkUp = true →
    (s.freezeDone inset = false → exec (.sealInset inset addr size bound) s = .next s) ∧
    (s.freezeDone inset = true → (∃ c ∈ s.commands, s.under inset c.inset = true ∧ s.blocked c = true) → x.pendingBreaks = [] →
      exec (.sealInset inset addr size bound) s = .next (replies { s with
        insets := s.insets.map (fun z : Inset => if z.id = inset then { z with sealing := false, pendingBreaks := [] } else z) } 0xA)) ∧
    (bare s x → s.freezeDone inset = true → s.sealSize x ≤ size → s.security.sealed.length < 256 →
      0x800000000000 + addr + s.sealSize x ≤ 2 ^ 48 → (∀ v ∈ s.mem.veils, v.base + v.size ≤ 0x6000000000) →
      ∃ t d m, exec (.sealInset inset addr size bound) s = .next t ∧ goneWithKeys s t x ∧
        onlyWithin m s.mem (0x800000000000 + addr) (s.sealSize x) ∧ t.mem = { m with veils := t.mem.veils } ∧ d.size = s.sealSize x ∧ d.nonce = s.security.nextNonce ∧ d.insets = [x] ∧
        t.mem.bytes (0x800000000000 + addr) d.size = (List.range d.size).map (Config.freeByte 1 d.nonce) ∧
        (∀ k v, (k, v) ∈ d.keys ↔ k ≠ 0 ∧ (∃ r ∈ x.ranges, r.key = k) ∧ keyAt s k = .loaded v) ∧
        t.security = { s.security with
          keys := t.security.keys
          sealed := s.security.sealed ++ [d]
          nextNonce := s.security.nextNonce + 1
          responses := s.security.responses ++ [{ code := 0x7E, status := 0, payload := [] }] })) ∧
  (∀ (s : State) addr bases, inSession s → (∀ d ∈ s.security.sealed, s.mem.bytes (0x800000000000 + addr) d.size ≠ (List.range d.size).map (Config.freeByte 1 d.nonce)) →
    exec (.unsealInset addr bases) s = .next (replies s 0xB)) ∧
  (∀ (s : State) addr b d x q v id share k, inSession s → s.security.sealed = [d] →
    s.mem.bytes (0x800000000000 + addr) d.size = (List.range d.size).map (Config.freeByte 1 d.nonce) →
    d.insets = [x] → d.grids = [] → d.clusters = [] → d.teams = [] → d.groups = [] → d.ops = [] → d.outstanding = [] → d.images = [] → d.keys = [(q.key, v)] →
    x.level = 1 → x.ranges = [q] → q.base < 0x6000000000 → b % 0x10000 = 0 → b + q.length ≤ 0x5FFFFF0000 → q.length % 0x10000 = 0 → 0 < q.length → s.ops = [] →
    d.vaults = State.reset.mem → (∀ z ∈ s.insets, z.id ≠ 0 ∧ x.cores &&& z.cores = 0) → x.qslots ≤ s.ownSlots 0 → 1 + x.iquota ≤ s.ownQuota 0 →
    freeNames s 0 id share → 0 < k → k < 64 → keyAt s k = .empty → (∀ j, 0 < j → j < k → keyAt s j ≠ .empty) →
    ∃ t y, exec (.unsealInset addr [b]) s = .next t ∧ t.insets = s.insets ++ [y] ∧ y.ranges = [{ q with base := b, key := k }] ∧ y.frozen = true ∧
      (let n := fun i => if i = x.id then id else i
       y.pendingBreaks = x.pendingBreaks.map (fun r : Record => { r with src := n r.src, route := n r.route, dest := r.dest.map n, seq := r.seq.map (fun w => (n w.1, w.2)) })) ∧
      y = { x with
        id := id
        parent := 0
        share := share
        frozen := true
        ranges := y.ranges
        shed := false
        ganged := false
        revoking := false
        sealing := false
        e := 0
        l := 0
        ownE := 0
        ownL := 0
        balance := 0
        slowed := false
        buckets := []
        pendingBreaks := y.pendingBreaks
        tablePages := y.tablePages } ∧
      (∀ j, keyAt t j = if j = k then .loaded v else keyAt s j) ∧
      t.mem = { s.mem with veils := { base := b, size := q.length, key := v.toNat, tweak := q.tweak } :: s.mem.veils } ∧ t.security.sealed = [] ∧
      t.security.responses = s.security.responses ++ [{ code := 0x7E, status := 0, payload := natBytes 4 id }])

/-- A migration the Security Core knows. -/
def Sys2Proof.Claim.migrating (s : State) (inset : Nat) (m : Migration) : Prop :=
  s.security.migrations.find? (fun n => decide (n.inset = inset)) = some m ∧ m.inset = inset

/-- It stands with another code, and a message is sent. -/
def Sys2Proof.Claim.moved (s : State) (m : Migration) (code : Nat) : State :=
  secured s (fun y => { y with migrations := y.migrations.filter (fun n => decide (n.inset ≠ m.inset)) ++ [{ m with code := code }] })
def Sys2Proof.Claim.tells (s : State) (kind inset : Nat) : State := secured s (fun y => { y with messages := y.messages ++ [(kind, inset)] })

/-- The inset runs again. -/
def Sys2Proof.Claim.thawedAt (s : State) (inset : Nat) : State :=
  { s with insets := s.insets.map (fun z : Inset => if z.id = inset then { z with frozen := false } else z) }

/-- The steps of R388 and the failures of R389. -/
def Sys2Proof.Claim.migration : Prop :=
  (∀ (s : State) inset bound x, levelOne s inset x → s.security.migrations = [] → inSession s →
    let u : State := secured s (fun y => { y with migrations := [{ inset := inset, source := true, code := 0, since := s.uptime, asked := s.uptime }] })
    (s.confidential = true → x.sealing = false → x.frozen = false → exec (.migout inset bound) s = .next (State.freezeInset u inset (some (bound % 2 ^ 32)) 1)) ∧
    (s.confidential = true → x.sealing = false → x.frozen = true → exec (.migout inset bound) s = .next u) ∧
    (s.confidential = false ∨ x.sealing = true → exec (.migout inset bound) s = .next (replies s 2))) ∧
  (∀ (s : State) inset bound x m, levelOne s inset x → migrating s inset m → m.source = true → m.code = 0 →
    (s.freezeDone inset = false → exec (.migout inset bound) s = .next s) ∧
    (s.freezeDone inset = true → (∀ c ∈ s.commands, s.under inset c.inset = false) →
      exec (.migout inset bound) s = .next (replies (moved s { m with since := s.uptime, asked := s.uptime } 1) 0))) ∧
  (∀ (s : State) addr block bs bases id share, inSession s →
    (s.confidential = false → exec (.migin addr block bases) s = .next (replies s 2)) ∧
    (s.confidential = true → block % 128 = 0 → hostBlockAt s block 128 bs → 0x800000000000 + addr < 2 ^ 48 → blockZeros bs → blockLimits bs → dword bs 0x40 = 0 →
      freeNames s 0 id share → s.insets.length < 1024 → (∀ z ∈ s.insets, z.id ≠ 0) → (∀ z ∈ s.insets, blockCores bs &&& z.cores = 0) →
      field bs 0x18 24 8 ≤ s.ownSlots 0 → 1 + field bs 0x18 0 11 ≤ s.ownQuota 0 →
      exec (.migin addr block []) s = .next (replies s 0xB) ∨
      ∃ t y, exec (.migin addr block []) s = .next t ∧ t = { s with insets := s.insets ++ [y], security := t.security } ∧
        y.id = id ∧ y.level = 1 ∧ y.parent = 0 ∧ y.tbase = dword bs 0 ∧ y.cw = field bs 0x14 16 16 ∧ y.cores = blockCores bs ∧ y.share = share ∧
        y.frozen = true ∧ y.ranges = [] ∧
        t.security = { s.security with
          migrations := s.security.migrations.filter (fun n => decide (n.inset ≠ id)) ++ [{ inset := id, source := false, code := 2, since := s.uptime, asked := s.uptime }]
          messages := s.security.messages ++ [(0, id)]
          responses := s.security.responses ++ [{ code := 0x7E, status := 0, payload := natBytes 4 id }] })) ∧
  (∀ (s : State) inset m, migrating s inset m → s.security.session = 5 → s.fabric.linkUp = true →
    (m.source = true → m.code = 1 → ∀ x, levelOne s inset x → bare s x →
      ∃ t, exec (.verified inset true) s = .next t ∧ goneWithKeys s t x ∧ t.mem = { s.mem with veils := t.mem.veils } ∧
        t.security = { (replies (tells (moved s { m with since := s.uptime, asked := s.uptime } 3) 1 inset) 0).security with keys := t.security.keys }) ∧
    (m.source = true → m.code = 6 → exec (.verified inset true) s = .next (replies (tells s 3 inset) 0)) ∧
    (m.source = false → m.code = 2 ∨ m.code = 7 → (∀ u ∈ s.teams, u.refused = false) →
      exec (.erased inset true) s = .next (replies (tells (moved (thawedAt s inset) m 4) 2 inset) 0)) ∧
    (m.source = false → m.code = 4 → exec (.erased inset true) s = .next (replies (tells s 2 inset) 0)) ∧
    (m.source = true → m.code = 3 → exec (.active inset true) s = .next (replies (moved s m 5) 0)) ∧
    (m.source = false → m.code = 2 ∨ m.code = 7 → exec (.aborted inset true) s = .next (replies (moved s m 6) 0))) ∧
  (∀ (s : State) inset b, s.security.session = 5 → b = false ∨ (∀ m ∈ s.security.migrations, m.inset ≠ inset) →
    ∀ i ∈ [Instr.verified inset b, .erased inset b, .active inset b, .aborted inset b], exec i s = .next s) ∧
  (∀ (s : State) inset b, s.security.session ≠ 5 → reached s →
    ∀ i ∈ [Instr.verified inset b, .erased inset b, .active inset b, .aborted inset b], exec i s = .next (spdmFails s 4)) ∧
  (∀ (s : State) inset m, migrating s inset m → inSession s →
    (m.source = true → m.code ≤ 1 → (∀ u ∈ s.teams, u.refused = false) →
      exec (.migabort inset) s = .next (replies (tells (moved (thawedAt s inset) m 6) 3 inset) 0)) ∧
    (m.source = true → 2 ≤ m.code → exec (.migabort inset) s = .next (replies s 2)) ∧
    (m.source = false → m.code ≠ 6 → exec (.migabort inset) s = .next (replies s 2)) ∧
    (m.source = false → m.code = 6 → ∀ x, levelOne s inset x → bare s x → ∃ t, exec (.migabort inset) s = .next t ∧ goneWithKeys s t x ∧ t.mem = { s.mem with veils := t.mem.veils } ∧
      t.security = { (replies s 0).security with
        keys := t.security.keys
        migrations := s.security.migrations.filter (fun n => decide (n.inset ≠ inset)) }) ∧
    exec (.migstat inset) s = .next (said s 0x7E 0 (natBytes 3 m.code))) ∧
  (∀ (s : State) inset, inSession s → (∀ m ∈ s.security.migrations, m.inset ≠ inset) →
    exec (.migstat inset) s = .next (said s 0x7E 0 [0, 0, 0]) ∧
    ((∀ x, s.inset? inset = some x → x.parent ≠ 0) → exec (.migabort inset) s = .next (replies s 1))) ∧
  (∀ (s : State) inset m, migrating s inset m →
    (m.source = false → m.code = 2 → m.asked + 10 ^ 9 ≤ m.since + 60 * 10 ^ 9 → let u := laterAt s (m.asked + 10 ^ 9)
      exec (.erasedRequest inset) s = .next (tells (moved u { m with asked := u.uptime } 2) 4 inset)) ∧
    (m.source = true ∨ m.code ≠ 2 ∨ m.since + 60 * 10 ^ 9 < m.asked + 10 ^ 9 → exec (.erasedRequest inset) s = .next s) ∧
    (m.source = true → m.code = 3 → exec (.erasedResend inset) s = .next (tells (moved s { m with asked := s.uptime } 3) 1 inset)) ∧
    (m.source = false ∨ m.code ≠ 3 → exec (.erasedResend inset) s = .next s) ∧
    (m.source = false → m.code = 2 → exec (.holdexpired inset) s = .next (moved (laterAt s (m.since + 60 * 10 ^ 9)) m 7)) ∧
    (m.source = true ∨ m.code ≠ 2 → exec (.holdexpired inset) s = .next s))

/-- Attestation and key slots. -/
def Obligations.AttestationAndKeys : Prop := attestation ∧ keySlots

/-- Sealing for eviction, and migration. -/
def Obligations.SealingAndMigration : Prop := sealing ∧ migration

/-! ## The machine as a whole -/

/-- Time passes before a move, by amounts the model leaves free; an injection that has struck is logged in the fleet block, and nothing else in
memory changes (R365, R373). -/
def Sys2Proof.Claim.moment (s u : State) : Prop :=
  (s.mem.latent = none → u.mem = s.mem) ∧ u.mem.latent = none ∧ (∀ b, b < 0x5FFFFF0100 ∨ 0x6000000000 ≤ b → u.mem.byte b = s.mem.byte b) ∧
  ∃ k n, u = { s with mem := u.mem, oracle := s.oracle + 1, cycle := if s.power.pstate = 0 then s.cycle + k else s.cycle, time := s.time + n, uptime := s.uptime + n }

/-- The next word that a group's clause holds, as fetched. -/
def Sys2Proof.Claim.nextOf (s : State) (gid : Nat) (w : Word) : Prop :=
  ∃ g cl, s.group? gid = some g ∧ g.clause = some cl ∧ cl.words[cl.index]? = some w

/-- The group has something to issue: it runs, and is inside a clause or has not exited. -/
def Sys2Proof.Claim.runnable (s : State) (g : Group) : Prop := g.stop = none ∧ (g.clause ≠ none ∨ g.exited = false) ∧ s.mayIssue g = true

/-- A group's move changes nothing but which group is named as the issuer. -/
def Sys2Proof.Claim.waits (s : State) (gid : Nat) : Prop := ∃ i, moveGroup gid s = .next { s with issuer := i }

/-- A step runs the instruction that the decoder reads from the issuing group's next word; a word that it refuses takes its event and has no
effect; between clauses a group starts one; a step of the machine runs as it is given; with no move given, of the groups that can issue the
one that issued least recently does (R19, R25), and with nothing to move only time passes. -/
def Obligations.StepRunsDecoded : Prop :=
  (∀ (s : State) gid rest w, s.agenda = .issue gid :: rest → nextOf s gid w →
    ∃ u, moment s u ∧ let v : State := { u with agenda := rest, issuer := some gid }
      (∀ i, decode w = .ok i → step s = exec i v) ∧
      (∀ e lane c, decode w = .error e → lane = (w.toNat / 2 ^ 31 == 0) → v.ctx? lane = some c →
        step s = .next (c.take { kind := if e = .illegalOperand then 2 else 1, info := if lane then c.act else c.run, addr := c.cl.base }))) ∧
  (∀ (s : State) gid g rest, s.agenda = .issue gid :: rest → s.group? gid = some g → g.clause = none →
    ∃ u, moment s u ∧ step s = exec (.clauseStart gid) { u with agenda := rest, issuer := none }) ∧
  (∀ (s : State) i rest, s.agenda = .event i :: rest → ∃ u, moment s u ∧ step s = exec i { u with agenda := rest, issuer := none }) ∧
  (∀ (s : State), s.agenda = [] → s.groups = [] → ∃ u, moment s u ∧ step s = .next u) ∧
  (∀ (s : State), s.agenda = [] → ∃ u t, moment s u ∧ step s = .next t ∧
    ((t ≠ { u with issuer := t.issuer } ∧ ∃ g ∈ u.groups, runnable u g ∧ moveGroup g.gid u = .next t ∧
        ∀ h ∈ u.groups, runnable u h → h.recency < g.recency → waits u h.gid) ∨
      (t = u ∧ ∀ g ∈ u.groups, runnable u g → waits u g.gid))) ∧
  (∀ (s : State) (n : Nat) i, n < 2 ^ 32 → decodeTableWord 32 n = some i → (∀ g ∈ s.groups, g.gid ≠ s.fresh + 2) → ∃ v, step (s.withFetchWord 32 n) = exec i v ∧
    nextOf v (s.fresh + 2) (BitVec.ofNat 32 n) ∧ v.issuer = some (s.fresh + 2))

/-- The words of the worked examples of chapter 9 decode to the instructions they stand for, and the reserved ones to none. -/
def Obligations.DecodesWords : Prop :=
  decode 0x18082052#32 = .ok (.icmp 2 4 5 2) ∧ decode 0x000C2057#32 = .ok (.umin 3 4 5) ∧ decode 0x81AF66D4#32 = .ok (.ualuUmin 107 108 109) ∧
  decode 0x1018109B#32 = .ok (.leaS2 6 2 9) ∧ decode 0x98000003#32 = .ok (.fence 3) ∧
  (∀ w ∈ [0x10000009#32, 0x0C000020#32, 0x98000005#32, 0x8E000000#32, 0x52000000#32], ∀ i, decode w ≠ .ok i)

/-- Decoding and encoding agree on every word: a well-formed instruction that has a word is read back from it with every operand, and a word
that is read as an instruction is that instruction's word. -/
def Obligations.EncodeDecodeRoundTrip : Prop :=
  (∀ i w, i.wf = true → encode i = some w → decode w = .ok i) ∧ (∀ w i, decode w = .ok i → i.wf = true ∧ encode i = some w)

/-- Nothing is refused: every instruction and every step of the machine answers a next state in every state, but for a host access to an address
that R342 gives no memory. -/
def Obligations.NothingRefused : Prop :=
  ∀ (s : State) i, (∃ t, exec i s = .next t) ∨
    ∃ w off bs a, i = .hostMemoryAccess w off bs ∧ exec i s = .fault (.noSuchAddress a) ∧ backing a = .none

/-- Memory keeps its canonical form: bytes listed in rising order and none at what an unlisted byte reads as, tags and poison marks in rising
order. -/
def Obligations.MemoryFormKept : Prop := ∀ (s t : State), s.mem.wf = true → step s = .next t → t.mem.wf = true

/-- What reset leaves (R63, R343, R348, R365, R376, R392; the values that the log names among them: a full tag on every word, log 4). -/
def Obligations.ResetValues : Prop :=
  let s := State.reset
  s.mem.wf = true ∧ s.mem.veils = [] ∧ s.mem.latent = none ∧ (∀ a, s.mem.byte a = 0) ∧ (∀ w, s.mem.full w = true) ∧ (∀ a n, s.mem.poisoned a n = false) ∧
  s.ctl.boot = .rom ∧ s.ctl.bfail = 0 ∧ s.ctl.busy = false ∧ s.ctl.overrun = false ∧ s.ctl.args = List.replicate 8 0 ∧ s.ctl.evbase = 0 ∧
  s.ctl.evwrite = 0 ∧ s.ctl.evread = 0 ∧ s.ctl.dberr = 0 ∧ s.ctl.dmbase = 0 ∧ s.ctl.vectors = [] ∧ s.fabric.linkUp = true ∧ s.fabric.grants = [] ∧
  s.power.pstate = 0 ∧ s.power.throttle = 0 ∧ s.power.actions = [] ∧ s.power.easySince = none ∧ s.power.injmask = 0 ∧ s.time = 0 ∧ s.insets = [] ∧ s.grids = [] ∧ s.groups = [] ∧
  (∀ n, (findKey s.security.keys n).getD .empty = .empty) ∧ (∀ o, fleet s o = 0) ∧
  s.surveys.map (fun v => v.sequence) = List.replicate 8 1
end

