-- ==== Sys2Proof/Laws/Lane.lean ====
section
/-! SUPPORT. Lanes: sparse registers, short results under way, and what time and writes do to what a lane will hold (R127). -/
namespace Sys2Proof.Laws
open Sys2Proof.Machine Sys2Proof.Claim

/-! ## Sparse maps -/

theorem sparse_get_insert {α : Type} (d : α) (m : List (Nat × α)) (a b : Nat) (x : α) :
    Sparse.get d (Sparse.insert a x m) b = if b = a then x else Sparse.get d m b := by
  induction m with
  | nil => simp [Sparse.insert, Sparse.get]
  | cons e rest ih =>
    obtain ⟨k, v⟩ := e
    simp only [Sparse.insert]
    split
    · simp [Sparse.get]
    · split
      · subst_vars; simp only [Sparse.get]; split <;> simp_all
      · simp only [Sparse.get, ih]; split <;> split <;> simp_all

theorem sparse_get_erase {α : Type} (d : α) (m : List (Nat × α)) (a b : Nat) :
    Sparse.get d (m.filter (fun e => decide (e.1 ≠ a))) b = if b = a then d else Sparse.get d m b := by
  induction m with
  | nil => simp [Sparse.get]
  | cons e rest ih =>
    obtain ⟨k, v⟩ := e
    by_cases h : k = a
    · subst h; simp only [List.filter, ne_eq, not_true_eq_false, decide_false, Sparse.get]
      rw [show (List.filter (fun e => decide (e.1 ≠ k)) rest) = _ from rfl] at ih
      simp only [ne_eq] at ih; rw [ih]; split <;> simp_all
    · simp only [List.filter, ne_eq, h, not_false_eq_true, decide_true, Sparse.get]
      simp only [ne_eq] at ih; rw [ih]; split <;> split <;> simp_all

/-- Reading a map after a write. -/
theorem sparse_get_set {α : Type} [DecidableEq α] (d : α) (m : List (Nat × α)) (a b : Nat) (x : α) :
    Sparse.get d (Sparse.set d m a x) b = if b = a then x else Sparse.get d m b := by
  unfold Sparse.set
  split
  · rename_i h; rw [h]; exact sparse_get_erase d m a b
  · exact sparse_get_insert d m a b x

/-! ## Merged bits -/

theorem mergeBits_bit (o m v : Word) (j : Nat) :
    (mergeBits o m v).getLsbD j = if m.getLsbD j then v.getLsbD j else o.getLsbD j := by
  by_cases hj : j < 32
  · simp only [mergeBits, BitVec.getLsbD_or, BitVec.getLsbD_and, BitVec.getLsbD_not, hj, decide_true, Bool.true_and]
    cases m.getLsbD j <;> cases v.getLsbD j <;> simp
  · have h : 32 ≤ j := by omega
    simp [BitVec.getLsbD_of_ge _ _ h]

/-- The bits of a result number that a lane holds: all of a register, the lowest of a predicate. -/
def holds (r j : Nat) : Prop := j < 32 ∧ (r < 128 ∨ r < 152 ∧ j = 0)

theorem shift_one_bit (k n : Nat) (hk : n < 24) : (BitVec.ofNat 24 1 <<< k).getLsbD n = decide (n = k) := by
  simp only [BitVec.getLsbD_shiftLeft]
  by_cases h : n = k
  · subst h; simp [hk]
  · by_cases h2 : n < k
    · simp [h2, h]
    · have : n - k ≠ 0 := by omega
      simp [h, BitVec.getLsbD_one, this]

/-- What stands in a register after a write at once. -/
theorem stands_put (x : Lane) (r r' j : Nat) (m v : Word) (h : holds r' j) :
    (stands (x.put r m v) r').getLsbD j =
      if r' = r ∧ m.getLsbD j then v.getLsbD j else (stands x r').getLsbD j := by
  obtain ⟨hj, h⟩ := h
  have hb : Config.predBase = 128 := rfl
  unfold Lane.put
  by_cases h1 : r < 128
  · simp only [hb, h1, if_true]
    by_cases h2 : r' < 128
    · simp only [stands, hb, h2, if_true, Lane.reg, sparse_get_set]
      by_cases e : r' = r
      · subst e; simp [mergeBits_bit]
      · simp [e]
    · have : r' ≠ r := by omega
      simp [stands, hb, h2, this]
  · simp only [hb, h1, if_false]
    by_cases h2 : r' < 128
    · have : r' ≠ r := by omega
      simp only [stands, hb, h2, if_true, Lane.reg, this, false_and, if_false]
      split
      · rfl
      · split <;> rfl
    · have hj0 : j = 0 := by omega
      subst hj0
      have hk : r' - 128 < 24 := by omega
      simp only [stands, hb, h2, if_false]
      by_cases hm : m.getLsbD 0
      · simp only [hm, Bool.not_true, Bool.false_eq_true, if_false, and_true]
        by_cases hv : v.getLsbD 0
        · simp only [hv, if_true, BitVec.getLsbD_or, shift_one_bit _ _ hk]
          by_cases e : r' = r
          · subst e; simp
          · have : r' - 128 ≠ r - 128 := by omega
            simp [e, this]
        · simp only [hv, Bool.false_eq_true, if_false, BitVec.getLsbD_and, BitVec.getLsbD_not, shift_one_bit _ _ hk]
          by_cases e : r' = r
          · subst e; simp
          · have : r' - 128 ≠ r - 128 := by omega
            simp [e, this, hk]
      · have hm' : m.getLsbD 0 = false := by simpa using hm
        simp only [hm', Bool.not_false, if_true, Bool.false_eq_true, and_false, if_false]

/-! ## Short results under way -/

/-- One bit of a register after a list of short results. -/
def landBit (r j : Nat) (ps : List Pending) (b : Bool) : Bool :=
  ps.foldl (fun b p => if p.reg = r ∧ p.mask.getLsbD j then p.value.getLsbD j else b) b

theorem fold_bit (r j : Nat) (ps : List Pending) (w : Word) :
    (ps.foldl (fun v p => if p.reg = r then mergeBits v p.mask p.value else v) w).getLsbD j = landBit r j ps (w.getLsbD j) := by
  unfold landBit
  induction ps generalizing w with
  | nil => rfl
  | cons p rest ih =>
    simp only [List.foldl_cons, ih]
    congr 1
    by_cases h : p.reg = r <;> simp [h, mergeBits_bit]

theorem landed_bit (x : Lane) (r j : Nat) : (landed x r).getLsbD j = landBit r j x.pend ((stands x r).getLsbD j) := fold_bit r j x.pend _

theorem landBit_append (r j : Nat) (ps qs : List Pending) (b : Bool) : landBit r j (ps ++ qs) b = landBit r j qs (landBit r j ps b) := by
  simp [landBit, List.foldl_append]

theorem landBit_clear (r r' j : Nat) (m : Word) (ps : List Pending) (b : Bool) (hj : j < 32) :
    landBit r' j (clearPending r m ps) b = if r' = r ∧ m.getLsbD j then b else landBit r' j ps b := by
  induction ps generalizing b with
  | nil => simp [clearPending, landBit]
  | cons p rest ih =>
    have e : landBit r' j (clearPending r m (p :: rest)) b =
        landBit r' j (clearPending r m rest) (if p.reg = r' ∧ (if p.reg = r then p.mask &&& ~~~m else p.mask).getLsbD j then p.value.getLsbD j else b) := by
      by_cases h : p.reg = r
      · by_cases hz : p.mask &&& ~~~m = 0#32
        · have c : clearPending r m (p :: rest) = clearPending r m rest := by simp [clearPending, h, hz]
          rw [c]; simp [h, hz]
        · have c : clearPending r m (p :: rest) = { p with mask := p.mask &&& ~~~m } :: clearPending r m rest := by
            simp [clearPending, h, hz]
          rw [c]; simp only [landBit, List.foldl_cons, h, if_true]
      · by_cases hz : p.mask = 0#32
        · have c : clearPending r m (p :: rest) = clearPending r m rest := by simp [clearPending, h, hz]
          rw [c]; simp [h, hz]
        · have c : clearPending r m (p :: rest) = p :: clearPending r m rest := by simp [clearPending, h, hz]
          rw [c]; simp only [landBit, List.foldl_cons, h, if_false]
    rw [e, ih]
    simp only [landBit, List.foldl_cons]
    by_cases h : r' = r ∧ m.getLsbD j
    · simp only [h, and_self, if_true]
      obtain ⟨h1, h2⟩ := h
      by_cases hp : p.reg = r <;> simp [hp, h2]
    · simp only [h, if_false]
      congr 1
      by_cases hp : p.reg = r
      · by_cases hq : r = r'
        · subst hq
          have : m.getLsbD j = false := by simpa using h
          simp only [hp, this, if_true, BitVec.getLsbD_and, BitVec.getLsbD_not, hj, decide_true, Bool.not_false, Bool.and_true]
        · simp [hp, hq]
      · simp [hp]

theorem commitPending_landed (clock : Nat) (x : Lane) (kept rest : List Pending) (r j : Nat) (h : holds r j) :
    (landed (commitPending clock x kept rest) r).getLsbD j =
      landBit r j rest (landBit r j kept ((stands x r).getLsbD j)) := by
  induction rest generalizing x kept with
  | nil => simp only [commitPending, landed_bit]; rfl
  | cons p rest ih =>
    simp only [commitPending]
    split
    · rw [ih, landBit_clear _ _ _ _ _ _ h.1, stands_put _ _ _ _ _ _ h]
      show landBit r j rest _ = landBit r j rest _
      congr 1
      by_cases e : r = p.reg
      · subst e; by_cases hm : p.mask.getLsbD j <;> simp [hm]
      · have e' : ¬ p.reg = r := fun h => e h.symm
        simp [e, e']
    · rw [ih, landBit_append]; rfl

/-! ## What a lane will hold, after time and after writes -/

/-- Two lanes that differ in their results alone. -/
def kin (x y : Lane) : Prop := y = { x with regs := y.regs, preds := y.preds, pend := y.pend }

theorem kin_trans {x y z : Lane} (h : kin x y) (k : kin y z) : kin x z := by
  unfold kin at *; rw [k, h]

theorem kin_put (x : Lane) (r : Nat) (m v : Word) : kin x (x.put r m v) := by
  unfold kin Lane.put
  split
  · rfl
  · split
    · rfl
    · split <;> rfl

theorem kin_commit (clock : Nat) (x : Lane) (kept rest : List Pending) : kin x (commitPending clock x kept rest) := by
  induction rest generalizing x kept with
  | nil => rfl
  | cons p rest ih =>
    simp only [commitPending]
    split
    · exact kin_trans (kin_put x _ _ _) (ih _ _)
    · exact ih x _

theorem kin_putNow (x : Lane) (r : Nat) (m v : Word) : kin x (x.putNow r m v) := by
  have h := kin_put x r m v
  unfold kin at *
  unfold Lane.putNow
  rw [h]

theorem kin_putLater (x : Lane) (latency cycle r : Nat) (m v : Word) : kin x (x.putLater latency cycle r m v) := rfl

/-- Time changes nothing a lane will hold (R127). -/
theorem landed_tick (x : Lane) (dist r j : Nat) (h : holds r j) : (landed (x.tick dist) r).getLsbD j = (landed x r).getLsbD j := by
  unfold Lane.tick
  rw [commitPending_landed _ _ _ _ _ _ h, landed_bit]
  rfl

/-- A result that is visible at once stands behind every older one. -/
theorem landed_putNow (x : Lane) (r r' j : Nat) (m v : Word) (h : holds r' j) :
    (landed (x.putNow r m v) r').getLsbD j = if r' = r ∧ m.getLsbD j then v.getLsbD j else (landed x r').getLsbD j := by
  have e : landBit r' j (x.putNow r m v).pend = landBit r' j (clearPending r m x.pend) := rfl
  have e2 : (stands (x.putNow r m v) r') = stands (x.put r m v) r' := rfl
  rw [landed_bit, e, e2, landBit_clear _ _ _ _ _ _ h.1, stands_put _ _ _ _ _ _ h, landed_bit]
  by_cases c : r' = r ∧ m.getLsbD j
  · simp only [c, and_self, if_true]
  · simp only [c, if_false]

/-- A result that lands later stands behind every older one too. -/
theorem landed_putLater (x : Lane) (latency cycle r r' j : Nat) (m v : Word) :
    (landed (x.putLater latency cycle r m v) r').getLsbD j = if r' = r ∧ m.getLsbD j then v.getLsbD j else (landed x r').getLsbD j := by
  rw [landed_bit, landed_bit]
  have e2 : (stands (x.putLater latency cycle r m v) r') = stands x r' := rfl
  rw [e2]
  simp only [Lane.putLater, landBit_append]
  simp only [landBit, List.foldl_cons, List.foldl_nil]
  by_cases c : r = r'
  · subst c; simp
  · have c' : ¬ r' = r := fun h => c h.symm
    simp [c, c']

theorem holds_reg {r j : Nat} (hr : r < 104) (hj : j < 32) : holds r j := ⟨hj, Or.inl (by omega)⟩
theorem holds_pred {k : Nat} (hk : k < 24) : holds (Config.predBase + k) 0 := by
  refine ⟨by decide, Or.inr ⟨?_, rfl⟩⟩
  show 128 + k < 152; omega

/-- What a lane will hold agrees everywhere. -/
def alike (x y : Lane) : Prop := ∀ r j, holds r j → (landed y r).getLsbD j = (landed x r).getLsbD j

theorem regOf_of_alike {x y : Lane} (h : alike x y) {r : Nat} (hr : r < 104) : regOf y r = regOf x r := by
  apply BitVec.eq_of_getLsbD_eq
  intro j hj
  exact h r j (holds_reg hr hj)

theorem predOf_of_alike {x y : Lane} (h : alike x y) {k : Nat} (hk : k < 24) : predOf y k = predOf x k := h _ _ (holds_pred hk)

/-- One bit of what stands after the writes named. -/
theorem applied_bit (w : Option (Word × Word)) (o : Word) (j : Nat) :
    (applied w o).getLsbD j = match w with
      | none => o.getLsbD j
      | some (m, v) => if m.getLsbD j then v.getLsbD j else o.getLsbD j := by
  cases w with
  | none => rfl
  | some p => exact mergeBits_bit o p.1 p.2 j

/-- A lane is as named when it agrees bit by bit. -/
theorem laneAfter_of_bits {w : Writes} {l : Nat} {x y : Lane}
    (h1 : y.exited = x.exited) (h2 : y.parked = x.parked) (h3 : y.gen = x.gen) (h4 : y.clock = x.clock)
    (h : ∀ r j, holds r j → (landed y r).getLsbD j = (applied (w l r) (landed x r)).getLsbD j) : laneAfter w l x y := by
  refine ⟨h1, h2, h3, h4, ?_, ?_⟩
  · intro r hr
    apply BitVec.eq_of_getLsbD_eq
    intro j hj
    exact h r j (holds_reg hr hj)
  · intro k hk
    exact h _ 0 (holds_pred hk)

end Sys2Proof.Laws
end

