-- ==== Sys2Proof/Laws/Issue.lean ====
section
/-! SUPPORT. The issue of one word: finding groups after updates, the move of the run, and the state after a word in terms of its own
effect (one lemma per shared operation). -/
namespace Sys2Proof.Laws
open Sys2Proof.Machine Sys2Proof.Claim

/-! ## Finding a group after an update -/

theorem group_gid {s : State} {id : Nat} {g : Group} (h : s.group? id = some g) : g.gid = id := by
  have := List.find?_some h
  simpa using this

theorem find_map_key (xs : List Group) (f : Group → Group) (gid id : Nat) (hf : ∀ g, g.gid = gid → (f g).gid = gid) :
    (xs.map (fun g => if g.gid = gid then f g else g)).find? (fun g => decide (g.gid = id)) =
      (xs.find? (fun g => decide (g.gid = id))).map (fun g => if g.gid = gid then f g else g) := by
  rw [List.find?_map]
  congr 1
  congr 1
  funext g
  simp only [Function.comp]
  by_cases h : g.gid = gid
  · simp only [h, if_true, hf g h]
  · simp only [h, if_false]

theorem group_updGroup (s : State) (gid id : Nat) (f : Group → Group) (hf : ∀ g, g.gid = gid → (f g).gid = gid) :
    (s.updGroup gid f).group? id = (s.group? id).map (fun g => if g.gid = gid then f g else g) :=
  find_map_key s.groups f gid id hf

theorem group_updGroup_self {s : State} {gid : Nat} {g : Group} (f : Group → Group) (h : s.group? gid = some g)
    (hf : ∀ g, g.gid = gid → (f g).gid = gid) : (s.updGroup gid f).group? gid = some (f g) := by
  rw [group_updGroup s gid gid f hf, h]
  simp [group_gid h]

theorem group_updGroup_other {s : State} {gid id : Nat} (f : Group → Group) (h : id ≠ gid)
    (hf : ∀ g, g.gid = gid → (f g).gid = gid) : (s.updGroup gid f).group? id = s.group? id := by
  rw [group_updGroup s gid id f hf]
  cases e : s.group? id with
  | none => rfl
  | some g =>
    have : g.gid ≠ gid := by rw [group_gid e]; exact h
    simp [this]

theorem gids_updGroup (s : State) (gid : Nat) (f : Group → Group) (hf : ∀ g, g.gid = gid → (f g).gid = gid) :
    (s.updGroup gid f).groups.map (·.gid) = s.groups.map (·.gid) := by
  simp only [State.updGroup, List.map_map]
  apply List.map_congr_left
  intro g _
  simp only [Function.comp]
  split
  · rename_i h; rw [hf g h, h]
  · rfl

/-! ## Moving on -/

/-- A lane before and after a move of its run. -/
def turned (x y : Lane) : Prop := y = { x with header := y.header, index := y.index, run := y.run }

/-- A group before and after a move. -/
def moved (g h : Group) : Prop :=
  h = { g with lanes := h.lanes, clause := h.clause, runs := h.runs } ∧ h.lanes.length = g.lanes.length ∧
  ∀ (l : Nat) (x y : Lane), g.lanes[l]? = some x → h.lanes[l]? = some y → turned x y

theorem moved_refl (g : Group) : moved g g := by
  refine ⟨rfl, rfl, ?_⟩
  intro l x y hx hy
  rw [hx] at hy; cases hy; rfl

theorem moved_trans {a b c : Group} (h : moved a b) (k : moved b c) : moved a c := by
  obtain ⟨h1, h2, h3⟩ := h
  obtain ⟨k1, k2, k3⟩ := k
  refine ⟨?_, k2.trans h2, ?_⟩
  · rw [k1, h1]
  · intro l x z hx hz
    cases e : b.lanes[l]? with
    | none =>
      obtain ⟨this, -⟩ := List.getElem?_eq_some_iff.mp hx
      rw [List.getElem?_eq_none_iff] at e; omega
    | some y =>
      have e1 := h3 l x y hx e
      have e2 := k3 l y z e hz
      unfold turned at *
      rw [e2, e1]

theorem moved_updLanes (g : Group) (m : Lanes) (f : Nat → Lane → Lane) (hf : ∀ l x, turned x (f l x)) : moved g (g.updLanes m f) := by
  refine ⟨rfl, by simp [Group.updLanes], ?_⟩
  intro l x y hx hy
  simp only [Group.updLanes, List.getElem?_mapIdx, hx, Option.map_some] at hy
  cases hy
  split
  · exact hf l x
  · rfl

theorem moved_lanes_map (g : Group) (f : Lane → Lane) (hf : ∀ x, turned x (f x)) : moved g { g with lanes := g.lanes.map f } := by
  refine ⟨rfl, by simp, ?_⟩
  intro l x y hx hy
  simp only [List.getElem?_map, hx, Option.map_some] at hy
  cases hy
  exact hf x

theorem moved_of_fields {g h : Group} (k : moved g h) (rs : List Run) (cl : Option Clause) : moved g { h with runs := rs, clause := cl } := by
  obtain ⟨k1, k2, k3⟩ := k
  refine ⟨?_, k2, k3⟩
  rw [k1]

theorem moved_mergeAt (g : Group) (pc : Nat × Nat) : moved g (g.mergeAt pc) := by
  unfold Group.mergeAt
  simp only
  split
  · exact moved_refl g
  · exact moved_of_fields (moved_lanes_map g _ (fun x => by split <;> rfl)) _ g.clause

theorem moved_foldl {α : Type} (f : Group → α → Group) (hf : ∀ g a, moved g (f g a)) (xs : List α) (g : Group) : moved g (xs.foldl f g) := by
  induction xs generalizing g with
  | nil => exact moved_refl g
  | cons a rest ih => exact moved_trans (hf g a) (ih _)

theorem moved_mergeRuns (g : Group) : moved g g.mergeRuns := by
  unfold Group.mergeRuns
  exact moved_of_fields (moved_foldl _ moved_mergeAt _ g) _ _

/-- The move of a run changes counters, runs and the clause under way, and nothing else (R20, R123). -/
theorem moved_advance (g : Group) (cl : Clause) (run : Lanes) (target : Nat) (who : Lanes) : moved g (g.advance cl run target who) := by
  unfold Group.advance
  split
  · have k : moved g (g.updLanes run (fun _ l => { l with index := cl.index + 1 })) := moved_updLanes g _ _ (fun _ _ => rfl)
    exact moved_of_fields k _ _
  · have k : moved g (g.updLanes run (fun l x => { x with header := if who.getLsbD l then target else cl.next, index := 0 })) :=
      moved_updLanes g _ _ (fun _ _ => rfl)
    exact moved_trans (moved_of_fields k _ _) (moved_mergeRuns _)

theorem gid_advance (g : Group) (cl : Clause) (run : Lanes) (target : Nat) (who : Lanes) : (g.advance cl run target who).gid = g.gid := by
  have := (moved_advance g cl run target who).1
  rw [this]

theorem turned_after {w : Writes} {l : Nat} {x y z : Lane} (h : laneAfter w l x y) (k : turned y z) : laneAfter w l x z := by
  unfold turned at k
  rw [k]
  exact h

/-! ## The results of a word, before its run moves on -/

/-- A state and the same with results written into the group's registers. -/
def wrote (p : State) (gid : Nat) (w : Writes) (u : UniWrites) (q : State) : Prop :=
  q = { p with groups := q.groups, ops := q.ops } ∧
  q.ops.map (issuedOp gid) = p.ops.map (issuedOp gid) ∧
  q.groups.map (·.gid) = p.groups.map (·.gid) ∧
  (∀ id, id ≠ gid → q.group? id = p.group? id) ∧
  ∃ g h, p.group? gid = some g ∧ q.group? gid = some h ∧ h = { g with lanes := h.lanes, sregs := h.sregs } ∧
    (∀ r < 16, uniOf h r = (u r).getD (uniOf g r)) ∧ h.lanes.length = g.lanes.length ∧
    ∀ (l : Nat) (x y : Lane), g.lanes[l]? = some x → h.lanes[l]? = some y → laneAfter w l x y

theorem laneAfter_refl (l : Nat) (x : Lane) : laneAfter noWrites l x x :=
  ⟨rfl, rfl, rfl, rfl, fun _ _ => rfl, fun _ _ => rfl⟩

theorem wrote_refl {p : State} {gid : Nat} {g : Group} (h : p.group? gid = some g) : wrote p gid noWrites noUni p := by
  refine ⟨rfl, rfl, rfl, fun _ _ => rfl, g, g, h, h, rfl, fun _ _ => rfl, rfl, ?_⟩
  intro l x y hx hy
  rw [hx] at hy; cases hy
  exact laneAfter_refl l x

/-- Writes one after the other. -/
theorem wrote_trans {p q r : State} {gid : Nat} {w1 w2 w : Writes} {u1 u2 u : UniWrites} (h : wrote p gid w1 u1 q) (k : wrote q gid w2 u2 r)
    (hw : ∀ l n o, applied (w l n) o = applied (w2 l n) (applied (w1 l n) o))
    (hu : ∀ n o, (u n).getD o = (u2 n).getD ((u1 n).getD o)) : wrote p gid w u r := by
  obtain ⟨h1, h2, h3, h4, g, g', hg, hg', h5, h6, h7, h8⟩ := h
  obtain ⟨k1, k2, k3, k4, f, f', kf, kf', k5, k6, k7, k8⟩ := k
  rw [hg'] at kf; cases kf
  refine ⟨?_, k2.trans h2, k3.trans h3, fun id hid => (k4 id hid).trans (h4 id hid), g, f', hg, kf', ?_, ?_, k7.trans h7, ?_⟩
  · rw [k1, h1]
  · rw [k5, h5]
  · intro n hn
    rw [k6 n hn, h6 n hn, hu]
  · intro l x z hx hz
    have hl : l < g'.lanes.length := by
      obtain ⟨hl, -⟩ := List.getElem?_eq_some_iff.mp hx
      omega
    obtain ⟨a1, a2, a3, a4, a5, a6⟩ := h8 l x g'.lanes[l] hx (List.getElem?_eq_getElem hl)
    obtain ⟨b1, b2, b3, b4, b5, b6⟩ := k8 l g'.lanes[l] z (List.getElem?_eq_getElem hl) hz
    refine ⟨b1.trans a1, b2.trans a2, b3.trans a3, b4.trans a4, ?_, ?_⟩
    · intro n hn
      rw [b5 n hn, a5 n hn, hw]
    · intro n hn
      have e := a6 n hn
      rw [b6 n hn, hw]
      have bit : ∀ (o o' : Word), o.getLsbD 0 = o'.getLsbD 0 → (applied (w2 l (Config.predBase + n)) o).getLsbD 0 =
          (applied (w2 l (Config.predBase + n)) o').getLsbD 0 := by
        intro o o' ho
        rw [applied_bit, applied_bit]
        split <;> simp only [ho]
      exact bit _ _ e

theorem issuedOp_overtake (s : State) (gid : Nat) (lane : Option Nat) (reg : Nat) :
    (s.overtake gid lane reg).ops.map (issuedOp gid) = s.ops.map (issuedOp gid) := by
  simp only [State.overtake, List.map_map]
  apply List.map_congr_left
  intro o _
  simp only [Function.comp]
  split
  · rename_i hg
    simp only [issuedOp, hg, if_true, List.map_map]
    congr 1
    apply List.map_congr_left
    intro r _
    simp only [Function.comp]
    split <;> rfl
  · rfl

theorem overtake_frame (s : State) (gid : Nat) (lane : Option Nat) (reg : Nat) :
    s.overtake gid lane reg = { s with ops := (s.overtake gid lane reg).ops } := rfl

/-- A change of which results lose is no write. -/
def blurred (gid : Nat) (p q : State) : Prop := q = { p with ops := q.ops } ∧ q.ops.map (issuedOp gid) = p.ops.map (issuedOp gid)

theorem blurred_overtakeLanes (s : State) (gid : Nat) (m : Lanes) (reg : Nat) : blurred gid s (s.overtakeLanes gid m reg) := by
  unfold State.overtakeLanes
  split
  · rename_i hc
    clear hc
    generalize lanesOf m = ls
    induction ls generalizing s with
    | nil => exact ⟨rfl, rfl⟩
    | cons l rest ih =>
      obtain ⟨a, b⟩ := ih (s.overtake gid (some l) reg)
      refine ⟨?_, b.trans (issuedOp_overtake s gid (some l) reg)⟩
      rw [List.foldl_cons, a, overtake_frame]
  · exact ⟨rfl, rfl⟩

theorem wrote_blurred {p q r : State} {gid : Nat} {w : Writes} {u : UniWrites} (h : wrote p gid w u q) (k : blurred gid q r) : wrote p gid w u r := by
  obtain ⟨k1, k2⟩ := k
  obtain ⟨h1, h2, h3, h4, h5⟩ := h
  have e : r.groups = q.groups := by rw [k1]
  have eg : ∀ id, r.group? id = q.group? id := by intro id; unfold State.group?; rw [e]
  refine ⟨?_, k2.trans h2, ?_, ?_, ?_⟩
  · rw [k1, h1]
  · rw [e, h3]
  · intro id hid; rw [eg, h4 id hid]
  · simp only [eg]; exact h5

/-- A change of the group's lanes and uniform registers alone. -/
theorem wrote_updGroup {p : State} {gid : Nat} {g : Group} {w : Writes} {u : UniWrites} (f : Group → Group) (hg : p.group? gid = some g)
    (hf : ∀ x : Group, f x = { x with lanes := (f x).lanes, sregs := (f x).sregs })
    (hu : ∀ r < 16, uniOf (f g) r = (u r).getD (uniOf g r)) (hl : (f g).lanes.length = g.lanes.length)
    (hw : ∀ (l : Nat) (x y : Lane), g.lanes[l]? = some x → (f g).lanes[l]? = some y → laneAfter w l x y) :
    wrote p gid w u (p.updGroup gid f) := by
  have hk : ∀ x : Group, x.gid = gid → (f x).gid = gid := by
    intro x hx; rw [hf x]; exact hx
  exact ⟨rfl, rfl, gids_updGroup p gid f hk, fun id hid => group_updGroup_other f hid hk, g, f g, hg, group_updGroup_self f hg hk, hf g, hu, hl, hw⟩

/-- A short result written into one register of the active lanes (R127). -/
theorem wrote_writeAt {c : Ctx} {p : State} {g : Group} (latency r : Nat) (mask v : Nat → Word) (hg : p.group? c.g.gid = some g) :
    wrote p c.g.gid (writesOne c r mask v) noUni (c.writeAt p latency r mask v) := by
  unfold Ctx.writeAt
  refine wrote_blurred ?_ (blurred_overtakeLanes _ _ _ _)
  refine wrote_updGroup _ hg (fun x => rfl) (fun _ _ => rfl) (by simp [Group.updLanes]) ?_
  intro l x y hx hy
  simp only [Group.updLanes, List.getElem?_mapIdx, hx, Option.map_some, Option.some.injEq] at hy
  subst hy
  by_cases ha : c.act.getLsbD l
  · simp only [ha, if_true]
    by_cases hm : mask l = 0
    · simp only [hm, if_true]
      refine laneAfter_of_bits rfl rfl rfl rfl ?_
      intro n j _
      rw [applied_bit]
      by_cases e : n = r
      · simp [writesOne, ha, e, hm]
      · simp [writesOne, e]
    · simp only [hm, if_false]
      by_cases hl : latency ≤ 1
      · simp only [hl, if_true]
        have k := kin_putNow x r (mask l) (v l)
        refine laneAfter_of_bits (by rw [k]) (by rw [k]) (by rw [k]) (by rw [k]) ?_
        intro n j hn
        rw [landed_putNow _ _ _ _ _ _ hn, applied_bit]
        by_cases e : n = r
        · simp [writesOne, ha, e]
        · simp [writesOne, e]
      · simp only [hl, if_false]
        refine laneAfter_of_bits rfl rfl rfl rfl ?_
        intro n j hn
        rw [landed_putLater, applied_bit]
        by_cases e : n = r
        · simp [writesOne, ha, e]
        · simp [writesOne, e]
  · simp only [ha, Bool.false_eq_true, if_false]
    refine laneAfter_of_bits rfl rfl rfl rfl ?_
    intro n j _
    rw [applied_bit]
    simp [writesOne, ha]

/-- A uniform register written (R194). -/
theorem wrote_writeS {c : Ctx} {p : State} {g : Group} (f : Nat) (v : Word) (hg : p.group? c.g.gid = some g) :
    wrote p c.g.gid noWrites (fun r => if r = f - 104 then some v else none) (c.writeS p f v) := by
  unfold Ctx.writeS
  refine wrote_blurred (q := p.updGroup c.g.gid (fun g => g.putS (f - 104) v)) ?_ ⟨rfl, issuedOp_overtake _ _ _ _⟩
  refine wrote_updGroup _ hg (fun x => rfl) ?_ rfl ?_
  · intro r _
    simp only [uniOf, Group.putS, sparse_get_set]
    split <;> simp
  · intro l x y hx hy
    have : g.lanes[l]? = some y := hy
    rw [hx] at this; cases this
    exact laneAfter_refl l x

/-! ## The state after a word -/

theorem ctx_cases {s : State} {lane : Bool} {c : Ctx} (h : s.ctx? lane = some c) :
    c.s = s ∧ ∃ g, s.issuer.bind s.group? = some g ∧ g.clause = some c.cl ∧ g.stop = none ∧ s.atIssue g.gid = false ∧ s.teamRuns g = true ∧
      c.run = g.runMask c.cl.run ∧ c.g = g.updLanes c.run (fun _ l => l.tick (c.cl.header.distance c.cl.index)) ∧
      c.act = (if lane then c.run &&& s.guardMask c.g c.cl.header c.cl.index else c.run) ∧ c.cycle = max s.cycle (g.lastIssue + c.cl.header.distance c.cl.index) := by
  unfold State.ctx? at h
  split at h
  · cases h
  · rename_i g hg
    split at h
    · rename_i cl hcl hst
      split at h
      · cases h
      · rename_i hb
        simp only [Bool.or_eq_true, Bool.not_eq_true', not_or, Bool.not_eq_true, Bool.not_eq_false] at hb
        cases h
        exact ⟨rfl, g, hg, hcl, hst, hb.1, hb.2, rfl, rfl, rfl, rfl⟩
    · cases h

theorem ctx_group {s : State} {lane : Bool} {c : Ctx} (h : s.ctx? lane = some c) : ∃ g, s.group? c.g.gid = some g ∧ g.stepping = c.g.stepping := by
  obtain ⟨-, g, hg, -, -, -, -, -, hc, -⟩ := ctx_cases h
  cases hi : s.issuer with
  | none => rw [hi] at hg; cases hg
  | some id =>
    rw [hi] at hg
    have hg' : s.group? id = some g := hg
    refine ⟨g, ?_, ?_⟩
    · rw [hc]; show s.group? g.gid = some g
      rw [group_gid hg']; exact hg'
    · rw [hc]; rfl

/-- The state an effect starts from holds the issuing group, its lanes moved on in time. -/
theorem base_group {s : State} {lane : Bool} {c : Ctx} (h : s.ctx? lane = some c) (b : Bool) :
    (c.base b).group? c.g.gid = some { c.g with
      lastIssue := c.cycle, lastLane := (if b then c.cycle else c.g.lastLane), lastUniform := (if b then c.g.lastUniform else c.cycle) } := by
  obtain ⟨g, hg, -⟩ := ctx_group h
  obtain ⟨hs, -⟩ := ctx_cases h
  rw [← hs] at hg
  exact group_updGroup_self (fun _ => { c.g with
      lastIssue := c.cycle, lastLane := (if b then c.cycle else c.g.lastLane), lastUniform := (if b then c.g.lastUniform else c.cycle) }) hg (fun _ _ => rfl)

theorem afterClause_quiet {t : State} {gid run : Nat} {m : Lanes} {g : Group} (hg : t.group? gid = some g)
    (h : g.stepping = false ∨ g.clause.isNone = false) : t.afterClause gid run m = t := by
  unfold State.afterClause
  rw [hg]
  rcases h with h | h <;> simp [h]

/-- What is written and then moved on has settled. -/
theorem settles_of_moved {p q : State} {gid : Nat} {w : Writes} {u : UniWrites} (f : Group → Group) (hf : ∀ g, moved g (f g))
    (h : wrote p gid w u q) : settles p gid w u (q.updGroup gid f) := by
  obtain ⟨h1, h2, h3, h4, g, g', hg, hg', h5, h6, h7, h8⟩ := h
  have hk : ∀ x : Group, x.gid = gid → (f x).gid = gid := by
    intro x hx; rw [(hf x).1]; exact hx
  obtain ⟨m1, m2, m3⟩ := hf g'
  refine ⟨?_, h2, (gids_updGroup q gid f hk).trans h3, ?_, g, f g', hg, group_updGroup_self f hg' hk, ?_, ?_, m2.trans h7, ?_⟩
  · show State.updGroup q gid f = _
    unfold State.updGroup
    rw [h1]
  · intro id hid
    rw [group_updGroup_other f hid hk, h4 id hid]
  · unfold groupKept
    rw [m1, h5]
  · intro r hr
    rw [← h6 r hr, m1]; rfl
  · intro l x z hx hz
    have hl : l < g'.lanes.length := by
      obtain ⟨hl, -⟩ := List.getElem?_eq_some_iff.mp hx
      omega
    exact turned_after (h8 l x _ hx (List.getElem?_eq_getElem hl)) (m3 l _ z (List.getElem?_eq_getElem hl) hz)

theorem advance_clause (g : Group) (cl : Clause) (run : Lanes) (target : Nat) (who : Lanes) (h : cl.index + 1 < cl.header.len) :
    (g.advance cl run target who).clause.isNone = false := by
  unfold Group.advance
  rw [if_pos h]
  rfl

theorem settled_quiet {s : State} {lane : Bool} {c : Ctx} {p q : State} {w : Writes} {u : UniWrites} (hi : issues s lane c)
    (hw : wrote p c.g.gid w u q) (hs : ∀ g, p.group? c.g.gid = some g → g.stepping = c.g.stepping) (target : Nat) (who : Lanes) :
    settles p c.g.gid w u ((q.updGroup c.g.gid (fun g => g.advance c.cl c.run target who)).afterClause c.g.gid c.cl.run c.run) := by
  have hset := settles_of_moved (fun g => g.advance c.cl c.run target who) (fun g => moved_advance g _ _ _ _) hw
  obtain ⟨-, -, -, -, g, g', hg, hg', h5, -⟩ := hw
  have hk : ∀ x : Group, x.gid = c.g.gid → (x.advance c.cl c.run target who).gid = c.g.gid := by
    intro x hx; rw [gid_advance]; exact hx
  have hgrp := group_updGroup_self (fun g => g.advance c.cl c.run target who) hg' hk
  rw [afterClause_quiet hgrp]
  · exact hset
  · rcases hi.2 with hq | hq
    · left
      have m := (moved_advance g' c.cl c.run target who).1
      have : g'.stepping = false := by rw [h5]; show g.stepping = false; rw [hs g hg, hq]
      rw [m]; exact this
    · right; exact advance_clause _ _ _ _ _ hq

/-- A word with an effect: the machine goes on, and has settled. -/
theorem issue_done {s : State} {lane : Bool} {body : Ctx → Verdict} {c : Ctx} {p q : State} {w : Writes} {u : UniWrites}
    (hi : issues s lane c) (hb : body c = .done q) (hw : wrote p c.g.gid w u q)
    (hs : ∀ g, p.group? c.g.gid = some g → g.stepping = c.g.stepping) : ∃ t, issue s lane body = .next t ∧ settles p c.g.gid w u t := by
  refine ⟨_, ?_, settled_quiet hi hw hs 0 0⟩
  unfold issue
  rw [hi.1]
  simp only [hb]

/-- A branch taken settles too. -/
theorem issue_jump {s : State} {lane : Bool} {body : Ctx → Verdict} {c : Ctx} {p q : State} {w : Writes} {u : UniWrites} {target : Nat} {who : Lanes}
    (hi : issues s lane c) (hb : body c = .jump q target who) (hw : wrote p c.g.gid w u q)
    (hs : ∀ g, p.group? c.g.gid = some g → g.stepping = c.g.stepping) : ∃ t, issue s lane body = .next t ∧ settles p c.g.gid w u t := by
  refine ⟨_, ?_, settled_quiet hi hw hs target who⟩
  unfold issue
  rw [hi.1]
  simp only [hb]

end Sys2Proof.Laws
end

