-- ==== Sys2Proof/Laws/Memory.lean ====
section
/-! SUPPORT. Memory: a byte read after a write, and that every memory operation keeps the canonical form (`Memory.wf`). -/
namespace Sys2Proof.Machine

/-! ## Sparse maps -/

theorem Sparse.get_insert {α : Type} (d : α) (a : Nat) (x : α) (m : List (Nat × α)) (k : Nat) :
    Sparse.get d (Sparse.insert a x m) k = if k = a then x else Sparse.get d m k := by
  induction m with
  | nil => simp [Sparse.insert, Sparse.get]
  | cons e rest ih =>
    obtain ⟨j, v⟩ := e
    simp only [Sparse.insert]
    split
    · simp [Sparse.get]
    · split
      · subst_vars
        simp only [Sparse.get]
        split <;> simp_all
      · simp only [Sparse.get, ih]
        split
        · subst_vars
          rw [if_neg (by omega)]
        · rfl

theorem Sparse.get_filter_ne {α : Type} (d : α) (a : Nat) (m : List (Nat × α)) (k : Nat) :
    Sparse.get d (m.filter (fun e => decide (e.1 ≠ a))) k = if k = a then d else Sparse.get d m k := by
  induction m with
  | nil => simp [Sparse.get]
  | cons e rest ih =>
    obtain ⟨j, v⟩ := e
    by_cases h : j = a
    · subst h
      rw [List.filter_cons_of_neg (by simp), ih]
      simp only [Sparse.get]
      split <;> simp_all
    · rw [List.filter_cons_of_pos (by simpa using h)]
      simp only [Sparse.get, ih]
      split
      · subst_vars
        rw [if_neg h]
      · rfl

/-- A key of a map reads as what was stored under it last. -/
theorem Sparse.get_set {α : Type} [DecidableEq α] (d : α) (m : List (Nat × α)) (a : Nat) (x : α) (k : Nat) :
    Sparse.get d (Sparse.set d m a x) k = if k = a then x else Sparse.get d m k := by
  unfold Sparse.set
  split
  · subst_vars
    exact Sparse.get_filter_ne ..
  · exact Sparse.get_insert ..

theorem Sparse.mem_insert {α : Type} (a : Nat) (x : α) (m : List (Nat × α)) (e : Nat × α) (h : e ∈ Sparse.insert a x m) :
    e = (a, x) ∨ e ∈ m := by
  induction m with
  | nil => simpa [Sparse.insert] using h
  | cons f rest ih =>
    obtain ⟨j, v⟩ := f
    simp only [Sparse.insert] at h
    split at h
    · simpa using h
    · split at h
      · rcases List.mem_cons.mp h with h | h
        · exact .inl h
        · exact .inr (List.mem_cons_of_mem _ h)
      · rcases List.mem_cons.mp h with h | h
        · exact .inr (h ▸ List.mem_cons_self)
        · exact (ih h).imp_right (List.mem_cons_of_mem _)

/-! ## The canonical form -/

theorem cellsFrom_mono (d : Nat → Byte) {lo hi : Nat} (h : lo ≤ hi) : ∀ m, cellsFrom d hi m = true → cellsFrom d lo m = true
  | [], _ => rfl
  | (k, v) :: rest, hm => by
    simp only [cellsFrom, Bool.and_eq_true, decide_eq_true_eq] at hm ⊢
    exact ⟨⟨by omega, hm.1.2⟩, hm.2⟩

theorem cellsFrom_filter (d : Nat → Byte) (p : Host.Cell → Bool) : ∀ lo m, cellsFrom d lo m = true → cellsFrom d lo (m.filter p) = true
  | _, [], _ => rfl
  | lo, (k, v) :: rest, hm => by
    simp only [cellsFrom, Bool.and_eq_true, decide_eq_true_eq] at hm
    have ih := cellsFrom_filter d p (k + 1) rest hm.2
    by_cases h : p (k, v)
    · rw [List.filter_cons_of_pos h]
      simp only [cellsFrom, Bool.and_eq_true, decide_eq_true_eq]
      exact ⟨hm.1, ih⟩
    · rw [List.filter_cons_of_neg h]
      exact cellsFrom_mono d (by omega) _ ih

theorem cellsFrom_insert (d : Nat → Byte) (a : Nat) (x : Byte) (hx : x ≠ d a) :
    ∀ lo m, lo ≤ a → cellsFrom d lo m = true → cellsFrom d lo (Sparse.insert a x m) = true
  | _, [], hl, _ => by simp [Sparse.insert, cellsFrom, hl, hx]
  | lo, (k, v) :: rest, hl, hm => by
    simp only [cellsFrom, Bool.and_eq_true, decide_eq_true_eq] at hm
    simp only [Sparse.insert]
    split
    · simp only [cellsFrom, Bool.and_eq_true, decide_eq_true_eq]
      exact ⟨⟨hl, hx⟩, ⟨by omega, hm.1.2⟩, hm.2⟩
    · split
      · subst_vars
        simp only [cellsFrom, Bool.and_eq_true, decide_eq_true_eq]
        exact ⟨⟨hl, hx⟩, hm.2⟩
      · simp only [cellsFrom, Bool.and_eq_true, decide_eq_true_eq]
        exact ⟨hm.1, cellsFrom_insert d a x hx (k + 1) rest (by omega) hm.2⟩

theorem cellsFrom_congr {d e : Nat → Byte} : ∀ lo m, (∀ c ∈ m, d c.1 = e c.1) → cellsFrom d lo m = true → cellsFrom e lo m = true
  | _, [], _, _ => rfl
  | lo, (k, v) :: rest, h, hm => by
    simp only [cellsFrom, Bool.and_eq_true, decide_eq_true_eq] at hm ⊢
    have hk := h (k, v) List.mem_cons_self
    exact ⟨⟨hm.1.1, by rw [← hk]; exact hm.1.2⟩, cellsFrom_congr (k + 1) rest (fun c hc => h c (List.mem_cons_of_mem _ hc)) hm.2⟩

/-- The canonical form, clause by clause. -/
theorem Memory.wf_iff (m : Memory) : m.wf = true ↔
    cellsFrom (fun _ => Config.unlistedByte) 0 m.cells = true ∧ m.empties.Pairwise (· < ·) ∧ m.poison.Pairwise (fun p q => markBefore p q) := by
  simp [Memory.wf, and_assoc]

/-- Exchanging twice changes nothing. -/
theorem swap_swap (p : Byte × Byte) (b : Byte) : Config.swap p (Config.swap p b) = b := by
  unfold Config.swap
  split <;> split <;> simp_all

/-- A stored byte deciphers to the byte it was enciphered from, and back. -/
theorem decipher_encipher (k t : Nat) (b : Byte) : Config.decipher k t (Config.encipher k t b) = b := by
  unfold Config.decipher Config.encipher
  induction Config.swaps k t generalizing b with
  | nil => rfl
  | cons p rest ih => simp only [List.foldr_cons, List.foldl_cons, swap_swap, ih]

theorem encipher_decipher (k t : Nat) (b : Byte) : Config.encipher k t (Config.decipher k t b) = b := by
  unfold Config.decipher Config.encipher
  induction Config.swaps k t generalizing b with
  | nil => rfl
  | cons p rest ih => rw [List.foldl_cons, List.foldr_cons, ih, swap_swap]

@[simp] theorem Memory.reveal_conceal (m : Memory) (a : Nat) (b : Byte) : m.reveal a (m.conceal a b) = b := by
  unfold Memory.reveal Memory.conceal
  cases m.veil? a <;> simp [decipher_encipher]

/-- What a stored byte reads as follows from the veils alone. -/
theorem Memory.reveal_congr {m n : Memory} (h : m.veils = n.veils) : m.reveal = n.reveal := by
  funext a b
  simp [Memory.reveal, Memory.veil?, h]

/-- A byte as stored after one is stored: the byte stored there, and elsewhere what stood before. -/
@[simp] theorem Memory.stored_setStored (m : Memory) (a : Nat) (b : Byte) (k : Nat) :
    (m.setStored a b).stored k = if k = a then b else m.stored k := by
  show Sparse.get Config.unlistedByte (Sparse.set Config.unlistedByte m.cells a b) k = _
  by_cases h : k = a
  · subst h
    rw [Sparse.get_set]
    simp
  · rw [if_neg h]
    unfold Sparse.set
    split
    · rw [Sparse.get_filter_ne, if_neg h]; rfl
    · rw [Sparse.get_insert, if_neg h]; rfl

theorem Memory.wf_setStored (m : Memory) (a : Nat) (b : Byte) (h : m.wf = true) : (m.setStored a b).wf = true := by
  rw [Memory.wf_iff] at h ⊢
  refine ⟨?_, h.2⟩
  show cellsFrom (fun _ => Config.unlistedByte) 0 (Sparse.set Config.unlistedByte m.cells a b) = true
  unfold Sparse.set
  split
  · exact cellsFrom_filter _ _ _ _ h.1
  · exact cellsFrom_insert (fun _ => Config.unlistedByte) _ _ ‹_› _ _ (Nat.zero_le _) h.1

/-! ## Bytes -/

@[simp] theorem Memory.setByte_veils (m : Memory) (a : Nat) (b : Byte) : (m.setByte a b).veils = m.veils := rfl
@[simp] theorem Memory.setByte_empties (m : Memory) (a : Nat) (b : Byte) : (m.setByte a b).empties = m.empties := rfl
@[simp] theorem Memory.setByte_poison (m : Memory) (a : Nat) (b : Byte) : (m.setByte a b).poison = m.poison := rfl

theorem Memory.byte_of_cells {m n : Memory} (hc : m.cells = n.cells) (hv : m.veils = n.veils) : m.byte = n.byte := by
  funext a
  simp [Memory.byte, Memory.stored, hc, Memory.reveal_congr hv]

theorem Sparse.get_default {α : Type} (d e : α) (m : List (Nat × α)) (a : Nat) (h : ∃ v, (a, v) ∈ m) : Sparse.get d m a = Sparse.get e m a := by
  induction m with
  | nil => simp at h
  | cons f rest ih =>
    obtain ⟨j, v⟩ := f
    simp only [Sparse.get]
    split
    · rfl
    · obtain ⟨w, hw⟩ := h
      rcases List.mem_cons.mp hw with hw | hw
      · cases hw
        contradiction
      · exact ih ⟨w, hw⟩

/-- A byte read after a write of one byte: the byte written there, and elsewhere what stood before. -/
@[simp] theorem Memory.byte_setByte (m : Memory) (a : Nat) (b : Byte) (k : Nat) : (m.setByte a b).byte k = if k = a then b else m.byte k := by
  show m.reveal k ((m.setStored a (m.conceal a b)).stored k) = _
  rw [Memory.stored_setStored]
  split
  · subst_vars; simp
  · rfl

theorem Memory.wf_setByte (m : Memory) (a : Nat) (b : Byte) (h : m.wf = true) : (m.setByte a b).wf = true := m.wf_setStored a _ h

@[simp] theorem Memory.putBytes_veils (m : Memory) (a : Nat) (bs : List Byte) : (m.putBytes a bs).veils = m.veils := by
  induction bs generalizing m a with
  | nil => rfl
  | cons b rest ih => simp [Memory.putBytes, ih]

@[simp] theorem Memory.putBytes_empties (m : Memory) (a : Nat) (bs : List Byte) : (m.putBytes a bs).empties = m.empties := by
  induction bs generalizing m a with
  | nil => rfl
  | cons b rest ih => simp [Memory.putBytes, ih]

@[simp] theorem Memory.putBytes_poison (m : Memory) (a : Nat) (bs : List Byte) : (m.putBytes a bs).poison = m.poison := by
  induction bs generalizing m a with
  | nil => rfl
  | cons b rest ih => simp [Memory.putBytes, ih]

/-- A byte read after a write of bytes. -/
theorem Memory.byte_putBytes (m : Memory) (a : Nat) (bs : List Byte) (k : Nat) :
    (m.putBytes a bs).byte k = if a ≤ k ∧ k < a + bs.length then bs.getD (k - a) 0 else m.byte k := by
  induction bs generalizing m a with
  | nil =>
    rw [if_neg (by simp)]
    rfl
  | cons b rest ih =>
    simp only [Memory.putBytes, ih, List.length_cons, Memory.byte_setByte]
    by_cases h1 : a + 1 ≤ k ∧ k < a + 1 + rest.length
    · rw [if_pos h1, if_pos (by omega), show k - a = (k - (a + 1)) + 1 from by omega, List.getD_cons_succ]
    · rw [if_neg h1]
      by_cases h2 : k = a
      · subst h2
        rw [if_pos rfl, if_pos (by omega), Nat.sub_self, List.getD_cons_zero]
      · rw [if_neg h2, if_neg (by omega)]

theorem Memory.wf_putBytes (m : Memory) (a : Nat) (bs : List Byte) (h : m.wf = true) : (m.putBytes a bs).wf = true := by
  induction bs generalizing m a with
  | nil => exact h
  | cons b rest ih => exact ih _ _ (m.wf_setByte a b h)

/-! ## Marks, tags, ranges -/

theorem markBefore_total {p q : Nat × Nat} (h : ¬ markBefore p q = true) (hne : p ≠ q) : markBefore q p = true := by
  obtain ⟨a, b⟩ := p
  obtain ⟨c, d⟩ := q
  simp only [markBefore, decide_eq_true_eq, ne_eq, Prod.mk.injEq] at h hne ⊢
  omega

theorem markBefore_trans {p q r : Nat × Nat} (h : markBefore p q = true) (k : markBefore q r = true) : markBefore p r = true := by
  simp only [markBefore, decide_eq_true_eq] at h k ⊢
  omega

theorem mem_insertMark {p q : Nat × Nat} {m : List (Nat × Nat)} : q ∈ insertMark p m ↔ q = p ∨ q ∈ m := by
  induction m with
  | nil => simp [insertMark]
  | cons f rest ih =>
    simp only [insertMark]
    split
    · simp
    · split
      · subst_vars
        simp
      · simp only [List.mem_cons, ih]
        exact or_left_comm

theorem insertMark_sorted (p : Nat × Nat) (m : List (Nat × Nat)) (h : m.Pairwise (fun p q => markBefore p q)) :
    (insertMark p m).Pairwise (fun p q => markBefore p q) := by
  induction m with
  | nil => simp [insertMark]
  | cons f rest ih =>
    rw [List.pairwise_cons] at h
    simp only [insertMark]
    split
    · rename_i hp
      rw [List.pairwise_cons]
      refine ⟨?_, List.pairwise_cons.mpr h⟩
      intro q hq
      rcases List.mem_cons.mp hq with rfl | hq
      · exact hp
      · exact markBefore_trans hp (h.1 q hq)
    · split
      · exact List.pairwise_cons.mpr h
      · rename_i hp hne
        rw [List.pairwise_cons]
        refine ⟨?_, ih h.2⟩
        intro q hq
        rcases mem_insertMark.mp hq with rfl | hq
        · exact markBefore_total hp hne
        · exact h.1 q hq

theorem NatSet.mem_insert {a k : Nat} {m : List Nat} : k ∈ NatSet.insert a m ↔ k = a ∨ k ∈ m := by
  induction m with
  | nil => simp [NatSet.insert]
  | cons f rest ih =>
    simp only [NatSet.insert]
    split
    · simp
    · split
      · subst_vars
        simp
      · simp only [List.mem_cons, ih]
        exact or_left_comm

theorem NatSet.insert_sorted (a : Nat) (m : List Nat) (h : m.Pairwise (· < ·)) : (NatSet.insert a m).Pairwise (· < ·) := by
  induction m with
  | nil => simp [NatSet.insert]
  | cons f rest ih =>
    rw [List.pairwise_cons] at h
    simp only [NatSet.insert]
    split
    · rw [List.pairwise_cons]
      refine ⟨?_, List.pairwise_cons.mpr h⟩
      intro q hq
      rcases List.mem_cons.mp hq with rfl | hq
      · assumption
      · have := h.1 q hq
        omega
    · split
      · exact List.pairwise_cons.mpr h
      · rw [List.pairwise_cons]
        refine ⟨?_, ih h.2⟩
        intro q hq
        rcases NatSet.mem_insert.mp hq with rfl | hq
        · omega
        · exact h.1 q hq

theorem Memory.wf_mark (m : Memory) (a size : Nat) (h : m.wf = true) : (m.mark a size).wf = true := by
  rw [Memory.wf_iff] at h ⊢
  exact ⟨h.1, h.2.1, insertMark_sorted _ _ h.2.2⟩

theorem Memory.wf_cleanse (m : Memory) (a n : Nat) (h : m.wf = true) : (m.cleanse a n).wf = true := by
  rw [Memory.wf_iff] at h ⊢
  exact ⟨h.1, h.2.1, h.2.2.filter _⟩

theorem Memory.wf_setTag (m : Memory) (a : Nat) (full : Bool) (h : m.wf = true) : (m.setTag a full).wf = true := by
  rw [Memory.wf_iff] at h ⊢
  unfold Memory.setTag
  split
  · exact ⟨h.1, h.2.1.filter _, h.2.2⟩
  · exact ⟨h.1, NatSet.insert_sorted _ _ h.2.1, h.2.2⟩

/-- The injection's own fields play no part in the form. -/
theorem Memory.wf_inject (m : Memory) (i : Option (Nat × Nat)) (b : Bool) (h : m.wf = true) : { m with inject := i, struck := b }.wf = true := h

theorem Memory.wf_strike (m : Memory) (a n : Nat) (h : m.wf = true) : (m.strike a n).wf = true := by
  unfold Memory.strike
  split
  · exact h
  · split
    · dsimp only
      split
      · exact Memory.wf_mark _ _ _ (m.wf_inject none true h)
      · exact m.wf_inject none true h
    · exact h

theorem Memory.wf_zeroFill (m : Memory) (a n : Nat) (h : m.wf = true) : (m.zeroFill a n).wf = true := by
  rw [Memory.wf_iff] at h ⊢
  exact ⟨cellsFrom_filter _ _ _ _ h.1, h.2.1.filter _, h.2.2.filter _⟩

/-! ## Stores -/

theorem Memory.wf_store (m : Memory) (a : Nat) (bs : List Byte) (h : m.wf = true) : (m.store a bs).wf = true :=
  Memory.wf_putBytes _ _ _ (Memory.wf_strike _ _ _ (Memory.wf_cleanse _ _ _ h))

theorem Memory.wf_putWord (m : Memory) (a : Nat) (w : Word) (h : m.wf = true) : (m.putWord a w).wf = true := m.wf_store _ _ h
theorem Memory.wf_putDword (m : Memory) (a v : Nat) (h : m.wf = true) : (m.putDword a v).wf = true := m.wf_store _ _ h

@[simp] theorem Memory.strike_cells (m : Memory) (a n : Nat) : (m.strike a n).cells = m.cells := by
  unfold Memory.strike
  split
  · rfl
  · split
    · dsimp only
      split <;> rfl
    · rfl

@[simp] theorem Memory.strike_veils (m : Memory) (a n : Nat) : (m.strike a n).veils = m.veils := by
  unfold Memory.strike
  split
  · rfl
  · split
    · dsimp only
      split <;> rfl
    · rfl

@[simp] theorem Memory.strike_empties (m : Memory) (a n : Nat) : (m.strike a n).empties = m.empties := by
  unfold Memory.strike
  split
  · rfl
  · split
    · dsimp only
      split <;> rfl
    · rfl

/-- A byte read after a store: the bytes stored there, and elsewhere what stood before. -/
theorem Memory.byte_store (m : Memory) (a : Nat) (bs : List Byte) (k : Nat) :
    (m.store a bs).byte k = if a ≤ k ∧ k < a + bs.length then bs.getD (k - a) 0 else m.byte k := by
  unfold Memory.store
  rw [Memory.byte_putBytes, Memory.byte_of_cells (m := (m.cleanse a bs.length).strike a bs.length) (n := m) (by simp; rfl) (by simp; rfl)]

@[simp] theorem Memory.store_veils (m : Memory) (a : Nat) (bs : List Byte) : (m.store a bs).veils = m.veils := by
  simp [Memory.store, Memory.cleanse]

@[simp] theorem Memory.store_empties (m : Memory) (a : Nat) (bs : List Byte) : (m.store a bs).empties = m.empties := by
  simp [Memory.store, Memory.cleanse]

/-- A store moves no tag. -/
@[simp] theorem Memory.full_store (m : Memory) (a : Nat) (bs : List Byte) (w : Nat) : (m.store a bs).full w = m.full w := by
  simp [Memory.full]

/-- Bytes read after a store of them. -/
theorem Memory.bytes_store (m : Memory) (a : Nat) (bs : List Byte) : (m.store a bs).bytes a bs.length = bs := by
  apply List.ext_getElem
  · simp [Memory.bytes]
  · intro i h1 h2
    simp [Memory.bytes, Memory.byte_store, h2]

/-- Bytes elsewhere read as before a store. -/
theorem Memory.bytes_store_other (m : Memory) (a : Nat) (bs : List Byte) (b n : Nat) (h : b + n ≤ a ∨ a + bs.length ≤ b) :
    (m.store a bs).bytes b n = m.bytes b n := by
  apply List.ext_getElem
  · simp [Memory.bytes]
  · intro i h1 h2
    simp only [Memory.bytes, List.length_map, List.length_range] at h1
    simp only [Memory.bytes, List.getElem_map, List.getElem_range, Memory.byte_store]
    rw [if_neg (by omega)]

/-- A tag read after a change of one tag. -/
theorem Memory.full_setTag (m : Memory) (a : Nat) (full : Bool) (w : Nat) : (m.setTag a full).full w = if w = a then full else m.full w := by
  unfold Memory.setTag
  split
  · by_cases h : w = a
    · subst h
      simp_all [Memory.full, NatSet.erase]
    · simp [Memory.full, NatSet.erase, h]
  · by_cases h : w = a
    · subst h
      simp_all [Memory.full, NatSet.mem_insert]
    · simp [Memory.full, NatSet.mem_insert, h]

@[simp] theorem Memory.byte_setTag (m : Memory) (a : Nat) (full : Bool) (k : Nat) : (m.setTag a full).byte k = m.byte k := by
  rw [Memory.byte_of_cells (m := m.setTag a full) (n := m)] <;> (unfold Memory.setTag; split <;> rfl)

/-! ## Barrier objects, tiles, pieces -/

theorem Memory.wf_boFlip (m : Memory) (a : Nat) (h : m.wf = true) : (m.boFlip a).wf = true :=
  Memory.wf_setTag _ _ _ (Memory.wf_putWord _ _ _ (Memory.wf_putWord _ _ _ h))

theorem Memory.wf_boError (m : Memory) (a : Nat) (w : Word) (h : m.wf = true) : (m.boError a w).wf = true := by
  unfold Memory.boError
  split
  · exact h
  · exact Memory.wf_setTag _ _ _ (Memory.wf_putWord _ _ _ (Memory.wf_putWord _ _ _ h))

theorem Memory.wf_boCheck (m : Memory) (a : Nat) (h : m.wf = true) : (m.boCheck a).wf = true := by
  unfold Memory.boCheck
  split
  · exact m.wf_boFlip a h
  · exact h

theorem Memory.wf_boInit (m : Memory) (a : Nat) (h : m.wf = true) : (m.boInit a).wf = true :=
  Memory.wf_setTag _ _ _ (Memory.wf_setTag _ _ _ (Memory.wf_setTag _ _ _ (Memory.wf_setTag _ _ _
    (Memory.wf_putWord _ _ _ (Memory.wf_putWord _ _ _ (Memory.wf_putWord _ _ _ (Memory.wf_putWord _ _ _ h)))))))

theorem Memory.wf_boExpect (m : Memory) (a : Nat) (n : Word) (h : m.wf = true) : (m.boExpect a n).wf = true := by
  have hp : ((m.putWord (a + 4) n).setTag (a + 4) true).wf = true := Memory.wf_setTag _ _ _ (Memory.wf_putWord _ _ _ h)
  unfold Memory.boExpect
  split
  · exact h
  · split
    · exact m.wf_boError _ _ h
    · dsimp only
      split
      · exact Memory.wf_boError _ _ _ hp
      · exact Memory.wf_boCheck _ _ hp

theorem Memory.wf_boArrive (m : Memory) (a b : Nat) (h : m.wf = true) : (m.boArrive a b).wf = true := by
  unfold Memory.boArrive
  split
  · exact h
  · dsimp only
    split
    · exact m.wf_boError _ _ h
    · split
      · exact Memory.wf_boError _ _ _ (Memory.wf_putWord _ _ _ h)
      · exact Memory.wf_boCheck _ _ (Memory.wf_putWord _ _ _ h)

theorem Memory.wf_storePieces (ps : List (Nat × Nat)) (m : Memory) (bs : List Byte) (h : m.wf = true) : (m.storePieces ps bs).wf = true := by
  induction ps generalizing m bs with
  | nil => exact h
  | cons p rest ih => exact ih _ _ (m.wf_store _ _ h)

/-- A fold of operations that keep the form keeps it. -/
theorem Memory.wf_foldl {α : Type} (f : Memory → α → Memory) (hf : ∀ m a, m.wf = true → (f m a).wf = true) (l : List α) (m : Memory)
    (h : m.wf = true) : (l.foldl f m).wf = true := by
  induction l generalizing m with
  | nil => exact h
  | cons a rest ih => exact ih _ (hf m a h)

theorem Memory.wf_setTags (m : Memory) (a size : Nat) (full : Bool) (h : m.wf = true) : (m.setTags a size full).wf = true :=
  Memory.wf_foldl _ (fun m w hm => m.wf_setTag w full hm) _ _ h

theorem Memory.wf_mixWords (m new : Memory) (ws : List Nat) (oracle : Nat) (h : m.wf = true) : (m.mixWords new ws oracle).wf = true :=
  Memory.wf_foldl _ (fun m w hm => by
    split
    · exact m.wf_store _ _ hm
    · exact hm) _ _ h

theorem Memory.wf_putStored (m : Memory) (a : Nat) (bs : List Byte) (h : m.wf = true) : (m.putStored a bs).wf = true := by
  induction bs generalizing m a with
  | nil => exact h
  | cons b rest ih => exact ih _ _ (m.wf_setStored a b h)

/-- Veils are no part of the form: bytes are listed as stored. -/
theorem Memory.wf_veils (m : Memory) (vs : List Veil) (h : m.wf = true) : { m with veils := vs }.wf = true := h

/-- The scrub of a reset leaves memory in its form (R376). -/
theorem Memory.wf_scrub_cells (m : Memory) (p : Host.Cell → Bool) (h : cellsFrom (fun _ => Config.unlistedByte) 0 m.cells = true) :
    cellsFrom (fun _ => Config.unlistedByte) 0 (m.cells.filter p) = true := cellsFrom_filter _ _ _ _ h

/-- Memory after reset is in its form. -/
theorem Memory.wf_reset : State.reset.mem.wf = true := by decide

end Sys2Proof.Machine
end

