-- ==== Sys2Proof/Laws/Operands.lean ====
section
/-! SUPPORT. Operand forms: legal fields let a word go on; what a source gives; the state a short result leaves. -/
namespace Sys2Proof.Laws
open Sys2Proof.Machine Sys2Proof.Claim

/-- Legal fields within the quota let the word go on. -/
theorem uses_ok {c : Ctx} {lane : Bool} {us : List Use} {k : Verdict} (h : fits us) : c.uses lane us k = k := by
  have h1 : us.any (fun u => !u.legal) = false := by
    rw [List.any_eq_false]; intro u hu; simp [(h u hu).1]
  have h2 : us.any (fun u => !u.quota) = false := by
    rw [List.any_eq_false]; intro u hu; simp [(h u hu).2]
  simp [Ctx.uses, h1, h2]

/-- A source that gives a value hands it on. -/
theorem src_reads {c : Ctx} {s s' : State} {f : Nat} {x : Nat → Word} {k : State → (Nat → Word) → Verdict} (h : reads c s f = some (s', x)) :
    c.src s f k = k s' x := by
  unfold reads at h
  unfold Ctx.src
  split at h
  · cases h; rename_i h; simp only [h, if_true]
  · rename_i h1
    simp only [h1, if_false]
    split at h
    · cases h; rename_i h; simp only [h, if_true]
    · rename_i h2
      simp only [h2, if_false]
      split at h
      · cases h; rename_i h; simp only [h, if_true]
      · rename_i h3
        simp only [h3, if_false]
        split at h
        · rename_i h4
          simp only [h4, if_true]
          cases e : s.popNeighbour c.g (f - 120) with
          | none => rw [e] at h; cases h
          | some p => rw [e] at h; cases h; rfl
        · rename_i h4
          simp only [h4, if_false]
          split at h
          · cases h
          · rename_i h5
            cases e : s.popTeam c.g (f - 124) with
            | none => rw [e] at h; cases h
            | some p =>
              rw [e] at h; cases h
              by_cases h6 : f = 127
              · simp only [h6, if_true]
              · have h7 : c.g.charged = none := by
                  cases hc : c.g.charged with
                  | none => rfl
                  | some w => exfalso; apply h5; simp [h6, hc]
                simp only [h6, if_false, Ctx.charged, h7]

theorem usrc_reads {c : Ctx} {s s' : State} {f : Nat} {x : Word} {k : State → Word → Verdict} (h : ureads c s f = some (s', x)) :
    c.usrc s f k = k s' x := by
  unfold ureads at h
  unfold Ctx.usrc
  split at h
  · cases h; rename_i h; simp only [h, if_true]
  · rename_i h1
    simp only [h1, if_false]
    split at h
    · cases h
    · rename_i h5
      rw [h]
      by_cases h6 : f = 127
      · simp only [h6, if_true]
      · have h7 : c.g.charged = none := by
          cases hc : c.g.charged with
          | none => rfl
          | some w => exfalso; apply h5; simp [h6, hc]
        simp only [h6, if_false, Ctx.charged, h7]

/-- The issuing group stands with its lanes as the word sees them. -/
def carries (c : Ctx) (s : State) : Prop := ∃ g, s.group? c.g.gid = some g ∧ g.lanes = c.g.lanes ∧ g.stepping = c.g.stepping

theorem carries_stepping {c : Ctx} {s : State} (h : carries c s) (g : Group) (hg : s.group? c.g.gid = some g) : g.stepping = c.g.stepping := by
  obtain ⟨g', h1, -, h3⟩ := h
  rw [h1] at hg; cases hg; exact h3

theorem carries_base {s : State} {lane : Bool} {c : Ctx} (h : s.ctx? lane = some c) (b : Bool) : carries c (c.base b) :=
  ⟨_, base_group h b, rfl, rfl⟩

theorem carries_updGroup {c : Ctx} {s : State} (gid : Nat) (f : Group → Group) (h : carries c s)
    (hf : ∀ x, (f x).gid = x.gid ∧ (f x).lanes = x.lanes ∧ (f x).stepping = x.stepping) : carries c (s.updGroup gid f) := by
  obtain ⟨g, h1, h2, h3⟩ := h
  have hk : ∀ x : Group, x.gid = gid → (f x).gid = gid := fun x hx => (hf x).1.trans hx
  by_cases e : c.g.gid = gid
  · subst e
    exact ⟨f g, group_updGroup_self f h1 hk, (hf g).2.1.trans h2, (hf g).2.2.trans h3⟩
  · exact ⟨g, (group_updGroup_other f e hk).trans h1, h2, h3⟩

theorem carries_groups {c : Ctx} {s t : State} (h : carries c s) (e : t.groups = s.groups) : carries c t := by
  unfold carries State.group? at *
  rw [e]; exact h

theorem carries_closeRegion {c : Ctx} {s : State} (gid : Nat) (h : carries c s) : carries c (s.closeRegion gid) := by
  unfold State.closeRegion
  split
  · exact h
  · exact carries_updGroup _ _ (carries_groups h rfl) (fun _ => ⟨rfl, rfl, rfl⟩)

theorem groups_deliverNotice (s : State) (n : Notice) : (s.deliverNotice n).groups = s.groups := by
  unfold State.deliverNotice
  split
  · rfl
  · split
    · rfl
    · split <;> rfl

theorem carries_popTeam {c : Ctx} {s s' : State} {i : Nat} {w : Word} (h : carries c s) (e : s.popTeam c.g i = some (s', w)) : carries c s' := by
  unfold State.popTeam at e
  split at e
  · cases e
  · dsimp only at e
    split at e
    · split at e
      · simp only [Option.some.injEq, Prod.mk.injEq] at e
        obtain ⟨e, -⟩ := e
        subst e
        have h1 : ∀ t, t.groups = s.groups → carries c (if i = 3 then t else t.closeRegion c.g.gid) := by
          intro t ht
          split
          · exact carries_groups h ht
          · exact carries_closeRegion _ (carries_groups h ht)
        apply h1
        split
        · rfl
        · split
          · rw [groups_deliverNotice]; rfl
          · rfl
      · cases e
    · cases e

theorem carries_popNeighbour {c : Ctx} {s s' : State} {d : Nat} {ws : List Word} (h : carries c s) (e : s.popNeighbour c.g d = some (s', ws)) :
    carries c s' := by
  unfold State.popNeighbour at e
  split at e
  · cases e
    exact carries_updGroup _ _ h (fun _ => ⟨rfl, rfl, rfl⟩)
  · cases e

theorem carries_reads {c : Ctx} {s s' : State} {f : Nat} {x : Nat → Word} (h : carries c s) (e : reads c s f = some (s', x)) : carries c s' := by
  unfold reads at e
  split at e
  · cases e; exact h
  · split at e
    · cases e; exact h
    · split at e
      · cases e; exact h
      · split at e
        · cases k : s.popNeighbour c.g (f - 120) with
          | none => rw [k] at e; cases e
          | some p => rw [k] at e; cases e; exact carries_popNeighbour (ws := p.2) h k
        · split at e
          · cases e
          · cases k : s.popTeam c.g (f - 124) with
            | none => rw [k] at e; cases e
            | some p => rw [k] at e; cases e; exact carries_popTeam (w := p.2) h k

theorem carries_ureads {c : Ctx} {s s' : State} {f : Nat} {x : Word} (h : carries c s) (e : ureads c s f = some (s', x)) : carries c s' := by
  unfold ureads at e
  split at e
  · cases e; exact h
  · split at e
    · cases e
    · exact carries_popTeam (w := x) h e

theorem carries_push {c : Ctx} {s : State} (g : Group) (d : Nat) (e : NeighbourEntry) (h : carries c s) : carries c (s.push g d e) := by
  unfold State.push
  split
  · exact h
  · split
    · exact h
    · exact carries_updGroup _ _ h (fun _ => ⟨rfl, rfl, rfl⟩)

/-! ## Short results -/

/-- A word whose body ends in a short result has settled with it. -/
theorem issue_result {s : State} {body : Ctx → Verdict} {c : Ctx} {p : State} {latency d : Nat} {mask : Word} {v : Nat → Word}
    (hi : issues s true c) (hb : body c = c.result p latency d mask v) (hp : carries c p) :
    ∃ t, issue s true body = .next t ∧ Claim.result c p d mask v t := by
  unfold Ctx.result at hb
  unfold Claim.result
  have hp2 := hp
  obtain ⟨g, hg, -⟩ := hp2
  by_cases h : d < 104
  · simp only [h, if_true] at hb ⊢
    exact issue_done hi hb (wrote_writeAt _ _ _ _ hg) (carries_stepping hp)
  · simp only [h, if_false] at hb ⊢
    by_cases h2 : c.act = 0
    · simp only [h2, if_true] at hb ⊢
      exact issue_done hi hb (wrote_refl hg) (carries_stepping hp)
    · simp only [h2, if_false] at hb ⊢
      have hq := carries_push c.g (d - 120) { op := none, words := (List.range 32).map (fun l => if c.act.getLsbD l then v l &&& mask else 0) } hp
      have hq2 := hq
      obtain ⟨g', hg', -⟩ := hq2
      exact issue_done hi hb (wrote_refl hg') (carries_stepping hq)

/-- A short result into a predicate. -/
theorem issue_resultP {s : State} {lane : Bool} {body : Ctx → Verdict} {c : Ctx} {p : State} {latency k : Nat} {v : Nat → Bool}
    (hi : issues s lane c) (hb : body c = c.resultP p latency k v) (hp : carries c p) :
    ∃ t, issue s lane body = .next t ∧
      settles p c.g.gid (writesOne c (Config.predBase + k) (fun _ => 1) (fun l => if v l then 1 else 0)) noUni t := by
  have hp2 := hp
  obtain ⟨g, hg, -⟩ := hp2
  exact issue_done hi hb (wrote_writeAt _ _ _ _ hg) (carries_stepping hp)

end Sys2Proof.Laws
end

