-- ==== Sys2Proof/Laws/PerInstr.lean ====
section
/-! SUPPORT. The decoder reads the encoder's word back, constructor by constructor: the family `Encoding` of LAWS.json.
A step of the machine has no word, so its lemma holds of nothing. -/
namespace Sys2Proof.Laws.Encoding

/-- A well-formed instruction's word fits 32 bits, and the decoder picks that instruction from it (R123, R124, R138 to
R140). -/
def Statement (i : Instr) : Prop :=
  i.wf = true → ∀ n, encodeNat i = some n → n < 2 ^ 32 ∧ Decode.pick n = .ok i

theorem fld_eq {n lo w : Nat} {x : BitVec w} (h : n / 2 ^ lo % 2 ^ w = x.toNat) : Decode.fld n lo w = x :=
  BitVec.eq_of_toNat_eq (by simpa [Decode.fld] using h)

theorem pick_lane0 {n : Nat} (m : Decode.bits n 25 7 = 0) : Decode.pick n = Decode.lane0 n := by
  delta Decode.pick
  rw [m]
  rfl

theorem pick_lane1 {n : Nat} (m : Decode.bits n 25 7 = 1) : Decode.pick n = Decode.lane1 n := by
  delta Decode.pick
  rw [m]
  rfl

theorem pick_lane2 {n : Nat} (m : Decode.bits n 25 7 = 2) : Decode.pick n = Decode.lane2 n := by
  delta Decode.pick
  rw [m]
  rfl

theorem pick_lane3 {n : Nat} (m : Decode.bits n 25 7 = 3) : Decode.pick n = Decode.lane3 n := by
  delta Decode.pick
  rw [m]
  rfl

theorem pick_lane4 {n : Nat} (m : Decode.bits n 25 7 = 4) : Decode.pick n = Decode.lane4 n := by
  delta Decode.pick
  rw [m]
  rfl

theorem pick_lane5 {n : Nat} (m : Decode.bits n 25 7 = 5) : Decode.pick n = Decode.lane5 n := by
  delta Decode.pick
  rw [m]
  rfl

theorem pick_lane6 {n : Nat} (m : Decode.bits n 25 7 = 6) : Decode.pick n = Decode.lane6 n := by
  delta Decode.pick
  rw [m]
  rfl

theorem pick_lane7 {n : Nat} (m : Decode.bits n 25 7 = 7) : Decode.pick n = Decode.lane7 n := by
  delta Decode.pick
  rw [m]
  rfl

theorem pick_lane8 {n : Nat} (m : Decode.bits n 25 7 = 8) : Decode.pick n = Decode.lane8 n := by
  delta Decode.pick
  rw [m]
  rfl

theorem pick_lane9 {n : Nat} (m : Decode.bits n 25 7 = 9) : Decode.pick n = Decode.lane9 n := by
  delta Decode.pick
  rw [m]
  rfl

theorem pick_lane10 {n : Nat} (m : Decode.bits n 25 7 = 10) : Decode.pick n = Decode.lane10 n := by
  delta Decode.pick
  rw [m]
  rfl

theorem pick_lane11 {n : Nat} (m : Decode.bits n 25 7 = 11) : Decode.pick n = Decode.lane11 n := by
  delta Decode.pick
  rw [m]
  rfl

theorem pick_lane12 {n : Nat} (m : Decode.bits n 25 7 = 12) : Decode.pick n = Decode.lane12 n := by
  delta Decode.pick
  rw [m]
  rfl

theorem pick_lane13 {n : Nat} (m : Decode.bits n 25 7 = 13) : Decode.pick n = Decode.lane13 n := by
  delta Decode.pick
  rw [m]
  rfl

theorem pick_lane14 {n : Nat} (m : Decode.bits n 25 7 = 14) : Decode.pick n = Decode.lane14 n := by
  delta Decode.pick
  rw [m]
  rfl

theorem pick_lane15 {n : Nat} (m : Decode.bits n 25 7 = 15) : Decode.pick n = Decode.lane15 n := by
  delta Decode.pick
  rw [m]
  rfl

theorem pick_lane16 {n : Nat} (m : Decode.bits n 25 7 = 16) : Decode.pick n = Decode.lane16 n := by
  delta Decode.pick
  rw [m]
  rfl

theorem pick_lane17 {n : Nat} (m : Decode.bits n 25 7 = 17) : Decode.pick n = Decode.lane17 n := by
  delta Decode.pick
  rw [m]
  rfl

theorem pick_lane18 {n : Nat} (m : Decode.bits n 25 7 = 18) : Decode.pick n = Decode.lane18 n := by
  delta Decode.pick
  rw [m]
  rfl

theorem pick_lane19 {n : Nat} (m : Decode.bits n 25 7 = 19) : Decode.pick n = Decode.lane19 n := by
  delta Decode.pick
  rw [m]
  rfl

theorem pick_lane20 {n : Nat} (m : Decode.bits n 25 7 = 20) : Decode.pick n = Decode.lane20 n := by
  delta Decode.pick
  rw [m]
  rfl

theorem pick_lane21 {n : Nat} (m : Decode.bits n 25 7 = 21) : Decode.pick n = Decode.lane21 n := by
  delta Decode.pick
  rw [m]
  rfl

theorem pick_lane22 {n : Nat} (m : Decode.bits n 25 7 = 22) : Decode.pick n = Decode.lane22 n := by
  delta Decode.pick
  rw [m]
  rfl

theorem pick_lane23 {n : Nat} (m : Decode.bits n 25 7 = 23) : Decode.pick n = Decode.lane23 n := by
  delta Decode.pick
  rw [m]
  rfl

theorem pick_lane24 {n : Nat} (m : Decode.bits n 25 7 = 24) : Decode.pick n = Decode.lane24 n := by
  delta Decode.pick
  rw [m]
  rfl

theorem pick_lane25 {n : Nat} (m : Decode.bits n 25 7 = 25) : Decode.pick n = Decode.lane25 n := by
  delta Decode.pick
  rw [m]
  rfl

theorem pick_lane26 {n : Nat} (m : Decode.bits n 25 7 = 26) : Decode.pick n = Decode.lane26 n := by
  delta Decode.pick
  rw [m]
  rfl

theorem pick_lane27 {n : Nat} (m : Decode.bits n 25 7 = 27) : Decode.pick n = Decode.lane27 n := by
  delta Decode.pick
  rw [m]
  rfl

theorem pick_lane28 {n : Nat} (m : Decode.bits n 25 7 = 28) : Decode.pick n = Decode.lane28 n := by
  delta Decode.pick
  rw [m]
  rfl

theorem pick_lane29 {n : Nat} (m : Decode.bits n 25 7 = 29) : Decode.pick n = Decode.lane29 n := by
  delta Decode.pick
  rw [m]
  rfl

theorem pick_lane30 {n : Nat} (m : Decode.bits n 25 7 = 30) : Decode.pick n = Decode.lane30 n := by
  delta Decode.pick
  rw [m]
  rfl

theorem pick_lane31 {n : Nat} (m : Decode.bits n 25 7 = 31) : Decode.pick n = Decode.lane31 n := by
  delta Decode.pick
  rw [m]
  rfl

theorem pick_lane32 {n : Nat} (m : Decode.bits n 25 7 = 32) : Decode.pick n = Decode.lane32 n := by
  delta Decode.pick
  rw [m]
  rfl

theorem pick_lane33 {n : Nat} (m : Decode.bits n 25 7 = 33) : Decode.pick n = Decode.lane33 n := by
  delta Decode.pick
  rw [m]
  rfl

theorem pick_lane34 {n : Nat} (m : Decode.bits n 25 7 = 34) : Decode.pick n = Decode.lane34 n := by
  delta Decode.pick
  rw [m]
  rfl

theorem pick_lane35 {n : Nat} (m : Decode.bits n 25 7 = 35) : Decode.pick n = Decode.lane35 n := by
  delta Decode.pick
  rw [m]
  rfl

theorem pick_lane36 {n : Nat} (m : Decode.bits n 25 7 = 36) : Decode.pick n = Decode.lane36 n := by
  delta Decode.pick
  rw [m]
  rfl

theorem pick_lane37 {n : Nat} (m : Decode.bits n 25 7 = 37) : Decode.pick n = Decode.lane37 n := by
  delta Decode.pick
  rw [m]
  rfl

theorem pick_lane38 {n : Nat} (m : Decode.bits n 25 7 = 38) : Decode.pick n = Decode.lane38 n := by
  delta Decode.pick
  rw [m]
  rfl

theorem pick_lane39 {n : Nat} (m : Decode.bits n 25 7 = 39) : Decode.pick n = Decode.lane39 n := by
  delta Decode.pick
  rw [m]
  rfl

theorem pick_lane40 {n : Nat} (m : Decode.bits n 25 7 = 40) : Decode.pick n = Decode.lane40 n := by
  delta Decode.pick
  rw [m]
  rfl

theorem pick_uni0 {n : Nat} (m : Decode.bits n 25 7 = 64) : Decode.pick n = Decode.uni0 n := by
  delta Decode.pick
  rw [m]
  rfl

theorem pick_uni1 {n : Nat} (m : Decode.bits n 25 7 = 65) : Decode.pick n = Decode.uni1 n := by
  delta Decode.pick
  rw [m]
  rfl

theorem pick_uni2 {n : Nat} (m : Decode.bits n 25 7 = 66) : Decode.pick n = Decode.uni2 n := by
  delta Decode.pick
  rw [m]
  rfl

theorem pick_uni3 {n : Nat} (m : Decode.bits n 25 7 = 67) : Decode.pick n = Decode.uni3 n := by
  delta Decode.pick
  rw [m]
  rfl

theorem pick_uni4 {n : Nat} (m : Decode.bits n 25 7 = 68) : Decode.pick n = Decode.uni4 n := by
  delta Decode.pick
  rw [m]
  rfl

theorem pick_uni5 {n : Nat} (m : Decode.bits n 25 7 = 69) : Decode.pick n = Decode.uni5 n := by
  delta Decode.pick
  rw [m]
  rfl

theorem pick_uni6 {n : Nat} (m : Decode.bits n 25 7 = 70) : Decode.pick n = Decode.uni6 n := by
  delta Decode.pick
  rw [m]
  rfl

theorem pick_uni7 {n : Nat} (m : Decode.bits n 25 7 = 71) : Decode.pick n = Decode.uni7 n := by
  delta Decode.pick
  rw [m]
  rfl

theorem pick_uni8 {n : Nat} (m : Decode.bits n 25 7 = 72) : Decode.pick n = Decode.uni8 n := by
  delta Decode.pick
  rw [m]
  rfl

theorem pick_uni9 {n : Nat} (m : Decode.bits n 25 7 = 73) : Decode.pick n = Decode.uni9 n := by
  delta Decode.pick
  rw [m]
  rfl

theorem pick_uni10 {n : Nat} (m : Decode.bits n 25 7 = 74) : Decode.pick n = Decode.uni10 n := by
  delta Decode.pick
  rw [m]
  rfl

theorem pick_uni11 {n : Nat} (m : Decode.bits n 25 7 = 75) : Decode.pick n = Decode.uni11 n := by
  delta Decode.pick
  rw [m]
  rfl

theorem pick_uni12 {n : Nat} (m : Decode.bits n 25 7 = 76) : Decode.pick n = Decode.uni12 n := by
  delta Decode.pick
  rw [m]
  rfl

theorem pick_uni13 {n : Nat} (m : Decode.bits n 25 7 = 77) : Decode.pick n = Decode.uni13 n := by
  delta Decode.pick
  rw [m]
  rfl

theorem pick_uni14 {n : Nat} (m : Decode.bits n 25 7 = 78) : Decode.pick n = Decode.uni14 n := by
  delta Decode.pick
  rw [m]
  rfl

theorem pick_uni15 {n : Nat} (m : Decode.bits n 25 7 = 79) : Decode.pick n = Decode.uni15 n := by
  delta Decode.pick
  rw [m]
  rfl

theorem pick_uni16 {n : Nat} (m : Decode.bits n 25 7 = 80) : Decode.pick n = Decode.uni16 n := by
  delta Decode.pick
  rw [m]
  rfl

theorem pick_uni17 {n : Nat} (m : Decode.bits n 25 7 = 81) : Decode.pick n = Decode.uni17 n := by
  delta Decode.pick
  rw [m]
  rfl

theorem pick_uni18 {n : Nat} (m : Decode.bits n 25 7 = 82) : Decode.pick n = Decode.uni18 n := by
  delta Decode.pick
  rw [m]
  rfl

theorem pick_uni19 {n : Nat} (m : Decode.bits n 25 7 = 83) : Decode.pick n = Decode.uni19 n := by
  delta Decode.pick
  rw [m]
  rfl

theorem pick_uni20 {n : Nat} (m : Decode.bits n 25 7 = 84) : Decode.pick n = Decode.uni20 n := by
  delta Decode.pick
  rw [m]
  rfl

theorem pick_uni21 {n : Nat} (m : Decode.bits n 25 7 = 85) : Decode.pick n = Decode.uni21 n := by
  delta Decode.pick
  rw [m]
  rfl

theorem pick_uni22 {n : Nat} (m : Decode.bits n 25 7 = 86) : Decode.pick n = Decode.uni22 n := by
  delta Decode.pick
  rw [m]
  rfl

theorem pick_uni23 {n : Nat} (m : Decode.bits n 25 7 = 87) : Decode.pick n = Decode.uni23 n := by
  delta Decode.pick
  rw [m]
  rfl

theorem pick_uni24 {n : Nat} (m : Decode.bits n 25 7 = 88) : Decode.pick n = Decode.uni24 n := by
  delta Decode.pick
  rw [m]
  rfl

theorem pick_uni25 {n : Nat} (m : Decode.bits n 25 7 = 89) : Decode.pick n = Decode.uni25 n := by
  delta Decode.pick
  rw [m]
  rfl

theorem pick_uni26 {n : Nat} (m : Decode.bits n 25 7 = 90) : Decode.pick n = Decode.uni26 n := by
  delta Decode.pick
  rw [m]
  rfl

theorem pick_uni27 {n : Nat} (m : Decode.bits n 25 7 = 91) : Decode.pick n = Decode.uni27 n := by
  delta Decode.pick
  rw [m]
  rfl

theorem pick_uni28 {n : Nat} (m : Decode.bits n 25 7 = 92) : Decode.pick n = Decode.uni28 n := by
  delta Decode.pick
  rw [m]
  rfl

theorem pick_uni29 {n : Nat} (m : Decode.bits n 25 7 = 93) : Decode.pick n = Decode.uni29 n := by
  delta Decode.pick
  rw [m]
  rfl

theorem pick_uni30 {n : Nat} (m : Decode.bits n 25 7 = 94) : Decode.pick n = Decode.uni30 n := by
  delta Decode.pick
  rw [m]
  rfl

theorem pick_uni31 {n : Nat} (m : Decode.bits n 25 7 = 95) : Decode.pick n = Decode.uni31 n := by
  delta Decode.pick
  rw [m]
  rfl

theorem pick_uni32 {n : Nat} (m : Decode.bits n 25 7 = 96) : Decode.pick n = Decode.uni32 n := by
  delta Decode.pick
  rw [m]
  rfl

theorem pick_uni33 {n : Nat} (m : Decode.bits n 25 7 = 97) : Decode.pick n = Decode.uni33 n := by
  delta Decode.pick
  rw [m]
  rfl

theorem pick_uni34 {n : Nat} (m : Decode.bits n 25 7 = 98) : Decode.pick n = Decode.uni34 n := by
  delta Decode.pick
  rw [m]
  rfl

theorem pick_uni60 {n : Nat} (m : Decode.bits n 25 7 = 124) : Decode.pick n = Decode.uni60 n := by
  delta Decode.pick
  rw [m]
  rfl

theorem pick_uni61 {n : Nat} (m : Decode.bits n 25 7 = 125) : Decode.pick n = Decode.uni61 n := by
  delta Decode.pick
  rw [m]
  rfl

theorem pick_uni62 {n : Nat} (m : Decode.bits n 25 7 = 126) : Decode.pick n = Decode.uni62 n := by
  delta Decode.pick
  rw [m]
  rfl

theorem shape0 {n c M v0 : Nat} {x0 : BitVec 7} {x1 : BitVec 7} {x2 : BitVec 7}
    (hc : c = M * 33554432 + v0 * 1) (hM : M < 128) (hv0 : v0 < 16)
    (h : c + x0.toNat * 262144 + x1.toNat * 2048 + x2.toNat * 16 = n) :
    n < 2 ^ 32 ∧ Decode.bits n 25 7 = M ∧ Decode.bits n 0 4 = v0 ∧ Decode.fld n 18 7 = x0 ∧ Decode.fld n 11 7 = x1 ∧ Decode.fld n 4 7 = x2 := by
  have h_x0 := x0.isLt
  have h_x1 := x1.isLt
  have h_x2 := x2.isLt
  unfold Decode.bits
  exact ⟨by omega, by omega, by omega, fld_eq (by omega), fld_eq (by omega), fld_eq (by omega)⟩

theorem shape1 {n c M v0 v1 : Nat} {x0 : BitVec 7} {x1 : BitVec 7}
    (hc : c = M * 33554432 + v0 * 1 + v1 * 16) (hM : M < 128) (hv0 : v0 < 16) (hv1 : v1 < 128)
    (h : c + x0.toNat * 262144 + x1.toNat * 2048 = n) :
    n < 2 ^ 32 ∧ Decode.bits n 25 7 = M ∧ Decode.bits n 0 4 = v0 ∧ Decode.bits n 4 7 = v1 ∧ Decode.fld n 18 7 = x0 ∧ Decode.fld n 11 7 = x1 := by
  have h_x0 := x0.isLt
  have h_x1 := x1.isLt
  unfold Decode.bits
  exact ⟨by omega, by omega, by omega, by omega, fld_eq (by omega), fld_eq (by omega)⟩

theorem shape2 {n c M : Nat} {x0 : BitVec 7} {x1 : BitVec 7} {x2 : BitVec 11}
    (hc : c = M * 33554432) (hM : M < 128)
    (h : c + x0.toNat * 262144 + x1.toNat * 2048 + x2.toNat = n) :
    n < 2 ^ 32 ∧ Decode.bits n 25 7 = M ∧ Decode.fld n 18 7 = x0 ∧ Decode.fld n 11 7 = x1 ∧ Decode.fld n 0 11 = x2 := by
  have h_x0 := x0.isLt
  have h_x1 := x1.isLt
  have h_x2 := x2.isLt
  unfold Decode.bits
  exact ⟨by omega, by omega, fld_eq (by omega), fld_eq (by omega), fld_eq (by omega)⟩

theorem shape3 {n c M v0 v1 : Nat} {x0 : BitVec 7} {x1 : BitVec 7} {x2 : BitVec 5}
    (hc : c = M * 33554432 + v0 * 32 + v1 * 512) (hM : M < 128) (hv0 : v0 < 16) (hv1 : v1 < 4)
    (h : c + x0.toNat * 262144 + x1.toNat * 2048 + x2.toNat = n) :
    n < 2 ^ 32 ∧ Decode.bits n 25 7 = M ∧ Decode.bits n 5 4 = v0 ∧ Decode.bits n 9 2 = v1 ∧ Decode.fld n 18 7 = x0 ∧ Decode.fld n 11 7 = x1 ∧ Decode.fld n 0 5 = x2 := by
  have h_x0 := x0.isLt
  have h_x1 := x1.isLt
  have h_x2 := x2.isLt
  unfold Decode.bits
  exact ⟨by omega, by omega, by omega, by omega, fld_eq (by omega), fld_eq (by omega), fld_eq (by omega)⟩

theorem shape4 {n c M v0 v1 : Nat} {x0 : BitVec 7}
    (hc : c = M * 33554432 + v0 * 1 + v1 * 16) (hM : M < 128) (hv0 : v0 < 16) (hv1 : v1 < 16384)
    (h : c + x0.toNat * 262144 = n) :
    n < 2 ^ 32 ∧ Decode.bits n 25 7 = M ∧ Decode.bits n 0 4 = v0 ∧ Decode.bits n 4 14 = v1 ∧ Decode.fld n 18 7 = x0 := by
  have h_x0 := x0.isLt
  unfold Decode.bits
  exact ⟨by omega, by omega, by omega, by omega, fld_eq (by omega)⟩

theorem shape5 {n c M v0 v1 v2 : Nat} {x0 : BitVec 7}
    (hc : c = M * 33554432 + v0 * 1 + v1 * 16 + v2 * 262144) (hM : M < 128) (hv0 : v0 < 16) (hv1 : v1 < 128) (hv2 : v2 < 128)
    (h : c + x0.toNat * 2048 = n) :
    n < 2 ^ 32 ∧ Decode.bits n 25 7 = M ∧ Decode.bits n 0 4 = v0 ∧ Decode.bits n 4 7 = v1 ∧ Decode.bits n 18 7 = v2 ∧ Decode.fld n 11 7 = x0 := by
  have h_x0 := x0.isLt
  unfold Decode.bits
  exact ⟨by omega, by omega, by omega, by omega, by omega, fld_eq (by omega)⟩

theorem shape6 {n c M : Nat} {x0 : BitVec 7} {x1 : BitVec 18}
    (hc : c = M * 33554432) (hM : M < 128)
    (h : c + x0.toNat * 262144 + x1.toNat = n) :
    n < 2 ^ 32 ∧ Decode.bits n 25 7 = M ∧ Decode.fld n 18 7 = x0 ∧ Decode.fld n 0 18 = x1 := by
  have h_x0 := x0.isLt
  have h_x1 := x1.isLt
  unfold Decode.bits
  exact ⟨by omega, by omega, fld_eq (by omega), fld_eq (by omega)⟩

theorem shape7 {n c M : Nat} {x0 : BitVec 7} {x1 : BitVec 7} {x2 : BitVec 7} {x3 : BitVec 4}
    (hc : c = M * 33554432) (hM : M < 128)
    (h : c + x0.toNat * 262144 + x1.toNat * 2048 + x2.toNat * 16 + x3.toNat = n) :
    n < 2 ^ 32 ∧ Decode.bits n 25 7 = M ∧ Decode.fld n 18 7 = x0 ∧ Decode.fld n 11 7 = x1 ∧ Decode.fld n 4 7 = x2 ∧ Decode.fld n 0 4 = x3 := by
  have h_x0 := x0.isLt
  have h_x1 := x1.isLt
  have h_x2 := x2.isLt
  have h_x3 := x3.isLt
  unfold Decode.bits
  exact ⟨by omega, by omega, fld_eq (by omega), fld_eq (by omega), fld_eq (by omega), fld_eq (by omega)⟩

theorem shape8 {n c M : Nat} {x0 : BitVec 7} {x1 : BitVec 7} {x2 : BitVec 4} {x3 : BitVec 7}
    (hc : c = M * 33554432) (hM : M < 128)
    (h : c + x0.toNat * 262144 + x1.toNat * 2048 + x2.toNat * 128 + x3.toNat = n) :
    n < 2 ^ 32 ∧ Decode.bits n 25 7 = M ∧ Decode.fld n 18 7 = x0 ∧ Decode.fld n 11 7 = x1 ∧ Decode.fld n 7 4 = x2 ∧ Decode.fld n 0 7 = x3 := by
  have h_x0 := x0.isLt
  have h_x1 := x1.isLt
  have h_x2 := x2.isLt
  have h_x3 := x3.isLt
  unfold Decode.bits
  exact ⟨by omega, by omega, fld_eq (by omega), fld_eq (by omega), fld_eq (by omega), fld_eq (by omega)⟩

theorem shape9 {n c M v0 : Nat} {x0 : BitVec 7} {x1 : BitVec 7} {x2 : BitVec 4}
    (hc : c = M * 33554432 + v0 * 16) (hM : M < 128) (hv0 : v0 < 128)
    (h : c + x0.toNat * 262144 + x1.toNat * 2048 + x2.toNat = n) :
    n < 2 ^ 32 ∧ Decode.bits n 25 7 = M ∧ Decode.bits n 4 7 = v0 ∧ Decode.fld n 18 7 = x0 ∧ Decode.fld n 11 7 = x1 ∧ Decode.fld n 0 4 = x2 := by
  have h_x0 := x0.isLt
  have h_x1 := x1.isLt
  have h_x2 := x2.isLt
  unfold Decode.bits
  exact ⟨by omega, by omega, by omega, fld_eq (by omega), fld_eq (by omega), fld_eq (by omega)⟩

theorem shape10 {n c M v0 : Nat} {x0 : BitVec 7} {x1 : BitVec 7} {x2 : BitVec 7} {x3 : BitVec 3}
    (hc : c = M * 33554432 + v0 * 1) (hM : M < 128) (hv0 : v0 < 2)
    (h : c + x0.toNat * 262144 + x1.toNat * 2048 + x2.toNat * 16 + x3.toNat * 2 = n) :
    n < 2 ^ 32 ∧ Decode.bits n 25 7 = M ∧ Decode.bits n 0 1 = v0 ∧ Decode.fld n 18 7 = x0 ∧ Decode.fld n 11 7 = x1 ∧ Decode.fld n 4 7 = x2 ∧ Decode.fld n 1 3 = x3 := by
  have h_x0 := x0.isLt
  have h_x1 := x1.isLt
  have h_x2 := x2.isLt
  have h_x3 := x3.isLt
  unfold Decode.bits
  exact ⟨by omega, by omega, by omega, fld_eq (by omega), fld_eq (by omega), fld_eq (by omega), fld_eq (by omega)⟩

theorem shape11 {n c M v0 v1 : Nat} {x0 : BitVec 7} {x1 : BitVec 7} {x2 : BitVec 2}
    (hc : c = M * 33554432 + v0 * 1 + v1 * 16) (hM : M < 128) (hv0 : v0 < 4) (hv1 : v1 < 128)
    (h : c + x0.toNat * 262144 + x1.toNat * 2048 + x2.toNat * 4 = n) :
    n < 2 ^ 32 ∧ Decode.bits n 25 7 = M ∧ Decode.bits n 0 2 = v0 ∧ Decode.bits n 4 7 = v1 ∧ Decode.fld n 18 7 = x0 ∧ Decode.fld n 11 7 = x1 ∧ Decode.fld n 2 2 = x2 := by
  have h_x0 := x0.isLt
  have h_x1 := x1.isLt
  have h_x2 := x2.isLt
  unfold Decode.bits
  exact ⟨by omega, by omega, by omega, by omega, fld_eq (by omega), fld_eq (by omega), fld_eq (by omega)⟩

theorem shape12 {n c M v0 : Nat} {x0 : BitVec 7} {x1 : BitVec 7} {x2 : BitVec 3} {x3 : BitVec 2} {x4 : BitVec 3}
    (hc : c = M * 33554432 + v0 * 1) (hM : M < 128) (hv0 : v0 < 8)
    (h : c + x0.toNat * 262144 + x1.toNat * 2048 + x2.toNat * 256 + x3.toNat * 64 + x4.toNat * 8 = n) :
    n < 2 ^ 32 ∧ Decode.bits n 25 7 = M ∧ Decode.bits n 0 3 = v0 ∧ Decode.fld n 18 7 = x0 ∧ Decode.fld n 11 7 = x1 ∧ Decode.fld n 8 3 = x2 ∧ Decode.fld n 6 2 = x3 ∧ Decode.fld n 3 3 = x4 := by
  have h_x0 := x0.isLt
  have h_x1 := x1.isLt
  have h_x2 := x2.isLt
  have h_x3 := x3.isLt
  have h_x4 := x4.isLt
  unfold Decode.bits
  exact ⟨by omega, by omega, by omega, fld_eq (by omega), fld_eq (by omega), fld_eq (by omega), fld_eq (by omega), fld_eq (by omega)⟩

theorem shape13 {n c M : Nat} {x0 : BitVec 7} {x1 : BitVec 7} {x2 : BitVec 3} {x3 : BitVec 2} {x4 : BitVec 3} {x5 : BitVec 3}
    (hc : c = M * 33554432) (hM : M < 128)
    (h : c + x0.toNat * 262144 + x1.toNat * 2048 + x2.toNat * 256 + x3.toNat * 64 + x4.toNat * 8 + x5.toNat = n) :
    n < 2 ^ 32 ∧ Decode.bits n 25 7 = M ∧ Decode.fld n 18 7 = x0 ∧ Decode.fld n 11 7 = x1 ∧ Decode.fld n 8 3 = x2 ∧ Decode.fld n 6 2 = x3 ∧ Decode.fld n 3 3 = x4 ∧ Decode.fld n 0 3 = x5 := by
  have h_x0 := x0.isLt
  have h_x1 := x1.isLt
  have h_x2 := x2.isLt
  have h_x3 := x3.isLt
  have h_x4 := x4.isLt
  have h_x5 := x5.isLt
  unfold Decode.bits
  exact ⟨by omega, by omega, fld_eq (by omega), fld_eq (by omega), fld_eq (by omega), fld_eq (by omega), fld_eq (by omega), fld_eq (by omega)⟩

theorem shape14 {n c M v0 v1 v2 : Nat} {x0 : BitVec 7} {x1 : BitVec 7} {x2 : BitVec 1} {x3 : BitVec 3}
    (hc : c = M * 33554432 + v0 * 1 + v1 * 64 + v2 * 512) (hM : M < 128) (hv0 : v0 < 8) (hv1 : v1 < 4) (hv2 : v2 < 4)
    (h : c + x0.toNat * 262144 + x1.toNat * 2048 + x2.toNat * 256 + x3.toNat * 8 = n) :
    n < 2 ^ 32 ∧ Decode.bits n 25 7 = M ∧ Decode.bits n 0 3 = v0 ∧ Decode.bits n 6 2 = v1 ∧ Decode.bits n 9 2 = v2 ∧ Decode.fld n 18 7 = x0 ∧ Decode.fld n 11 7 = x1 ∧ Decode.fld n 8 1 = x2 ∧ Decode.fld n 3 3 = x3 := by
  have h_x0 := x0.isLt
  have h_x1 := x1.isLt
  have h_x2 := x2.isLt
  have h_x3 := x3.isLt
  unfold Decode.bits
  exact ⟨by omega, by omega, by omega, by omega, by omega, fld_eq (by omega), fld_eq (by omega), fld_eq (by omega), fld_eq (by omega)⟩

theorem shape15 {n c M v0 : Nat} {x0 : BitVec 7} {x1 : BitVec 7} {x2 : BitVec 4}
    (hc : c = M * 33554432 + v0 * 262144) (hM : M < 128) (hv0 : v0 < 128)
    (h : c + x0.toNat * 2048 + x1.toNat * 16 + x2.toNat = n) :
    n < 2 ^ 32 ∧ Decode.bits n 25 7 = M ∧ Decode.bits n 18 7 = v0 ∧ Decode.fld n 11 7 = x0 ∧ Decode.fld n 4 7 = x1 ∧ Decode.fld n 0 4 = x2 := by
  have h_x0 := x0.isLt
  have h_x1 := x1.isLt
  have h_x2 := x2.isLt
  unfold Decode.bits
  exact ⟨by omega, by omega, by omega, fld_eq (by omega), fld_eq (by omega), fld_eq (by omega)⟩

theorem shape16 {n c M v0 : Nat} {x0 : BitVec 5} {x1 : BitVec 18}
    (hc : c = M * 33554432 + v0 * 262144) (hM : M < 128) (hv0 : v0 < 4)
    (h : c + x0.toNat * 1048576 + x1.toNat = n) :
    n < 2 ^ 32 ∧ Decode.bits n 25 7 = M ∧ Decode.bits n 18 2 = v0 ∧ Decode.fld n 20 5 = x0 ∧ Decode.fld n 0 18 = x1 := by
  have h_x0 := x0.isLt
  have h_x1 := x1.isLt
  unfold Decode.bits
  exact ⟨by omega, by omega, by omega, fld_eq (by omega), fld_eq (by omega)⟩

theorem shape17 {n c M v0 : Nat} {x0 : BitVec 7} {x1 : BitVec 4} {x2 : BitVec 5} {x3 : BitVec 5}
    (hc : c = M * 33554432 + v0 * 1) (hM : M < 128) (hv0 : v0 < 16)
    (h : c + x0.toNat * 262144 + x1.toNat * 16384 + x2.toNat * 512 + x3.toNat * 16 = n) :
    n < 2 ^ 32 ∧ Decode.bits n 25 7 = M ∧ Decode.bits n 0 4 = v0 ∧ Decode.fld n 18 7 = x0 ∧ Decode.fld n 14 4 = x1 ∧ Decode.fld n 9 5 = x2 ∧ Decode.fld n 4 5 = x3 := by
  have h_x0 := x0.isLt
  have h_x1 := x1.isLt
  have h_x2 := x2.isLt
  have h_x3 := x3.isLt
  unfold Decode.bits
  exact ⟨by omega, by omega, by omega, fld_eq (by omega), fld_eq (by omega), fld_eq (by omega), fld_eq (by omega)⟩

theorem shape18 {n c M v0 : Nat} {x0 : BitVec 7} {x1 : BitVec 7} {x2 : BitVec 7} {x3 : BitVec 2}
    (hc : c = M * 33554432 + v0 * 1) (hM : M < 128) (hv0 : v0 < 4)
    (h : c + x0.toNat * 262144 + x1.toNat * 2048 + x2.toNat * 16 + x3.toNat * 4 = n) :
    n < 2 ^ 32 ∧ Decode.bits n 25 7 = M ∧ Decode.bits n 0 2 = v0 ∧ Decode.fld n 18 7 = x0 ∧ Decode.fld n 11 7 = x1 ∧ Decode.fld n 4 7 = x2 ∧ Decode.fld n 2 2 = x3 := by
  have h_x0 := x0.isLt
  have h_x1 := x1.isLt
  have h_x2 := x2.isLt
  have h_x3 := x3.isLt
  unfold Decode.bits
  exact ⟨by omega, by omega, by omega, fld_eq (by omega), fld_eq (by omega), fld_eq (by omega), fld_eq (by omega)⟩

theorem shape19 {n c M : Nat} {x0 : BitVec 5} {x1 : BitVec 2} {x2 : BitVec 18}
    (hc : c = M * 33554432) (hM : M < 128)
    (h : c + x0.toNat * 1048576 + x1.toNat * 262144 + x2.toNat = n) :
    n < 2 ^ 32 ∧ Decode.bits n 25 7 = M ∧ Decode.fld n 20 5 = x0 ∧ Decode.fld n 18 2 = x1 ∧ Decode.fld n 0 18 = x2 := by
  have h_x0 := x0.isLt
  have h_x1 := x1.isLt
  have h_x2 := x2.isLt
  unfold Decode.bits
  exact ⟨by omega, by omega, fld_eq (by omega), fld_eq (by omega), fld_eq (by omega)⟩

theorem shape20 {n c M v0 : Nat} {x0 : BitVec 18}
    (hc : c = M * 33554432 + v0 * 262144) (hM : M < 128) (hv0 : v0 < 128)
    (h : c + x0.toNat = n) :
    n < 2 ^ 32 ∧ Decode.bits n 25 7 = M ∧ Decode.bits n 18 7 = v0 ∧ Decode.fld n 0 18 = x0 := by
  have h_x0 := x0.isLt
  unfold Decode.bits
  exact ⟨by omega, by omega, by omega, fld_eq (by omega)⟩

theorem shape21 {n c M v0 v1 : Nat}
    (hc : c = M * 33554432 + v0 * 1 + v1 * 16) (hM : M < 128) (hv0 : v0 < 16) (hv1 : v1 < 2097152)
    (h : c = n) :
    n < 2 ^ 32 ∧ Decode.bits n 25 7 = M ∧ Decode.bits n 0 4 = v0 ∧ Decode.bits n 4 21 = v1 := by
  unfold Decode.bits
  exact ⟨by omega, by omega, by omega, by omega⟩

theorem shape22 {n c M v0 v1 : Nat} {x0 : BitVec 7} {x1 : BitVec 7}
    (hc : c = M * 33554432 + v0 * 1 + v1 * 2048) (hM : M < 128) (hv0 : v0 < 16) (hv1 : v1 < 128)
    (h : c + x0.toNat * 262144 + x1.toNat * 16 = n) :
    n < 2 ^ 32 ∧ Decode.bits n 25 7 = M ∧ Decode.bits n 0 4 = v0 ∧ Decode.bits n 11 7 = v1 ∧ Decode.fld n 18 7 = x0 ∧ Decode.fld n 4 7 = x1 := by
  have h_x0 := x0.isLt
  have h_x1 := x1.isLt
  unfold Decode.bits
  exact ⟨by omega, by omega, by omega, by omega, fld_eq (by omega), fld_eq (by omega)⟩

theorem shape23 {n c M v0 v1 : Nat} {x0 : BitVec 7} {x1 : BitVec 7}
    (hc : c = M * 33554432 + v0 * 1 + v1 * 262144) (hM : M < 128) (hv0 : v0 < 16) (hv1 : v1 < 128)
    (h : c + x0.toNat * 2048 + x1.toNat * 16 = n) :
    n < 2 ^ 32 ∧ Decode.bits n 25 7 = M ∧ Decode.bits n 0 4 = v0 ∧ Decode.bits n 18 7 = v1 ∧ Decode.fld n 11 7 = x0 ∧ Decode.fld n 4 7 = x1 := by
  have h_x0 := x0.isLt
  have h_x1 := x1.isLt
  unfold Decode.bits
  exact ⟨by omega, by omega, by omega, by omega, fld_eq (by omega), fld_eq (by omega)⟩

theorem shape24 {n c M v0 : Nat} {x0 : BitVec 4}
    (hc : c = M * 33554432 + v0 * 16) (hM : M < 128) (hv0 : v0 < 2097152)
    (h : c + x0.toNat = n) :
    n < 2 ^ 32 ∧ Decode.bits n 25 7 = M ∧ Decode.bits n 4 21 = v0 ∧ Decode.fld n 0 4 = x0 := by
  have h_x0 := x0.isLt
  unfold Decode.bits
  exact ⟨by omega, by omega, by omega, fld_eq (by omega)⟩

theorem shape25 {n c M v0 v1 : Nat} {x0 : BitVec 4} {x1 : BitVec 7} {x2 : BitVec 7}
    (hc : c = M * 33554432 + v0 * 1 + v1 * 16) (hM : M < 128) (hv0 : v0 < 16) (hv1 : v1 < 8)
    (h : c + x0.toNat * 2097152 + x1.toNat * 16384 + x2.toNat * 128 = n) :
    n < 2 ^ 32 ∧ Decode.bits n 25 7 = M ∧ Decode.bits n 0 4 = v0 ∧ Decode.bits n 4 3 = v1 ∧ Decode.fld n 21 4 = x0 ∧ Decode.fld n 14 7 = x1 ∧ Decode.fld n 7 7 = x2 := by
  have h_x0 := x0.isLt
  have h_x1 := x1.isLt
  have h_x2 := x2.isLt
  unfold Decode.bits
  exact ⟨by omega, by omega, by omega, by omega, fld_eq (by omega), fld_eq (by omega), fld_eq (by omega)⟩

theorem shape26 {n c M v0 : Nat} {x0 : BitVec 4} {x1 : BitVec 4} {x2 : BitVec 4} {x3 : BitVec 3} {x4 : BitVec 6}
    (hc : c = M * 33554432 + v0 * 1) (hM : M < 128) (hv0 : v0 < 16)
    (h : c + x0.toNat * 2097152 + x1.toNat * 131072 + x2.toNat * 8192 + x3.toNat * 1024 + x4.toNat * 16 = n) :
    n < 2 ^ 32 ∧ Decode.bits n 25 7 = M ∧ Decode.bits n 0 4 = v0 ∧ Decode.fld n 21 4 = x0 ∧ Decode.fld n 17 4 = x1 ∧ Decode.fld n 13 4 = x2 ∧ Decode.fld n 10 3 = x3 ∧ Decode.fld n 4 6 = x4 := by
  have h_x0 := x0.isLt
  have h_x1 := x1.isLt
  have h_x2 := x2.isLt
  have h_x3 := x3.isLt
  have h_x4 := x4.isLt
  unfold Decode.bits
  exact ⟨by omega, by omega, by omega, fld_eq (by omega), fld_eq (by omega), fld_eq (by omega), fld_eq (by omega), fld_eq (by omega)⟩

theorem shape27 {n c M v0 v1 : Nat} {x0 : BitVec 7} {x1 : BitVec 7} {x2 : BitVec 1} {x3 : BitVec 1}
    (hc : c = M * 33554432 + v0 * 1 + v1 * 64) (hM : M < 128) (hv0 : v0 < 16) (hv1 : v1 < 32)
    (h : c + x0.toNat * 262144 + x1.toNat * 2048 + x2.toNat * 32 + x3.toNat * 16 = n) :
    n < 2 ^ 32 ∧ Decode.bits n 25 7 = M ∧ Decode.bits n 0 4 = v0 ∧ Decode.bits n 6 5 = v1 ∧ Decode.fld n 18 7 = x0 ∧ Decode.fld n 11 7 = x1 ∧ Decode.fld n 5 1 = x2 ∧ Decode.fld n 4 1 = x3 := by
  have h_x0 := x0.isLt
  have h_x1 := x1.isLt
  have h_x2 := x2.isLt
  have h_x3 := x3.isLt
  unfold Decode.bits
  exact ⟨by omega, by omega, by omega, by omega, fld_eq (by omega), fld_eq (by omega), fld_eq (by omega), fld_eq (by omega)⟩

theorem shape28 {n c M v0 v1 v2 : Nat} {x0 : BitVec 7} {x1 : BitVec 7} {x2 : BitVec 1} {x3 : BitVec 1}
    (hc : c = M * 33554432 + v0 * 1 + v1 * 32 + v2 * 128) (hM : M < 128) (hv0 : v0 < 16) (hv1 : v1 < 2) (hv2 : v2 < 16)
    (h : c + x0.toNat * 262144 + x1.toNat * 2048 + x2.toNat * 64 + x3.toNat * 16 = n) :
    n < 2 ^ 32 ∧ Decode.bits n 25 7 = M ∧ Decode.bits n 0 4 = v0 ∧ Decode.bits n 5 1 = v1 ∧ Decode.bits n 7 4 = v2 ∧ Decode.fld n 18 7 = x0 ∧ Decode.fld n 11 7 = x1 ∧ Decode.fld n 6 1 = x2 ∧ Decode.fld n 4 1 = x3 := by
  have h_x0 := x0.isLt
  have h_x1 := x1.isLt
  have h_x2 := x2.isLt
  have h_x3 := x3.isLt
  unfold Decode.bits
  exact ⟨by omega, by omega, by omega, by omega, by omega, fld_eq (by omega), fld_eq (by omega), fld_eq (by omega), fld_eq (by omega)⟩

theorem shape29 {n c M v0 : Nat} {x0 : BitVec 7} {x1 : BitVec 7}
    (hc : c = M * 33554432 + v0 * 1) (hM : M < 128) (hv0 : v0 < 2048)
    (h : c + x0.toNat * 262144 + x1.toNat * 2048 = n) :
    n < 2 ^ 32 ∧ Decode.bits n 25 7 = M ∧ Decode.bits n 0 11 = v0 ∧ Decode.fld n 18 7 = x0 ∧ Decode.fld n 11 7 = x1 := by
  have h_x0 := x0.isLt
  have h_x1 := x1.isLt
  unfold Decode.bits
  exact ⟨by omega, by omega, by omega, fld_eq (by omega), fld_eq (by omega)⟩

theorem shape30 {n c M v0 v1 v2 v3 : Nat} {x0 : BitVec 7}
    (hc : c = M * 33554432 + v0 * 1 + v1 * 16 + v2 * 32 + v3 * 2048) (hM : M < 128) (hv0 : v0 < 16) (hv1 : v1 < 2) (hv2 : v2 < 64) (hv3 : v3 < 128)
    (h : c + x0.toNat * 262144 = n) :
    n < 2 ^ 32 ∧ Decode.bits n 25 7 = M ∧ Decode.bits n 0 4 = v0 ∧ Decode.bits n 4 1 = v1 ∧ Decode.bits n 5 6 = v2 ∧ Decode.bits n 11 7 = v3 ∧ Decode.fld n 18 7 = x0 := by
  have h_x0 := x0.isLt
  unfold Decode.bits
  exact ⟨by omega, by omega, by omega, by omega, by omega, by omega, fld_eq (by omega)⟩

theorem shape31 {n c M v0 v1 v2 v3 : Nat}
    (hc : c = M * 33554432 + v0 * 1 + v1 * 16 + v2 * 2048 + v3 * 262144) (hM : M < 128) (hv0 : v0 < 16) (hv1 : v1 < 128) (hv2 : v2 < 128) (hv3 : v3 < 128)
    (h : c = n) :
    n < 2 ^ 32 ∧ Decode.bits n 25 7 = M ∧ Decode.bits n 0 4 = v0 ∧ Decode.bits n 4 7 = v1 ∧ Decode.bits n 11 7 = v2 ∧ Decode.bits n 18 7 = v3 := by
  unfold Decode.bits
  exact ⟨by omega, by omega, by omega, by omega, by omega, by omega⟩

theorem shape32 {n c M v0 v1 : Nat} {x0 : BitVec 7} {x1 : BitVec 5}
    (hc : c = M * 33554432 + v0 * 1 + v1 * 512) (hM : M < 128) (hv0 : v0 < 16) (hv1 : v1 < 512)
    (h : c + x0.toNat * 262144 + x1.toNat * 16 = n) :
    n < 2 ^ 32 ∧ Decode.bits n 25 7 = M ∧ Decode.bits n 0 4 = v0 ∧ Decode.bits n 9 9 = v1 ∧ Decode.fld n 18 7 = x0 ∧ Decode.fld n 4 5 = x1 := by
  have h_x0 := x0.isLt
  have h_x1 := x1.isLt
  unfold Decode.bits
  exact ⟨by omega, by omega, by omega, by omega, fld_eq (by omega), fld_eq (by omega)⟩

theorem shape33 {n c M v0 v1 : Nat} {x0 : BitVec 7} {x1 : BitVec 1}
    (hc : c = M * 33554432 + v0 * 1 + v1 * 32) (hM : M < 128) (hv0 : v0 < 16) (hv1 : v1 < 8192)
    (h : c + x0.toNat * 262144 + x1.toNat * 16 = n) :
    n < 2 ^ 32 ∧ Decode.bits n 25 7 = M ∧ Decode.bits n 0 4 = v0 ∧ Decode.bits n 5 13 = v1 ∧ Decode.fld n 18 7 = x0 ∧ Decode.fld n 4 1 = x1 := by
  have h_x0 := x0.isLt
  have h_x1 := x1.isLt
  unfold Decode.bits
  exact ⟨by omega, by omega, by omega, by omega, fld_eq (by omega), fld_eq (by omega)⟩

theorem shape34 {n c M v0 v1 v2 v3 : Nat} {x0 : BitVec 7}
    (hc : c = M * 33554432 + v0 * 1 + v1 * 16 + v2 * 128 + v3 * 2048) (hM : M < 128) (hv0 : v0 < 16) (hv1 : v1 < 8) (hv2 : v2 < 16) (hv3 : v3 < 128)
    (h : c + x0.toNat * 262144 = n) :
    n < 2 ^ 32 ∧ Decode.bits n 25 7 = M ∧ Decode.bits n 0 4 = v0 ∧ Decode.bits n 4 3 = v1 ∧ Decode.bits n 7 4 = v2 ∧ Decode.bits n 11 7 = v3 ∧ Decode.fld n 18 7 = x0 := by
  have h_x0 := x0.isLt
  unfold Decode.bits
  exact ⟨by omega, by omega, by omega, by omega, by omega, by omega, fld_eq (by omega)⟩

theorem shape35 {n c M v0 : Nat} {x0 : BitVec 3} {x1 : BitVec 2}
    (hc : c = M * 33554432 + v0 * 1) (hM : M < 128) (hv0 : v0 < 1048576)
    (h : c + x0.toNat * 4194304 + x1.toNat * 1048576 = n) :
    n < 2 ^ 32 ∧ Decode.bits n 25 7 = M ∧ Decode.bits n 0 20 = v0 ∧ Decode.fld n 22 3 = x0 ∧ Decode.fld n 20 2 = x1 := by
  have h_x0 := x0.isLt
  have h_x1 := x1.isLt
  unfold Decode.bits
  exact ⟨by omega, by omega, by omega, fld_eq (by omega), fld_eq (by omega)⟩

theorem shape36 {n c M : Nat} {x0 : BitVec 7} {x1 : BitVec 7} {x2 : BitVec 2} {x3 : BitVec 3} {x4 : BitVec 2} {x5 : BitVec 3} {x6 : BitVec 1}
    (hc : c = M * 33554432) (hM : M < 128)
    (h : c + x0.toNat * 262144 + x1.toNat * 2048 + x2.toNat * 512 + x3.toNat * 64 + x4.toNat * 16 + x5.toNat * 2 + x6.toNat = n) :
    n < 2 ^ 32 ∧ Decode.bits n 25 7 = M ∧ Decode.fld n 18 7 = x0 ∧ Decode.fld n 11 7 = x1 ∧ Decode.fld n 9 2 = x2 ∧ Decode.fld n 6 3 = x3 ∧ Decode.fld n 4 2 = x4 ∧ Decode.fld n 1 3 = x5 ∧ Decode.fld n 0 1 = x6 := by
  have h_x0 := x0.isLt
  have h_x1 := x1.isLt
  have h_x2 := x2.isLt
  have h_x3 := x3.isLt
  have h_x4 := x4.isLt
  have h_x5 := x5.isLt
  have h_x6 := x6.isLt
  unfold Decode.bits
  exact ⟨by omega, by omega, fld_eq (by omega), fld_eq (by omega), fld_eq (by omega), fld_eq (by omega), fld_eq (by omega), fld_eq (by omega), fld_eq (by omega)⟩

theorem shape37 {n c M : Nat} {x0 : BitVec 25}
    (hc : c = M * 33554432) (hM : M < 128)
    (h : c + x0.toNat = n) :
    n < 2 ^ 32 ∧ Decode.bits n 25 7 = M ∧ Decode.fld n 0 25 = x0 := by
  have h_x0 := x0.isLt
  unfold Decode.bits
  exact ⟨by omega, by omega, fld_eq (by omega)⟩

theorem clauseStart (gid : Nat) : Statement (.clauseStart gid) := by
  intro _ n h
  cases (show (none : Option Nat) = some n from h)

theorem longOpComplete (op : Nat) : Statement (.longOpComplete op) := by
  intro _ n h
  cases (show (none : Option Nat) = some n from h)

theorem rejoinDeadlock (gid : Nat) : Statement (.rejoinDeadlock gid) := by
  intro _ n h
  cases (show (none : Option Nat) = some n from h)

theorem neighbourParityError (gid : Nat) (dir : BitVec 2) : Statement (.neighbourParityError gid dir) := by
  intro _ n h
  cases (show (none : Option Nat) = some n from h)

theorem clusterPlacement : Statement (.clusterPlacement) := by
  intro _ n h
  cases (show (none : Option Nat) = some n from h)

theorem gridComplete (handle : Nat) : Statement (.gridComplete handle) := by
  intro _ n h
  cases (show (none : Option Nat) = some n from h)

theorem taggedAccessArrival (op : Nat) : Statement (.taggedAccessArrival op) := by
  intro _ n h
  cases (show (none : Option Nat) = some n from h)

theorem storePerformed (word : Nat) : Statement (.storePerformed word) := by
  intro _ n h
  cases (show (none : Option Nat) = some n from h)

theorem flushMarkerGathered (op : Nat) (pkg : Nat) : Statement (.flushMarkerGathered op pkg) := by
  intro _ n h
  cases (show (none : Option Nat) = some n from h)

theorem engineCommandAccept (cmd : Nat) : Statement (.engineCommandAccept cmd) := by
  intro _ n h
  cases (show (none : Option Nat) = some n from h)

theorem engineCommandStart (cmd : Nat) : Statement (.engineCommandStart cmd) := by
  intro _ n h
  cases (show (none : Option Nat) = some n from h)

theorem engineAccess (cmd : Nat) : Statement (.engineAccess cmd) := by
  intro _ n h
  cases (show (none : Option Nat) = some n from h)

theorem engineCommandComplete (cmd : Nat) : Statement (.engineCommandComplete cmd) := by
  intro _ n h
  cases (show (none : Option Nat) = some n from h)

theorem chainEntryStart (cmd : Nat) : Statement (.chainEntryStart cmd) := by
  intro _ n h
  cases (show (none : Option Nat) = some n from h)

theorem collectiveMatch (cmd : Nat) : Statement (.collectiveMatch cmd) := by
  intro _ n h
  cases (show (none : Option Nat) = some n from h)

theorem sweepStart (unit : BitVec 3) : Statement (.sweepStart unit) := by
  intro _ n h
  cases (show (none : Option Nat) = some n from h)

theorem pageCommit (unit : BitVec 3) : Statement (.pageCommit unit) := by
  intro _ n h
  cases (show (none : Option Nat) = some n from h)

theorem holeCommit (unit : BitVec 3) : Statement (.holeCommit unit) := by
  intro _ n h
  cases (show (none : Option Nat) = some n from h)

theorem pageArrival (unit : BitVec 3) (core : BitVec 8) : Statement (.pageArrival unit core) := by
  intro _ n h
  cases (show (none : Option Nat) = some n from h)

theorem qsvNoticePush (notice : Nat) : Statement (.qsvNoticePush notice) := by
  intro _ n h
  cases (show (none : Option Nat) = some n from h)

theorem pageFetchFault (unit : BitVec 3) : Statement (.pageFetchFault unit) := by
  intro _ n h
  cases (show (none : Option Nat) = some n from h)

theorem partialMerge (unit : BitVec 3) (sub : Nat) : Statement (.partialMerge unit sub) := by
  intro _ n h
  cases (show (none : Option Nat) = some n from h)

theorem tolUnitTake (team : Nat) : Statement (.tolUnitTake team) := by
  intro _ n h
  cases (show (none : Option Nat) = some n from h)

theorem doorbellKick (index : Nat) (value : BitVec 32) : Statement (.doorbellKick index value) := by
  intro _ n h
  cases (show (none : Option Nat) = some n from h)

theorem doorbellIgnoredWrite (index : Nat) (offset : Nat) (width : Nat) : Statement (.doorbellIgnoredWrite index offset width) := by
  intro _ n h
  cases (show (none : Option Nat) = some n from h)

theorem queueRecordStart (slot : Nat) : Statement (.queueRecordStart slot) := by
  intro _ n h
  cases (show (none : Option Nat) = some n from h)

theorem queueMap (die : Nat) : Statement (.queueMap die) := by
  intro _ n h
  cases (show (none : Option Nat) = some n from h)

theorem queueAgeingTick : Statement (.queueAgeingTick) := by
  intro _ n h
  cases (show (none : Option Nat) = some n from h)

theorem refillBoundary : Statement (.refillBoundary) := by
  intro _ n h
  cases (show (none : Option Nat) = some n from h)

theorem torusPacketSend (core : BitVec 8) (inset : Nat) (bytes : Nat) : Statement (.torusPacketSend core inset bytes) := by
  intro _ n h
  cases (show (none : Option Nat) = some n from h)

theorem drainLatencyExpiry (team : Nat) : Statement (.drainLatencyExpiry team) := by
  intro _ n h
  cases (show (none : Option Nat) = some n from h)

theorem teamSave (team : Nat) : Statement (.teamSave team) := by
  intro _ n h
  cases (show (none : Option Nat) = some n from h)

theorem teamRestore (team : Nat) : Statement (.teamRestore team) := by
  intro _ n h
  cases (show (none : Option Nat) = some n from h)

theorem recordDelivery : Statement (.recordDelivery) := by
  intro _ n h
  cases (show (none : Option Nat) = some n from h)

theorem hostEventRingWrite : Statement (.hostEventRingWrite) := by
  intro _ n h
  cases (show (none : Option Nat) = some n from h)

theorem evreadWrite (value : BitVec 32) : Statement (.evreadWrite value) := by
  intro _ n h
  cases (show (none : Option Nat) = some n from h)

theorem eventRingConfigWrite (log : Bool) (value : BitVec 64) : Statement (.eventRingConfigWrite log value) := by
  intro _ n h
  cases (show (none : Option Nat) = some n from h)

theorem controlRegisterWrite (offset : Nat) (value : BitVec 64) : Statement (.controlRegisterWrite offset value) := by
  intro _ n h
  cases (show (none : Option Nat) = some n from h)

theorem mailboxOverrun : Statement (.mailboxOverrun) := by
  intro _ n h
  cases (show (none : Option Nat) = some n from h)

theorem mailboxUnknownCommand : Statement (.mailboxUnknownCommand) := by
  intro _ n h
  cases (show (none : Option Nat) = some n from h)

theorem mailboxComplete : Statement (.mailboxComplete) := by
  intro _ n h
  cases (show (none : Option Nat) = some n from h)

theorem insetnew : Statement (.insetnew) := by
  intro _ n h
  cases (show (none : Option Nat) = some n from h)

theorem insetgrant : Statement (.insetgrant) := by
  intro _ n h
  cases (show (none : Option Nat) = some n from h)

theorem freeze : Statement (.freeze) := by
  intro _ n h
  cases (show (none : Option Nat) = some n from h)

theorem thaw : Statement (.thaw) := by
  intro _ n h
  cases (show (none : Option Nat) = some n from h)

theorem ckpt : Statement (.ckpt) := by
  intro _ n h
  cases (show (none : Option Nat) = some n from h)

theorem rest : Statement (.rest) := by
  intro _ n h
  cases (show (none : Option Nat) = some n from h)

theorem revoke : Statement (.revoke) := by
  intro _ n h
  cases (show (none : Option Nat) = some n from h)

theorem stat : Statement (.stat) := by
  intro _ n h
  cases (show (none : Option Nat) = some n from h)

theorem map : Statement (.map) := by
  intro _ n h
  cases (show (none : Option Nat) = some n from h)

theorem unmap : Statement (.unmap) := by
  intro _ n h
  cases (show (none : Option Nat) = some n from h)

theorem inval : Statement (.inval) := by
  intro _ n h
  cases (show (none : Option Nat) = some n from h)

theorem rootmap : Statement (.rootmap) := by
  intro _ n h
  cases (show (none : Option Nat) = some n from h)

theorem rootunmap : Statement (.rootunmap) := by
  intro _ n h
  cases (show (none : Option Nat) = some n from h)

theorem dbset : Statement (.dbset) := by
  intro _ n h
  cases (show (none : Option Nat) = some n from h)

theorem dbclr : Statement (.dbclr) := by
  intro _ n h
  cases (show (none : Option Nat) = some n from h)

theorem rgtset : Statement (.rgtset) := by
  intro _ n h
  cases (show (none : Option Nat) = some n from h)

theorem rgtwithdraw : Statement (.rgtwithdraw) := by
  intro _ n h
  cases (show (none : Option Nat) = some n from h)

theorem gangset : Statement (.gangset) := by
  intro _ n h
  cases (show (none : Option Nat) = some n from h)

theorem hotread : Statement (.hotread) := by
  intro _ n h
  cases (show (none : Option Nat) = some n from h)

theorem timeset : Statement (.timeset) := by
  intro _ n h
  cases (show (none : Option Nat) = some n from h)

theorem loadfw : Statement (.loadfw) := by
  intro _ n h
  cases (show (none : Option Nat) = some n from h)

theorem hostMemoryAccess (write : Bool) (offset : Nat) (bytes : List (BitVec 8)) : Statement (.hostMemoryAccess write offset bytes) := by
  intro _ n h
  cases (show (none : Option Nat) = some n from h)

theorem flitCrcFailure : Statement (.flitCrcFailure) := by
  intro _ n h
  cases (show (none : Option Nat) = some n from h)

theorem deviceReset (straps : BitVec 32) : Statement (.deviceReset straps) := by
  intro _ n h
  cases (show (none : Option Nat) = some n from h)

theorem bootRomComplete : Statement (.bootRomComplete) := by
  intro _ n h
  cases (show (none : Option Nat) = some n from h)

theorem firmwareVerifyComplete (ecdsa : Bool) (lms : Bool) (linkFault : Bool) : Statement (.firmwareVerifyComplete ecdsa lms linkFault) := by
  intro _ n h
  cases (show (none : Option Nat) = some n from h)

theorem coreRowWake (row : BitVec 4) : Statement (.coreRowWake row) := by
  intro _ n h
  cases (show (none : Option Nat) = some n from h)

theorem matrixRampStep (core : BitVec 8) : Statement (.matrixRampStep core) := by
  intro _ n h
  cases (show (none : Option Nat) = some n from h)

theorem fabricPacketReceive (pkg : Nat) (path : Nat) (seq : Nat) : Statement (.fabricPacketReceive pkg path seq) := by
  intro _ n h
  cases (show (none : Option Nat) = some n from h)

theorem remoteRequestCheck (pkg : Nat) (subtree : Nat) (addr : Nat) (len : Nat) (write : Bool) : Statement (.remoteRequestCheck pkg subtree addr len write) := by
  intro _ n h
  cases (show (none : Option Nat) = some n from h)

theorem packetRetransmit (pkg : Nat) (seq : Nat) : Statement (.packetRetransmit pkg seq) := by
  intro _ n h
  cases (show (none : Option Nat) = some n from h)

theorem pathRemoval (pkg : Nat) (path : Nat) : Statement (.pathRemoval pkg path) := by
  intro _ n h
  cases (show (none : Option Nat) = some n from h)

theorem ptpSync (time : BitVec 64) : Statement (.ptpSync time) := by
  intro _ n h
  cases (show (none : Option Nat) = some n from h)

theorem gangTick : Statement (.gangTick) := by
  intro _ n h
  cases (show (none : Option Nat) = some n from h)

theorem gangReady (pkg : Nat) : Statement (.gangReady pkg) := by
  intro _ n h
  cases (show (none : Option Nat) = some n from h)

theorem gangDecision : Statement (.gangDecision) := by
  intro _ n h
  cases (show (none : Option Nat) = some n from h)

theorem commit : Statement (.commit) := by
  intro _ n h
  cases (show (none : Option Nat) = some n from h)

theorem abort : Statement (.abort) := by
  intro _ n h
  cases (show (none : Option Nat) = some n from h)

theorem fleetGenSample : Statement (.fleetGenSample) := by
  intro _ n h
  cases (show (none : Option Nat) = some n from h)

theorem powerStateEntry : Statement (.powerStateEntry) := by
  intro _ n h
  cases (show (none : Option Nat) = some n from h)

theorem powerStateExit : Statement (.powerStateExit) := by
  intro _ n h
  cases (show (none : Option Nat) = some n from h)

theorem shedStep (pwr : Nat) : Statement (.shedStep pwr) := by
  intro _ n h
  cases (show (none : Option Nat) = some n from h)

theorem shedUndo (pwr : Nat) : Statement (.shedUndo pwr) := by
  intro _ n h
  cases (show (none : Option Nat) = some n from h)

theorem throttleStep (pwr : Nat) : Statement (.throttleStep pwr) := by
  intro _ n h
  cases (show (none : Option Nat) = some n from h)

theorem throttleUndo (pwr : Nat) : Statement (.throttleUndo pwr) := by
  intro _ n h
  cases (show (none : Option Nat) = some n from h)

theorem throttleFloorReport (pwr : Nat) : Statement (.throttleFloorReport pwr) := by
  intro _ n h
  cases (show (none : Option Nat) = some n from h)

theorem memoryErrorDetected (array : BitVec 4) (unit : BitVec 8) (addr : Nat) (unc : Bool) (inset : Nat) (syndrome : BitVec 32) : Statement (.memoryErrorDetected array unit addr unc inset syndrome) := by
  intro _ n h
  cases (show (none : Option Nat) = some n from h)

theorem burstTagFailure (line : Nat) (tries : Nat) : Statement (.burstTagFailure line tries) := by
  intro _ n h
  cases (show (none : Option Nat) = some n from h)

theorem killConfirm (slot : Nat) (die : Nat) : Statement (.killConfirm slot die) := by
  intro _ n h
  cases (show (none : Option Nat) = some n from h)

theorem getVersion : Statement (.getVersion) := by
  intro _ n h
  cases (show (none : Option Nat) = some n from h)

theorem getCapabilities : Statement (.getCapabilities) := by
  intro _ n h
  cases (show (none : Option Nat) = some n from h)

theorem negotiateAlgorithms (supported : Bool) : Statement (.negotiateAlgorithms supported) := by
  intro _ n h
  cases (show (none : Option Nat) = some n from h)

theorem getDigests : Statement (.getDigests) := by
  intro _ n h
  cases (show (none : Option Nat) = some n from h)

theorem getCertificate (slot : Nat) : Statement (.getCertificate slot) := by
  intro _ n h
  cases (show (none : Option Nat) = some n from h)

theorem challenge (slot : Nat) (nonce : BitVec 256) : Statement (.challenge slot nonce) := by
  intro _ n h
  cases (show (none : Option Nat) = some n from h)

theorem getMeasurements (index : Nat) (nonce : BitVec 256) : Statement (.getMeasurements index nonce) := by
  intro _ n h
  cases (show (none : Option Nat) = some n from h)

theorem keyExchange (slot : Nat) : Statement (.keyExchange slot) := by
  intro _ n h
  cases (show (none : Option Nat) = some n from h)

theorem finish (verified : Bool) : Statement (.finish verified) := by
  intro _ n h
  cases (show (none : Option Nat) = some n from h)

theorem endSession : Statement (.endSession) := by
  intro _ n h
  cases (show (none : Option Nat) = some n from h)

theorem keyload (slot : Nat) (key : BitVec 512) : Statement (.keyload slot key) := by
  intro _ n h
  cases (show (none : Option Nat) = some n from h)

theorem keykill (slot : Nat) : Statement (.keykill slot) := by
  intro _ n h
  cases (show (none : Option Nat) = some n from h)

theorem keystat (slot : Nat) : Statement (.keystat slot) := by
  intro _ n h
  cases (show (none : Option Nat) = some n from h)

theorem sealInset (inset : Nat) (addr : Nat) (size : Nat) (bound : Nat) : Statement (.sealInset inset addr size bound) := by
  intro _ n h
  cases (show (none : Option Nat) = some n from h)

theorem unsealInset (addr : Nat) (bases : List Nat) : Statement (.unsealInset addr bases) := by
  intro _ n h
  cases (show (none : Option Nat) = some n from h)

theorem migout (inset : Nat) (bound : Nat) : Statement (.migout inset bound) := by
  intro _ n h
  cases (show (none : Option Nat) = some n from h)

theorem migin (addr : Nat) (block : Nat) (bases : List Nat) : Statement (.migin addr block bases) := by
  intro _ n h
  cases (show (none : Option Nat) = some n from h)

theorem verified (inset : Nat) (valid : Bool) : Statement (.verified inset valid) := by
  intro _ n h
  cases (show (none : Option Nat) = some n from h)

theorem erased (inset : Nat) (valid : Bool) : Statement (.erased inset valid) := by
  intro _ n h
  cases (show (none : Option Nat) = some n from h)

theorem active (inset : Nat) (valid : Bool) : Statement (.active inset valid) := by
  intro _ n h
  cases (show (none : Option Nat) = some n from h)

theorem aborted (inset : Nat) (valid : Bool) : Statement (.aborted inset valid) := by
  intro _ n h
  cases (show (none : Option Nat) = some n from h)

theorem migabort (inset : Nat) : Statement (.migabort inset) := by
  intro _ n h
  cases (show (none : Option Nat) = some n from h)

theorem migstat (inset : Nat) : Statement (.migstat inset) := by
  intro _ n h
  cases (show (none : Option Nat) = some n from h)

theorem erasedRequest (inset : Nat) : Statement (.erasedRequest inset) := by
  intro _ n h
  cases (show (none : Option Nat) = some n from h)

theorem erasedResend (inset : Nat) : Statement (.erasedResend inset) := by
  intro _ n h
  cases (show (none : Option Nat) = some n from h)

theorem holdexpired (inset : Nat) : Statement (.holdexpired inset) := by
  intro _ n h
  cases (show (none : Option Nat) = some n from h)

theorem linkRetrainComplete : Statement (.linkRetrainComplete) := by
  intro _ n h
  cases (show (none : Option Nat) = some n from h)

theorem pathReturn (pkg : Nat) (path : Nat) : Statement (.pathReturn pkg path) := by
  intro _ n h
  cases (show (none : Option Nat) = some n from h)

theorem requestBoundPassed (team : Nat) : Statement (.requestBoundPassed team) := by
  intro _ n h
  cases (show (none : Option Nat) = some n from h)

theorem freshTopLevelLeaf : Statement (.freshTopLevelLeaf) := by
  intro _ n h
  cases (show (none : Option Nat) = some n from h)

theorem iadd (d : BitVec 7) (a : BitVec 7) (b : BitVec 7) : Statement (.iadd d a b) := by
  intro _ n h
  obtain ⟨hn, major, b0, f_d, f_a, f_b⟩ := shape0 (M := 0) (v0 := 0) rfl (by decide) (by decide) (Option.some.inj h)
  exact ⟨hn, by rw [pick_lane0 major]; simp [Decode.lane0, b0, f_d, f_a, f_b]⟩

theorem isub (d : BitVec 7) (a : BitVec 7) (b : BitVec 7) : Statement (.isub d a b) := by
  intro _ n h
  obtain ⟨hn, major, b0, f_d, f_a, f_b⟩ := shape0 (M := 0) (v0 := 1) rfl (by decide) (by decide) (Option.some.inj h)
  exact ⟨hn, by rw [pick_lane0 major]; simp [Decode.lane0, b0, f_d, f_a, f_b]⟩

theorem imul (d : BitVec 7) (a : BitVec 7) (b : BitVec 7) : Statement (.imul d a b) := by
  intro _ n h
  obtain ⟨hn, major, b0, f_d, f_a, f_b⟩ := shape0 (M := 0) (v0 := 2) rfl (by decide) (by decide) (Option.some.inj h)
  exact ⟨hn, by rw [pick_lane0 major]; simp [Decode.lane0, b0, f_d, f_a, f_b]⟩

theorem imulh (d : BitVec 7) (a : BitVec 7) (b : BitVec 7) : Statement (.imulh d a b) := by
  intro _ n h
  obtain ⟨hn, major, b0, f_d, f_a, f_b⟩ := shape0 (M := 0) (v0 := 3) rfl (by decide) (by decide) (Option.some.inj h)
  exact ⟨hn, by rw [pick_lane0 major]; simp [Decode.lane0, b0, f_d, f_a, f_b]⟩

theorem imulhu (d : BitVec 7) (a : BitVec 7) (b : BitVec 7) : Statement (.imulhu d a b) := by
  intro _ n h
  obtain ⟨hn, major, b0, f_d, f_a, f_b⟩ := shape0 (M := 0) (v0 := 4) rfl (by decide) (by decide) (Option.some.inj h)
  exact ⟨hn, by rw [pick_lane0 major]; simp [Decode.lane0, b0, f_d, f_a, f_b]⟩

theorem imin (d : BitVec 7) (a : BitVec 7) (b : BitVec 7) : Statement (.imin d a b) := by
  intro _ n h
  obtain ⟨hn, major, b0, f_d, f_a, f_b⟩ := shape0 (M := 0) (v0 := 5) rfl (by decide) (by decide) (Option.some.inj h)
  exact ⟨hn, by rw [pick_lane0 major]; simp [Decode.lane0, b0, f_d, f_a, f_b]⟩

theorem imax (d : BitVec 7) (a : BitVec 7) (b : BitVec 7) : Statement (.imax d a b) := by
  intro _ n h
  obtain ⟨hn, major, b0, f_d, f_a, f_b⟩ := shape0 (M := 0) (v0 := 6) rfl (by decide) (by decide) (Option.some.inj h)
  exact ⟨hn, by rw [pick_lane0 major]; simp [Decode.lane0, b0, f_d, f_a, f_b]⟩

theorem umin (d : BitVec 7) (a : BitVec 7) (b : BitVec 7) : Statement (.umin d a b) := by
  intro _ n h
  obtain ⟨hn, major, b0, f_d, f_a, f_b⟩ := shape0 (M := 0) (v0 := 7) rfl (by decide) (by decide) (Option.some.inj h)
  exact ⟨hn, by rw [pick_lane0 major]; simp [Decode.lane0, b0, f_d, f_a, f_b]⟩

theorem umax (d : BitVec 7) (a : BitVec 7) (b : BitVec 7) : Statement (.umax d a b) := by
  intro _ n h
  obtain ⟨hn, major, b0, f_d, f_a, f_b⟩ := shape0 (M := 0) (v0 := 8) rfl (by decide) (by decide) (Option.some.inj h)
  exact ⟨hn, by rw [pick_lane0 major]; simp [Decode.lane0, b0, f_d, f_a, f_b]⟩

theorem and (d : BitVec 7) (a : BitVec 7) (b : BitVec 7) : Statement (.and d a b) := by
  intro _ n h
  obtain ⟨hn, major, b0, f_d, f_a, f_b⟩ := shape0 (M := 0) (v0 := 9) rfl (by decide) (by decide) (Option.some.inj h)
  exact ⟨hn, by rw [pick_lane0 major]; simp [Decode.lane0, b0, f_d, f_a, f_b]⟩

theorem or (d : BitVec 7) (a : BitVec 7) (b : BitVec 7) : Statement (.or d a b) := by
  intro _ n h
  obtain ⟨hn, major, b0, f_d, f_a, f_b⟩ := shape0 (M := 0) (v0 := 10) rfl (by decide) (by decide) (Option.some.inj h)
  exact ⟨hn, by rw [pick_lane0 major]; simp [Decode.lane0, b0, f_d, f_a, f_b]⟩

theorem xor (d : BitVec 7) (a : BitVec 7) (b : BitVec 7) : Statement (.xor d a b) := by
  intro _ n h
  obtain ⟨hn, major, b0, f_d, f_a, f_b⟩ := shape0 (M := 0) (v0 := 11) rfl (by decide) (by decide) (Option.some.inj h)
  exact ⟨hn, by rw [pick_lane0 major]; simp [Decode.lane0, b0, f_d, f_a, f_b]⟩

theorem shl (d : BitVec 7) (a : BitVec 7) (b : BitVec 7) : Statement (.shl d a b) := by
  intro _ n h
  obtain ⟨hn, major, b0, f_d, f_a, f_b⟩ := shape0 (M := 0) (v0 := 12) rfl (by decide) (by decide) (Option.some.inj h)
  exact ⟨hn, by rw [pick_lane0 major]; simp [Decode.lane0, b0, f_d, f_a, f_b]⟩

theorem shr (d : BitVec 7) (a : BitVec 7) (b : BitVec 7) : Statement (.shr d a b) := by
  intro _ n h
  obtain ⟨hn, major, b0, f_d, f_a, f_b⟩ := shape0 (M := 0) (v0 := 13) rfl (by decide) (by decide) (Option.some.inj h)
  exact ⟨hn, by rw [pick_lane0 major]; simp [Decode.lane0, b0, f_d, f_a, f_b]⟩

theorem shra (d : BitVec 7) (a : BitVec 7) (b : BitVec 7) : Statement (.shra d a b) := by
  intro _ n h
  obtain ⟨hn, major, b0, f_d, f_a, f_b⟩ := shape0 (M := 0) (v0 := 14) rfl (by decide) (by decide) (Option.some.inj h)
  exact ⟨hn, by rw [pick_lane0 major]; simp [Decode.lane0, b0, f_d, f_a, f_b]⟩

theorem rotr (d : BitVec 7) (a : BitVec 7) (b : BitVec 7) : Statement (.rotr d a b) := by
  intro _ n h
  obtain ⟨hn, major, b0, f_d, f_a, f_b⟩ := shape0 (M := 0) (v0 := 15) rfl (by decide) (by decide) (Option.some.inj h)
  exact ⟨hn, by rw [pick_lane0 major]; simp [Decode.lane0, b0, f_d, f_a, f_b]⟩

theorem idiv (d : BitVec 7) (a : BitVec 7) (b : BitVec 7) : Statement (.idiv d a b) := by
  intro _ n h
  obtain ⟨hn, major, b0, f_d, f_a, f_b⟩ := shape0 (M := 1) (v0 := 0) rfl (by decide) (by decide) (Option.some.inj h)
  exact ⟨hn, by rw [pick_lane1 major]; simp [Decode.lane1, b0, f_d, f_a, f_b]⟩

theorem udiv (d : BitVec 7) (a : BitVec 7) (b : BitVec 7) : Statement (.udiv d a b) := by
  intro _ n h
  obtain ⟨hn, major, b0, f_d, f_a, f_b⟩ := shape0 (M := 1) (v0 := 1) rfl (by decide) (by decide) (Option.some.inj h)
  exact ⟨hn, by rw [pick_lane1 major]; simp [Decode.lane1, b0, f_d, f_a, f_b]⟩

theorem irem (d : BitVec 7) (a : BitVec 7) (b : BitVec 7) : Statement (.irem d a b) := by
  intro _ n h
  obtain ⟨hn, major, b0, f_d, f_a, f_b⟩ := shape0 (M := 1) (v0 := 2) rfl (by decide) (by decide) (Option.some.inj h)
  exact ⟨hn, by rw [pick_lane1 major]; simp [Decode.lane1, b0, f_d, f_a, f_b]⟩

theorem urem (d : BitVec 7) (a : BitVec 7) (b : BitVec 7) : Statement (.urem d a b) := by
  intro _ n h
  obtain ⟨hn, major, b0, f_d, f_a, f_b⟩ := shape0 (M := 1) (v0 := 3) rfl (by decide) (by decide) (Option.some.inj h)
  exact ⟨hn, by rw [pick_lane1 major]; simp [Decode.lane1, b0, f_d, f_a, f_b]⟩

theorem popc (d : BitVec 7) (a : BitVec 7) : Statement (.popc d a) := by
  intro _ n h
  obtain ⟨hn, major, b0, b1, f_d, f_a⟩ := shape1 (M := 1) (v0 := 4) (v1 := 0) rfl (by decide) (by decide) (by decide) (Option.some.inj h)
  exact ⟨hn, by rw [pick_lane1 major]; simp [Decode.lane1, b0, b1, f_d, f_a]⟩

theorem clz (d : BitVec 7) (a : BitVec 7) : Statement (.clz d a) := by
  intro _ n h
  obtain ⟨hn, major, b0, b1, f_d, f_a⟩ := shape1 (M := 1) (v0 := 5) (v1 := 0) rfl (by decide) (by decide) (by decide) (Option.some.inj h)
  exact ⟨hn, by rw [pick_lane1 major]; simp [Decode.lane1, b0, b1, f_d, f_a]⟩

theorem brev (d : BitVec 7) (a : BitVec 7) : Statement (.brev d a) := by
  intro _ n h
  obtain ⟨hn, major, b0, b1, f_d, f_a⟩ := shape1 (M := 1) (v0 := 6) (v1 := 0) rfl (by decide) (by decide) (by decide) (Option.some.inj h)
  exact ⟨hn, by rw [pick_lane1 major]; simp [Decode.lane1, b0, b1, f_d, f_a]⟩

theorem iabs (d : BitVec 7) (a : BitVec 7) : Statement (.iabs d a) := by
  intro _ n h
  obtain ⟨hn, major, b0, b1, f_d, f_a⟩ := shape1 (M := 1) (v0 := 7) (v1 := 0) rfl (by decide) (by decide) (by decide) (Option.some.inj h)
  exact ⟨hn, by rw [pick_lane1 major]; simp [Decode.lane1, b0, b1, f_d, f_a]⟩

theorem bfx (d : BitVec 7) (a : BitVec 7) (b : BitVec 7) : Statement (.bfx d a b) := by
  intro _ n h
  obtain ⟨hn, major, b0, f_d, f_a, f_b⟩ := shape0 (M := 1) (v0 := 8) rfl (by decide) (by decide) (Option.some.inj h)
  exact ⟨hn, by rw [pick_lane1 major]; simp [Decode.lane1, b0, f_d, f_a, f_b]⟩

theorem bfxu (d : BitVec 7) (a : BitVec 7) (b : BitVec 7) : Statement (.bfxu d a b) := by
  intro _ n h
  obtain ⟨hn, major, b0, f_d, f_a, f_b⟩ := shape0 (M := 1) (v0 := 9) rfl (by decide) (by decide) (Option.some.inj h)
  exact ⟨hn, by rw [pick_lane1 major]; simp [Decode.lane1, b0, f_d, f_a, f_b]⟩

theorem bfi (d : BitVec 7) (a : BitVec 7) (b : BitVec 7) : Statement (.bfi d a b) := by
  intro _ n h
  obtain ⟨hn, major, b0, f_d, f_a, f_b⟩ := shape0 (M := 1) (v0 := 10) rfl (by decide) (by decide) (Option.some.inj h)
  exact ⟨hn, by rw [pick_lane1 major]; simp [Decode.lane1, b0, f_d, f_a, f_b]⟩

theorem andn (d : BitVec 7) (a : BitVec 7) (b : BitVec 7) : Statement (.andn d a b) := by
  intro _ n h
  obtain ⟨hn, major, b0, f_d, f_a, f_b⟩ := shape0 (M := 1) (v0 := 11) rfl (by decide) (by decide) (Option.some.inj h)
  exact ⟨hn, by rw [pick_lane1 major]; simp [Decode.lane1, b0, f_d, f_a, f_b]⟩

theorem iaddi (d : BitVec 7) (a : BitVec 7) (i : BitVec 11) : Statement (.iaddi d a i) := by
  intro _ n h
  obtain ⟨hn, major, f_d, f_a, f_i⟩ := shape2 (M := 2) rfl (by decide) (Option.some.inj h)
  exact ⟨hn, by rw [pick_lane2 major]; simp [Decode.lane2, f_d, f_a, f_i]⟩

theorem andi (d : BitVec 7) (a : BitVec 7) (i : BitVec 11) : Statement (.andi d a i) := by
  intro _ n h
  obtain ⟨hn, major, f_d, f_a, f_i⟩ := shape2 (M := 3) rfl (by decide) (Option.some.inj h)
  exact ⟨hn, by rw [pick_lane3 major]; simp [Decode.lane3, f_d, f_a, f_i]⟩

theorem ori (d : BitVec 7) (a : BitVec 7) (i : BitVec 11) : Statement (.ori d a i) := by
  intro _ n h
  obtain ⟨hn, major, f_d, f_a, f_i⟩ := shape2 (M := 4) rfl (by decide) (Option.some.inj h)
  exact ⟨hn, by rw [pick_lane4 major]; simp [Decode.lane4, f_d, f_a, f_i]⟩

theorem xori (d : BitVec 7) (a : BitVec 7) (i : BitVec 11) : Statement (.xori d a i) := by
  intro _ n h
  obtain ⟨hn, major, f_d, f_a, f_i⟩ := shape2 (M := 5) rfl (by decide) (Option.some.inj h)
  exact ⟨hn, by rw [pick_lane5 major]; simp [Decode.lane5, f_d, f_a, f_i]⟩

theorem shli (d : BitVec 7) (a : BitVec 7) (n : BitVec 5) : Statement (.shli d a n) := by
  intro _ word h
  obtain ⟨hn, major, b0, b1, f_d, f_a, f_n⟩ := shape3 (M := 6) (v0 := 0) (v1 := 0) rfl (by decide) (by decide) (by decide) (Option.some.inj h)
  exact ⟨hn, by rw [pick_lane6 major]; simp [Decode.lane6, b0, b1, f_d, f_a, f_n]⟩

theorem shri (d : BitVec 7) (a : BitVec 7) (n : BitVec 5) : Statement (.shri d a n) := by
  intro _ word h
  obtain ⟨hn, major, b0, b1, f_d, f_a, f_n⟩ := shape3 (M := 6) (v0 := 0) (v1 := 1) rfl (by decide) (by decide) (by decide) (Option.some.inj h)
  exact ⟨hn, by rw [pick_lane6 major]; simp [Decode.lane6, b0, b1, f_d, f_a, f_n]⟩

theorem shrai (d : BitVec 7) (a : BitVec 7) (n : BitVec 5) : Statement (.shrai d a n) := by
  intro _ word h
  obtain ⟨hn, major, b0, b1, f_d, f_a, f_n⟩ := shape3 (M := 6) (v0 := 0) (v1 := 2) rfl (by decide) (by decide) (by decide) (Option.some.inj h)
  exact ⟨hn, by rw [pick_lane6 major]; simp [Decode.lane6, b0, b1, f_d, f_a, f_n]⟩

theorem rotri (d : BitVec 7) (a : BitVec 7) (n : BitVec 5) : Statement (.rotri d a n) := by
  intro _ word h
  obtain ⟨hn, major, b0, b1, f_d, f_a, f_n⟩ := shape3 (M := 6) (v0 := 0) (v1 := 3) rfl (by decide) (by decide) (by decide) (Option.some.inj h)
  exact ⟨hn, by rw [pick_lane6 major]; simp [Decode.lane6, b0, b1, f_d, f_a, f_n]⟩

theorem imad (d : BitVec 7) (a : BitVec 7) (b : BitVec 7) : Statement (.imad d a b) := by
  intro _ n h
  obtain ⟨hn, major, b0, f_d, f_a, f_b⟩ := shape0 (M := 7) (v0 := 0) rfl (by decide) (by decide) (Option.some.inj h)
  exact ⟨hn, by rw [pick_lane7 major]; simp [Decode.lane7, b0, f_d, f_a, f_b]⟩

theorem imadu (d : BitVec 7) (a : BitVec 7) (b : BitVec 7) : Statement (.imadu d a b) := by
  intro _ n h
  obtain ⟨hn, major, b0, f_d, f_a, f_b⟩ := shape0 (M := 7) (v0 := 1) rfl (by decide) (by decide) (Option.some.inj h)
  exact ⟨hn, by rw [pick_lane7 major]; simp [Decode.lane7, b0, f_d, f_a, f_b]⟩

theorem imadh (d : BitVec 7) (a : BitVec 7) (b : BitVec 7) : Statement (.imadh d a b) := by
  intro _ n h
  obtain ⟨hn, major, b0, f_d, f_a, f_b⟩ := shape0 (M := 7) (v0 := 2) rfl (by decide) (by decide) (Option.some.inj h)
  exact ⟨hn, by rw [pick_lane7 major]; simp [Decode.lane7, b0, f_d, f_a, f_b]⟩

theorem imadhu (d : BitVec 7) (a : BitVec 7) (b : BitVec 7) : Statement (.imadhu d a b) := by
  intro _ n h
  obtain ⟨hn, major, b0, f_d, f_a, f_b⟩ := shape0 (M := 7) (v0 := 3) rfl (by decide) (by decide) (Option.some.inj h)
  exact ⟨hn, by rw [pick_lane7 major]; simp [Decode.lane7, b0, f_d, f_a, f_b]⟩

theorem iaddx (d : BitVec 7) (a : BitVec 7) (b : BitVec 7) : Statement (.iaddx d a b) := by
  intro _ n h
  obtain ⟨hn, major, b0, f_d, f_a, f_b⟩ := shape0 (M := 8) (v0 := 0) rfl (by decide) (by decide) (Option.some.inj h)
  exact ⟨hn, by rw [pick_lane8 major]; simp [Decode.lane8, b0, f_d, f_a, f_b]⟩

theorem isubx (d : BitVec 7) (a : BitVec 7) (b : BitVec 7) : Statement (.isubx d a b) := by
  intro _ n h
  obtain ⟨hn, major, b0, f_d, f_a, f_b⟩ := shape0 (M := 8) (v0 := 1) rfl (by decide) (by decide) (Option.some.inj h)
  exact ⟨hn, by rw [pick_lane8 major]; simp [Decode.lane8, b0, f_d, f_a, f_b]⟩

theorem shlx (d : BitVec 7) (a : BitVec 7) (b : BitVec 7) : Statement (.shlx d a b) := by
  intro _ n h
  obtain ⟨hn, major, b0, f_d, f_a, f_b⟩ := shape0 (M := 8) (v0 := 2) rfl (by decide) (by decide) (Option.some.inj h)
  exact ⟨hn, by rw [pick_lane8 major]; simp [Decode.lane8, b0, f_d, f_a, f_b]⟩

theorem shrx (d : BitVec 7) (a : BitVec 7) (b : BitVec 7) : Statement (.shrx d a b) := by
  intro _ n h
  obtain ⟨hn, major, b0, f_d, f_a, f_b⟩ := shape0 (M := 8) (v0 := 3) rfl (by decide) (by decide) (Option.some.inj h)
  exact ⟨hn, by rw [pick_lane8 major]; simp [Decode.lane8, b0, f_d, f_a, f_b]⟩

theorem shrax (d : BitVec 7) (a : BitVec 7) (b : BitVec 7) : Statement (.shrax d a b) := by
  intro _ n h
  obtain ⟨hn, major, b0, f_d, f_a, f_b⟩ := shape0 (M := 8) (v0 := 4) rfl (by decide) (by decide) (Option.some.inj h)
  exact ⟨hn, by rw [pick_lane8 major]; simp [Decode.lane8, b0, f_d, f_a, f_b]⟩

theorem imulw (d : BitVec 7) (a : BitVec 7) (b : BitVec 7) : Statement (.imulw d a b) := by
  intro _ n h
  obtain ⟨hn, major, b0, f_d, f_a, f_b⟩ := shape0 (M := 8) (v0 := 5) rfl (by decide) (by decide) (Option.some.inj h)
  exact ⟨hn, by rw [pick_lane8 major]; simp [Decode.lane8, b0, f_d, f_a, f_b]⟩

theorem imulwu (d : BitVec 7) (a : BitVec 7) (b : BitVec 7) : Statement (.imulwu d a b) := by
  intro _ n h
  obtain ⟨hn, major, b0, f_d, f_a, f_b⟩ := shape0 (M := 8) (v0 := 6) rfl (by decide) (by decide) (Option.some.inj h)
  exact ⟨hn, by rw [pick_lane8 major]; simp [Decode.lane8, b0, f_d, f_a, f_b]⟩

theorem leaS0 (d : BitVec 7) (a : BitVec 7) (b : BitVec 7) : Statement (.leaS0 d a b) := by
  intro _ n h
  obtain ⟨hn, major, b0, f_d, f_a, f_b⟩ := shape0 (M := 8) (v0 := 8) rfl (by decide) (by decide) (Option.some.inj h)
  exact ⟨hn, by rw [pick_lane8 major]; simp [Decode.lane8, b0, f_d, f_a, f_b]⟩

theorem leaS1 (d : BitVec 7) (a : BitVec 7) (b : BitVec 7) : Statement (.leaS1 d a b) := by
  intro _ n h
  obtain ⟨hn, major, b0, f_d, f_a, f_b⟩ := shape0 (M := 8) (v0 := 7) rfl (by decide) (by decide) (Option.some.inj h)
  exact ⟨hn, by rw [pick_lane8 major]; simp [Decode.lane8, b0, f_d, f_a, f_b]⟩

theorem leaS2 (d : BitVec 7) (a : BitVec 7) (b : BitVec 7) : Statement (.leaS2 d a b) := by
  intro _ n h
  obtain ⟨hn, major, b0, f_d, f_a, f_b⟩ := shape0 (M := 8) (v0 := 11) rfl (by decide) (by decide) (Option.some.inj h)
  exact ⟨hn, by rw [pick_lane8 major]; simp [Decode.lane8, b0, f_d, f_a, f_b]⟩

theorem leaS3 (d : BitVec 7) (a : BitVec 7) (b : BitVec 7) : Statement (.leaS3 d a b) := by
  intro _ n h
  obtain ⟨hn, major, b0, f_d, f_a, f_b⟩ := shape0 (M := 8) (v0 := 15) rfl (by decide) (by decide) (Option.some.inj h)
  exact ⟨hn, by rw [pick_lane8 major]; simp [Decode.lane8, b0, f_d, f_a, f_b]⟩

theorem mov (d : BitVec 7) (a : BitVec 7) : Statement (.mov d a) := by
  intro _ n h
  obtain ⟨hn, major, b0, b1, f_d, f_a⟩ := shape1 (M := 9) (v0 := 0) (v1 := 0) rfl (by decide) (by decide) (by decide) (Option.some.inj h)
  exact ⟨hn, by rw [pick_lane9 major]; simp [Decode.lane9, b0, b1, f_d, f_a]⟩

theorem movx (d : BitVec 7) (a : BitVec 7) : Statement (.movx d a) := by
  intro _ n h
  obtain ⟨hn, major, b0, b1, f_d, f_a⟩ := shape1 (M := 9) (v0 := 1) (v1 := 0) rfl (by decide) (by decide) (by decide) (Option.some.inj h)
  exact ⟨hn, by rw [pick_lane9 major]; simp [Decode.lane9, b0, b1, f_d, f_a]⟩

theorem ptov (d : BitVec 7) : Statement (.ptov d) := by
  intro _ n h
  obtain ⟨hn, major, b0, b1, f_d⟩ := shape4 (M := 9) (v0 := 2) (v1 := 0) rfl (by decide) (by decide) (by decide) (Option.some.inj h)
  exact ⟨hn, by rw [pick_lane9 major]; simp [Decode.lane9, b0, b1, f_d]⟩

theorem vtop (a : BitVec 7) : Statement (.vtop a) := by
  intro _ n h
  obtain ⟨hn, major, b0, b1, b2, f_a⟩ := shape5 (M := 9) (v0 := 3) (v1 := 0) (v2 := 0) rfl (by decide) (by decide) (by decide) (by decide) (Option.some.inj h)
  exact ⟨hn, by rw [pick_lane9 major]; simp [Decode.lane9, b0, b1, b2, f_a]⟩

theorem movi (d : BitVec 7) (i : BitVec 18) : Statement (.movi d i) := by
  intro _ n h
  obtain ⟨hn, major, f_d, f_i⟩ := shape6 (M := 10) rfl (by decide) (Option.some.inj h)
  exact ⟨hn, by rw [pick_lane10 major]; simp [Decode.lane10, f_d, f_i]⟩

theorem sel (d : BitVec 7) (a : BitVec 7) (b : BitVec 7) (p : BitVec 4) : Statement (.sel d a b p) := by
  intro _ n h
  obtain ⟨hn, major, f_d, f_a, f_b, f_p⟩ := shape7 (M := 11) rfl (by decide) (Option.some.inj h)
  exact ⟨hn, by rw [pick_lane11 major]; simp [Decode.lane11, f_d, f_a, f_b, f_p]⟩

theorem icmp (d : BitVec 7) (a : BitVec 7) (b : BitVec 7) (c : BitVec 4) : Statement (.icmp d a b c) := by
  intro _ n h
  obtain ⟨hn, major, f_d, f_a, f_b, f_c⟩ := shape7 (M := 12) rfl (by decide) (Option.some.inj h)
  exact ⟨hn, by rw [pick_lane12 major]; simp [Decode.lane12, f_d, f_a, f_b, f_c]⟩

theorem icmpi (d : BitVec 7) (a : BitVec 7) (c : BitVec 4) (i : BitVec 7) : Statement (.icmpi d a c i) := by
  intro _ n h
  obtain ⟨hn, major, f_d, f_a, f_c, f_i⟩ := shape8 (M := 13) rfl (by decide) (Option.some.inj h)
  exact ⟨hn, by rw [pick_lane13 major]; simp [Decode.lane13, f_d, f_a, f_c, f_i]⟩

theorem fadd (d : BitVec 7) (a : BitVec 7) (b : BitVec 7) : Statement (.fadd d a b) := by
  intro _ n h
  obtain ⟨hn, major, b0, f_d, f_a, f_b⟩ := shape0 (M := 14) (v0 := 0) rfl (by decide) (by decide) (Option.some.inj h)
  exact ⟨hn, by rw [pick_lane14 major]; simp [Decode.lane14, b0, f_d, f_a, f_b]⟩

theorem fsub (d : BitVec 7) (a : BitVec 7) (b : BitVec 7) : Statement (.fsub d a b) := by
  intro _ n h
  obtain ⟨hn, major, b0, f_d, f_a, f_b⟩ := shape0 (M := 14) (v0 := 1) rfl (by decide) (by decide) (Option.some.inj h)
  exact ⟨hn, by rw [pick_lane14 major]; simp [Decode.lane14, b0, f_d, f_a, f_b]⟩

theorem fmul (d : BitVec 7) (a : BitVec 7) (b : BitVec 7) : Statement (.fmul d a b) := by
  intro _ n h
  obtain ⟨hn, major, b0, f_d, f_a, f_b⟩ := shape0 (M := 14) (v0 := 2) rfl (by decide) (by decide) (Option.some.inj h)
  exact ⟨hn, by rw [pick_lane14 major]; simp [Decode.lane14, b0, f_d, f_a, f_b]⟩

theorem fmin (d : BitVec 7) (a : BitVec 7) (b : BitVec 7) : Statement (.fmin d a b) := by
  intro _ n h
  obtain ⟨hn, major, b0, f_d, f_a, f_b⟩ := shape0 (M := 14) (v0 := 3) rfl (by decide) (by decide) (Option.some.inj h)
  exact ⟨hn, by rw [pick_lane14 major]; simp [Decode.lane14, b0, f_d, f_a, f_b]⟩

theorem fmax (d : BitVec 7) (a : BitVec 7) (b : BitVec 7) : Statement (.fmax d a b) := by
  intro _ n h
  obtain ⟨hn, major, b0, f_d, f_a, f_b⟩ := shape0 (M := 14) (v0 := 4) rfl (by decide) (by decide) (Option.some.inj h)
  exact ⟨hn, by rw [pick_lane14 major]; simp [Decode.lane14, b0, f_d, f_a, f_b]⟩

theorem fcopysign (d : BitVec 7) (a : BitVec 7) (b : BitVec 7) : Statement (.fcopysign d a b) := by
  intro _ n h
  obtain ⟨hn, major, b0, f_d, f_a, f_b⟩ := shape0 (M := 14) (v0 := 5) rfl (by decide) (by decide) (Option.some.inj h)
  exact ⟨hn, by rw [pick_lane14 major]; simp [Decode.lane14, b0, f_d, f_a, f_b]⟩

theorem ffma (d : BitVec 7) (a : BitVec 7) (b : BitVec 7) : Statement (.ffma d a b) := by
  intro _ n h
  obtain ⟨hn, major, b0, f_d, f_a, f_b⟩ := shape0 (M := 15) (v0 := 0) rfl (by decide) (by decide) (Option.some.inj h)
  exact ⟨hn, by rw [pick_lane15 major]; simp [Decode.lane15, b0, f_d, f_a, f_b]⟩

theorem ffms (d : BitVec 7) (a : BitVec 7) (b : BitVec 7) : Statement (.ffms d a b) := by
  intro _ n h
  obtain ⟨hn, major, b0, f_d, f_a, f_b⟩ := shape0 (M := 15) (v0 := 1) rfl (by decide) (by decide) (Option.some.inj h)
  exact ⟨hn, by rw [pick_lane15 major]; simp [Decode.lane15, b0, f_d, f_a, f_b]⟩

theorem ffnma (d : BitVec 7) (a : BitVec 7) (b : BitVec 7) : Statement (.ffnma d a b) := by
  intro _ n h
  obtain ⟨hn, major, b0, f_d, f_a, f_b⟩ := shape0 (M := 15) (v0 := 2) rfl (by decide) (by decide) (Option.some.inj h)
  exact ⟨hn, by rw [pick_lane15 major]; simp [Decode.lane15, b0, f_d, f_a, f_b]⟩

theorem ffnms (d : BitVec 7) (a : BitVec 7) (b : BitVec 7) : Statement (.ffnms d a b) := by
  intro _ n h
  obtain ⟨hn, major, b0, f_d, f_a, f_b⟩ := shape0 (M := 15) (v0 := 3) rfl (by decide) (by decide) (Option.some.inj h)
  exact ⟨hn, by rw [pick_lane15 major]; simp [Decode.lane15, b0, f_d, f_a, f_b]⟩

theorem fcmp (d : BitVec 7) (a : BitVec 7) (b : BitVec 7) (c : BitVec 4) : Statement (.fcmp d a b c) := by
  intro _ n h
  obtain ⟨hn, major, f_d, f_a, f_b, f_c⟩ := shape7 (M := 16) rfl (by decide) (Option.some.inj h)
  exact ⟨hn, by rw [pick_lane16 major]; simp [Decode.lane16, f_d, f_a, f_b, f_c]⟩

theorem frndn (d : BitVec 7) (a : BitVec 7) : Statement (.frndn d a) := by
  intro _ n h
  obtain ⟨hn, major, b0, b1, f_d, f_a⟩ := shape1 (M := 17) (v0 := 0) (v1 := 0) rfl (by decide) (by decide) (by decide) (Option.some.inj h)
  exact ⟨hn, by rw [pick_lane17 major]; simp [Decode.lane17, b0, b1, f_d, f_a]⟩

theorem frndz (d : BitVec 7) (a : BitVec 7) : Statement (.frndz d a) := by
  intro _ n h
  obtain ⟨hn, major, b0, b1, f_d, f_a⟩ := shape1 (M := 17) (v0 := 1) (v1 := 0) rfl (by decide) (by decide) (by decide) (Option.some.inj h)
  exact ⟨hn, by rw [pick_lane17 major]; simp [Decode.lane17, b0, b1, f_d, f_a]⟩

theorem frndd (d : BitVec 7) (a : BitVec 7) : Statement (.frndd d a) := by
  intro _ n h
  obtain ⟨hn, major, b0, b1, f_d, f_a⟩ := shape1 (M := 17) (v0 := 2) (v1 := 0) rfl (by decide) (by decide) (by decide) (Option.some.inj h)
  exact ⟨hn, by rw [pick_lane17 major]; simp [Decode.lane17, b0, b1, f_d, f_a]⟩

theorem frndu (d : BitVec 7) (a : BitVec 7) : Statement (.frndu d a) := by
  intro _ n h
  obtain ⟨hn, major, b0, b1, f_d, f_a⟩ := shape1 (M := 17) (v0 := 3) (v1 := 0) rfl (by decide) (by decide) (by decide) (Option.some.inj h)
  exact ⟨hn, by rw [pick_lane17 major]; simp [Decode.lane17, b0, b1, f_d, f_a]⟩

theorem fclass (d : BitVec 7) (a : BitVec 7) : Statement (.fclass d a) := by
  intro _ n h
  obtain ⟨hn, major, b0, b1, f_d, f_a⟩ := shape1 (M := 17) (v0 := 4) (v1 := 0) rfl (by decide) (by decide) (by decide) (Option.some.inj h)
  exact ⟨hn, by rw [pick_lane17 major]; simp [Decode.lane17, b0, b1, f_d, f_a]⟩

theorem fabs (d : BitVec 7) (a : BitVec 7) : Statement (.fabs d a) := by
  intro _ n h
  obtain ⟨hn, major, b0, b1, f_d, f_a⟩ := shape1 (M := 17) (v0 := 5) (v1 := 0) rfl (by decide) (by decide) (by decide) (Option.some.inj h)
  exact ⟨hn, by rw [pick_lane17 major]; simp [Decode.lane17, b0, b1, f_d, f_a]⟩

theorem fneg (d : BitVec 7) (a : BitVec 7) : Statement (.fneg d a) := by
  intro _ n h
  obtain ⟨hn, major, b0, b1, f_d, f_a⟩ := shape1 (M := 17) (v0 := 6) (v1 := 0) rfl (by decide) (by decide) (by decide) (Option.some.inj h)
  exact ⟨hn, by rw [pick_lane17 major]; simp [Decode.lane17, b0, b1, f_d, f_a]⟩

theorem hadd2 (d : BitVec 7) (a : BitVec 7) (b : BitVec 7) : Statement (.hadd2 d a b) := by
  intro _ n h
  obtain ⟨hn, major, b0, f_d, f_a, f_b⟩ := shape0 (M := 18) (v0 := 0) rfl (by decide) (by decide) (Option.some.inj h)
  exact ⟨hn, by rw [pick_lane18 major]; simp [Decode.lane18, b0, f_d, f_a, f_b]⟩

theorem hsub2 (d : BitVec 7) (a : BitVec 7) (b : BitVec 7) : Statement (.hsub2 d a b) := by
  intro _ n h
  obtain ⟨hn, major, b0, f_d, f_a, f_b⟩ := shape0 (M := 18) (v0 := 1) rfl (by decide) (by decide) (Option.some.inj h)
  exact ⟨hn, by rw [pick_lane18 major]; simp [Decode.lane18, b0, f_d, f_a, f_b]⟩

theorem hmul2 (d : BitVec 7) (a : BitVec 7) (b : BitVec 7) : Statement (.hmul2 d a b) := by
  intro _ n h
  obtain ⟨hn, major, b0, f_d, f_a, f_b⟩ := shape0 (M := 18) (v0 := 2) rfl (by decide) (by decide) (Option.some.inj h)
  exact ⟨hn, by rw [pick_lane18 major]; simp [Decode.lane18, b0, f_d, f_a, f_b]⟩

theorem hfma2 (d : BitVec 7) (a : BitVec 7) (b : BitVec 7) : Statement (.hfma2 d a b) := by
  intro _ n h
  obtain ⟨hn, major, b0, f_d, f_a, f_b⟩ := shape0 (M := 18) (v0 := 3) rfl (by decide) (by decide) (Option.some.inj h)
  exact ⟨hn, by rw [pick_lane18 major]; simp [Decode.lane18, b0, f_d, f_a, f_b]⟩

theorem hmin2 (d : BitVec 7) (a : BitVec 7) (b : BitVec 7) : Statement (.hmin2 d a b) := by
  intro _ n h
  obtain ⟨hn, major, b0, f_d, f_a, f_b⟩ := shape0 (M := 18) (v0 := 4) rfl (by decide) (by decide) (Option.some.inj h)
  exact ⟨hn, by rw [pick_lane18 major]; simp [Decode.lane18, b0, f_d, f_a, f_b]⟩

theorem hmax2 (d : BitVec 7) (a : BitVec 7) (b : BitVec 7) : Statement (.hmax2 d a b) := by
  intro _ n h
  obtain ⟨hn, major, b0, f_d, f_a, f_b⟩ := shape0 (M := 18) (v0 := 5) rfl (by decide) (by decide) (Option.some.inj h)
  exact ⟨hn, by rw [pick_lane18 major]; simp [Decode.lane18, b0, f_d, f_a, f_b]⟩

theorem badd2 (d : BitVec 7) (a : BitVec 7) (b : BitVec 7) : Statement (.badd2 d a b) := by
  intro _ n h
  obtain ⟨hn, major, b0, f_d, f_a, f_b⟩ := shape0 (M := 18) (v0 := 6) rfl (by decide) (by decide) (Option.some.inj h)
  exact ⟨hn, by rw [pick_lane18 major]; simp [Decode.lane18, b0, f_d, f_a, f_b]⟩

theorem bsub2 (d : BitVec 7) (a : BitVec 7) (b : BitVec 7) : Statement (.bsub2 d a b) := by
  intro _ n h
  obtain ⟨hn, major, b0, f_d, f_a, f_b⟩ := shape0 (M := 18) (v0 := 7) rfl (by decide) (by decide) (Option.some.inj h)
  exact ⟨hn, by rw [pick_lane18 major]; simp [Decode.lane18, b0, f_d, f_a, f_b]⟩

theorem bmul2 (d : BitVec 7) (a : BitVec 7) (b : BitVec 7) : Statement (.bmul2 d a b) := by
  intro _ n h
  obtain ⟨hn, major, b0, f_d, f_a, f_b⟩ := shape0 (M := 18) (v0 := 8) rfl (by decide) (by decide) (Option.some.inj h)
  exact ⟨hn, by rw [pick_lane18 major]; simp [Decode.lane18, b0, f_d, f_a, f_b]⟩

theorem bfma2 (d : BitVec 7) (a : BitVec 7) (b : BitVec 7) : Statement (.bfma2 d a b) := by
  intro _ n h
  obtain ⟨hn, major, b0, f_d, f_a, f_b⟩ := shape0 (M := 18) (v0 := 9) rfl (by decide) (by decide) (Option.some.inj h)
  exact ⟨hn, by rw [pick_lane18 major]; simp [Decode.lane18, b0, f_d, f_a, f_b]⟩

theorem bmin2 (d : BitVec 7) (a : BitVec 7) (b : BitVec 7) : Statement (.bmin2 d a b) := by
  intro _ n h
  obtain ⟨hn, major, b0, f_d, f_a, f_b⟩ := shape0 (M := 18) (v0 := 10) rfl (by decide) (by decide) (Option.some.inj h)
  exact ⟨hn, by rw [pick_lane18 major]; simp [Decode.lane18, b0, f_d, f_a, f_b]⟩

theorem bmax2 (d : BitVec 7) (a : BitVec 7) (b : BitVec 7) : Statement (.bmax2 d a b) := by
  intro _ n h
  obtain ⟨hn, major, b0, f_d, f_a, f_b⟩ := shape0 (M := 18) (v0 := 11) rfl (by decide) (by decide) (Option.some.inj h)
  exact ⟨hn, by rw [pick_lane18 major]; simp [Decode.lane18, b0, f_d, f_a, f_b]⟩

theorem dot4s8 (d : BitVec 7) (a : BitVec 7) (b : BitVec 7) : Statement (.dot4s8 d a b) := by
  intro _ n h
  obtain ⟨hn, major, b0, f_d, f_a, f_b⟩ := shape0 (M := 19) (v0 := 0) rfl (by decide) (by decide) (Option.some.inj h)
  exact ⟨hn, by rw [pick_lane19 major]; simp [Decode.lane19, b0, f_d, f_a, f_b]⟩

theorem dot4u8 (d : BitVec 7) (a : BitVec 7) (b : BitVec 7) : Statement (.dot4u8 d a b) := by
  intro _ n h
  obtain ⟨hn, major, b0, f_d, f_a, f_b⟩ := shape0 (M := 19) (v0 := 1) rfl (by decide) (by decide) (Option.some.inj h)
  exact ⟨hn, by rw [pick_lane19 major]; simp [Decode.lane19, b0, f_d, f_a, f_b]⟩

theorem dot4su8 (d : BitVec 7) (a : BitVec 7) (b : BitVec 7) : Statement (.dot4su8 d a b) := by
  intro _ n h
  obtain ⟨hn, major, b0, f_d, f_a, f_b⟩ := shape0 (M := 19) (v0 := 2) rfl (by decide) (by decide) (Option.some.inj h)
  exact ⟨hn, by rw [pick_lane19 major]; simp [Decode.lane19, b0, f_d, f_a, f_b]⟩

theorem dot8s4 (d : BitVec 7) (a : BitVec 7) (b : BitVec 7) : Statement (.dot8s4 d a b) := by
  intro _ n h
  obtain ⟨hn, major, b0, f_d, f_a, f_b⟩ := shape0 (M := 19) (v0 := 3) rfl (by decide) (by decide) (Option.some.inj h)
  exact ⟨hn, by rw [pick_lane19 major]; simp [Decode.lane19, b0, f_d, f_a, f_b]⟩

theorem dot2h (d : BitVec 7) (a : BitVec 7) (b : BitVec 7) : Statement (.dot2h d a b) := by
  intro _ n h
  obtain ⟨hn, major, b0, f_d, f_a, f_b⟩ := shape0 (M := 19) (v0 := 4) rfl (by decide) (by decide) (Option.some.inj h)
  exact ⟨hn, by rw [pick_lane19 major]; simp [Decode.lane19, b0, f_d, f_a, f_b]⟩

theorem dot2b (d : BitVec 7) (a : BitVec 7) (b : BitVec 7) : Statement (.dot2b d a b) := by
  intro _ n h
  obtain ⟨hn, major, b0, f_d, f_a, f_b⟩ := shape0 (M := 19) (v0 := 5) rfl (by decide) (by decide) (Option.some.inj h)
  exact ⟨hn, by rw [pick_lane19 major]; simp [Decode.lane19, b0, f_d, f_a, f_b]⟩

theorem dot4e4 (d : BitVec 7) (a : BitVec 7) (b : BitVec 7) : Statement (.dot4e4 d a b) := by
  intro _ n h
  obtain ⟨hn, major, b0, f_d, f_a, f_b⟩ := shape0 (M := 19) (v0 := 6) rfl (by decide) (by decide) (Option.some.inj h)
  exact ⟨hn, by rw [pick_lane19 major]; simp [Decode.lane19, b0, f_d, f_a, f_b]⟩

theorem dot4e5 (d : BitVec 7) (a : BitVec 7) (b : BitVec 7) : Statement (.dot4e5 d a b) := by
  intro _ n h
  obtain ⟨hn, major, b0, f_d, f_a, f_b⟩ := shape0 (M := 19) (v0 := 7) rfl (by decide) (by decide) (Option.some.inj h)
  exact ⟨hn, by rw [pick_lane19 major]; simp [Decode.lane19, b0, f_d, f_a, f_b]⟩

theorem cvt (d : BitVec 7) (a : BitVec 7) (m : BitVec 4) : Statement (.cvt d a m) := by
  intro _ n h
  obtain ⟨hn, major, b0, f_d, f_a, f_m⟩ := shape9 (M := 20) (v0 := 0) rfl (by decide) (by decide) (Option.some.inj h)
  exact ⟨hn, by rw [pick_lane20 major]; simp [Decode.lane20, b0, f_d, f_a, f_m]⟩

theorem qnt (d : BitVec 7) (a : BitVec 7) (b : BitVec 7) (s : BitVec 3) : Statement (.qnt d a b s) := by
  intro _ n h
  obtain ⟨hn, major, b0, f_d, f_a, f_b, f_s⟩ := shape10 (M := 21) (v0 := 0) rfl (by decide) (by decide) (Option.some.inj h)
  exact ⟨hn, by rw [pick_lane21 major]; simp [Decode.lane21, b0, f_d, f_a, f_b, f_s]⟩

theorem dqnt (d : BitVec 7) (a : BitVec 7) (b : BitVec 7) (s : BitVec 3) : Statement (.dqnt d a b s) := by
  intro _ n h
  obtain ⟨hn, major, b0, f_d, f_a, f_b, f_s⟩ := shape10 (M := 22) (v0 := 0) rfl (by decide) (by decide) (Option.some.inj h)
  exact ⟨hn, by rw [pick_lane22 major]; simp [Decode.lane22, b0, f_d, f_a, f_b, f_s]⟩

theorem unpk3 (d : BitVec 7) (a : BitVec 7) (n : BitVec 2) : Statement (.unpk3 d a n) := by
  intro _ word h
  obtain ⟨hn, major, b0, b1, f_d, f_a, f_n⟩ := shape11 (M := 23) (v0 := 0) (v1 := 0) rfl (by decide) (by decide) (by decide) (Option.some.inj h)
  exact ⟨hn, by rw [pick_lane23 major]; simp [Decode.lane23, b0, b1, f_d, f_a, f_n]⟩

theorem exp2 (d : BitVec 7) (a : BitVec 7) (b : BitVec 7) : Statement (.exp2 d a b) := by
  intro _ n h
  obtain ⟨hn, major, b0, f_d, f_a, f_b⟩ := shape0 (M := 24) (v0 := 0) rfl (by decide) (by decide) (Option.some.inj h)
  exact ⟨hn, by rw [pick_lane24 major]; simp [Decode.lane24, b0, f_d, f_a, f_b]⟩

theorem exp (d : BitVec 7) (a : BitVec 7) (b : BitVec 7) : Statement (.exp d a b) := by
  intro _ n h
  obtain ⟨hn, major, b0, f_d, f_a, f_b⟩ := shape0 (M := 24) (v0 := 1) rfl (by decide) (by decide) (Option.some.inj h)
  exact ⟨hn, by rw [pick_lane24 major]; simp [Decode.lane24, b0, f_d, f_a, f_b]⟩

theorem log2 (d : BitVec 7) (a : BitVec 7) (b : BitVec 7) : Statement (.log2 d a b) := by
  intro _ n h
  obtain ⟨hn, major, b0, f_d, f_a, f_b⟩ := shape0 (M := 24) (v0 := 2) rfl (by decide) (by decide) (Option.some.inj h)
  exact ⟨hn, by rw [pick_lane24 major]; simp [Decode.lane24, b0, f_d, f_a, f_b]⟩

theorem rcp (d : BitVec 7) (a : BitVec 7) (b : BitVec 7) : Statement (.rcp d a b) := by
  intro _ n h
  obtain ⟨hn, major, b0, f_d, f_a, f_b⟩ := shape0 (M := 24) (v0 := 3) rfl (by decide) (by decide) (Option.some.inj h)
  exact ⟨hn, by rw [pick_lane24 major]; simp [Decode.lane24, b0, f_d, f_a, f_b]⟩

theorem rsqrt (d : BitVec 7) (a : BitVec 7) (b : BitVec 7) : Statement (.rsqrt d a b) := by
  intro _ n h
  obtain ⟨hn, major, b0, f_d, f_a, f_b⟩ := shape0 (M := 24) (v0 := 4) rfl (by decide) (by decide) (Option.some.inj h)
  exact ⟨hn, by rw [pick_lane24 major]; simp [Decode.lane24, b0, f_d, f_a, f_b]⟩

theorem sqrt (d : BitVec 7) (a : BitVec 7) (b : BitVec 7) : Statement (.sqrt d a b) := by
  intro _ n h
  obtain ⟨hn, major, b0, f_d, f_a, f_b⟩ := shape0 (M := 24) (v0 := 5) rfl (by decide) (by decide) (Option.some.inj h)
  exact ⟨hn, by rw [pick_lane24 major]; simp [Decode.lane24, b0, f_d, f_a, f_b]⟩

theorem sin (d : BitVec 7) (a : BitVec 7) (b : BitVec 7) : Statement (.sin d a b) := by
  intro _ n h
  obtain ⟨hn, major, b0, f_d, f_a, f_b⟩ := shape0 (M := 24) (v0 := 6) rfl (by decide) (by decide) (Option.some.inj h)
  exact ⟨hn, by rw [pick_lane24 major]; simp [Decode.lane24, b0, f_d, f_a, f_b]⟩

theorem cos (d : BitVec 7) (a : BitVec 7) (b : BitVec 7) : Statement (.cos d a b) := by
  intro _ n h
  obtain ⟨hn, major, b0, f_d, f_a, f_b⟩ := shape0 (M := 24) (v0 := 7) rfl (by decide) (by decide) (Option.some.inj h)
  exact ⟨hn, by rw [pick_lane24 major]; simp [Decode.lane24, b0, f_d, f_a, f_b]⟩

theorem tanh (d : BitVec 7) (a : BitVec 7) (b : BitVec 7) : Statement (.tanh d a b) := by
  intro _ n h
  obtain ⟨hn, major, b0, f_d, f_a, f_b⟩ := shape0 (M := 24) (v0 := 8) rfl (by decide) (by decide) (Option.some.inj h)
  exact ⟨hn, by rw [pick_lane24 major]; simp [Decode.lane24, b0, f_d, f_a, f_b]⟩

theorem sigm (d : BitVec 7) (a : BitVec 7) (b : BitVec 7) : Statement (.sigm d a b) := by
  intro _ n h
  obtain ⟨hn, major, b0, f_d, f_a, f_b⟩ := shape0 (M := 24) (v0 := 9) rfl (by decide) (by decide) (Option.some.inj h)
  exact ⟨hn, by rw [pick_lane24 major]; simp [Decode.lane24, b0, f_d, f_a, f_b]⟩

theorem gelu (d : BitVec 7) (a : BitVec 7) (b : BitVec 7) : Statement (.gelu d a b) := by
  intro _ n h
  obtain ⟨hn, major, b0, f_d, f_a, f_b⟩ := shape0 (M := 24) (v0 := 10) rfl (by decide) (by decide) (Option.some.inj h)
  exact ⟨hn, by rw [pick_lane24 major]; simp [Decode.lane24, b0, f_d, f_a, f_b]⟩

theorem pand (d : BitVec 7) (a : BitVec 7) (b : BitVec 7) : Statement (.pand d a b) := by
  intro _ n h
  obtain ⟨hn, major, b0, f_d, f_a, f_b⟩ := shape0 (M := 25) (v0 := 0) rfl (by decide) (by decide) (Option.some.inj h)
  exact ⟨hn, by rw [pick_lane25 major]; simp [Decode.lane25, b0, f_d, f_a, f_b]⟩

theorem por (d : BitVec 7) (a : BitVec 7) (b : BitVec 7) : Statement (.por d a b) := by
  intro _ n h
  obtain ⟨hn, major, b0, f_d, f_a, f_b⟩ := shape0 (M := 25) (v0 := 1) rfl (by decide) (by decide) (Option.some.inj h)
  exact ⟨hn, by rw [pick_lane25 major]; simp [Decode.lane25, b0, f_d, f_a, f_b]⟩

theorem pxor (d : BitVec 7) (a : BitVec 7) (b : BitVec 7) : Statement (.pxor d a b) := by
  intro _ n h
  obtain ⟨hn, major, b0, f_d, f_a, f_b⟩ := shape0 (M := 25) (v0 := 2) rfl (by decide) (by decide) (Option.some.inj h)
  exact ⟨hn, by rw [pick_lane25 major]; simp [Decode.lane25, b0, f_d, f_a, f_b]⟩

theorem pandn (d : BitVec 7) (a : BitVec 7) (b : BitVec 7) : Statement (.pandn d a b) := by
  intro _ n h
  obtain ⟨hn, major, b0, f_d, f_a, f_b⟩ := shape0 (M := 25) (v0 := 3) rfl (by decide) (by decide) (Option.some.inj h)
  exact ⟨hn, by rw [pick_lane25 major]; simp [Decode.lane25, b0, f_d, f_a, f_b]⟩

theorem pnot (d : BitVec 7) (a : BitVec 7) : Statement (.pnot d a) := by
  intro _ n h
  obtain ⟨hn, major, b0, b1, f_d, f_a⟩ := shape1 (M := 25) (v0 := 4) (v1 := 0) rfl (by decide) (by decide) (by decide) (Option.some.inj h)
  exact ⟨hn, by rw [pick_lane25 major]; simp [Decode.lane25, b0, b1, f_d, f_a]⟩

theorem pmov (d : BitVec 7) (a : BitVec 7) : Statement (.pmov d a) := by
  intro _ n h
  obtain ⟨hn, major, b0, b1, f_d, f_a⟩ := shape1 (M := 25) (v0 := 5) (v1 := 0) rfl (by decide) (by decide) (by decide) (Option.some.inj h)
  exact ⟨hn, by rw [pick_lane25 major]; simp [Decode.lane25, b0, b1, f_d, f_a]⟩

theorem pset (d : BitVec 7) : Statement (.pset d) := by
  intro _ n h
  obtain ⟨hn, major, b0, b1, f_d⟩ := shape4 (M := 25) (v0 := 6) (v1 := 0) rfl (by decide) (by decide) (by decide) (Option.some.inj h)
  exact ⟨hn, by rw [pick_lane25 major]; simp [Decode.lane25, b0, b1, f_d]⟩

theorem pclr (d : BitVec 7) : Statement (.pclr d) := by
  intro _ n h
  obtain ⟨hn, major, b0, b1, f_d⟩ := shape4 (M := 25) (v0 := 7) (v1 := 0) rfl (by decide) (by decide) (by decide) (Option.some.inj h)
  exact ⟨hn, by rw [pick_lane25 major]; simp [Decode.lane25, b0, b1, f_d]⟩

theorem ld (d : BitVec 7) (a : BitVec 7) (z : BitVec 3) (o : BitVec 2) (k : BitVec 3) : Statement (.ld d a z o k) := by
  intro _ n h
  obtain ⟨hn, major, b0, f_d, f_a, f_z, f_o, f_k⟩ := shape12 (M := 26) (v0 := 0) rfl (by decide) (by decide) (Option.some.inj h)
  exact ⟨hn, by rw [pick_lane26 major]; simp [Decode.lane26, b0, f_d, f_a, f_z, f_o, f_k]⟩

theorem st (d : BitVec 7) (a : BitVec 7) (z : BitVec 3) (o : BitVec 2) (k : BitVec 3) : Statement (.st d a z o k) := by
  intro _ n h
  obtain ⟨hn, major, b0, f_d, f_a, f_z, f_o, f_k⟩ := shape12 (M := 27) (v0 := 0) rfl (by decide) (by decide) (Option.some.inj h)
  exact ⟨hn, by rw [pick_lane27 major]; simp [Decode.lane27, b0, f_d, f_a, f_z, f_o, f_k]⟩

theorem ldnr (d : BitVec 7) (a : BitVec 7) (z : BitVec 3) (o : BitVec 2) (k : BitVec 3) (p : BitVec 3) : Statement (.ldnr d a z o k p) := by
  intro _ n h
  obtain ⟨hn, major, f_d, f_a, f_z, f_o, f_k, f_p⟩ := shape13 (M := 28) rfl (by decide) (Option.some.inj h)
  exact ⟨hn, by rw [pick_lane28 major]; simp [Decode.lane28, f_d, f_a, f_z, f_o, f_k, f_p]⟩

/-- A scope within its limits, as the decoder sees it. -/
theorem scope_small {n : Nat} {k : BitVec 3} (h : decide (k.toNat < 5) = true) (f : Decode.fld n 3 3 = k) : Decode.bits n 3 3 < 5 := by
  subst f
  simpa [Decode.fld, Decode.bits] using h

theorem ldtWaitfull (d : BitVec 7) (a : BitVec 7) (z : BitVec 1) (k : BitVec 3) : Statement (.ldtWaitfull d a z k) := by
  intro hw n h
  obtain ⟨hn, major, b0, b1, b2, f_d, f_a, f_z, f_k⟩ := shape14 (M := 29) (v0 := 0) (v1 := 0) (v2 := 1) rfl (by decide) (by decide) (by decide) (by decide) (Option.some.inj h)
  exact ⟨hn, by rw [pick_lane29 major]; simp [Decode.lane29, b0, b1, b2, f_d, f_a, f_z, f_k, scope_small hw f_k]⟩

theorem ldtTake (d : BitVec 7) (a : BitVec 7) (z : BitVec 1) (k : BitVec 3) : Statement (.ldtTake d a z k) := by
  intro hw n h
  obtain ⟨hn, major, b0, b1, b2, f_d, f_a, f_z, f_k⟩ := shape14 (M := 29) (v0 := 1) (v1 := 0) (v2 := 1) rfl (by decide) (by decide) (by decide) (by decide) (Option.some.inj h)
  exact ⟨hn, by rw [pick_lane29 major]; simp [Decode.lane29, b0, b1, b2, f_d, f_a, f_z, f_k, scope_small hw f_k]⟩

theorem ldtPeektag (d : BitVec 7) (a : BitVec 7) (z : BitVec 1) (k : BitVec 3) : Statement (.ldtPeektag d a z k) := by
  intro hw n h
  obtain ⟨hn, major, b0, b1, b2, f_d, f_a, f_z, f_k⟩ := shape14 (M := 29) (v0 := 2) (v1 := 0) (v2 := 1) rfl (by decide) (by decide) (by decide) (by decide) (Option.some.inj h)
  exact ⟨hn, by rw [pick_lane29 major]; simp [Decode.lane29, b0, b1, b2, f_d, f_a, f_z, f_k, scope_small hw f_k]⟩

theorem sttPut (d : BitVec 7) (a : BitVec 7) (z : BitVec 1) (k : BitVec 3) : Statement (.sttPut d a z k) := by
  intro hw n h
  obtain ⟨hn, major, b0, b1, b2, f_d, f_a, f_z, f_k⟩ := shape14 (M := 30) (v0 := 0) (v1 := 0) (v2 := 1) rfl (by decide) (by decide) (by decide) (by decide) (Option.some.inj h)
  exact ⟨hn, by rw [pick_lane30 major]; simp [Decode.lane30, b0, b1, b2, f_d, f_a, f_z, f_k, scope_small hw f_k]⟩

theorem sttFill (d : BitVec 7) (a : BitVec 7) (z : BitVec 1) (k : BitVec 3) : Statement (.sttFill d a z k) := by
  intro hw n h
  obtain ⟨hn, major, b0, b1, b2, f_d, f_a, f_z, f_k⟩ := shape14 (M := 30) (v0 := 1) (v1 := 0) (v2 := 1) rfl (by decide) (by decide) (by decide) (by decide) (Option.some.inj h)
  exact ⟨hn, by rw [pick_lane30 major]; simp [Decode.lane30, b0, b1, b2, f_d, f_a, f_z, f_k, scope_small hw f_k]⟩

theorem sttDrain (d : BitVec 7) (a : BitVec 7) (z : BitVec 1) (k : BitVec 3) : Statement (.sttDrain d a z k) := by
  intro hw n h
  obtain ⟨hn, major, b0, b1, b2, f_d, f_a, f_z, f_k⟩ := shape14 (M := 30) (v0 := 2) (v1 := 0) (v2 := 1) rfl (by decide) (by decide) (by decide) (by decide) (Option.some.inj h)
  exact ⟨hn, by rw [pick_lane30 major]; simp [Decode.lane30, b0, b1, b2, f_d, f_a, f_z, f_k, scope_small hw f_k]⟩

theorem atom (d : BitVec 7) (a : BitVec 7) (b : BitVec 7) (o : BitVec 4) : Statement (.atom d a b o) := by
  intro _ n h
  obtain ⟨hn, major, f_d, f_a, f_b, f_o⟩ := shape7 (M := 31) rfl (by decide) (Option.some.inj h)
  exact ⟨hn, by rw [pick_lane31 major]; simp [Decode.lane31, f_d, f_a, f_b, f_o]⟩

theorem ared (a : BitVec 7) (b : BitVec 7) (o : BitVec 4) : Statement (.ared a b o) := by
  intro _ n h
  obtain ⟨hn, major, b0, f_a, f_b, f_o⟩ := shape15 (M := 32) (v0 := 0) rfl (by decide) (by decide) (Option.some.inj h)
  exact ⟨hn, by rw [pick_lane32 major]; simp [Decode.lane32, b0, f_a, f_b, f_o]⟩

theorem lperm (d : BitVec 7) (a : BitVec 7) (b : BitVec 7) (m : BitVec 4) : Statement (.lperm d a b m) := by
  intro _ n h
  obtain ⟨hn, major, f_d, f_a, f_b, f_m⟩ := shape7 (M := 33) rfl (by decide) (Option.some.inj h)
  exact ⟨hn, by rw [pick_lane33 major]; simp [Decode.lane33, f_d, f_a, f_b, f_m]⟩

theorem lsense (d : BitVec 7) (a : BitVec 7) (m : BitVec 4) : Statement (.lsense d a m) := by
  intro _ n h
  obtain ⟨hn, major, b0, f_d, f_a, f_m⟩ := shape9 (M := 34) (v0 := 0) rfl (by decide) (by decide) (Option.some.inj h)
  exact ⟨hn, by rw [pick_lane34 major]; simp [Decode.lane34, b0, f_d, f_a, f_m]⟩

theorem lfold (d : BitVec 7) (a : BitVec 7) (m : BitVec 4) : Statement (.lfold d a m) := by
  intro _ n h
  obtain ⟨hn, major, b0, f_d, f_a, f_m⟩ := shape9 (M := 35) (v0 := 0) rfl (by decide) (by decide) (Option.some.inj h)
  exact ⟨hn, by rw [pick_lane35 major]; simp [Decode.lane35, b0, f_d, f_a, f_m]⟩

theorem scan (d : BitVec 7) (a : BitVec 7) (m : BitVec 4) : Statement (.scan d a m) := by
  intro _ n h
  obtain ⟨hn, major, b0, f_d, f_a, f_m⟩ := shape9 (M := 36) (v0 := 0) rfl (by decide) (by decide) (Option.some.inj h)
  exact ⟨hn, by rw [pick_lane36 major]; simp [Decode.lane36, b0, f_d, f_a, f_m]⟩

theorem brl (p : BitVec 5) (o : BitVec 18) : Statement (.brl p o) := by
  intro _ n h
  obtain ⟨hn, major, b0, f_p, f_o⟩ := shape16 (M := 37) (v0 := 0) rfl (by decide) (by decide) (Option.some.inj h)
  exact ⟨hn, by rw [pick_lane37 major]; simp [Decode.lane37, b0, f_p, f_o]⟩

theorem rng (d : BitVec 7) : Statement (.rng d) := by
  intro _ n h
  obtain ⟨hn, major, b0, b1, f_d⟩ := shape4 (M := 38) (v0 := 0) (v1 := 0) rfl (by decide) (by decide) (by decide) (Option.some.inj h)
  exact ⟨hn, by rw [pick_lane38 major]; simp [Decode.lane38, b0, b1, f_d]⟩

theorem rngseed (a : BitVec 7) : Statement (.rngseed a) := by
  intro _ n h
  obtain ⟨hn, major, b0, b1, b2, f_a⟩ := shape5 (M := 38) (v0 := 1) (v1 := 0) (v2 := 0) rfl (by decide) (by decide) (by decide) (by decide) (Option.some.inj h)
  exact ⟨hn, by rw [pick_lane38 major]; simp [Decode.lane38, b0, b1, b2, f_a]⟩

theorem trd (d : BitVec 7) (t : BitVec 4) (c : BitVec 5) (n : BitVec 5) : Statement (.trd d t c n) := by
  intro _ word h
  obtain ⟨hn, major, b0, f_d, f_t, f_c, f_n⟩ := shape17 (M := 39) (v0 := 0) rfl (by decide) (by decide) (Option.some.inj h)
  exact ⟨hn, by rw [pick_lane39 major]; simp [Decode.lane39, b0, f_d, f_t, f_c, f_n]⟩

theorem twr (d : BitVec 7) (t : BitVec 4) (c : BitVec 5) (n : BitVec 5) : Statement (.twr d t c n) := by
  intro _ word h
  obtain ⟨hn, major, b0, f_d, f_t, f_c, f_n⟩ := shape17 (M := 40) (v0 := 0) rfl (by decide) (by decide) (Option.some.inj h)
  exact ⟨hn, by rw [pick_lane40 major]; simp [Decode.lane40, b0, f_d, f_t, f_c, f_n]⟩

theorem uadd (d : BitVec 7) (a : BitVec 7) (b : BitVec 7) : Statement (.uadd d a b) := by
  intro _ n h
  obtain ⟨hn, major, b0, f_d, f_a, f_b⟩ := shape0 (M := 64) (v0 := 0) rfl (by decide) (by decide) (Option.some.inj h)
  exact ⟨hn, by rw [pick_uni0 major]; simp [Decode.uni0, b0, f_d, f_a, f_b]⟩

theorem usub (d : BitVec 7) (a : BitVec 7) (b : BitVec 7) : Statement (.usub d a b) := by
  intro _ n h
  obtain ⟨hn, major, b0, f_d, f_a, f_b⟩ := shape0 (M := 64) (v0 := 1) rfl (by decide) (by decide) (Option.some.inj h)
  exact ⟨hn, by rw [pick_uni0 major]; simp [Decode.uni0, b0, f_d, f_a, f_b]⟩

theorem umul (d : BitVec 7) (a : BitVec 7) (b : BitVec 7) : Statement (.umul d a b) := by
  intro _ n h
  obtain ⟨hn, major, b0, f_d, f_a, f_b⟩ := shape0 (M := 64) (v0 := 2) rfl (by decide) (by decide) (Option.some.inj h)
  exact ⟨hn, by rw [pick_uni0 major]; simp [Decode.uni0, b0, f_d, f_a, f_b]⟩

theorem umulhu (d : BitVec 7) (a : BitVec 7) (b : BitVec 7) : Statement (.umulhu d a b) := by
  intro _ n h
  obtain ⟨hn, major, b0, f_d, f_a, f_b⟩ := shape0 (M := 64) (v0 := 3) rfl (by decide) (by decide) (Option.some.inj h)
  exact ⟨hn, by rw [pick_uni0 major]; simp [Decode.uni0, b0, f_d, f_a, f_b]⟩

theorem ualuUmin (d : BitVec 7) (a : BitVec 7) (b : BitVec 7) : Statement (.ualuUmin d a b) := by
  intro _ n h
  obtain ⟨hn, major, b0, f_d, f_a, f_b⟩ := shape0 (M := 64) (v0 := 4) rfl (by decide) (by decide) (Option.some.inj h)
  exact ⟨hn, by rw [pick_uni0 major]; simp [Decode.uni0, b0, f_d, f_a, f_b]⟩

theorem ualuUmax (d : BitVec 7) (a : BitVec 7) (b : BitVec 7) : Statement (.ualuUmax d a b) := by
  intro _ n h
  obtain ⟨hn, major, b0, f_d, f_a, f_b⟩ := shape0 (M := 64) (v0 := 5) rfl (by decide) (by decide) (Option.some.inj h)
  exact ⟨hn, by rw [pick_uni0 major]; simp [Decode.uni0, b0, f_d, f_a, f_b]⟩

theorem ualuAnd (d : BitVec 7) (a : BitVec 7) (b : BitVec 7) : Statement (.ualuAnd d a b) := by
  intro _ n h
  obtain ⟨hn, major, b0, f_d, f_a, f_b⟩ := shape0 (M := 64) (v0 := 6) rfl (by decide) (by decide) (Option.some.inj h)
  exact ⟨hn, by rw [pick_uni0 major]; simp [Decode.uni0, b0, f_d, f_a, f_b]⟩

theorem ualuOr (d : BitVec 7) (a : BitVec 7) (b : BitVec 7) : Statement (.ualuOr d a b) := by
  intro _ n h
  obtain ⟨hn, major, b0, f_d, f_a, f_b⟩ := shape0 (M := 64) (v0 := 7) rfl (by decide) (by decide) (Option.some.inj h)
  exact ⟨hn, by rw [pick_uni0 major]; simp [Decode.uni0, b0, f_d, f_a, f_b]⟩

theorem ualuXor (d : BitVec 7) (a : BitVec 7) (b : BitVec 7) : Statement (.ualuXor d a b) := by
  intro _ n h
  obtain ⟨hn, major, b0, f_d, f_a, f_b⟩ := shape0 (M := 64) (v0 := 8) rfl (by decide) (by decide) (Option.some.inj h)
  exact ⟨hn, by rw [pick_uni0 major]; simp [Decode.uni0, b0, f_d, f_a, f_b]⟩

theorem ualuShl (d : BitVec 7) (a : BitVec 7) (b : BitVec 7) : Statement (.ualuShl d a b) := by
  intro _ n h
  obtain ⟨hn, major, b0, f_d, f_a, f_b⟩ := shape0 (M := 64) (v0 := 9) rfl (by decide) (by decide) (Option.some.inj h)
  exact ⟨hn, by rw [pick_uni0 major]; simp [Decode.uni0, b0, f_d, f_a, f_b]⟩

theorem ualuShr (d : BitVec 7) (a : BitVec 7) (b : BitVec 7) : Statement (.ualuShr d a b) := by
  intro _ n h
  obtain ⟨hn, major, b0, f_d, f_a, f_b⟩ := shape0 (M := 64) (v0 := 10) rfl (by decide) (by decide) (Option.some.inj h)
  exact ⟨hn, by rw [pick_uni0 major]; simp [Decode.uni0, b0, f_d, f_a, f_b]⟩

theorem ualuShra (d : BitVec 7) (a : BitVec 7) (b : BitVec 7) : Statement (.ualuShra d a b) := by
  intro _ n h
  obtain ⟨hn, major, b0, f_d, f_a, f_b⟩ := shape0 (M := 64) (v0 := 11) rfl (by decide) (by decide) (Option.some.inj h)
  exact ⟨hn, by rw [pick_uni0 major]; simp [Decode.uni0, b0, f_d, f_a, f_b]⟩

theorem uaddi (d : BitVec 7) (a : BitVec 7) (i : BitVec 11) : Statement (.uaddi d a i) := by
  intro _ n h
  obtain ⟨hn, major, f_d, f_a, f_i⟩ := shape2 (M := 65) rfl (by decide) (Option.some.inj h)
  exact ⟨hn, by rw [pick_uni1 major]; simp [Decode.uni1, f_d, f_a, f_i]⟩

theorem umovi (d : BitVec 7) (i : BitVec 18) : Statement (.umovi d i) := by
  intro _ n h
  obtain ⟨hn, major, f_d, f_i⟩ := shape6 (M := 66) rfl (by decide) (Option.some.inj h)
  exact ⟨hn, by rw [pick_uni2 major]; simp [Decode.uni2, f_d, f_i]⟩

theorem uaddx (d : BitVec 7) (a : BitVec 7) (b : BitVec 7) : Statement (.uaddx d a b) := by
  intro _ n h
  obtain ⟨hn, major, b0, f_d, f_a, f_b⟩ := shape0 (M := 67) (v0 := 0) rfl (by decide) (by decide) (Option.some.inj h)
  exact ⟨hn, by rw [pick_uni3 major]; simp [Decode.uni3, b0, f_d, f_a, f_b]⟩

theorem usubx (d : BitVec 7) (a : BitVec 7) (b : BitVec 7) : Statement (.usubx d a b) := by
  intro _ n h
  obtain ⟨hn, major, b0, f_d, f_a, f_b⟩ := shape0 (M := 67) (v0 := 1) rfl (by decide) (by decide) (Option.some.inj h)
  exact ⟨hn, by rw [pick_uni3 major]; simp [Decode.uni3, b0, f_d, f_a, f_b]⟩

theorem umulw (d : BitVec 7) (a : BitVec 7) (b : BitVec 7) : Statement (.umulw d a b) := by
  intro _ n h
  obtain ⟨hn, major, b0, f_d, f_a, f_b⟩ := shape0 (M := 67) (v0 := 2) rfl (by decide) (by decide) (Option.some.inj h)
  exact ⟨hn, by rw [pick_uni3 major]; simp [Decode.uni3, b0, f_d, f_a, f_b]⟩

theorem ulea (d : BitVec 7) (a : BitVec 7) (b : BitVec 7) (s : BitVec 2) : Statement (.ulea d a b s) := by
  intro _ n h
  obtain ⟨hn, major, b0, f_d, f_a, f_b, f_s⟩ := shape18 (M := 67) (v0 := 3) rfl (by decide) (by decide) (Option.some.inj h)
  have low : Decode.bits n 0 4 = 3 ∨ Decode.bits n 0 4 = 7 ∨ Decode.bits n 0 4 = 11 ∨ Decode.bits n 0 4 = 15 := by
    unfold Decode.bits at *; omega
  exact ⟨hn, by rw [pick_uni3 major]; rcases low with low | low | low | low <;> simp [Decode.uni3, low, b0, f_d, f_a, f_b, f_s]⟩

theorem ucmp (d : BitVec 7) (a : BitVec 7) (b : BitVec 7) (c : BitVec 4) : Statement (.ucmp d a b c) := by
  intro _ n h
  obtain ⟨hn, major, f_d, f_a, f_b, f_c⟩ := shape7 (M := 68) rfl (by decide) (Option.some.inj h)
  exact ⟨hn, by rw [pick_uni4 major]; simp [Decode.uni4, f_d, f_a, f_b, f_c]⟩

theorem ucmpi (d : BitVec 7) (a : BitVec 7) (c : BitVec 4) (i : BitVec 7) : Statement (.ucmpi d a c i) := by
  intro _ n h
  obtain ⟨hn, major, f_d, f_a, f_c, f_i⟩ := shape8 (M := 69) rfl (by decide) (Option.some.inj h)
  exact ⟨hn, by rw [pick_uni5 major]; simp [Decode.uni5, f_d, f_a, f_c, f_i]⟩

theorem bra (p : BitVec 5) (m : BitVec 2) (o : BitVec 18) : Statement (.bra p m o) := by
  intro _ n h
  obtain ⟨hn, major, f_p, f_m, f_o⟩ := shape19 (M := 70) rfl (by decide) (Option.some.inj h)
  exact ⟨hn, by rw [pick_uni6 major]; simp [Decode.uni6, f_p, f_m, f_o]⟩

theorem call (o : BitVec 18) : Statement (.call o) := by
  intro _ n h
  obtain ⟨hn, major, b0, f_o⟩ := shape20 (M := 71) (v0 := 124) rfl (by decide) (by decide) (Option.some.inj h)
  exact ⟨hn, by rw [pick_uni7 major]; simp [Decode.uni7, b0, f_o]⟩

theorem nop : Statement (.nop) := by
  intro _ n h
  obtain ⟨hn, major, b0, b1⟩ := shape21 (M := 72) (v0 := 0) (v1 := 0) rfl (by decide) (by decide) (by decide) (Option.some.inj h)
  exact ⟨hn, by rw [pick_uni8 major]; simp [Decode.uni8, b0, b1]⟩

theorem exit : Statement (.exit) := by
  intro _ n h
  obtain ⟨hn, major, b0, b1⟩ := shape21 (M := 72) (v0 := 1) (v1 := 0) rfl (by decide) (by decide) (by decide) (Option.some.inj h)
  exact ⟨hn, by rw [pick_uni8 major]; simp [Decode.uni8, b0, b1]⟩

theorem yield : Statement (.yield) := by
  intro _ n h
  obtain ⟨hn, major, b0, b1⟩ := shape21 (M := 72) (v0 := 2) (v1 := 0) rfl (by decide) (by decide) (by decide) (Option.some.inj h)
  exact ⟨hn, by rw [pick_uni8 major]; simp [Decode.uni8, b0, b1]⟩

theorem brk : Statement (.brk) := by
  intro _ n h
  obtain ⟨hn, major, b0, b1⟩ := shape21 (M := 72) (v0 := 3) (v1 := 0) rfl (by decide) (by decide) (by decide) (Option.some.inj h)
  exact ⟨hn, by rw [pick_uni8 major]; simp [Decode.uni8, b0, b1]⟩

theorem trap (a : BitVec 7) : Statement (.trap a) := by
  intro _ n h
  obtain ⟨hn, major, b0, b1, b2, f_a⟩ := shape5 (M := 72) (v0 := 4) (v1 := 0) (v2 := 0) rfl (by decide) (by decide) (by decide) (by decide) (Option.some.inj h)
  exact ⟨hn, by rw [pick_uni8 major]; simp [Decode.uni8, b0, b1, b2, f_a]⟩

theorem ret (a : BitVec 7) : Statement (.ret a) := by
  intro _ n h
  obtain ⟨hn, major, b0, b1, b2, f_a⟩ := shape5 (M := 72) (v0 := 5) (v1 := 0) (v2 := 0) rfl (by decide) (by decide) (by decide) (by decide) (Option.some.inj h)
  exact ⟨hn, by rw [pick_uni8 major]; simp [Decode.uni8, b0, b1, b2, f_a]⟩

theorem brr (a : BitVec 7) : Statement (.brr a) := by
  intro _ n h
  obtain ⟨hn, major, b0, b1, b2, f_a⟩ := shape5 (M := 72) (v0 := 6) (v1 := 0) (v2 := 0) rfl (by decide) (by decide) (by decide) (by decide) (Option.some.inj h)
  exact ⟨hn, by rw [pick_uni8 major]; simp [Decode.uni8, b0, b1, b2, f_a]⟩

theorem callr (a : BitVec 7) : Statement (.callr a) := by
  intro _ n h
  obtain ⟨hn, major, b0, b1, b2, f_a⟩ := shape5 (M := 72) (v0 := 7) (v1 := 0) (v2 := 0) rfl (by decide) (by decide) (by decide) (by decide) (Option.some.inj h)
  exact ⟨hn, by rw [pick_uni8 major]; simp [Decode.uni8, b0, b1, b2, f_a]⟩

theorem sread (d : BitVec 7) (n : BitVec 7) : Statement (.sread d n) := by
  intro _ word h
  obtain ⟨hn, major, b0, b1, f_d, f_n⟩ := shape22 (M := 73) (v0 := 0) (v1 := 0) rfl (by decide) (by decide) (by decide) (Option.some.inj h)
  exact ⟨hn, by rw [pick_uni9 major]; simp [Decode.uni9, b0, b1, f_d, f_n]⟩

theorem swrite (a : BitVec 7) (n : BitVec 7) : Statement (.swrite a n) := by
  intro _ word h
  obtain ⟨hn, major, b0, b1, f_a, f_n⟩ := shape23 (M := 73) (v0 := 1) (v1 := 0) rfl (by decide) (by decide) (by decide) (Option.some.inj h)
  exact ⟨hn, by rw [pick_uni9 major]; simp [Decode.uni9, b0, b1, f_a, f_n]⟩

theorem rquota (a : BitVec 7) (b : BitVec 7) : Statement (.rquota a b) := by
  intro _ n h
  obtain ⟨hn, major, b0, b1, f_a, f_b⟩ := shape23 (M := 73) (v0 := 2) (v1 := 0) rfl (by decide) (by decide) (by decide) (Option.some.inj h)
  exact ⟨hn, by rw [pick_uni9 major]; simp [Decode.uni9, b0, b1, f_a, f_b]⟩

theorem rdlane (d : BitVec 7) (a : BitVec 7) (b : BitVec 7) : Statement (.rdlane d a b) := by
  intro _ n h
  obtain ⟨hn, major, b0, f_d, f_a, f_b⟩ := shape0 (M := 73) (v0 := 3) rfl (by decide) (by decide) (Option.some.inj h)
  exact ⟨hn, by rw [pick_uni9 major]; simp [Decode.uni9, b0, f_d, f_a, f_b]⟩

theorem wrlane (d : BitVec 7) (a : BitVec 7) (b : BitVec 7) : Statement (.wrlane d a b) := by
  intro _ n h
  obtain ⟨hn, major, b0, f_d, f_a, f_b⟩ := shape0 (M := 73) (v0 := 4) rfl (by decide) (by decide) (Option.some.inj h)
  exact ⟨hn, by rw [pick_uni9 major]; simp [Decode.uni9, b0, f_d, f_a, f_b]⟩

theorem rjset (j : BitVec 7) : Statement (.rjset j) := by
  intro _ n h
  obtain ⟨hn, major, b0, b1, b2, f_j⟩ := shape5 (M := 74) (v0 := 0) (v1 := 0) (v2 := 0) rfl (by decide) (by decide) (by decide) (by decide) (Option.some.inj h)
  exact ⟨hn, by rw [pick_uni10 major]; simp [Decode.uni10, b0, b1, b2, f_j]⟩

theorem rjwait (j : BitVec 7) : Statement (.rjwait j) := by
  intro _ n h
  obtain ⟨hn, major, b0, b1, b2, f_j⟩ := shape5 (M := 74) (v0 := 1) (v1 := 0) (v2 := 0) rfl (by decide) (by decide) (by decide) (by decide) (Option.some.inj h)
  exact ⟨hn, by rw [pick_uni10 major]; simp [Decode.uni10, b0, b1, b2, f_j]⟩

theorem rjclr (j : BitVec 7) : Statement (.rjclr j) := by
  intro _ n h
  obtain ⟨hn, major, b0, b1, b2, f_j⟩ := shape5 (M := 74) (v0 := 2) (v1 := 0) (v2 := 0) rfl (by decide) (by decide) (by decide) (by decide) (Option.some.inj h)
  exact ⟨hn, by rw [pick_uni10 major]; simp [Decode.uni10, b0, b1, b2, f_j]⟩

theorem rjread (d : BitVec 7) (j : BitVec 7) : Statement (.rjread d j) := by
  intro _ n h
  obtain ⟨hn, major, b0, b1, f_d, f_j⟩ := shape1 (M := 74) (v0 := 3) (v1 := 0) rfl (by decide) (by decide) (by decide) (Option.some.inj h)
  exact ⟨hn, by rw [pick_uni10 major]; simp [Decode.uni10, b0, b1, f_d, f_j]⟩

theorem barTeam : Statement (.barTeam) := by
  intro _ n h
  obtain ⟨hn, major, b0, b1⟩ := shape21 (M := 75) (v0 := 0) (v1 := 0) rfl (by decide) (by decide) (by decide) (Option.some.inj h)
  exact ⟨hn, by rw [pick_uni11 major]; simp [Decode.uni11, b0, b1]⟩

theorem barCluster : Statement (.barCluster) := by
  intro _ n h
  obtain ⟨hn, major, b0, b1⟩ := shape21 (M := 75) (v0 := 1) (v1 := 0) rfl (by decide) (by decide) (by decide) (Option.some.inj h)
  exact ⟨hn, by rw [pick_uni11 major]; simp [Decode.uni11, b0, b1]⟩

theorem arriveTeam : Statement (.arriveTeam) := by
  intro _ n h
  obtain ⟨hn, major, b0, b1⟩ := shape21 (M := 75) (v0 := 2) (v1 := 0) rfl (by decide) (by decide) (by decide) (Option.some.inj h)
  exact ⟨hn, by rw [pick_uni11 major]; simp [Decode.uni11, b0, b1]⟩

theorem waitTeam : Statement (.waitTeam) := by
  intro _ n h
  obtain ⟨hn, major, b0, b1⟩ := shape21 (M := 75) (v0 := 3) (v1 := 0) rfl (by decide) (by decide) (by decide) (Option.some.inj h)
  exact ⟨hn, by rw [pick_uni11 major]; simp [Decode.uni11, b0, b1]⟩

theorem arriveCluster : Statement (.arriveCluster) := by
  intro _ n h
  obtain ⟨hn, major, b0, b1⟩ := shape21 (M := 75) (v0 := 4) (v1 := 0) rfl (by decide) (by decide) (by decide) (Option.some.inj h)
  exact ⟨hn, by rw [pick_uni11 major]; simp [Decode.uni11, b0, b1]⟩

theorem waitCluster : Statement (.waitCluster) := by
  intro _ n h
  obtain ⟨hn, major, b0, b1⟩ := shape21 (M := 75) (v0 := 5) (v1 := 0) rfl (by decide) (by decide) (by decide) (Option.some.inj h)
  exact ⟨hn, by rw [pick_uni11 major]; simp [Decode.uni11, b0, b1]⟩

theorem fence (k : BitVec 4) : Statement (.fence k) := by
  intro _ n h
  obtain ⟨hn, major, b0, f_k⟩ := shape24 (M := 76) (v0 := 0) rfl (by decide) (by decide) (Option.some.inj h)
  exact ⟨hn, by rw [pick_uni12 major]; simp [Decode.uni12, b0, f_k]⟩

theorem boinit (a : BitVec 7) : Statement (.boinit a) := by
  intro _ n h
  obtain ⟨hn, major, b0, b1, b2, f_a⟩ := shape5 (M := 77) (v0 := 0) (v1 := 0) (v2 := 0) rfl (by decide) (by decide) (by decide) (by decide) (Option.some.inj h)
  exact ⟨hn, by rw [pick_uni13 major]; simp [Decode.uni13, b0, b1, b2, f_a]⟩

theorem boexp (a : BitVec 7) (b : BitVec 7) : Statement (.boexp a b) := by
  intro _ n h
  obtain ⟨hn, major, b0, b1, f_a, f_b⟩ := shape23 (M := 77) (v0 := 1) (v1 := 0) rfl (by decide) (by decide) (by decide) (Option.some.inj h)
  exact ⟨hn, by rw [pick_uni13 major]; simp [Decode.uni13, b0, b1, f_a, f_b]⟩

theorem boarr (a : BitVec 7) (b : BitVec 7) : Statement (.boarr a b) := by
  intro _ n h
  obtain ⟨hn, major, b0, b1, f_a, f_b⟩ := shape23 (M := 77) (v0 := 2) (v1 := 0) rfl (by decide) (by decide) (by decide) (Option.some.inj h)
  exact ⟨hn, by rw [pick_uni13 major]; simp [Decode.uni13, b0, b1, f_a, f_b]⟩

theorem bowait (d : BitVec 7) (a : BitVec 7) (b : BitVec 7) : Statement (.bowait d a b) := by
  intro _ n h
  obtain ⟨hn, major, b0, f_d, f_a, f_b⟩ := shape0 (M := 77) (v0 := 3) rfl (by decide) (by decide) (Option.some.inj h)
  exact ⟨hn, by rw [pick_uni13 major]; simp [Decode.uni13, b0, f_d, f_a, f_b]⟩

theorem botest (d : BitVec 7) (a : BitVec 7) (b : BitVec 7) : Statement (.botest d a b) := by
  intro _ n h
  obtain ⟨hn, major, b0, f_d, f_a, f_b⟩ := shape0 (M := 77) (v0 := 4) rfl (by decide) (by decide) (Option.some.inj h)
  exact ⟨hn, by rw [pick_uni13 major]; simp [Decode.uni13, b0, f_d, f_a, f_b]⟩

theorem bofault (a : BitVec 7) (b : BitVec 7) : Statement (.bofault a b) := by
  intro _ n h
  obtain ⟨hn, major, b0, b1, f_a, f_b⟩ := shape23 (M := 77) (v0 := 5) (v1 := 0) rfl (by decide) (by decide) (by decide) (Option.some.inj h)
  exact ⟨hn, by rw [pick_uni13 major]; simp [Decode.uni13, b0, b1, f_a, f_b]⟩

theorem tkinit (a : BitVec 7) : Statement (.tkinit a) := by
  intro _ n h
  obtain ⟨hn, major, b0, b1, b2, f_a⟩ := shape5 (M := 78) (v0 := 0) (v1 := 0) (v2 := 0) rfl (by decide) (by decide) (by decide) (by decide) (Option.some.inj h)
  exact ⟨hn, by rw [pick_uni14 major]; simp [Decode.uni14, b0, b1, b2, f_a]⟩

theorem tkget (d : BitVec 7) (a : BitVec 7) (b : BitVec 7) : Statement (.tkget d a b) := by
  intro _ n h
  obtain ⟨hn, major, b0, f_d, f_a, f_b⟩ := shape0 (M := 78) (v0 := 1) rfl (by decide) (by decide) (Option.some.inj h)
  exact ⟨hn, by rw [pick_uni14 major]; simp [Decode.uni14, b0, f_d, f_a, f_b]⟩

theorem tkwait (d : BitVec 7) (a : BitVec 7) (b : BitVec 7) : Statement (.tkwait d a b) := by
  intro _ n h
  obtain ⟨hn, major, b0, f_d, f_a, f_b⟩ := shape0 (M := 78) (v0 := 2) rfl (by decide) (by decide) (Option.some.inj h)
  exact ⟨hn, by rw [pick_uni14 major]; simp [Decode.uni14, b0, f_d, f_a, f_b]⟩

theorem tknext (d : BitVec 7) (a : BitVec 7) : Statement (.tknext d a) := by
  intro _ n h
  obtain ⟨hn, major, b0, b1, f_d, f_a⟩ := shape1 (M := 78) (v0 := 3) (v1 := 0) rfl (by decide) (by decide) (by decide) (Option.some.inj h)
  exact ⟨hn, by rw [pick_uni14 major]; simp [Decode.uni14, b0, b1, f_d, f_a]⟩

theorem dqinit (a : BitVec 7) (b : BitVec 7) : Statement (.dqinit a b) := by
  intro _ n h
  obtain ⟨hn, major, b0, b1, f_a, f_b⟩ := shape23 (M := 79) (v0 := 0) (v1 := 0) rfl (by decide) (by decide) (by decide) (Option.some.inj h)
  exact ⟨hn, by rw [pick_uni15 major]; simp [Decode.uni15, b0, b1, f_a, f_b]⟩

theorem dqpush (d : BitVec 7) (a : BitVec 7) (b : BitVec 7) : Statement (.dqpush d a b) := by
  intro _ n h
  obtain ⟨hn, major, b0, f_d, f_a, f_b⟩ := shape0 (M := 79) (v0 := 1) rfl (by decide) (by decide) (Option.some.inj h)
  exact ⟨hn, by rw [pick_uni15 major]; simp [Decode.uni15, b0, f_d, f_a, f_b]⟩

theorem dqpop (d : BitVec 7) (a : BitVec 7) : Statement (.dqpop d a) := by
  intro _ n h
  obtain ⟨hn, major, b0, b1, f_d, f_a⟩ := shape1 (M := 79) (v0 := 2) (v1 := 0) rfl (by decide) (by decide) (by decide) (Option.some.inj h)
  exact ⟨hn, by rw [pick_uni15 major]; simp [Decode.uni15, b0, b1, f_d, f_a]⟩

theorem dqsteal (d : BitVec 7) (a : BitVec 7) : Statement (.dqsteal d a) := by
  intro _ n h
  obtain ⟨hn, major, b0, b1, f_d, f_a⟩ := shape1 (M := 79) (v0 := 3) (v1 := 0) rfl (by decide) (by decide) (by decide) (Option.some.inj h)
  exact ⟨hn, by rw [pick_uni15 major]; simp [Decode.uni15, b0, b1, f_d, f_a]⟩

theorem arflush : Statement (.arflush) := by
  intro _ n h
  obtain ⟨hn, major, b0, b1⟩ := shape21 (M := 80) (v0 := 0) (v1 := 0) rfl (by decide) (by decide) (by decide) (Option.some.inj h)
  exact ⟨hn, by rw [pick_uni16 major]; simp [Decode.uni16, b0, b1]⟩

theorem arstat (d : BitVec 7) : Statement (.arstat d) := by
  intro _ n h
  obtain ⟨hn, major, b0, b1, f_d⟩ := shape4 (M := 80) (v0 := 1) (v1 := 0) rfl (by decide) (by decide) (by decide) (Option.some.inj h)
  exact ⟨hn, by rw [pick_uni16 major]; simp [Decode.uni16, b0, b1, f_d]⟩

theorem wpread (d : BitVec 7) (a : BitVec 7) : Statement (.wpread d a) := by
  intro _ n h
  obtain ⟨hn, major, b0, b1, f_d, f_a⟩ := shape1 (M := 81) (v0 := 0) (v1 := 0) rfl (by decide) (by decide) (by decide) (Option.some.inj h)
  exact ⟨hn, by rw [pick_uni17 major]; simp [Decode.uni17, b0, b1, f_d, f_a]⟩

theorem wpwait (d : BitVec 7) (a : BitVec 7) (b : BitVec 7) : Statement (.wpwait d a b) := by
  intro _ n h
  obtain ⟨hn, major, b0, f_d, f_a, f_b⟩ := shape0 (M := 81) (v0 := 1) rfl (by decide) (by decide) (Option.some.inj h)
  exact ⟨hn, by rw [pick_uni17 major]; simp [Decode.uni17, b0, f_d, f_a, f_b]⟩

theorem tconf (n : BitVec 7) (a : BitVec 7) : Statement (.tconf n a) := by
  intro _ word h
  obtain ⟨hn, major, b0, b1, f_n, f_a⟩ := shape1 (M := 82) (v0 := 0) (v1 := 0) rfl (by decide) (by decide) (by decide) (Option.some.inj h)
  exact ⟨hn, by rw [pick_uni18 major]; simp [Decode.uni18, b0, b1, f_n, f_a]⟩

theorem tcread (d : BitVec 7) (n : BitVec 7) : Statement (.tcread d n) := by
  intro _ word h
  obtain ⟨hn, major, b0, b1, f_d, f_n⟩ := shape1 (M := 82) (v0 := 1) (v1 := 0) rfl (by decide) (by decide) (by decide) (Option.some.inj h)
  exact ⟨hn, by rw [pick_uni18 major]; simp [Decode.uni18, b0, b1, f_d, f_n]⟩

theorem tzero (n : BitVec 7) : Statement (.tzero n) := by
  intro _ word h
  obtain ⟨hn, major, b0, b1, f_n⟩ := shape4 (M := 82) (v0 := 2) (v1 := 0) rfl (by decide) (by decide) (by decide) (Option.some.inj h)
  exact ⟨hn, by rw [pick_uni18 major]; simp [Decode.uni18, b0, b1, f_n]⟩

theorem tld (t : BitVec 4) (p : BitVec 7) (k : BitVec 7) : Statement (.tld t p k) := by
  intro _ n h
  obtain ⟨hn, major, b0, b1, f_t, f_p, f_k⟩ := shape25 (M := 83) (v0 := 0) (v1 := 0) rfl (by decide) (by decide) (by decide) (Option.some.inj h)
  exact ⟨hn, by rw [pick_uni19 major]; simp [Decode.uni19, b0, b1, f_t, f_p, f_k]⟩

theorem tst (t : BitVec 4) (p : BitVec 7) (k : BitVec 7) : Statement (.tst t p k) := by
  intro _ n h
  obtain ⟨hn, major, b0, b1, f_t, f_p, f_k⟩ := shape25 (M := 83) (v0 := 1) (v1 := 0) rfl (by decide) (by decide) (by decide) (Option.some.inj h)
  exact ⟨hn, by rw [pick_uni19 major]; simp [Decode.uni19, b0, b1, f_t, f_p, f_k]⟩

theorem tldt (t : BitVec 4) (p : BitVec 7) (k : BitVec 7) : Statement (.tldt t p k) := by
  intro _ n h
  obtain ⟨hn, major, b0, b1, f_t, f_p, f_k⟩ := shape25 (M := 83) (v0 := 2) (v1 := 0) rfl (by decide) (by decide) (by decide) (Option.some.inj h)
  exact ⟨hn, by rw [pick_uni19 major]; simp [Decode.uni19, b0, b1, f_t, f_p, f_k]⟩

theorem mma (d : BitVec 4) (a : BitVec 4) (b : BitVec 4) (s : BitVec 3) (u : BitVec 6) : Statement (.mma d a b s u) := by
  intro _ n h
  obtain ⟨hn, major, b0, f_d, f_a, f_b, f_s, f_u⟩ := shape26 (M := 84) (v0 := 0) rfl (by decide) (by decide) (Option.some.inj h)
  exact ⟨hn, by rw [pick_uni20 major]; simp [Decode.uni20, b0, f_d, f_a, f_b, f_s, f_u]⟩

theorem mmaq (d : BitVec 4) (a : BitVec 4) (b : BitVec 4) (s : BitVec 3) (u : BitVec 6) : Statement (.mmaq d a b s u) := by
  intro _ n h
  obtain ⟨hn, major, b0, f_d, f_a, f_b, f_s, f_u⟩ := shape26 (M := 84) (v0 := 1) rfl (by decide) (by decide) (Option.some.inj h)
  exact ⟨hn, by rw [pick_uni20 major]; simp [Decode.uni20, b0, f_d, f_a, f_b, f_s, f_u]⟩

theorem mmat (d : BitVec 4) (a : BitVec 4) (b : BitVec 4) (s : BitVec 3) (u : BitVec 6) : Statement (.mmat d a b s u) := by
  intro _ n h
  obtain ⟨hn, major, b0, f_d, f_a, f_b, f_s, f_u⟩ := shape26 (M := 84) (v0 := 2) rfl (by decide) (by decide) (Option.some.inj h)
  exact ⟨hn, by rw [pick_uni20 major]; simp [Decode.uni20, b0, f_d, f_a, f_b, f_s, f_u]⟩

theorem mmab (d : BitVec 4) (a : BitVec 4) (b : BitVec 4) (s : BitVec 3) (u : BitVec 6) : Statement (.mmab d a b s u) := by
  intro _ n h
  obtain ⟨hn, major, b0, f_d, f_a, f_b, f_s, f_u⟩ := shape26 (M := 84) (v0 := 3) rfl (by decide) (by decide) (Option.some.inj h)
  exact ⟨hn, by rw [pick_uni20 major]; simp [Decode.uni20, b0, f_d, f_a, f_b, f_s, f_u]⟩

theorem tcvt (d : BitVec 4) (a : BitVec 4) (b : BitVec 4) (s : BitVec 3) (u : BitVec 6) : Statement (.tcvt d a b s u) := by
  intro _ n h
  obtain ⟨hn, major, b0, f_d, f_a, f_b, f_s, f_u⟩ := shape26 (M := 85) (v0 := 0) rfl (by decide) (by decide) (Option.some.inj h)
  exact ⟨hn, by rw [pick_uni21 major]; simp [Decode.uni21, b0, f_d, f_a, f_b, f_s, f_u]⟩

theorem trmax (d : BitVec 4) (a : BitVec 4) (b : BitVec 4) (s : BitVec 3) (u : BitVec 6) : Statement (.trmax d a b s u) := by
  intro _ n h
  obtain ⟨hn, major, b0, f_d, f_a, f_b, f_s, f_u⟩ := shape26 (M := 85) (v0 := 1) rfl (by decide) (by decide) (Option.some.inj h)
  exact ⟨hn, by rw [pick_uni21 major]; simp [Decode.uni21, b0, f_d, f_a, f_b, f_s, f_u]⟩

theorem trsum (d : BitVec 4) (a : BitVec 4) (b : BitVec 4) (s : BitVec 3) (u : BitVec 6) : Statement (.trsum d a b s u) := by
  intro _ n h
  obtain ⟨hn, major, b0, f_d, f_a, f_b, f_s, f_u⟩ := shape26 (M := 85) (v0 := 2) rfl (by decide) (by decide) (Option.some.inj h)
  exact ⟨hn, by rw [pick_uni21 major]; simp [Decode.uni21, b0, f_d, f_a, f_b, f_s, f_u]⟩

theorem trscl (d : BitVec 4) (a : BitVec 4) (b : BitVec 4) (s : BitVec 3) (u : BitVec 6) : Statement (.trscl d a b s u) := by
  intro _ n h
  obtain ⟨hn, major, b0, f_d, f_a, f_b, f_s, f_u⟩ := shape26 (M := 85) (v0 := 3) rfl (by decide) (by decide) (Option.some.inj h)
  exact ⟨hn, by rw [pick_uni21 major]; simp [Decode.uni21, b0, f_d, f_a, f_b, f_s, f_u]⟩

theorem texp2 (d : BitVec 4) (a : BitVec 4) (b : BitVec 4) (s : BitVec 3) (u : BitVec 6) : Statement (.texp2 d a b s u) := by
  intro _ n h
  obtain ⟨hn, major, b0, f_d, f_a, f_b, f_s, f_u⟩ := shape26 (M := 85) (v0 := 4) rfl (by decide) (by decide) (Option.some.inj h)
  exact ⟨hn, by rw [pick_uni21 major]; simp [Decode.uni21, b0, f_d, f_a, f_b, f_s, f_u]⟩

theorem tmov (d : BitVec 4) (a : BitVec 4) (b : BitVec 4) (s : BitVec 3) (u : BitVec 6) : Statement (.tmov d a b s u) := by
  intro _ n h
  obtain ⟨hn, major, b0, f_d, f_a, f_b, f_s, f_u⟩ := shape26 (M := 85) (v0 := 5) rfl (by decide) (by decide) (Option.some.inj h)
  exact ⟨hn, by rw [pick_uni21 major]; simp [Decode.uni21, b0, f_d, f_a, f_b, f_s, f_u]⟩

theorem tmask (d : BitVec 4) (a : BitVec 4) (b : BitVec 4) (s : BitVec 3) (u : BitVec 6) : Statement (.tmask d a b s u) := by
  intro _ n h
  obtain ⟨hn, major, b0, f_d, f_a, f_b, f_s, f_u⟩ := shape26 (M := 85) (v0 := 6) rfl (by decide) (by decide) (Option.some.inj h)
  exact ⟨hn, by rw [pick_uni21 major]; simp [Decode.uni21, b0, f_d, f_a, f_b, f_s, f_u]⟩

theorem cpy (d : BitVec 7) (a : BitVec 7) (w : BitVec 1) (c : BitVec 1) : Statement (.cpy d a w c) := by
  intro _ n h
  obtain ⟨hn, major, b0, b1, f_d, f_a, f_w, f_c⟩ := shape27 (M := 86) (v0 := 0) (v1 := 0) rfl (by decide) (by decide) (by decide) (Option.some.inj h)
  exact ⟨hn, by rw [pick_uni22 major]; simp [Decode.uni22, b0, b1, f_d, f_a, f_w, f_c]⟩

theorem cpym (d : BitVec 7) (a : BitVec 7) (r : BitVec 1) (c : BitVec 1) : Statement (.cpym d a r c) := by
  intro _ n h
  obtain ⟨hn, major, b0, b1, b2, f_d, f_a, f_r, f_c⟩ := shape28 (M := 86) (v0 := 1) (v1 := 0) (v2 := 0) rfl (by decide) (by decide) (by decide) (by decide) (Option.some.inj h)
  exact ⟨hn, by rw [pick_uni22 major]; simp [Decode.uni22, b0, b1, b2, f_d, f_a, f_r, f_c]⟩

theorem cpyc (d : BitVec 7) (a : BitVec 7) (w : BitVec 1) (c : BitVec 1) : Statement (.cpyc d a w c) := by
  intro _ n h
  obtain ⟨hn, major, b0, b1, f_d, f_a, f_w, f_c⟩ := shape27 (M := 86) (v0 := 2) (v1 := 0) rfl (by decide) (by decide) (by decide) (Option.some.inj h)
  exact ⟨hn, by rw [pick_uni22 major]; simp [Decode.uni22, b0, b1, f_d, f_a, f_w, f_c]⟩

theorem gath (d : BitVec 7) (a : BitVec 7) : Statement (.gath d a) := by
  intro _ n h
  obtain ⟨hn, major, b0, b1, f_d, f_a⟩ := shape1 (M := 87) (v0 := 0) (v1 := 0) rfl (by decide) (by decide) (by decide) (Option.some.inj h)
  exact ⟨hn, by rw [pick_uni23 major]; simp [Decode.uni23, b0, b1, f_d, f_a]⟩

theorem scat (d : BitVec 7) (a : BitVec 7) : Statement (.scat d a) := by
  intro _ n h
  obtain ⟨hn, major, b0, b1, f_d, f_a⟩ := shape1 (M := 87) (v0 := 1) (v1 := 0) rfl (by decide) (by decide) (by decide) (Option.some.inj h)
  exact ⟨hn, by rw [pick_uni23 major]; simp [Decode.uni23, b0, b1, f_d, f_a]⟩

theorem chain (d : BitVec 7) (a : BitVec 7) : Statement (.chain d a) := by
  intro _ n h
  obtain ⟨hn, major, b0, f_d, f_a⟩ := shape29 (M := 88) (v0 := 0) rfl (by decide) (by decide) (Option.some.inj h)
  exact ⟨hn, by rw [pick_uni24 major]; simp [Decode.uni24, b0, f_d, f_a]⟩

theorem allred (d : BitVec 7) (a : BitVec 7) : Statement (.allred d a) := by
  intro _ n h
  obtain ⟨hn, major, b0, b1, f_d, f_a⟩ := shape1 (M := 89) (v0 := 0) (v1 := 0) rfl (by decide) (by decide) (by decide) (Option.some.inj h)
  exact ⟨hn, by rw [pick_uni25 major]; simp [Decode.uni25, b0, b1, f_d, f_a]⟩

theorem allgath (d : BitVec 7) (a : BitVec 7) : Statement (.allgath d a) := by
  intro _ n h
  obtain ⟨hn, major, b0, b1, f_d, f_a⟩ := shape1 (M := 89) (v0 := 1) (v1 := 0) rfl (by decide) (by decide) (by decide) (Option.some.inj h)
  exact ⟨hn, by rw [pick_uni25 major]; simp [Decode.uni25, b0, b1, f_d, f_a]⟩

theorem redscat (d : BitVec 7) (a : BitVec 7) : Statement (.redscat d a) := by
  intro _ n h
  obtain ⟨hn, major, b0, b1, f_d, f_a⟩ := shape1 (M := 89) (v0 := 2) (v1 := 0) rfl (by decide) (by decide) (by decide) (Option.some.inj h)
  exact ⟨hn, by rw [pick_uni25 major]; simp [Decode.uni25, b0, b1, f_d, f_a]⟩

theorem bcast (d : BitVec 7) (a : BitVec 7) : Statement (.bcast d a) := by
  intro _ n h
  obtain ⟨hn, major, b0, b1, f_d, f_a⟩ := shape1 (M := 89) (v0 := 3) (v1 := 0) rfl (by decide) (by decide) (by decide) (Option.some.inj h)
  exact ⟨hn, by rw [pick_uni25 major]; simp [Decode.uni25, b0, b1, f_d, f_a]⟩

theorem svsub (d : BitVec 7) (a : BitVec 7) : Statement (.svsub d a) := by
  intro _ n h
  obtain ⟨hn, major, b0, b1, f_d, f_a⟩ := shape1 (M := 90) (v0 := 0) (v1 := 0) rfl (by decide) (by decide) (by decide) (Option.some.inj h)
  exact ⟨hn, by rw [pick_uni26 major]; simp [Decode.uni26, b0, b1, f_d, f_a]⟩

/-- An FE form whose undefined AUX bits and A field are zero is what it is. -/
theorem fe_plain {n : Nat} {k : Except DecodeError Instr} (h : Decode.bits n 4 14 = 0) : Decode.fe n (Decode.bits n 4 7) k = k := by
  have h1 : Decode.bits n 4 7 = 0 := by simp only [Decode.bits] at h ⊢; omega
  have h2 : Decode.bits n 11 7 = 0 := by simp only [Decode.bits] at h ⊢; omega
  simp [Decode.fe, h1, h2]

theorem fe_five {n : Nat} {k : Except DecodeError Instr} (h : Decode.bits n 5 13 = 0) : Decode.fe n (Decode.bits n 5 6) k = k := by
  have h1 : Decode.bits n 5 6 = 0 := by simp only [Decode.bits] at h ⊢; omega
  have h2 : Decode.bits n 11 7 = 0 := by simp only [Decode.bits] at h ⊢; omega
  simp [Decode.fe, h1, h2]

theorem fe_nine {n : Nat} {k : Except DecodeError Instr} (h : Decode.bits n 9 9 = 0) : Decode.fe n (Decode.bits n 9 2) k = k := by
  have h1 : Decode.bits n 9 2 = 0 := by simp only [Decode.bits] at h ⊢; omega
  have h2 : Decode.bits n 11 7 = 0 := by simp only [Decode.bits] at h ⊢; omega
  simp [Decode.fe, h1, h2]

theorem svsweep (d : BitVec 7) : Statement (.svsweep d) := by
  intro _ n h
  obtain ⟨hn, major, b0, b1, f_d⟩ := shape4 (M := 90) (v0 := 1) (v1 := 0) rfl (by decide) (by decide) (by decide) (Option.some.inj h)
  exact ⟨hn, by rw [pick_uni26 major]; simp [Decode.uni26, b0, fe_plain b1, f_d]⟩

theorem svpart (d : BitVec 7) : Statement (.svpart d) := by
  intro _ n h
  obtain ⟨hn, major, b0, b1, f_d⟩ := shape4 (M := 90) (v0 := 2) (v1 := 0) rfl (by decide) (by decide) (by decide) (Option.some.inj h)
  exact ⟨hn, by rw [pick_uni26 major]; simp [Decode.uni26, b0, fe_plain b1, f_d]⟩

theorem svclose (d : BitVec 7) : Statement (.svclose d) := by
  intro _ n h
  obtain ⟨hn, major, b0, b1, f_d⟩ := shape4 (M := 90) (v0 := 3) (v1 := 0) rfl (by decide) (by decide) (by decide) (Option.some.inj h)
  exact ⟨hn, by rw [pick_uni26 major]; simp [Decode.uni26, b0, fe_plain b1, f_d]⟩

theorem svstat (d : BitVec 7) : Statement (.svstat d) := by
  intro _ n h
  obtain ⟨hn, major, b0, b1, b2, b3, f_d⟩ := shape30 (M := 90) (v0 := 4) (v1 := 0) (v2 := 0) (v3 := 0) rfl (by decide) (by decide) (by decide) (by decide) (by decide) (Option.some.inj h)
  exact ⟨hn, by rw [pick_uni26 major]; simp [Decode.uni26, Decode.fe, b0, b1, b2, b3, f_d]⟩

theorem svstatDesc (d : BitVec 7) : Statement (.svstatDesc d) := by
  intro _ n h
  obtain ⟨hn, major, b0, b1, b2, b3, f_d⟩ := shape30 (M := 90) (v0 := 4) (v1 := 1) (v2 := 0) (v3 := 0) rfl (by decide) (by decide) (by decide) (by decide) (by decide) (Option.some.inj h)
  exact ⟨hn, by rw [pick_uni26 major]; simp [Decode.uni26, Decode.fe, b0, b1, b2, b3, f_d]⟩

theorem svcancel (d : BitVec 7) : Statement (.svcancel d) := by
  intro _ n h
  obtain ⟨hn, major, b0, b1, f_d⟩ := shape4 (M := 90) (v0 := 5) (v1 := 0) rfl (by decide) (by decide) (by decide) (Option.some.inj h)
  exact ⟨hn, by rw [pick_uni26 major]; simp [Decode.uni26, b0, fe_plain b1, f_d]⟩

theorem tolnode (k : BitVec 7) (a : BitVec 7) (b : BitVec 7) : Statement (.tolnode k a b) := by
  intro _ n h
  obtain ⟨hn, major, b0, f_k, f_a, f_b⟩ := shape0 (M := 91) (v0 := 0) rfl (by decide) (by decide) (Option.some.inj h)
  exact ⟨hn, by rw [pick_uni27 major]; simp [Decode.uni27, b0, f_k, f_a, f_b]⟩

theorem demand (a : BitVec 7) (b : BitVec 7) : Statement (.demand a b) := by
  intro _ n h
  obtain ⟨hn, major, b0, b1, f_a, f_b⟩ := shape23 (M := 91) (v0 := 1) (v1 := 0) rfl (by decide) (by decide) (by decide) (Option.some.inj h)
  exact ⟨hn, by rw [pick_uni27 major]; simp [Decode.uni27, b0, b1, f_a, f_b]⟩

theorem tolget (d : BitVec 7) (a : BitVec 7) : Statement (.tolget d a) := by
  intro _ n h
  obtain ⟨hn, major, b0, b1, f_d, f_a⟩ := shape1 (M := 91) (v0 := 2) (v1 := 0) rfl (by decide) (by decide) (by decide) (Option.some.inj h)
  exact ⟨hn, by rw [pick_uni27 major]; simp [Decode.uni27, b0, b1, f_d, f_a]⟩

theorem fmtsel (d : BitVec 7) (a : BitVec 7) (b : BitVec 7) : Statement (.fmtsel d a b) := by
  intro _ n h
  obtain ⟨hn, major, b0, f_d, f_a, f_b⟩ := shape0 (M := 91) (v0 := 3) rfl (by decide) (by decide) (Option.some.inj h)
  exact ⟨hn, by rw [pick_uni27 major]; simp [Decode.uni27, b0, f_d, f_a, f_b]⟩

theorem itersel (d : BitVec 7) (a : BitVec 7) (b : BitVec 7) : Statement (.itersel d a b) := by
  intro _ n h
  obtain ⟨hn, major, b0, f_d, f_a, f_b⟩ := shape0 (M := 91) (v0 := 4) rfl (by decide) (by decide) (Option.some.inj h)
  exact ⟨hn, by rw [pick_uni27 major]; simp [Decode.uni27, b0, f_d, f_a, f_b]⟩

theorem tolchk (d : BitVec 7) : Statement (.tolchk d) := by
  intro _ n h
  obtain ⟨hn, major, b0, b1, f_d⟩ := shape4 (M := 91) (v0 := 5) (v1 := 0) rfl (by decide) (by decide) (by decide) (Option.some.inj h)
  exact ⟨hn, by rw [pick_uni27 major]; simp [Decode.uni27, b0, b1, f_d]⟩

theorem tolclr (a : BitVec 7) : Statement (.tolclr a) := by
  intro _ n h
  obtain ⟨hn, major, b0, b1, b2, f_a⟩ := shape5 (M := 91) (v0 := 6) (v1 := 0) (v2 := 0) rfl (by decide) (by decide) (by decide) (by decide) (Option.some.inj h)
  exact ⟨hn, by rw [pick_uni27 major]; simp [Decode.uni27, b0, b1, b2, f_a]⟩

theorem tolclrAll : Statement (.tolclrAll) := by
  intro _ n h
  obtain ⟨hn, major, b0, b1, b2, b3⟩ := shape31 (M := 91) (v0 := 6) (v1 := 0) (v2 := 0) (v3 := 1) rfl (by decide) (by decide) (by decide) (by decide) (by decide) (Option.some.inj h)
  exact ⟨hn, by rw [pick_uni27 major]; simp [Decode.uni27, b0, b1, b2, b3]⟩

theorem launch (d : BitVec 7) : Statement (.launch d) := by
  intro _ n h
  obtain ⟨hn, major, b0, b1, f_d⟩ := shape4 (M := 92) (v0 := 0) (v1 := 0) rfl (by decide) (by decide) (by decide) (Option.some.inj h)
  exact ⟨hn, by rw [pick_uni28 major]; simp [Decode.uni28, b0, fe_plain b1, f_d]⟩

theorem launchq (d : BitVec 7) : Statement (.launchq d) := by
  intro _ n h
  obtain ⟨hn, major, b0, b1, f_d⟩ := shape4 (M := 92) (v0 := 1) (v1 := 0) rfl (by decide) (by decide) (by decide) (Option.some.inj h)
  exact ⟨hn, by rw [pick_uni28 major]; simp [Decode.uni28, b0, fe_plain b1, f_d]⟩

theorem ctxnew (d : BitVec 7) : Statement (.ctxnew d) := by
  intro _ n h
  obtain ⟨hn, major, b0, b1, f_d⟩ := shape4 (M := 93) (v0 := 0) (v1 := 0) rfl (by decide) (by decide) (by decide) (Option.some.inj h)
  exact ⟨hn, by rw [pick_uni29 major]; simp [Decode.uni29, b0, fe_plain b1, f_d]⟩

theorem ctxgrant (d : BitVec 7) (g : BitVec 5) : Statement (.ctxgrant d g) := by
  intro _ n h
  obtain ⟨hn, major, b0, b1, f_d, f_g⟩ := shape32 (M := 93) (v0 := 1) (v1 := 0) rfl (by decide) (by decide) (by decide) (Option.some.inj h)
  exact ⟨hn, by rw [pick_uni29 major]; simp [Decode.uni29, b0, fe_nine b1, f_d, f_g]⟩

theorem ctxfrz (d : BitVec 7) : Statement (.ctxfrz d) := by
  intro _ n h
  obtain ⟨hn, major, b0, b1, f_d⟩ := shape4 (M := 93) (v0 := 2) (v1 := 0) rfl (by decide) (by decide) (by decide) (Option.some.inj h)
  exact ⟨hn, by rw [pick_uni29 major]; simp [Decode.uni29, b0, fe_plain b1, f_d]⟩

theorem ctxthaw (d : BitVec 7) : Statement (.ctxthaw d) := by
  intro _ n h
  obtain ⟨hn, major, b0, b1, f_d⟩ := shape4 (M := 93) (v0 := 3) (v1 := 0) rfl (by decide) (by decide) (by decide) (Option.some.inj h)
  exact ⟨hn, by rw [pick_uni29 major]; simp [Decode.uni29, b0, fe_plain b1, f_d]⟩

theorem ctxckpt (d : BitVec 7) (t : BitVec 1) : Statement (.ctxckpt d t) := by
  intro _ n h
  obtain ⟨hn, major, b0, b1, f_d, f_t⟩ := shape33 (M := 93) (v0 := 4) (v1 := 0) rfl (by decide) (by decide) (by decide) (Option.some.inj h)
  exact ⟨hn, by rw [pick_uni29 major]; simp [Decode.uni29, b0, fe_five b1, f_d, f_t]⟩

theorem ctxrest (d : BitVec 7) : Statement (.ctxrest d) := by
  intro _ n h
  obtain ⟨hn, major, b0, b1, f_d⟩ := shape4 (M := 93) (v0 := 5) (v1 := 0) rfl (by decide) (by decide) (by decide) (Option.some.inj h)
  exact ⟨hn, by rw [pick_uni29 major]; simp [Decode.uni29, b0, fe_plain b1, f_d]⟩

theorem ctxrevk (d : BitVec 7) : Statement (.ctxrevk d) := by
  intro _ n h
  obtain ⟨hn, major, b0, b1, f_d⟩ := shape4 (M := 93) (v0 := 6) (v1 := 0) rfl (by decide) (by decide) (by decide) (Option.some.inj h)
  exact ⟨hn, by rw [pick_uni29 major]; simp [Decode.uni29, b0, fe_plain b1, f_d]⟩

theorem ctxstat (d : BitVec 7) : Statement (.ctxstat d) := by
  intro _ n h
  obtain ⟨hn, major, b0, b1, f_d⟩ := shape4 (M := 93) (v0 := 7) (v1 := 0) rfl (by decide) (by decide) (by decide) (Option.some.inj h)
  exact ⟨hn, by rw [pick_uni29 major]; simp [Decode.uni29, b0, fe_plain b1, f_d]⟩

theorem ctxdbgSetbp (d : BitVec 7) : Statement (.ctxdbgSetbp d) := by
  intro _ n h
  obtain ⟨hn, major, b0, b1, b2, b3, f_d⟩ := shape34 (M := 93) (v0 := 8) (v1 := 0) (v2 := 0) (v3 := 0) rfl (by decide) (by decide) (by decide) (by decide) (by decide) (Option.some.inj h)
  exact ⟨hn, by rw [pick_uni29 major]; simp [Decode.uni29, Decode.fe, b0, b1, b2, b3, f_d]⟩

theorem ctxdbgClrbp (d : BitVec 7) : Statement (.ctxdbgClrbp d) := by
  intro _ n h
  obtain ⟨hn, major, b0, b1, b2, b3, f_d⟩ := shape34 (M := 93) (v0 := 8) (v1 := 1) (v2 := 0) (v3 := 0) rfl (by decide) (by decide) (by decide) (by decide) (by decide) (Option.some.inj h)
  exact ⟨hn, by rw [pick_uni29 major]; simp [Decode.uni29, Decode.fe, b0, b1, b2, b3, f_d]⟩

theorem ctxdbgRdstate (d : BitVec 7) : Statement (.ctxdbgRdstate d) := by
  intro _ n h
  obtain ⟨hn, major, b0, b1, b2, b3, f_d⟩ := shape34 (M := 93) (v0 := 8) (v1 := 2) (v2 := 0) (v3 := 0) rfl (by decide) (by decide) (by decide) (by decide) (by decide) (Option.some.inj h)
  exact ⟨hn, by rw [pick_uni29 major]; simp [Decode.uni29, Decode.fe, b0, b1, b2, b3, f_d]⟩

theorem ctxdbgWrstate (d : BitVec 7) : Statement (.ctxdbgWrstate d) := by
  intro _ n h
  obtain ⟨hn, major, b0, b1, b2, b3, f_d⟩ := shape34 (M := 93) (v0 := 8) (v1 := 3) (v2 := 0) (v3 := 0) rfl (by decide) (by decide) (by decide) (by decide) (by decide) (Option.some.inj h)
  exact ⟨hn, by rw [pick_uni29 major]; simp [Decode.uni29, Decode.fe, b0, b1, b2, b3, f_d]⟩

theorem ctxdbgStep (d : BitVec 7) : Statement (.ctxdbgStep d) := by
  intro _ n h
  obtain ⟨hn, major, b0, b1, b2, b3, f_d⟩ := shape34 (M := 93) (v0 := 8) (v1 := 4) (v2 := 0) (v3 := 0) rfl (by decide) (by decide) (by decide) (by decide) (by decide) (Option.some.inj h)
  exact ⟨hn, by rw [pick_uni29 major]; simp [Decode.uni29, Decode.fe, b0, b1, b2, b3, f_d]⟩

theorem mapg (d : BitVec 7) : Statement (.mapg d) := by
  intro _ n h
  obtain ⟨hn, major, b0, b1, f_d⟩ := shape4 (M := 94) (v0 := 0) (v1 := 0) rfl (by decide) (by decide) (by decide) (Option.some.inj h)
  exact ⟨hn, by rw [pick_uni30 major]; simp [Decode.uni30, b0, fe_plain b1, f_d]⟩

theorem unmapg (d : BitVec 7) : Statement (.unmapg d) := by
  intro _ n h
  obtain ⟨hn, major, b0, b1, f_d⟩ := shape4 (M := 94) (v0 := 1) (v1 := 0) rfl (by decide) (by decide) (by decide) (Option.some.inj h)
  exact ⟨hn, by rw [pick_uni30 major]; simp [Decode.uni30, b0, fe_plain b1, f_d]⟩

theorem pinv (d : BitVec 7) : Statement (.pinv d) := by
  intro _ n h
  obtain ⟨hn, major, b0, b1, f_d⟩ := shape4 (M := 94) (v0 := 2) (v1 := 0) rfl (by decide) (by decide) (by decide) (Option.some.inj h)
  exact ⟨hn, by rw [pick_uni30 major]; simp [Decode.uni30, b0, fe_plain b1, f_d]⟩

theorem pgreq (d : BitVec 7) (w : BitVec 1) : Statement (.pgreq d w) := by
  intro _ n h
  obtain ⟨hn, major, b0, b1, f_d, f_w⟩ := shape33 (M := 94) (v0 := 3) (v1 := 0) rfl (by decide) (by decide) (by decide) (Option.some.inj h)
  exact ⟨hn, by rw [pick_uni30 major]; simp [Decode.uni30, b0, fe_five b1, f_d, f_w]⟩

theorem hqarm (d : BitVec 7) : Statement (.hqarm d) := by
  intro _ n h
  obtain ⟨hn, major, b0, b1, f_d⟩ := shape4 (M := 95) (v0 := 0) (v1 := 0) rfl (by decide) (by decide) (by decide) (Option.some.inj h)
  exact ⟨hn, by rw [pick_uni31 major]; simp [Decode.uni31, b0, b1, f_d]⟩

theorem hqdisarm (d : BitVec 7) : Statement (.hqdisarm d) := by
  intro _ n h
  obtain ⟨hn, major, b0, b1, f_d⟩ := shape4 (M := 95) (v0 := 1) (v1 := 0) rfl (by decide) (by decide) (by decide) (Option.some.inj h)
  exact ⟨hn, by rw [pick_uni31 major]; simp [Decode.uni31, b0, b1, f_d]⟩

theorem hqack (d : BitVec 7) (a : BitVec 7) (b : BitVec 7) : Statement (.hqack d a b) := by
  intro _ n h
  obtain ⟨hn, major, b0, f_d, f_a, f_b⟩ := shape0 (M := 95) (v0 := 2) rfl (by decide) (by decide) (Option.some.inj h)
  exact ⟨hn, by rw [pick_uni31 major]; simp [Decode.uni31, b0, f_d, f_a, f_b]⟩

theorem uld (d : BitVec 7) (a : BitVec 7) (z : BitVec 3) (o : BitVec 2) (k : BitVec 3) : Statement (.uld d a z o k) := by
  intro _ n h
  obtain ⟨hn, major, b0, f_d, f_a, f_z, f_o, f_k⟩ := shape12 (M := 96) (v0 := 0) rfl (by decide) (by decide) (Option.some.inj h)
  exact ⟨hn, by rw [pick_uni32 major]; simp [Decode.uni32, b0, f_d, f_a, f_z, f_o, f_k]⟩

theorem ust (d : BitVec 7) (a : BitVec 7) (z : BitVec 3) (o : BitVec 2) (k : BitVec 3) : Statement (.ust d a z o k) := by
  intro _ n h
  obtain ⟨hn, major, b0, f_d, f_a, f_z, f_o, f_k⟩ := shape12 (M := 97) (v0 := 0) rfl (by decide) (by decide) (Option.some.inj h)
  exact ⟨hn, by rw [pick_uni33 major]; simp [Decode.uni33, b0, f_d, f_a, f_z, f_o, f_k]⟩

theorem uatom (d : BitVec 7) (a : BitVec 7) (b : BitVec 7) (o : BitVec 4) : Statement (.uatom d a b o) := by
  intro _ n h
  obtain ⟨hn, major, f_d, f_a, f_b, f_o⟩ := shape7 (M := 98) rfl (by decide) (Option.some.inj h)
  exact ⟨hn, by rw [pick_uni34 major]; simp [Decode.uni34, f_d, f_a, f_b, f_o]⟩

theorem xsco (s : BitVec 3) (o : BitVec 2) : Statement (.xsco s o) := by
  intro _ n h
  obtain ⟨hn, major, b0, f_s, f_o⟩ := shape35 (M := 124) (v0 := 0) rfl (by decide) (by decide) (Option.some.inj h)
  exact ⟨hn, by rw [pick_uni60 major]; simp [Decode.uni60, b0, f_s, f_o]⟩

theorem xmod (a : BitVec 7) (b : BitVec 7) (w : BitVec 2) (i : BitVec 3) (t : BitVec 2) (r : BitVec 3) (s : BitVec 1) : Statement (.xmod a b w i t r s) := by
  intro _ n h
  obtain ⟨hn, major, f_a, f_b, f_w, f_i, f_t, f_r, f_s⟩ := shape36 (M := 125) rfl (by decide) (Option.some.inj h)
  exact ⟨hn, by rw [pick_uni61 major]; simp [Decode.uni61, f_a, f_b, f_w, f_i, f_t, f_r, f_s]⟩

theorem ximm (x : BitVec 25) : Statement (.ximm x) := by
  intro _ n h
  obtain ⟨hn, major, f_x⟩ := shape37 (M := 126) rfl (by decide) (Option.some.inj h)
  exact ⟨hn, by rw [pick_uni62 major]; simp [Decode.uni62, f_x]⟩

end Sys2Proof.Laws.Encoding
end

