-- ==== Sys2Proof/Laws/State.lean ====
section
/-! SUPPORT. What each named update of the state leaves and what it writes: one lemma for each field, true by unfolding. -/
namespace Sys2Proof.Machine

/-! ### State.updGroup -/

@[simp] theorem State.updGroup_mem (s : State) (i : Nat) (f : Group → Group) : (s.updGroup i f).mem = s.mem := rfl
@[simp] theorem State.updGroup_groups (s : State) (i : Nat) (f : Group → Group) : (s.updGroup i f).groups = s.groups.map (fun g => if g.gid = i then f g else g) := rfl
@[simp] theorem State.updGroup_teams (s : State) (i : Nat) (f : Group → Group) : (s.updGroup i f).teams = s.teams := rfl
@[simp] theorem State.updGroup_clusters (s : State) (i : Nat) (f : Group → Group) : (s.updGroup i f).clusters = s.clusters := rfl
@[simp] theorem State.updGroup_grids (s : State) (i : Nat) (f : Group → Group) : (s.updGroup i f).grids = s.grids := rfl
@[simp] theorem State.updGroup_ops (s : State) (i : Nat) (f : Group → Group) : (s.updGroup i f).ops = s.ops := rfl
@[simp] theorem State.updGroup_commands (s : State) (i : Nat) (f : Group → Group) : (s.updGroup i f).commands = s.commands := rfl
@[simp] theorem State.updGroup_surveys (s : State) (i : Nat) (f : Group → Group) : (s.updGroup i f).surveys = s.surveys := rfl
@[simp] theorem State.updGroup_notices (s : State) (i : Nat) (f : Group → Group) : (s.updGroup i f).notices = s.notices := rfl
@[simp] theorem State.updGroup_armedTickets (s : State) (i : Nat) (f : Group → Group) : (s.updGroup i f).armedTickets = s.armedTickets := rfl
@[simp] theorem State.updGroup_insets (s : State) (i : Nat) (f : Group → Group) : (s.updGroup i f).insets = s.insets := rfl
@[simp] theorem State.updGroup_projections (s : State) (i : Nat) (f : Group → Group) : (s.updGroup i f).projections = s.projections := rfl
@[simp] theorem State.updGroup_records (s : State) (i : Nat) (f : Group → Group) : (s.updGroup i f).records = s.records := rfl
@[simp] theorem State.updGroup_outstanding (s : State) (i : Nat) (f : Group → Group) : (s.updGroup i f).outstanding = s.outstanding := rfl
@[simp] theorem State.updGroup_doorbells (s : State) (i : Nat) (f : Group → Group) : (s.updGroup i f).doorbells = s.doorbells := rfl
@[simp] theorem State.updGroup_slots (s : State) (i : Nat) (f : Group → Group) : (s.updGroup i f).slots = s.slots := rfl
@[simp] theorem State.updGroup_pendingWrites (s : State) (i : Nat) (f : Group → Group) : (s.updGroup i f).pendingWrites = s.pendingWrites := rfl
@[simp] theorem State.updGroup_markers (s : State) (i : Nat) (f : Group → Group) : (s.updGroup i f).markers = s.markers := rfl
@[simp] theorem State.updGroup_hotness (s : State) (i : Nat) (f : Group → Group) : (s.updGroup i f).hotness = s.hotness := rfl
@[simp] theorem State.updGroup_ctl (s : State) (i : Nat) (f : Group → Group) : (s.updGroup i f).ctl = s.ctl := rfl
@[simp] theorem State.updGroup_fabric (s : State) (i : Nat) (f : Group → Group) : (s.updGroup i f).fabric = s.fabric := rfl
@[simp] theorem State.updGroup_power (s : State) (i : Nat) (f : Group → Group) : (s.updGroup i f).power = s.power := rfl
@[simp] theorem State.updGroup_security (s : State) (i : Nat) (f : Group → Group) : (s.updGroup i f).security = s.security := rfl
@[simp] theorem State.updGroup_torus (s : State) (i : Nat) (f : Group → Group) : (s.updGroup i f).torus = s.torus := rfl
@[simp] theorem State.updGroup_handles (s : State) (i : Nat) (f : Group → Group) : (s.updGroup i f).handles = s.handles := rfl
@[simp] theorem State.updGroup_refill (s : State) (i : Nat) (f : Group → Group) : (s.updGroup i f).refill = s.refill := rfl
@[simp] theorem State.updGroup_aged (s : State) (i : Nat) (f : Group → Group) : (s.updGroup i f).aged = s.aged := rfl
@[simp] theorem State.updGroup_cycle (s : State) (i : Nat) (f : Group → Group) : (s.updGroup i f).cycle = s.cycle := rfl
@[simp] theorem State.updGroup_time (s : State) (i : Nat) (f : Group → Group) : (s.updGroup i f).time = s.time := rfl
@[simp] theorem State.updGroup_uptime (s : State) (i : Nat) (f : Group → Group) : (s.updGroup i f).uptime = s.uptime := rfl
@[simp] theorem State.updGroup_agenda (s : State) (i : Nat) (f : Group → Group) : (s.updGroup i f).agenda = s.agenda := rfl
@[simp] theorem State.updGroup_issuer (s : State) (i : Nat) (f : Group → Group) : (s.updGroup i f).issuer = s.issuer := rfl
@[simp] theorem State.updGroup_fresh (s : State) (i : Nat) (f : Group → Group) : (s.updGroup i f).fresh = s.fresh := rfl
@[simp] theorem State.updGroup_oracle (s : State) (i : Nat) (f : Group → Group) : (s.updGroup i f).oracle = s.oracle := rfl

/-! ### State.updTeam -/

@[simp] theorem State.updTeam_mem (s : State) (i : Nat) (f : Team → Team) : (s.updTeam i f).mem = s.mem := rfl
@[simp] theorem State.updTeam_groups (s : State) (i : Nat) (f : Team → Team) : (s.updTeam i f).groups = s.groups := rfl
@[simp] theorem State.updTeam_teams (s : State) (i : Nat) (f : Team → Team) : (s.updTeam i f).teams = s.teams.map (fun t => if t.tid = i then f t else t) := rfl
@[simp] theorem State.updTeam_clusters (s : State) (i : Nat) (f : Team → Team) : (s.updTeam i f).clusters = s.clusters := rfl
@[simp] theorem State.updTeam_grids (s : State) (i : Nat) (f : Team → Team) : (s.updTeam i f).grids = s.grids := rfl
@[simp] theorem State.updTeam_ops (s : State) (i : Nat) (f : Team → Team) : (s.updTeam i f).ops = s.ops := rfl
@[simp] theorem State.updTeam_commands (s : State) (i : Nat) (f : Team → Team) : (s.updTeam i f).commands = s.commands := rfl
@[simp] theorem State.updTeam_surveys (s : State) (i : Nat) (f : Team → Team) : (s.updTeam i f).surveys = s.surveys := rfl
@[simp] theorem State.updTeam_notices (s : State) (i : Nat) (f : Team → Team) : (s.updTeam i f).notices = s.notices := rfl
@[simp] theorem State.updTeam_armedTickets (s : State) (i : Nat) (f : Team → Team) : (s.updTeam i f).armedTickets = s.armedTickets := rfl
@[simp] theorem State.updTeam_insets (s : State) (i : Nat) (f : Team → Team) : (s.updTeam i f).insets = s.insets := rfl
@[simp] theorem State.updTeam_projections (s : State) (i : Nat) (f : Team → Team) : (s.updTeam i f).projections = s.projections := rfl
@[simp] theorem State.updTeam_records (s : State) (i : Nat) (f : Team → Team) : (s.updTeam i f).records = s.records := rfl
@[simp] theorem State.updTeam_outstanding (s : State) (i : Nat) (f : Team → Team) : (s.updTeam i f).outstanding = s.outstanding := rfl
@[simp] theorem State.updTeam_doorbells (s : State) (i : Nat) (f : Team → Team) : (s.updTeam i f).doorbells = s.doorbells := rfl
@[simp] theorem State.updTeam_slots (s : State) (i : Nat) (f : Team → Team) : (s.updTeam i f).slots = s.slots := rfl
@[simp] theorem State.updTeam_pendingWrites (s : State) (i : Nat) (f : Team → Team) : (s.updTeam i f).pendingWrites = s.pendingWrites := rfl
@[simp] theorem State.updTeam_markers (s : State) (i : Nat) (f : Team → Team) : (s.updTeam i f).markers = s.markers := rfl
@[simp] theorem State.updTeam_hotness (s : State) (i : Nat) (f : Team → Team) : (s.updTeam i f).hotness = s.hotness := rfl
@[simp] theorem State.updTeam_ctl (s : State) (i : Nat) (f : Team → Team) : (s.updTeam i f).ctl = s.ctl := rfl
@[simp] theorem State.updTeam_fabric (s : State) (i : Nat) (f : Team → Team) : (s.updTeam i f).fabric = s.fabric := rfl
@[simp] theorem State.updTeam_power (s : State) (i : Nat) (f : Team → Team) : (s.updTeam i f).power = s.power := rfl
@[simp] theorem State.updTeam_security (s : State) (i : Nat) (f : Team → Team) : (s.updTeam i f).security = s.security := rfl
@[simp] theorem State.updTeam_torus (s : State) (i : Nat) (f : Team → Team) : (s.updTeam i f).torus = s.torus := rfl
@[simp] theorem State.updTeam_handles (s : State) (i : Nat) (f : Team → Team) : (s.updTeam i f).handles = s.handles := rfl
@[simp] theorem State.updTeam_refill (s : State) (i : Nat) (f : Team → Team) : (s.updTeam i f).refill = s.refill := rfl
@[simp] theorem State.updTeam_aged (s : State) (i : Nat) (f : Team → Team) : (s.updTeam i f).aged = s.aged := rfl
@[simp] theorem State.updTeam_cycle (s : State) (i : Nat) (f : Team → Team) : (s.updTeam i f).cycle = s.cycle := rfl
@[simp] theorem State.updTeam_time (s : State) (i : Nat) (f : Team → Team) : (s.updTeam i f).time = s.time := rfl
@[simp] theorem State.updTeam_uptime (s : State) (i : Nat) (f : Team → Team) : (s.updTeam i f).uptime = s.uptime := rfl
@[simp] theorem State.updTeam_agenda (s : State) (i : Nat) (f : Team → Team) : (s.updTeam i f).agenda = s.agenda := rfl
@[simp] theorem State.updTeam_issuer (s : State) (i : Nat) (f : Team → Team) : (s.updTeam i f).issuer = s.issuer := rfl
@[simp] theorem State.updTeam_fresh (s : State) (i : Nat) (f : Team → Team) : (s.updTeam i f).fresh = s.fresh := rfl
@[simp] theorem State.updTeam_oracle (s : State) (i : Nat) (f : Team → Team) : (s.updTeam i f).oracle = s.oracle := rfl

/-! ### State.updCluster -/

@[simp] theorem State.updCluster_mem (s : State) (i : Nat) (f : Cluster → Cluster) : (s.updCluster i f).mem = s.mem := rfl
@[simp] theorem State.updCluster_groups (s : State) (i : Nat) (f : Cluster → Cluster) : (s.updCluster i f).groups = s.groups := rfl
@[simp] theorem State.updCluster_teams (s : State) (i : Nat) (f : Cluster → Cluster) : (s.updCluster i f).teams = s.teams := rfl
@[simp] theorem State.updCluster_clusters (s : State) (i : Nat) (f : Cluster → Cluster) : (s.updCluster i f).clusters = s.clusters.map (fun c => if c.cid = i then f c else c) := rfl
@[simp] theorem State.updCluster_grids (s : State) (i : Nat) (f : Cluster → Cluster) : (s.updCluster i f).grids = s.grids := rfl
@[simp] theorem State.updCluster_ops (s : State) (i : Nat) (f : Cluster → Cluster) : (s.updCluster i f).ops = s.ops := rfl
@[simp] theorem State.updCluster_commands (s : State) (i : Nat) (f : Cluster → Cluster) : (s.updCluster i f).commands = s.commands := rfl
@[simp] theorem State.updCluster_surveys (s : State) (i : Nat) (f : Cluster → Cluster) : (s.updCluster i f).surveys = s.surveys := rfl
@[simp] theorem State.updCluster_notices (s : State) (i : Nat) (f : Cluster → Cluster) : (s.updCluster i f).notices = s.notices := rfl
@[simp] theorem State.updCluster_armedTickets (s : State) (i : Nat) (f : Cluster → Cluster) : (s.updCluster i f).armedTickets = s.armedTickets := rfl
@[simp] theorem State.updCluster_insets (s : State) (i : Nat) (f : Cluster → Cluster) : (s.updCluster i f).insets = s.insets := rfl
@[simp] theorem State.updCluster_projections (s : State) (i : Nat) (f : Cluster → Cluster) : (s.updCluster i f).projections = s.projections := rfl
@[simp] theorem State.updCluster_records (s : State) (i : Nat) (f : Cluster → Cluster) : (s.updCluster i f).records = s.records := rfl
@[simp] theorem State.updCluster_outstanding (s : State) (i : Nat) (f : Cluster → Cluster) : (s.updCluster i f).outstanding = s.outstanding := rfl
@[simp] theorem State.updCluster_doorbells (s : State) (i : Nat) (f : Cluster → Cluster) : (s.updCluster i f).doorbells = s.doorbells := rfl
@[simp] theorem State.updCluster_slots (s : State) (i : Nat) (f : Cluster → Cluster) : (s.updCluster i f).slots = s.slots := rfl
@[simp] theorem State.updCluster_pendingWrites (s : State) (i : Nat) (f : Cluster → Cluster) : (s.updCluster i f).pendingWrites = s.pendingWrites := rfl
@[simp] theorem State.updCluster_markers (s : State) (i : Nat) (f : Cluster → Cluster) : (s.updCluster i f).markers = s.markers := rfl
@[simp] theorem State.updCluster_hotness (s : State) (i : Nat) (f : Cluster → Cluster) : (s.updCluster i f).hotness = s.hotness := rfl
@[simp] theorem State.updCluster_ctl (s : State) (i : Nat) (f : Cluster → Cluster) : (s.updCluster i f).ctl = s.ctl := rfl
@[simp] theorem State.updCluster_fabric (s : State) (i : Nat) (f : Cluster → Cluster) : (s.updCluster i f).fabric = s.fabric := rfl
@[simp] theorem State.updCluster_power (s : State) (i : Nat) (f : Cluster → Cluster) : (s.updCluster i f).power = s.power := rfl
@[simp] theorem State.updCluster_security (s : State) (i : Nat) (f : Cluster → Cluster) : (s.updCluster i f).security = s.security := rfl
@[simp] theorem State.updCluster_torus (s : State) (i : Nat) (f : Cluster → Cluster) : (s.updCluster i f).torus = s.torus := rfl
@[simp] theorem State.updCluster_handles (s : State) (i : Nat) (f : Cluster → Cluster) : (s.updCluster i f).handles = s.handles := rfl
@[simp] theorem State.updCluster_refill (s : State) (i : Nat) (f : Cluster → Cluster) : (s.updCluster i f).refill = s.refill := rfl
@[simp] theorem State.updCluster_aged (s : State) (i : Nat) (f : Cluster → Cluster) : (s.updCluster i f).aged = s.aged := rfl
@[simp] theorem State.updCluster_cycle (s : State) (i : Nat) (f : Cluster → Cluster) : (s.updCluster i f).cycle = s.cycle := rfl
@[simp] theorem State.updCluster_time (s : State) (i : Nat) (f : Cluster → Cluster) : (s.updCluster i f).time = s.time := rfl
@[simp] theorem State.updCluster_uptime (s : State) (i : Nat) (f : Cluster → Cluster) : (s.updCluster i f).uptime = s.uptime := rfl
@[simp] theorem State.updCluster_agenda (s : State) (i : Nat) (f : Cluster → Cluster) : (s.updCluster i f).agenda = s.agenda := rfl
@[simp] theorem State.updCluster_issuer (s : State) (i : Nat) (f : Cluster → Cluster) : (s.updCluster i f).issuer = s.issuer := rfl
@[simp] theorem State.updCluster_fresh (s : State) (i : Nat) (f : Cluster → Cluster) : (s.updCluster i f).fresh = s.fresh := rfl
@[simp] theorem State.updCluster_oracle (s : State) (i : Nat) (f : Cluster → Cluster) : (s.updCluster i f).oracle = s.oracle := rfl

/-! ### State.updGrid -/

@[simp] theorem State.updGrid_mem (s : State) (i : Nat) (f : Grid → Grid) : (s.updGrid i f).mem = s.mem := rfl
@[simp] theorem State.updGrid_groups (s : State) (i : Nat) (f : Grid → Grid) : (s.updGrid i f).groups = s.groups := rfl
@[simp] theorem State.updGrid_teams (s : State) (i : Nat) (f : Grid → Grid) : (s.updGrid i f).teams = s.teams := rfl
@[simp] theorem State.updGrid_clusters (s : State) (i : Nat) (f : Grid → Grid) : (s.updGrid i f).clusters = s.clusters := rfl
@[simp] theorem State.updGrid_grids (s : State) (i : Nat) (f : Grid → Grid) : (s.updGrid i f).grids = s.grids.map (fun g => if g.handle = i then f g else g) := rfl
@[simp] theorem State.updGrid_ops (s : State) (i : Nat) (f : Grid → Grid) : (s.updGrid i f).ops = s.ops := rfl
@[simp] theorem State.updGrid_commands (s : State) (i : Nat) (f : Grid → Grid) : (s.updGrid i f).commands = s.commands := rfl
@[simp] theorem State.updGrid_surveys (s : State) (i : Nat) (f : Grid → Grid) : (s.updGrid i f).surveys = s.surveys := rfl
@[simp] theorem State.updGrid_notices (s : State) (i : Nat) (f : Grid → Grid) : (s.updGrid i f).notices = s.notices := rfl
@[simp] theorem State.updGrid_armedTickets (s : State) (i : Nat) (f : Grid → Grid) : (s.updGrid i f).armedTickets = s.armedTickets := rfl
@[simp] theorem State.updGrid_insets (s : State) (i : Nat) (f : Grid → Grid) : (s.updGrid i f).insets = s.insets := rfl
@[simp] theorem State.updGrid_projections (s : State) (i : Nat) (f : Grid → Grid) : (s.updGrid i f).projections = s.projections := rfl
@[simp] theorem State.updGrid_records (s : State) (i : Nat) (f : Grid → Grid) : (s.updGrid i f).records = s.records := rfl
@[simp] theorem State.updGrid_outstanding (s : State) (i : Nat) (f : Grid → Grid) : (s.updGrid i f).outstanding = s.outstanding := rfl
@[simp] theorem State.updGrid_doorbells (s : State) (i : Nat) (f : Grid → Grid) : (s.updGrid i f).doorbells = s.doorbells := rfl
@[simp] theorem State.updGrid_slots (s : State) (i : Nat) (f : Grid → Grid) : (s.updGrid i f).slots = s.slots := rfl
@[simp] theorem State.updGrid_pendingWrites (s : State) (i : Nat) (f : Grid → Grid) : (s.updGrid i f).pendingWrites = s.pendingWrites := rfl
@[simp] theorem State.updGrid_markers (s : State) (i : Nat) (f : Grid → Grid) : (s.updGrid i f).markers = s.markers := rfl
@[simp] theorem State.updGrid_hotness (s : State) (i : Nat) (f : Grid → Grid) : (s.updGrid i f).hotness = s.hotness := rfl
@[simp] theorem State.updGrid_ctl (s : State) (i : Nat) (f : Grid → Grid) : (s.updGrid i f).ctl = s.ctl := rfl
@[simp] theorem State.updGrid_fabric (s : State) (i : Nat) (f : Grid → Grid) : (s.updGrid i f).fabric = s.fabric := rfl
@[simp] theorem State.updGrid_power (s : State) (i : Nat) (f : Grid → Grid) : (s.updGrid i f).power = s.power := rfl
@[simp] theorem State.updGrid_security (s : State) (i : Nat) (f : Grid → Grid) : (s.updGrid i f).security = s.security := rfl
@[simp] theorem State.updGrid_torus (s : State) (i : Nat) (f : Grid → Grid) : (s.updGrid i f).torus = s.torus := rfl
@[simp] theorem State.updGrid_handles (s : State) (i : Nat) (f : Grid → Grid) : (s.updGrid i f).handles = s.handles := rfl
@[simp] theorem State.updGrid_refill (s : State) (i : Nat) (f : Grid → Grid) : (s.updGrid i f).refill = s.refill := rfl
@[simp] theorem State.updGrid_aged (s : State) (i : Nat) (f : Grid → Grid) : (s.updGrid i f).aged = s.aged := rfl
@[simp] theorem State.updGrid_cycle (s : State) (i : Nat) (f : Grid → Grid) : (s.updGrid i f).cycle = s.cycle := rfl
@[simp] theorem State.updGrid_time (s : State) (i : Nat) (f : Grid → Grid) : (s.updGrid i f).time = s.time := rfl
@[simp] theorem State.updGrid_uptime (s : State) (i : Nat) (f : Grid → Grid) : (s.updGrid i f).uptime = s.uptime := rfl
@[simp] theorem State.updGrid_agenda (s : State) (i : Nat) (f : Grid → Grid) : (s.updGrid i f).agenda = s.agenda := rfl
@[simp] theorem State.updGrid_issuer (s : State) (i : Nat) (f : Grid → Grid) : (s.updGrid i f).issuer = s.issuer := rfl
@[simp] theorem State.updGrid_fresh (s : State) (i : Nat) (f : Grid → Grid) : (s.updGrid i f).fresh = s.fresh := rfl
@[simp] theorem State.updGrid_oracle (s : State) (i : Nat) (f : Grid → Grid) : (s.updGrid i f).oracle = s.oracle := rfl

/-! ### State.updInset -/

@[simp] theorem State.updInset_mem (s : State) (i : Nat) (f : Inset → Inset) : (s.updInset i f).mem = s.mem := rfl
@[simp] theorem State.updInset_groups (s : State) (i : Nat) (f : Inset → Inset) : (s.updInset i f).groups = s.groups := rfl
@[simp] theorem State.updInset_teams (s : State) (i : Nat) (f : Inset → Inset) : (s.updInset i f).teams = s.teams := rfl
@[simp] theorem State.updInset_clusters (s : State) (i : Nat) (f : Inset → Inset) : (s.updInset i f).clusters = s.clusters := rfl
@[simp] theorem State.updInset_grids (s : State) (i : Nat) (f : Inset → Inset) : (s.updInset i f).grids = s.grids := rfl
@[simp] theorem State.updInset_ops (s : State) (i : Nat) (f : Inset → Inset) : (s.updInset i f).ops = s.ops := rfl
@[simp] theorem State.updInset_commands (s : State) (i : Nat) (f : Inset → Inset) : (s.updInset i f).commands = s.commands := rfl
@[simp] theorem State.updInset_surveys (s : State) (i : Nat) (f : Inset → Inset) : (s.updInset i f).surveys = s.surveys := rfl
@[simp] theorem State.updInset_notices (s : State) (i : Nat) (f : Inset → Inset) : (s.updInset i f).notices = s.notices := rfl
@[simp] theorem State.updInset_armedTickets (s : State) (i : Nat) (f : Inset → Inset) : (s.updInset i f).armedTickets = s.armedTickets := rfl
@[simp] theorem State.updInset_insets (s : State) (i : Nat) (f : Inset → Inset) : (s.updInset i f).insets = s.insets.map (fun x => if x.id = i then f x else x) := rfl
@[simp] theorem State.updInset_projections (s : State) (i : Nat) (f : Inset → Inset) : (s.updInset i f).projections = s.projections := rfl
@[simp] theorem State.updInset_records (s : State) (i : Nat) (f : Inset → Inset) : (s.updInset i f).records = s.records := rfl
@[simp] theorem State.updInset_outstanding (s : State) (i : Nat) (f : Inset → Inset) : (s.updInset i f).outstanding = s.outstanding := rfl
@[simp] theorem State.updInset_doorbells (s : State) (i : Nat) (f : Inset → Inset) : (s.updInset i f).doorbells = s.doorbells := rfl
@[simp] theorem State.updInset_slots (s : State) (i : Nat) (f : Inset → Inset) : (s.updInset i f).slots = s.slots := rfl
@[simp] theorem State.updInset_pendingWrites (s : State) (i : Nat) (f : Inset → Inset) : (s.updInset i f).pendingWrites = s.pendingWrites := rfl
@[simp] theorem State.updInset_markers (s : State) (i : Nat) (f : Inset → Inset) : (s.updInset i f).markers = s.markers := rfl
@[simp] theorem State.updInset_hotness (s : State) (i : Nat) (f : Inset → Inset) : (s.updInset i f).hotness = s.hotness := rfl
@[simp] theorem State.updInset_ctl (s : State) (i : Nat) (f : Inset → Inset) : (s.updInset i f).ctl = s.ctl := rfl
@[simp] theorem State.updInset_fabric (s : State) (i : Nat) (f : Inset → Inset) : (s.updInset i f).fabric = s.fabric := rfl
@[simp] theorem State.updInset_power (s : State) (i : Nat) (f : Inset → Inset) : (s.updInset i f).power = s.power := rfl
@[simp] theorem State.updInset_security (s : State) (i : Nat) (f : Inset → Inset) : (s.updInset i f).security = s.security := rfl
@[simp] theorem State.updInset_torus (s : State) (i : Nat) (f : Inset → Inset) : (s.updInset i f).torus = s.torus := rfl
@[simp] theorem State.updInset_handles (s : State) (i : Nat) (f : Inset → Inset) : (s.updInset i f).handles = s.handles := rfl
@[simp] theorem State.updInset_refill (s : State) (i : Nat) (f : Inset → Inset) : (s.updInset i f).refill = s.refill := rfl
@[simp] theorem State.updInset_aged (s : State) (i : Nat) (f : Inset → Inset) : (s.updInset i f).aged = s.aged := rfl
@[simp] theorem State.updInset_cycle (s : State) (i : Nat) (f : Inset → Inset) : (s.updInset i f).cycle = s.cycle := rfl
@[simp] theorem State.updInset_time (s : State) (i : Nat) (f : Inset → Inset) : (s.updInset i f).time = s.time := rfl
@[simp] theorem State.updInset_uptime (s : State) (i : Nat) (f : Inset → Inset) : (s.updInset i f).uptime = s.uptime := rfl
@[simp] theorem State.updInset_agenda (s : State) (i : Nat) (f : Inset → Inset) : (s.updInset i f).agenda = s.agenda := rfl
@[simp] theorem State.updInset_issuer (s : State) (i : Nat) (f : Inset → Inset) : (s.updInset i f).issuer = s.issuer := rfl
@[simp] theorem State.updInset_fresh (s : State) (i : Nat) (f : Inset → Inset) : (s.updInset i f).fresh = s.fresh := rfl
@[simp] theorem State.updInset_oracle (s : State) (i : Nat) (f : Inset → Inset) : (s.updInset i f).oracle = s.oracle := rfl

/-! ### State.updOp -/

@[simp] theorem State.updOp_mem (s : State) (i : Nat) (f : LongOp → LongOp) : (s.updOp i f).mem = s.mem := rfl
@[simp] theorem State.updOp_groups (s : State) (i : Nat) (f : LongOp → LongOp) : (s.updOp i f).groups = s.groups := rfl
@[simp] theorem State.updOp_teams (s : State) (i : Nat) (f : LongOp → LongOp) : (s.updOp i f).teams = s.teams := rfl
@[simp] theorem State.updOp_clusters (s : State) (i : Nat) (f : LongOp → LongOp) : (s.updOp i f).clusters = s.clusters := rfl
@[simp] theorem State.updOp_grids (s : State) (i : Nat) (f : LongOp → LongOp) : (s.updOp i f).grids = s.grids := rfl
@[simp] theorem State.updOp_ops (s : State) (i : Nat) (f : LongOp → LongOp) : (s.updOp i f).ops = s.ops.map (fun o => if o.id = i then f o else o) := rfl
@[simp] theorem State.updOp_commands (s : State) (i : Nat) (f : LongOp → LongOp) : (s.updOp i f).commands = s.commands := rfl
@[simp] theorem State.updOp_surveys (s : State) (i : Nat) (f : LongOp → LongOp) : (s.updOp i f).surveys = s.surveys := rfl
@[simp] theorem State.updOp_notices (s : State) (i : Nat) (f : LongOp → LongOp) : (s.updOp i f).notices = s.notices := rfl
@[simp] theorem State.updOp_armedTickets (s : State) (i : Nat) (f : LongOp → LongOp) : (s.updOp i f).armedTickets = s.armedTickets := rfl
@[simp] theorem State.updOp_insets (s : State) (i : Nat) (f : LongOp → LongOp) : (s.updOp i f).insets = s.insets := rfl
@[simp] theorem State.updOp_projections (s : State) (i : Nat) (f : LongOp → LongOp) : (s.updOp i f).projections = s.projections := rfl
@[simp] theorem State.updOp_records (s : State) (i : Nat) (f : LongOp → LongOp) : (s.updOp i f).records = s.records := rfl
@[simp] theorem State.updOp_outstanding (s : State) (i : Nat) (f : LongOp → LongOp) : (s.updOp i f).outstanding = s.outstanding := rfl
@[simp] theorem State.updOp_doorbells (s : State) (i : Nat) (f : LongOp → LongOp) : (s.updOp i f).doorbells = s.doorbells := rfl
@[simp] theorem State.updOp_slots (s : State) (i : Nat) (f : LongOp → LongOp) : (s.updOp i f).slots = s.slots := rfl
@[simp] theorem State.updOp_pendingWrites (s : State) (i : Nat) (f : LongOp → LongOp) : (s.updOp i f).pendingWrites = s.pendingWrites := rfl
@[simp] theorem State.updOp_markers (s : State) (i : Nat) (f : LongOp → LongOp) : (s.updOp i f).markers = s.markers := rfl
@[simp] theorem State.updOp_hotness (s : State) (i : Nat) (f : LongOp → LongOp) : (s.updOp i f).hotness = s.hotness := rfl
@[simp] theorem State.updOp_ctl (s : State) (i : Nat) (f : LongOp → LongOp) : (s.updOp i f).ctl = s.ctl := rfl
@[simp] theorem State.updOp_fabric (s : State) (i : Nat) (f : LongOp → LongOp) : (s.updOp i f).fabric = s.fabric := rfl
@[simp] theorem State.updOp_power (s : State) (i : Nat) (f : LongOp → LongOp) : (s.updOp i f).power = s.power := rfl
@[simp] theorem State.updOp_security (s : State) (i : Nat) (f : LongOp → LongOp) : (s.updOp i f).security = s.security := rfl
@[simp] theorem State.updOp_torus (s : State) (i : Nat) (f : LongOp → LongOp) : (s.updOp i f).torus = s.torus := rfl
@[simp] theorem State.updOp_handles (s : State) (i : Nat) (f : LongOp → LongOp) : (s.updOp i f).handles = s.handles := rfl
@[simp] theorem State.updOp_refill (s : State) (i : Nat) (f : LongOp → LongOp) : (s.updOp i f).refill = s.refill := rfl
@[simp] theorem State.updOp_aged (s : State) (i : Nat) (f : LongOp → LongOp) : (s.updOp i f).aged = s.aged := rfl
@[simp] theorem State.updOp_cycle (s : State) (i : Nat) (f : LongOp → LongOp) : (s.updOp i f).cycle = s.cycle := rfl
@[simp] theorem State.updOp_time (s : State) (i : Nat) (f : LongOp → LongOp) : (s.updOp i f).time = s.time := rfl
@[simp] theorem State.updOp_uptime (s : State) (i : Nat) (f : LongOp → LongOp) : (s.updOp i f).uptime = s.uptime := rfl
@[simp] theorem State.updOp_agenda (s : State) (i : Nat) (f : LongOp → LongOp) : (s.updOp i f).agenda = s.agenda := rfl
@[simp] theorem State.updOp_issuer (s : State) (i : Nat) (f : LongOp → LongOp) : (s.updOp i f).issuer = s.issuer := rfl
@[simp] theorem State.updOp_fresh (s : State) (i : Nat) (f : LongOp → LongOp) : (s.updOp i f).fresh = s.fresh := rfl
@[simp] theorem State.updOp_oracle (s : State) (i : Nat) (f : LongOp → LongOp) : (s.updOp i f).oracle = s.oracle := rfl

/-! ### State.dropOp -/

@[simp] theorem State.dropOp_mem (s : State) (i : Nat) : (s.dropOp i).mem = s.mem := rfl
@[simp] theorem State.dropOp_groups (s : State) (i : Nat) : (s.dropOp i).groups = s.groups := rfl
@[simp] theorem State.dropOp_teams (s : State) (i : Nat) : (s.dropOp i).teams = s.teams := rfl
@[simp] theorem State.dropOp_clusters (s : State) (i : Nat) : (s.dropOp i).clusters = s.clusters := rfl
@[simp] theorem State.dropOp_grids (s : State) (i : Nat) : (s.dropOp i).grids = s.grids := rfl
@[simp] theorem State.dropOp_ops (s : State) (i : Nat) : (s.dropOp i).ops = s.ops.filter (fun o => decide (o.id ≠ i)) := rfl
@[simp] theorem State.dropOp_commands (s : State) (i : Nat) : (s.dropOp i).commands = s.commands := rfl
@[simp] theorem State.dropOp_surveys (s : State) (i : Nat) : (s.dropOp i).surveys = s.surveys := rfl
@[simp] theorem State.dropOp_notices (s : State) (i : Nat) : (s.dropOp i).notices = s.notices := rfl
@[simp] theorem State.dropOp_armedTickets (s : State) (i : Nat) : (s.dropOp i).armedTickets = s.armedTickets := rfl
@[simp] theorem State.dropOp_insets (s : State) (i : Nat) : (s.dropOp i).insets = s.insets := rfl
@[simp] theorem State.dropOp_projections (s : State) (i : Nat) : (s.dropOp i).projections = s.projections := rfl
@[simp] theorem State.dropOp_records (s : State) (i : Nat) : (s.dropOp i).records = s.records := rfl
@[simp] theorem State.dropOp_outstanding (s : State) (i : Nat) : (s.dropOp i).outstanding = s.outstanding := rfl
@[simp] theorem State.dropOp_doorbells (s : State) (i : Nat) : (s.dropOp i).doorbells = s.doorbells := rfl
@[simp] theorem State.dropOp_slots (s : State) (i : Nat) : (s.dropOp i).slots = s.slots := rfl
@[simp] theorem State.dropOp_pendingWrites (s : State) (i : Nat) : (s.dropOp i).pendingWrites = s.pendingWrites := rfl
@[simp] theorem State.dropOp_markers (s : State) (i : Nat) : (s.dropOp i).markers = s.markers := rfl
@[simp] theorem State.dropOp_hotness (s : State) (i : Nat) : (s.dropOp i).hotness = s.hotness := rfl
@[simp] theorem State.dropOp_ctl (s : State) (i : Nat) : (s.dropOp i).ctl = s.ctl := rfl
@[simp] theorem State.dropOp_fabric (s : State) (i : Nat) : (s.dropOp i).fabric = s.fabric := rfl
@[simp] theorem State.dropOp_power (s : State) (i : Nat) : (s.dropOp i).power = s.power := rfl
@[simp] theorem State.dropOp_security (s : State) (i : Nat) : (s.dropOp i).security = s.security := rfl
@[simp] theorem State.dropOp_torus (s : State) (i : Nat) : (s.dropOp i).torus = s.torus := rfl
@[simp] theorem State.dropOp_handles (s : State) (i : Nat) : (s.dropOp i).handles = s.handles := rfl
@[simp] theorem State.dropOp_refill (s : State) (i : Nat) : (s.dropOp i).refill = s.refill := rfl
@[simp] theorem State.dropOp_aged (s : State) (i : Nat) : (s.dropOp i).aged = s.aged := rfl
@[simp] theorem State.dropOp_cycle (s : State) (i : Nat) : (s.dropOp i).cycle = s.cycle := rfl
@[simp] theorem State.dropOp_time (s : State) (i : Nat) : (s.dropOp i).time = s.time := rfl
@[simp] theorem State.dropOp_uptime (s : State) (i : Nat) : (s.dropOp i).uptime = s.uptime := rfl
@[simp] theorem State.dropOp_agenda (s : State) (i : Nat) : (s.dropOp i).agenda = s.agenda := rfl
@[simp] theorem State.dropOp_issuer (s : State) (i : Nat) : (s.dropOp i).issuer = s.issuer := rfl
@[simp] theorem State.dropOp_fresh (s : State) (i : Nat) : (s.dropOp i).fresh = s.fresh := rfl
@[simp] theorem State.dropOp_oracle (s : State) (i : Nat) : (s.dropOp i).oracle = s.oracle := rfl

/-! ### State.updCommand -/

@[simp] theorem State.updCommand_mem (s : State) (i : Nat) (f : Command → Command) : (s.updCommand i f).mem = s.mem := rfl
@[simp] theorem State.updCommand_groups (s : State) (i : Nat) (f : Command → Command) : (s.updCommand i f).groups = s.groups := rfl
@[simp] theorem State.updCommand_teams (s : State) (i : Nat) (f : Command → Command) : (s.updCommand i f).teams = s.teams := rfl
@[simp] theorem State.updCommand_clusters (s : State) (i : Nat) (f : Command → Command) : (s.updCommand i f).clusters = s.clusters := rfl
@[simp] theorem State.updCommand_grids (s : State) (i : Nat) (f : Command → Command) : (s.updCommand i f).grids = s.grids := rfl
@[simp] theorem State.updCommand_ops (s : State) (i : Nat) (f : Command → Command) : (s.updCommand i f).ops = s.ops := rfl
@[simp] theorem State.updCommand_commands (s : State) (i : Nat) (f : Command → Command) : (s.updCommand i f).commands = s.commands.map (fun c => if c.id = i then f c else c) := rfl
@[simp] theorem State.updCommand_surveys (s : State) (i : Nat) (f : Command → Command) : (s.updCommand i f).surveys = s.surveys := rfl
@[simp] theorem State.updCommand_notices (s : State) (i : Nat) (f : Command → Command) : (s.updCommand i f).notices = s.notices := rfl
@[simp] theorem State.updCommand_armedTickets (s : State) (i : Nat) (f : Command → Command) : (s.updCommand i f).armedTickets = s.armedTickets := rfl
@[simp] theorem State.updCommand_insets (s : State) (i : Nat) (f : Command → Command) : (s.updCommand i f).insets = s.insets := rfl
@[simp] theorem State.updCommand_projections (s : State) (i : Nat) (f : Command → Command) : (s.updCommand i f).projections = s.projections := rfl
@[simp] theorem State.updCommand_records (s : State) (i : Nat) (f : Command → Command) : (s.updCommand i f).records = s.records := rfl
@[simp] theorem State.updCommand_outstanding (s : State) (i : Nat) (f : Command → Command) : (s.updCommand i f).outstanding = s.outstanding := rfl
@[simp] theorem State.updCommand_doorbells (s : State) (i : Nat) (f : Command → Command) : (s.updCommand i f).doorbells = s.doorbells := rfl
@[simp] theorem State.updCommand_slots (s : State) (i : Nat) (f : Command → Command) : (s.updCommand i f).slots = s.slots := rfl
@[simp] theorem State.updCommand_pendingWrites (s : State) (i : Nat) (f : Command → Command) : (s.updCommand i f).pendingWrites = s.pendingWrites := rfl
@[simp] theorem State.updCommand_markers (s : State) (i : Nat) (f : Command → Command) : (s.updCommand i f).markers = s.markers := rfl
@[simp] theorem State.updCommand_hotness (s : State) (i : Nat) (f : Command → Command) : (s.updCommand i f).hotness = s.hotness := rfl
@[simp] theorem State.updCommand_ctl (s : State) (i : Nat) (f : Command → Command) : (s.updCommand i f).ctl = s.ctl := rfl
@[simp] theorem State.updCommand_fabric (s : State) (i : Nat) (f : Command → Command) : (s.updCommand i f).fabric = s.fabric := rfl
@[simp] theorem State.updCommand_power (s : State) (i : Nat) (f : Command → Command) : (s.updCommand i f).power = s.power := rfl
@[simp] theorem State.updCommand_security (s : State) (i : Nat) (f : Command → Command) : (s.updCommand i f).security = s.security := rfl
@[simp] theorem State.updCommand_torus (s : State) (i : Nat) (f : Command → Command) : (s.updCommand i f).torus = s.torus := rfl
@[simp] theorem State.updCommand_handles (s : State) (i : Nat) (f : Command → Command) : (s.updCommand i f).handles = s.handles := rfl
@[simp] theorem State.updCommand_refill (s : State) (i : Nat) (f : Command → Command) : (s.updCommand i f).refill = s.refill := rfl
@[simp] theorem State.updCommand_aged (s : State) (i : Nat) (f : Command → Command) : (s.updCommand i f).aged = s.aged := rfl
@[simp] theorem State.updCommand_cycle (s : State) (i : Nat) (f : Command → Command) : (s.updCommand i f).cycle = s.cycle := rfl
@[simp] theorem State.updCommand_time (s : State) (i : Nat) (f : Command → Command) : (s.updCommand i f).time = s.time := rfl
@[simp] theorem State.updCommand_uptime (s : State) (i : Nat) (f : Command → Command) : (s.updCommand i f).uptime = s.uptime := rfl
@[simp] theorem State.updCommand_agenda (s : State) (i : Nat) (f : Command → Command) : (s.updCommand i f).agenda = s.agenda := rfl
@[simp] theorem State.updCommand_issuer (s : State) (i : Nat) (f : Command → Command) : (s.updCommand i f).issuer = s.issuer := rfl
@[simp] theorem State.updCommand_fresh (s : State) (i : Nat) (f : Command → Command) : (s.updCommand i f).fresh = s.fresh := rfl
@[simp] theorem State.updCommand_oracle (s : State) (i : Nat) (f : Command → Command) : (s.updCommand i f).oracle = s.oracle := rfl

/-! ### State.setMem -/

@[simp] theorem State.setMem_mem (s : State) (m : Memory) : (s.setMem m).mem = m := rfl
@[simp] theorem State.setMem_groups (s : State) (m : Memory) : (s.setMem m).groups = s.groups := rfl
@[simp] theorem State.setMem_teams (s : State) (m : Memory) : (s.setMem m).teams = s.teams := rfl
@[simp] theorem State.setMem_clusters (s : State) (m : Memory) : (s.setMem m).clusters = s.clusters := rfl
@[simp] theorem State.setMem_grids (s : State) (m : Memory) : (s.setMem m).grids = s.grids := rfl
@[simp] theorem State.setMem_ops (s : State) (m : Memory) : (s.setMem m).ops = s.ops := rfl
@[simp] theorem State.setMem_commands (s : State) (m : Memory) : (s.setMem m).commands = s.commands := rfl
@[simp] theorem State.setMem_surveys (s : State) (m : Memory) : (s.setMem m).surveys = s.surveys := rfl
@[simp] theorem State.setMem_notices (s : State) (m : Memory) : (s.setMem m).notices = s.notices := rfl
@[simp] theorem State.setMem_armedTickets (s : State) (m : Memory) : (s.setMem m).armedTickets = s.armedTickets := rfl
@[simp] theorem State.setMem_insets (s : State) (m : Memory) : (s.setMem m).insets = s.insets := rfl
@[simp] theorem State.setMem_projections (s : State) (m : Memory) : (s.setMem m).projections = s.projections := rfl
@[simp] theorem State.setMem_records (s : State) (m : Memory) : (s.setMem m).records = s.records := rfl
@[simp] theorem State.setMem_outstanding (s : State) (m : Memory) : (s.setMem m).outstanding = s.outstanding := rfl
@[simp] theorem State.setMem_doorbells (s : State) (m : Memory) : (s.setMem m).doorbells = s.doorbells := rfl
@[simp] theorem State.setMem_slots (s : State) (m : Memory) : (s.setMem m).slots = s.slots := rfl
@[simp] theorem State.setMem_pendingWrites (s : State) (m : Memory) : (s.setMem m).pendingWrites = s.pendingWrites := rfl
@[simp] theorem State.setMem_markers (s : State) (m : Memory) : (s.setMem m).markers = s.markers := rfl
@[simp] theorem State.setMem_hotness (s : State) (m : Memory) : (s.setMem m).hotness = s.hotness := rfl
@[simp] theorem State.setMem_ctl (s : State) (m : Memory) : (s.setMem m).ctl = s.ctl := rfl
@[simp] theorem State.setMem_fabric (s : State) (m : Memory) : (s.setMem m).fabric = s.fabric := rfl
@[simp] theorem State.setMem_power (s : State) (m : Memory) : (s.setMem m).power = s.power := rfl
@[simp] theorem State.setMem_security (s : State) (m : Memory) : (s.setMem m).security = s.security := rfl
@[simp] theorem State.setMem_torus (s : State) (m : Memory) : (s.setMem m).torus = s.torus := rfl
@[simp] theorem State.setMem_handles (s : State) (m : Memory) : (s.setMem m).handles = s.handles := rfl
@[simp] theorem State.setMem_refill (s : State) (m : Memory) : (s.setMem m).refill = s.refill := rfl
@[simp] theorem State.setMem_aged (s : State) (m : Memory) : (s.setMem m).aged = s.aged := rfl
@[simp] theorem State.setMem_cycle (s : State) (m : Memory) : (s.setMem m).cycle = s.cycle := rfl
@[simp] theorem State.setMem_time (s : State) (m : Memory) : (s.setMem m).time = s.time := rfl
@[simp] theorem State.setMem_uptime (s : State) (m : Memory) : (s.setMem m).uptime = s.uptime := rfl
@[simp] theorem State.setMem_agenda (s : State) (m : Memory) : (s.setMem m).agenda = s.agenda := rfl
@[simp] theorem State.setMem_issuer (s : State) (m : Memory) : (s.setMem m).issuer = s.issuer := rfl
@[simp] theorem State.setMem_fresh (s : State) (m : Memory) : (s.setMem m).fresh = s.fresh := rfl
@[simp] theorem State.setMem_oracle (s : State) (m : Memory) : (s.setMem m).oracle = s.oracle := rfl

/-! ### State.chargeUnits -/

@[simp] theorem State.chargeUnits_mem (s : State) (i n : Nat) : (s.chargeUnits i n).mem = s.mem := rfl
@[simp] theorem State.chargeUnits_groups (s : State) (i n : Nat) : (s.chargeUnits i n).groups = s.groups := rfl
@[simp] theorem State.chargeUnits_teams (s : State) (i n : Nat) : (s.chargeUnits i n).teams = s.teams := rfl
@[simp] theorem State.chargeUnits_clusters (s : State) (i n : Nat) : (s.chargeUnits i n).clusters = s.clusters := rfl
@[simp] theorem State.chargeUnits_grids (s : State) (i n : Nat) : (s.chargeUnits i n).grids = s.grids := rfl
@[simp] theorem State.chargeUnits_ops (s : State) (i n : Nat) : (s.chargeUnits i n).ops = s.ops := rfl
@[simp] theorem State.chargeUnits_commands (s : State) (i n : Nat) : (s.chargeUnits i n).commands = s.commands := rfl
@[simp] theorem State.chargeUnits_surveys (s : State) (i n : Nat) : (s.chargeUnits i n).surveys = s.surveys := rfl
@[simp] theorem State.chargeUnits_notices (s : State) (i n : Nat) : (s.chargeUnits i n).notices = s.notices := rfl
@[simp] theorem State.chargeUnits_armedTickets (s : State) (i n : Nat) : (s.chargeUnits i n).armedTickets = s.armedTickets := rfl
@[simp] theorem State.chargeUnits_insets (s : State) (i n : Nat) : (s.chargeUnits i n).insets = s.insets.map (fun x => if x.id = i then { x with balance := x.balance - (n : Int) } else x) := rfl
@[simp] theorem State.chargeUnits_projections (s : State) (i n : Nat) : (s.chargeUnits i n).projections = s.projections := rfl
@[simp] theorem State.chargeUnits_records (s : State) (i n : Nat) : (s.chargeUnits i n).records = s.records := rfl
@[simp] theorem State.chargeUnits_outstanding (s : State) (i n : Nat) : (s.chargeUnits i n).outstanding = s.outstanding := rfl
@[simp] theorem State.chargeUnits_doorbells (s : State) (i n : Nat) : (s.chargeUnits i n).doorbells = s.doorbells := rfl
@[simp] theorem State.chargeUnits_slots (s : State) (i n : Nat) : (s.chargeUnits i n).slots = s.slots := rfl
@[simp] theorem State.chargeUnits_pendingWrites (s : State) (i n : Nat) : (s.chargeUnits i n).pendingWrites = s.pendingWrites := rfl
@[simp] theorem State.chargeUnits_markers (s : State) (i n : Nat) : (s.chargeUnits i n).markers = s.markers := rfl
@[simp] theorem State.chargeUnits_hotness (s : State) (i n : Nat) : (s.chargeUnits i n).hotness = s.hotness := rfl
@[simp] theorem State.chargeUnits_ctl (s : State) (i n : Nat) : (s.chargeUnits i n).ctl = s.ctl := rfl
@[simp] theorem State.chargeUnits_fabric (s : State) (i n : Nat) : (s.chargeUnits i n).fabric = s.fabric := rfl
@[simp] theorem State.chargeUnits_power (s : State) (i n : Nat) : (s.chargeUnits i n).power = s.power := rfl
@[simp] theorem State.chargeUnits_security (s : State) (i n : Nat) : (s.chargeUnits i n).security = s.security := rfl
@[simp] theorem State.chargeUnits_torus (s : State) (i n : Nat) : (s.chargeUnits i n).torus = s.torus := rfl
@[simp] theorem State.chargeUnits_handles (s : State) (i n : Nat) : (s.chargeUnits i n).handles = s.handles := rfl
@[simp] theorem State.chargeUnits_refill (s : State) (i n : Nat) : (s.chargeUnits i n).refill = s.refill := rfl
@[simp] theorem State.chargeUnits_aged (s : State) (i n : Nat) : (s.chargeUnits i n).aged = s.aged := rfl
@[simp] theorem State.chargeUnits_cycle (s : State) (i n : Nat) : (s.chargeUnits i n).cycle = s.cycle := rfl
@[simp] theorem State.chargeUnits_time (s : State) (i n : Nat) : (s.chargeUnits i n).time = s.time := rfl
@[simp] theorem State.chargeUnits_uptime (s : State) (i n : Nat) : (s.chargeUnits i n).uptime = s.uptime := rfl
@[simp] theorem State.chargeUnits_agenda (s : State) (i n : Nat) : (s.chargeUnits i n).agenda = s.agenda := rfl
@[simp] theorem State.chargeUnits_issuer (s : State) (i n : Nat) : (s.chargeUnits i n).issuer = s.issuer := rfl
@[simp] theorem State.chargeUnits_fresh (s : State) (i n : Nat) : (s.chargeUnits i n).fresh = s.fresh := rfl
@[simp] theorem State.chargeUnits_oracle (s : State) (i n : Nat) : (s.chargeUnits i n).oracle = s.oracle := rfl

/-! ### State.updCtl -/

@[simp] theorem State.updCtl_mem (s : State) (f : Control → Control) : (s.updCtl f).mem = s.mem := rfl
@[simp] theorem State.updCtl_groups (s : State) (f : Control → Control) : (s.updCtl f).groups = s.groups := rfl
@[simp] theorem State.updCtl_teams (s : State) (f : Control → Control) : (s.updCtl f).teams = s.teams := rfl
@[simp] theorem State.updCtl_clusters (s : State) (f : Control → Control) : (s.updCtl f).clusters = s.clusters := rfl
@[simp] theorem State.updCtl_grids (s : State) (f : Control → Control) : (s.updCtl f).grids = s.grids := rfl
@[simp] theorem State.updCtl_ops (s : State) (f : Control → Control) : (s.updCtl f).ops = s.ops := rfl
@[simp] theorem State.updCtl_commands (s : State) (f : Control → Control) : (s.updCtl f).commands = s.commands := rfl
@[simp] theorem State.updCtl_surveys (s : State) (f : Control → Control) : (s.updCtl f).surveys = s.surveys := rfl
@[simp] theorem State.updCtl_notices (s : State) (f : Control → Control) : (s.updCtl f).notices = s.notices := rfl
@[simp] theorem State.updCtl_armedTickets (s : State) (f : Control → Control) : (s.updCtl f).armedTickets = s.armedTickets := rfl
@[simp] theorem State.updCtl_insets (s : State) (f : Control → Control) : (s.updCtl f).insets = s.insets := rfl
@[simp] theorem State.updCtl_projections (s : State) (f : Control → Control) : (s.updCtl f).projections = s.projections := rfl
@[simp] theorem State.updCtl_records (s : State) (f : Control → Control) : (s.updCtl f).records = s.records := rfl
@[simp] theorem State.updCtl_outstanding (s : State) (f : Control → Control) : (s.updCtl f).outstanding = s.outstanding := rfl
@[simp] theorem State.updCtl_doorbells (s : State) (f : Control → Control) : (s.updCtl f).doorbells = s.doorbells := rfl
@[simp] theorem State.updCtl_slots (s : State) (f : Control → Control) : (s.updCtl f).slots = s.slots := rfl
@[simp] theorem State.updCtl_pendingWrites (s : State) (f : Control → Control) : (s.updCtl f).pendingWrites = s.pendingWrites := rfl
@[simp] theorem State.updCtl_markers (s : State) (f : Control → Control) : (s.updCtl f).markers = s.markers := rfl
@[simp] theorem State.updCtl_hotness (s : State) (f : Control → Control) : (s.updCtl f).hotness = s.hotness := rfl
@[simp] theorem State.updCtl_ctl (s : State) (f : Control → Control) : (s.updCtl f).ctl = f s.ctl := rfl
@[simp] theorem State.updCtl_fabric (s : State) (f : Control → Control) : (s.updCtl f).fabric = s.fabric := rfl
@[simp] theorem State.updCtl_power (s : State) (f : Control → Control) : (s.updCtl f).power = s.power := rfl
@[simp] theorem State.updCtl_security (s : State) (f : Control → Control) : (s.updCtl f).security = s.security := rfl
@[simp] theorem State.updCtl_torus (s : State) (f : Control → Control) : (s.updCtl f).torus = s.torus := rfl
@[simp] theorem State.updCtl_handles (s : State) (f : Control → Control) : (s.updCtl f).handles = s.handles := rfl
@[simp] theorem State.updCtl_refill (s : State) (f : Control → Control) : (s.updCtl f).refill = s.refill := rfl
@[simp] theorem State.updCtl_aged (s : State) (f : Control → Control) : (s.updCtl f).aged = s.aged := rfl
@[simp] theorem State.updCtl_cycle (s : State) (f : Control → Control) : (s.updCtl f).cycle = s.cycle := rfl
@[simp] theorem State.updCtl_time (s : State) (f : Control → Control) : (s.updCtl f).time = s.time := rfl
@[simp] theorem State.updCtl_uptime (s : State) (f : Control → Control) : (s.updCtl f).uptime = s.uptime := rfl
@[simp] theorem State.updCtl_agenda (s : State) (f : Control → Control) : (s.updCtl f).agenda = s.agenda := rfl
@[simp] theorem State.updCtl_issuer (s : State) (f : Control → Control) : (s.updCtl f).issuer = s.issuer := rfl
@[simp] theorem State.updCtl_fresh (s : State) (f : Control → Control) : (s.updCtl f).fresh = s.fresh := rfl
@[simp] theorem State.updCtl_oracle (s : State) (f : Control → Control) : (s.updCtl f).oracle = s.oracle := rfl

/-! ### State.vector -/

@[simp] theorem State.vector_mem (s : State) (n : Nat) : (s.vector n).mem = s.mem := rfl
@[simp] theorem State.vector_groups (s : State) (n : Nat) : (s.vector n).groups = s.groups := rfl
@[simp] theorem State.vector_teams (s : State) (n : Nat) : (s.vector n).teams = s.teams := rfl
@[simp] theorem State.vector_clusters (s : State) (n : Nat) : (s.vector n).clusters = s.clusters := rfl
@[simp] theorem State.vector_grids (s : State) (n : Nat) : (s.vector n).grids = s.grids := rfl
@[simp] theorem State.vector_ops (s : State) (n : Nat) : (s.vector n).ops = s.ops := rfl
@[simp] theorem State.vector_commands (s : State) (n : Nat) : (s.vector n).commands = s.commands := rfl
@[simp] theorem State.vector_surveys (s : State) (n : Nat) : (s.vector n).surveys = s.surveys := rfl
@[simp] theorem State.vector_notices (s : State) (n : Nat) : (s.vector n).notices = s.notices := rfl
@[simp] theorem State.vector_armedTickets (s : State) (n : Nat) : (s.vector n).armedTickets = s.armedTickets := rfl
@[simp] theorem State.vector_insets (s : State) (n : Nat) : (s.vector n).insets = s.insets := rfl
@[simp] theorem State.vector_projections (s : State) (n : Nat) : (s.vector n).projections = s.projections := rfl
@[simp] theorem State.vector_records (s : State) (n : Nat) : (s.vector n).records = s.records := rfl
@[simp] theorem State.vector_outstanding (s : State) (n : Nat) : (s.vector n).outstanding = s.outstanding := rfl
@[simp] theorem State.vector_doorbells (s : State) (n : Nat) : (s.vector n).doorbells = s.doorbells := rfl
@[simp] theorem State.vector_slots (s : State) (n : Nat) : (s.vector n).slots = s.slots := rfl
@[simp] theorem State.vector_pendingWrites (s : State) (n : Nat) : (s.vector n).pendingWrites = s.pendingWrites := rfl
@[simp] theorem State.vector_markers (s : State) (n : Nat) : (s.vector n).markers = s.markers := rfl
@[simp] theorem State.vector_hotness (s : State) (n : Nat) : (s.vector n).hotness = s.hotness := rfl
@[simp] theorem State.vector_ctl (s : State) (n : Nat) : (s.vector n).ctl = { s.ctl with vectors := s.ctl.vectors ++ [n] } := rfl
@[simp] theorem State.vector_fabric (s : State) (n : Nat) : (s.vector n).fabric = s.fabric := rfl
@[simp] theorem State.vector_power (s : State) (n : Nat) : (s.vector n).power = s.power := rfl
@[simp] theorem State.vector_security (s : State) (n : Nat) : (s.vector n).security = s.security := rfl
@[simp] theorem State.vector_torus (s : State) (n : Nat) : (s.vector n).torus = s.torus := rfl
@[simp] theorem State.vector_handles (s : State) (n : Nat) : (s.vector n).handles = s.handles := rfl
@[simp] theorem State.vector_refill (s : State) (n : Nat) : (s.vector n).refill = s.refill := rfl
@[simp] theorem State.vector_aged (s : State) (n : Nat) : (s.vector n).aged = s.aged := rfl
@[simp] theorem State.vector_cycle (s : State) (n : Nat) : (s.vector n).cycle = s.cycle := rfl
@[simp] theorem State.vector_time (s : State) (n : Nat) : (s.vector n).time = s.time := rfl
@[simp] theorem State.vector_uptime (s : State) (n : Nat) : (s.vector n).uptime = s.uptime := rfl
@[simp] theorem State.vector_agenda (s : State) (n : Nat) : (s.vector n).agenda = s.agenda := rfl
@[simp] theorem State.vector_issuer (s : State) (n : Nat) : (s.vector n).issuer = s.issuer := rfl
@[simp] theorem State.vector_fresh (s : State) (n : Nat) : (s.vector n).fresh = s.fresh := rfl
@[simp] theorem State.vector_oracle (s : State) (n : Nat) : (s.vector n).oracle = s.oracle := rfl

/-! ### State.updFabric -/

@[simp] theorem State.updFabric_mem (s : State) (f : Fabric → Fabric) : (s.updFabric f).mem = s.mem := rfl
@[simp] theorem State.updFabric_groups (s : State) (f : Fabric → Fabric) : (s.updFabric f).groups = s.groups := rfl
@[simp] theorem State.updFabric_teams (s : State) (f : Fabric → Fabric) : (s.updFabric f).teams = s.teams := rfl
@[simp] theorem State.updFabric_clusters (s : State) (f : Fabric → Fabric) : (s.updFabric f).clusters = s.clusters := rfl
@[simp] theorem State.updFabric_grids (s : State) (f : Fabric → Fabric) : (s.updFabric f).grids = s.grids := rfl
@[simp] theorem State.updFabric_ops (s : State) (f : Fabric → Fabric) : (s.updFabric f).ops = s.ops := rfl
@[simp] theorem State.updFabric_commands (s : State) (f : Fabric → Fabric) : (s.updFabric f).commands = s.commands := rfl
@[simp] theorem State.updFabric_surveys (s : State) (f : Fabric → Fabric) : (s.updFabric f).surveys = s.surveys := rfl
@[simp] theorem State.updFabric_notices (s : State) (f : Fabric → Fabric) : (s.updFabric f).notices = s.notices := rfl
@[simp] theorem State.updFabric_armedTickets (s : State) (f : Fabric → Fabric) : (s.updFabric f).armedTickets = s.armedTickets := rfl
@[simp] theorem State.updFabric_insets (s : State) (f : Fabric → Fabric) : (s.updFabric f).insets = s.insets := rfl
@[simp] theorem State.updFabric_projections (s : State) (f : Fabric → Fabric) : (s.updFabric f).projections = s.projections := rfl
@[simp] theorem State.updFabric_records (s : State) (f : Fabric → Fabric) : (s.updFabric f).records = s.records := rfl
@[simp] theorem State.updFabric_outstanding (s : State) (f : Fabric → Fabric) : (s.updFabric f).outstanding = s.outstanding := rfl
@[simp] theorem State.updFabric_doorbells (s : State) (f : Fabric → Fabric) : (s.updFabric f).doorbells = s.doorbells := rfl
@[simp] theorem State.updFabric_slots (s : State) (f : Fabric → Fabric) : (s.updFabric f).slots = s.slots := rfl
@[simp] theorem State.updFabric_pendingWrites (s : State) (f : Fabric → Fabric) : (s.updFabric f).pendingWrites = s.pendingWrites := rfl
@[simp] theorem State.updFabric_markers (s : State) (f : Fabric → Fabric) : (s.updFabric f).markers = s.markers := rfl
@[simp] theorem State.updFabric_hotness (s : State) (f : Fabric → Fabric) : (s.updFabric f).hotness = s.hotness := rfl
@[simp] theorem State.updFabric_ctl (s : State) (f : Fabric → Fabric) : (s.updFabric f).ctl = s.ctl := rfl
@[simp] theorem State.updFabric_fabric (s : State) (f : Fabric → Fabric) : (s.updFabric f).fabric = f s.fabric := rfl
@[simp] theorem State.updFabric_power (s : State) (f : Fabric → Fabric) : (s.updFabric f).power = s.power := rfl
@[simp] theorem State.updFabric_security (s : State) (f : Fabric → Fabric) : (s.updFabric f).security = s.security := rfl
@[simp] theorem State.updFabric_torus (s : State) (f : Fabric → Fabric) : (s.updFabric f).torus = s.torus := rfl
@[simp] theorem State.updFabric_handles (s : State) (f : Fabric → Fabric) : (s.updFabric f).handles = s.handles := rfl
@[simp] theorem State.updFabric_refill (s : State) (f : Fabric → Fabric) : (s.updFabric f).refill = s.refill := rfl
@[simp] theorem State.updFabric_aged (s : State) (f : Fabric → Fabric) : (s.updFabric f).aged = s.aged := rfl
@[simp] theorem State.updFabric_cycle (s : State) (f : Fabric → Fabric) : (s.updFabric f).cycle = s.cycle := rfl
@[simp] theorem State.updFabric_time (s : State) (f : Fabric → Fabric) : (s.updFabric f).time = s.time := rfl
@[simp] theorem State.updFabric_uptime (s : State) (f : Fabric → Fabric) : (s.updFabric f).uptime = s.uptime := rfl
@[simp] theorem State.updFabric_agenda (s : State) (f : Fabric → Fabric) : (s.updFabric f).agenda = s.agenda := rfl
@[simp] theorem State.updFabric_issuer (s : State) (f : Fabric → Fabric) : (s.updFabric f).issuer = s.issuer := rfl
@[simp] theorem State.updFabric_fresh (s : State) (f : Fabric → Fabric) : (s.updFabric f).fresh = s.fresh := rfl
@[simp] theorem State.updFabric_oracle (s : State) (f : Fabric → Fabric) : (s.updFabric f).oracle = s.oracle := rfl

/-! ### State.updSecurity -/

@[simp] theorem State.updSecurity_mem (s : State) (f : Security → Security) : (s.updSecurity f).mem = s.mem := rfl
@[simp] theorem State.updSecurity_groups (s : State) (f : Security → Security) : (s.updSecurity f).groups = s.groups := rfl
@[simp] theorem State.updSecurity_teams (s : State) (f : Security → Security) : (s.updSecurity f).teams = s.teams := rfl
@[simp] theorem State.updSecurity_clusters (s : State) (f : Security → Security) : (s.updSecurity f).clusters = s.clusters := rfl
@[simp] theorem State.updSecurity_grids (s : State) (f : Security → Security) : (s.updSecurity f).grids = s.grids := rfl
@[simp] theorem State.updSecurity_ops (s : State) (f : Security → Security) : (s.updSecurity f).ops = s.ops := rfl
@[simp] theorem State.updSecurity_commands (s : State) (f : Security → Security) : (s.updSecurity f).commands = s.commands := rfl
@[simp] theorem State.updSecurity_surveys (s : State) (f : Security → Security) : (s.updSecurity f).surveys = s.surveys := rfl
@[simp] theorem State.updSecurity_notices (s : State) (f : Security → Security) : (s.updSecurity f).notices = s.notices := rfl
@[simp] theorem State.updSecurity_armedTickets (s : State) (f : Security → Security) : (s.updSecurity f).armedTickets = s.armedTickets := rfl
@[simp] theorem State.updSecurity_insets (s : State) (f : Security → Security) : (s.updSecurity f).insets = s.insets := rfl
@[simp] theorem State.updSecurity_projections (s : State) (f : Security → Security) : (s.updSecurity f).projections = s.projections := rfl
@[simp] theorem State.updSecurity_records (s : State) (f : Security → Security) : (s.updSecurity f).records = s.records := rfl
@[simp] theorem State.updSecurity_outstanding (s : State) (f : Security → Security) : (s.updSecurity f).outstanding = s.outstanding := rfl
@[simp] theorem State.updSecurity_doorbells (s : State) (f : Security → Security) : (s.updSecurity f).doorbells = s.doorbells := rfl
@[simp] theorem State.updSecurity_slots (s : State) (f : Security → Security) : (s.updSecurity f).slots = s.slots := rfl
@[simp] theorem State.updSecurity_pendingWrites (s : State) (f : Security → Security) : (s.updSecurity f).pendingWrites = s.pendingWrites := rfl
@[simp] theorem State.updSecurity_markers (s : State) (f : Security → Security) : (s.updSecurity f).markers = s.markers := rfl
@[simp] theorem State.updSecurity_hotness (s : State) (f : Security → Security) : (s.updSecurity f).hotness = s.hotness := rfl
@[simp] theorem State.updSecurity_ctl (s : State) (f : Security → Security) : (s.updSecurity f).ctl = s.ctl := rfl
@[simp] theorem State.updSecurity_fabric (s : State) (f : Security → Security) : (s.updSecurity f).fabric = s.fabric := rfl
@[simp] theorem State.updSecurity_power (s : State) (f : Security → Security) : (s.updSecurity f).power = s.power := rfl
@[simp] theorem State.updSecurity_security (s : State) (f : Security → Security) : (s.updSecurity f).security = f s.security := rfl
@[simp] theorem State.updSecurity_torus (s : State) (f : Security → Security) : (s.updSecurity f).torus = s.torus := rfl
@[simp] theorem State.updSecurity_handles (s : State) (f : Security → Security) : (s.updSecurity f).handles = s.handles := rfl
@[simp] theorem State.updSecurity_refill (s : State) (f : Security → Security) : (s.updSecurity f).refill = s.refill := rfl
@[simp] theorem State.updSecurity_aged (s : State) (f : Security → Security) : (s.updSecurity f).aged = s.aged := rfl
@[simp] theorem State.updSecurity_cycle (s : State) (f : Security → Security) : (s.updSecurity f).cycle = s.cycle := rfl
@[simp] theorem State.updSecurity_time (s : State) (f : Security → Security) : (s.updSecurity f).time = s.time := rfl
@[simp] theorem State.updSecurity_uptime (s : State) (f : Security → Security) : (s.updSecurity f).uptime = s.uptime := rfl
@[simp] theorem State.updSecurity_agenda (s : State) (f : Security → Security) : (s.updSecurity f).agenda = s.agenda := rfl
@[simp] theorem State.updSecurity_issuer (s : State) (f : Security → Security) : (s.updSecurity f).issuer = s.issuer := rfl
@[simp] theorem State.updSecurity_fresh (s : State) (f : Security → Security) : (s.updSecurity f).fresh = s.fresh := rfl
@[simp] theorem State.updSecurity_oracle (s : State) (f : Security → Security) : (s.updSecurity f).oracle = s.oracle := rfl

/-! ### State.setThrottle -/

@[simp] theorem State.setThrottle_mem (s : State) (n : Nat) : (s.setThrottle n).mem = s.mem := rfl
@[simp] theorem State.setThrottle_groups (s : State) (n : Nat) : (s.setThrottle n).groups = s.groups := rfl
@[simp] theorem State.setThrottle_teams (s : State) (n : Nat) : (s.setThrottle n).teams = s.teams := rfl
@[simp] theorem State.setThrottle_clusters (s : State) (n : Nat) : (s.setThrottle n).clusters = s.clusters := rfl
@[simp] theorem State.setThrottle_grids (s : State) (n : Nat) : (s.setThrottle n).grids = s.grids := rfl
@[simp] theorem State.setThrottle_ops (s : State) (n : Nat) : (s.setThrottle n).ops = s.ops := rfl
@[simp] theorem State.setThrottle_commands (s : State) (n : Nat) : (s.setThrottle n).commands = s.commands := rfl
@[simp] theorem State.setThrottle_surveys (s : State) (n : Nat) : (s.setThrottle n).surveys = s.surveys := rfl
@[simp] theorem State.setThrottle_notices (s : State) (n : Nat) : (s.setThrottle n).notices = s.notices := rfl
@[simp] theorem State.setThrottle_armedTickets (s : State) (n : Nat) : (s.setThrottle n).armedTickets = s.armedTickets := rfl
@[simp] theorem State.setThrottle_insets (s : State) (n : Nat) : (s.setThrottle n).insets = s.insets := rfl
@[simp] theorem State.setThrottle_projections (s : State) (n : Nat) : (s.setThrottle n).projections = s.projections := rfl
@[simp] theorem State.setThrottle_records (s : State) (n : Nat) : (s.setThrottle n).records = s.records := rfl
@[simp] theorem State.setThrottle_outstanding (s : State) (n : Nat) : (s.setThrottle n).outstanding = s.outstanding := rfl
@[simp] theorem State.setThrottle_doorbells (s : State) (n : Nat) : (s.setThrottle n).doorbells = s.doorbells := rfl
@[simp] theorem State.setThrottle_slots (s : State) (n : Nat) : (s.setThrottle n).slots = s.slots := rfl
@[simp] theorem State.setThrottle_pendingWrites (s : State) (n : Nat) : (s.setThrottle n).pendingWrites = s.pendingWrites := rfl
@[simp] theorem State.setThrottle_markers (s : State) (n : Nat) : (s.setThrottle n).markers = s.markers := rfl
@[simp] theorem State.setThrottle_hotness (s : State) (n : Nat) : (s.setThrottle n).hotness = s.hotness := rfl
@[simp] theorem State.setThrottle_ctl (s : State) (n : Nat) : (s.setThrottle n).ctl = s.ctl := rfl
@[simp] theorem State.setThrottle_fabric (s : State) (n : Nat) : (s.setThrottle n).fabric = s.fabric := rfl
@[simp] theorem State.setThrottle_power (s : State) (n : Nat) : (s.setThrottle n).power = { s.power with throttle := n } := rfl
@[simp] theorem State.setThrottle_security (s : State) (n : Nat) : (s.setThrottle n).security = s.security := rfl
@[simp] theorem State.setThrottle_torus (s : State) (n : Nat) : (s.setThrottle n).torus = s.torus := rfl
@[simp] theorem State.setThrottle_handles (s : State) (n : Nat) : (s.setThrottle n).handles = s.handles := rfl
@[simp] theorem State.setThrottle_refill (s : State) (n : Nat) : (s.setThrottle n).refill = s.refill := rfl
@[simp] theorem State.setThrottle_aged (s : State) (n : Nat) : (s.setThrottle n).aged = s.aged := rfl
@[simp] theorem State.setThrottle_cycle (s : State) (n : Nat) : (s.setThrottle n).cycle = s.cycle := rfl
@[simp] theorem State.setThrottle_time (s : State) (n : Nat) : (s.setThrottle n).time = s.time := rfl
@[simp] theorem State.setThrottle_uptime (s : State) (n : Nat) : (s.setThrottle n).uptime = s.uptime := rfl
@[simp] theorem State.setThrottle_agenda (s : State) (n : Nat) : (s.setThrottle n).agenda = s.agenda := rfl
@[simp] theorem State.setThrottle_issuer (s : State) (n : Nat) : (s.setThrottle n).issuer = s.issuer := rfl
@[simp] theorem State.setThrottle_fresh (s : State) (n : Nat) : (s.setThrottle n).fresh = s.fresh := rfl
@[simp] theorem State.setThrottle_oracle (s : State) (n : Nat) : (s.setThrottle n).oracle = s.oracle := rfl

/-! ### State.measured -/

@[simp] theorem State.measured_mem (s : State) (n : Nat) : (s.measured n).mem = s.mem := rfl
@[simp] theorem State.measured_groups (s : State) (n : Nat) : (s.measured n).groups = s.groups := rfl
@[simp] theorem State.measured_teams (s : State) (n : Nat) : (s.measured n).teams = s.teams := rfl
@[simp] theorem State.measured_clusters (s : State) (n : Nat) : (s.measured n).clusters = s.clusters := rfl
@[simp] theorem State.measured_grids (s : State) (n : Nat) : (s.measured n).grids = s.grids := rfl
@[simp] theorem State.measured_ops (s : State) (n : Nat) : (s.measured n).ops = s.ops := rfl
@[simp] theorem State.measured_commands (s : State) (n : Nat) : (s.measured n).commands = s.commands := rfl
@[simp] theorem State.measured_surveys (s : State) (n : Nat) : (s.measured n).surveys = s.surveys := rfl
@[simp] theorem State.measured_notices (s : State) (n : Nat) : (s.measured n).notices = s.notices := rfl
@[simp] theorem State.measured_armedTickets (s : State) (n : Nat) : (s.measured n).armedTickets = s.armedTickets := rfl
@[simp] theorem State.measured_insets (s : State) (n : Nat) : (s.measured n).insets = s.insets := rfl
@[simp] theorem State.measured_projections (s : State) (n : Nat) : (s.measured n).projections = s.projections := rfl
@[simp] theorem State.measured_records (s : State) (n : Nat) : (s.measured n).records = s.records := rfl
@[simp] theorem State.measured_outstanding (s : State) (n : Nat) : (s.measured n).outstanding = s.outstanding := rfl
@[simp] theorem State.measured_doorbells (s : State) (n : Nat) : (s.measured n).doorbells = s.doorbells := rfl
@[simp] theorem State.measured_slots (s : State) (n : Nat) : (s.measured n).slots = s.slots := rfl
@[simp] theorem State.measured_pendingWrites (s : State) (n : Nat) : (s.measured n).pendingWrites = s.pendingWrites := rfl
@[simp] theorem State.measured_markers (s : State) (n : Nat) : (s.measured n).markers = s.markers := rfl
@[simp] theorem State.measured_hotness (s : State) (n : Nat) : (s.measured n).hotness = s.hotness := rfl
@[simp] theorem State.measured_ctl (s : State) (n : Nat) : (s.measured n).ctl = s.ctl := rfl
@[simp] theorem State.measured_fabric (s : State) (n : Nat) : (s.measured n).fabric = s.fabric := rfl
@[simp] theorem State.measured_power (s : State) (n : Nat) : (s.measured n).power =
    { s.power with pwr := n, easySince := if s.easy n then some (s.power.easySince.getD s.uptime) else none } := rfl
@[simp] theorem State.measured_security (s : State) (n : Nat) : (s.measured n).security = s.security := rfl
@[simp] theorem State.measured_torus (s : State) (n : Nat) : (s.measured n).torus = s.torus := rfl
@[simp] theorem State.measured_handles (s : State) (n : Nat) : (s.measured n).handles = s.handles := rfl
@[simp] theorem State.measured_refill (s : State) (n : Nat) : (s.measured n).refill = s.refill := rfl
@[simp] theorem State.measured_aged (s : State) (n : Nat) : (s.measured n).aged = s.aged := rfl
@[simp] theorem State.measured_cycle (s : State) (n : Nat) : (s.measured n).cycle = s.cycle := rfl
@[simp] theorem State.measured_time (s : State) (n : Nat) : (s.measured n).time = s.time := rfl
@[simp] theorem State.measured_uptime (s : State) (n : Nat) : (s.measured n).uptime = s.uptime := rfl
@[simp] theorem State.measured_agenda (s : State) (n : Nat) : (s.measured n).agenda = s.agenda := rfl
@[simp] theorem State.measured_issuer (s : State) (n : Nat) : (s.measured n).issuer = s.issuer := rfl
@[simp] theorem State.measured_fresh (s : State) (n : Nat) : (s.measured n).fresh = s.fresh := rfl
@[simp] theorem State.measured_oracle (s : State) (n : Nat) : (s.measured n).oracle = s.oracle := rfl

/-! ### State.waitUntil -/

@[simp] theorem State.waitUntil_mem (s : State) (t : Nat) : (s.waitUntil t).mem = s.mem := rfl
@[simp] theorem State.waitUntil_groups (s : State) (t : Nat) : (s.waitUntil t).groups = s.groups := rfl
@[simp] theorem State.waitUntil_teams (s : State) (t : Nat) : (s.waitUntil t).teams = s.teams := rfl
@[simp] theorem State.waitUntil_clusters (s : State) (t : Nat) : (s.waitUntil t).clusters = s.clusters := rfl
@[simp] theorem State.waitUntil_grids (s : State) (t : Nat) : (s.waitUntil t).grids = s.grids := rfl
@[simp] theorem State.waitUntil_ops (s : State) (t : Nat) : (s.waitUntil t).ops = s.ops := rfl
@[simp] theorem State.waitUntil_commands (s : State) (t : Nat) : (s.waitUntil t).commands = s.commands := rfl
@[simp] theorem State.waitUntil_surveys (s : State) (t : Nat) : (s.waitUntil t).surveys = s.surveys := rfl
@[simp] theorem State.waitUntil_notices (s : State) (t : Nat) : (s.waitUntil t).notices = s.notices := rfl
@[simp] theorem State.waitUntil_armedTickets (s : State) (t : Nat) : (s.waitUntil t).armedTickets = s.armedTickets := rfl
@[simp] theorem State.waitUntil_insets (s : State) (t : Nat) : (s.waitUntil t).insets = s.insets := rfl
@[simp] theorem State.waitUntil_projections (s : State) (t : Nat) : (s.waitUntil t).projections = s.projections := rfl
@[simp] theorem State.waitUntil_records (s : State) (t : Nat) : (s.waitUntil t).records = s.records := rfl
@[simp] theorem State.waitUntil_outstanding (s : State) (t : Nat) : (s.waitUntil t).outstanding = s.outstanding := rfl
@[simp] theorem State.waitUntil_doorbells (s : State) (t : Nat) : (s.waitUntil t).doorbells = s.doorbells := rfl
@[simp] theorem State.waitUntil_slots (s : State) (t : Nat) : (s.waitUntil t).slots = s.slots := rfl
@[simp] theorem State.waitUntil_pendingWrites (s : State) (t : Nat) : (s.waitUntil t).pendingWrites = s.pendingWrites := rfl
@[simp] theorem State.waitUntil_markers (s : State) (t : Nat) : (s.waitUntil t).markers = s.markers := rfl
@[simp] theorem State.waitUntil_hotness (s : State) (t : Nat) : (s.waitUntil t).hotness = s.hotness := rfl
@[simp] theorem State.waitUntil_ctl (s : State) (t : Nat) : (s.waitUntil t).ctl = s.ctl := rfl
@[simp] theorem State.waitUntil_fabric (s : State) (t : Nat) : (s.waitUntil t).fabric = s.fabric := rfl
@[simp] theorem State.waitUntil_power (s : State) (t : Nat) : (s.waitUntil t).power = s.power := rfl
@[simp] theorem State.waitUntil_security (s : State) (t : Nat) : (s.waitUntil t).security = s.security := rfl
@[simp] theorem State.waitUntil_torus (s : State) (t : Nat) : (s.waitUntil t).torus = s.torus := rfl
@[simp] theorem State.waitUntil_handles (s : State) (t : Nat) : (s.waitUntil t).handles = s.handles := rfl
@[simp] theorem State.waitUntil_refill (s : State) (t : Nat) : (s.waitUntil t).refill = s.refill := rfl
@[simp] theorem State.waitUntil_aged (s : State) (t : Nat) : (s.waitUntil t).aged = s.aged := rfl
@[simp] theorem State.waitUntil_cycle (s : State) (t : Nat) : (s.waitUntil t).cycle = s.cycle := rfl
@[simp] theorem State.waitUntil_time (s : State) (t : Nat) : (s.waitUntil t).time = s.time + (t - s.uptime) := rfl
@[simp] theorem State.waitUntil_uptime (s : State) (t : Nat) : (s.waitUntil t).uptime = max s.uptime t := rfl
@[simp] theorem State.waitUntil_agenda (s : State) (t : Nat) : (s.waitUntil t).agenda = s.agenda := rfl
@[simp] theorem State.waitUntil_issuer (s : State) (t : Nat) : (s.waitUntil t).issuer = s.issuer := rfl
@[simp] theorem State.waitUntil_fresh (s : State) (t : Nat) : (s.waitUntil t).fresh = s.fresh := rfl
@[simp] theorem State.waitUntil_oracle (s : State) (t : Nat) : (s.waitUntil t).oracle = s.oracle := rfl

/-! ### State.updPending -/

@[simp] theorem State.updPending_mem (s : State) (f : PendingWrite → PendingWrite) : (s.updPending f).mem = s.mem := rfl
@[simp] theorem State.updPending_groups (s : State) (f : PendingWrite → PendingWrite) : (s.updPending f).groups = s.groups := rfl
@[simp] theorem State.updPending_teams (s : State) (f : PendingWrite → PendingWrite) : (s.updPending f).teams = s.teams := rfl
@[simp] theorem State.updPending_clusters (s : State) (f : PendingWrite → PendingWrite) : (s.updPending f).clusters = s.clusters := rfl
@[simp] theorem State.updPending_grids (s : State) (f : PendingWrite → PendingWrite) : (s.updPending f).grids = s.grids := rfl
@[simp] theorem State.updPending_ops (s : State) (f : PendingWrite → PendingWrite) : (s.updPending f).ops = s.ops := rfl
@[simp] theorem State.updPending_commands (s : State) (f : PendingWrite → PendingWrite) : (s.updPending f).commands = s.commands := rfl
@[simp] theorem State.updPending_surveys (s : State) (f : PendingWrite → PendingWrite) : (s.updPending f).surveys = s.surveys := rfl
@[simp] theorem State.updPending_notices (s : State) (f : PendingWrite → PendingWrite) : (s.updPending f).notices = s.notices := rfl
@[simp] theorem State.updPending_armedTickets (s : State) (f : PendingWrite → PendingWrite) : (s.updPending f).armedTickets = s.armedTickets := rfl
@[simp] theorem State.updPending_insets (s : State) (f : PendingWrite → PendingWrite) : (s.updPending f).insets = s.insets := rfl
@[simp] theorem State.updPending_projections (s : State) (f : PendingWrite → PendingWrite) : (s.updPending f).projections = s.projections := rfl
@[simp] theorem State.updPending_records (s : State) (f : PendingWrite → PendingWrite) : (s.updPending f).records = s.records := rfl
@[simp] theorem State.updPending_outstanding (s : State) (f : PendingWrite → PendingWrite) : (s.updPending f).outstanding = s.outstanding := rfl
@[simp] theorem State.updPending_doorbells (s : State) (f : PendingWrite → PendingWrite) : (s.updPending f).doorbells = s.doorbells := rfl
@[simp] theorem State.updPending_slots (s : State) (f : PendingWrite → PendingWrite) : (s.updPending f).slots = s.slots := rfl
@[simp] theorem State.updPending_pendingWrites (s : State) (f : PendingWrite → PendingWrite) : (s.updPending f).pendingWrites = s.pendingWrites.map f := rfl
@[simp] theorem State.updPending_markers (s : State) (f : PendingWrite → PendingWrite) : (s.updPending f).markers = s.markers := rfl
@[simp] theorem State.updPending_hotness (s : State) (f : PendingWrite → PendingWrite) : (s.updPending f).hotness = s.hotness := rfl
@[simp] theorem State.updPending_ctl (s : State) (f : PendingWrite → PendingWrite) : (s.updPending f).ctl = s.ctl := rfl
@[simp] theorem State.updPending_fabric (s : State) (f : PendingWrite → PendingWrite) : (s.updPending f).fabric = s.fabric := rfl
@[simp] theorem State.updPending_power (s : State) (f : PendingWrite → PendingWrite) : (s.updPending f).power = s.power := rfl
@[simp] theorem State.updPending_security (s : State) (f : PendingWrite → PendingWrite) : (s.updPending f).security = s.security := rfl
@[simp] theorem State.updPending_torus (s : State) (f : PendingWrite → PendingWrite) : (s.updPending f).torus = s.torus := rfl
@[simp] theorem State.updPending_handles (s : State) (f : PendingWrite → PendingWrite) : (s.updPending f).handles = s.handles := rfl
@[simp] theorem State.updPending_refill (s : State) (f : PendingWrite → PendingWrite) : (s.updPending f).refill = s.refill := rfl
@[simp] theorem State.updPending_aged (s : State) (f : PendingWrite → PendingWrite) : (s.updPending f).aged = s.aged := rfl
@[simp] theorem State.updPending_cycle (s : State) (f : PendingWrite → PendingWrite) : (s.updPending f).cycle = s.cycle := rfl
@[simp] theorem State.updPending_time (s : State) (f : PendingWrite → PendingWrite) : (s.updPending f).time = s.time := rfl
@[simp] theorem State.updPending_uptime (s : State) (f : PendingWrite → PendingWrite) : (s.updPending f).uptime = s.uptime := rfl
@[simp] theorem State.updPending_agenda (s : State) (f : PendingWrite → PendingWrite) : (s.updPending f).agenda = s.agenda := rfl
@[simp] theorem State.updPending_issuer (s : State) (f : PendingWrite → PendingWrite) : (s.updPending f).issuer = s.issuer := rfl
@[simp] theorem State.updPending_fresh (s : State) (f : PendingWrite → PendingWrite) : (s.updPending f).fresh = s.fresh := rfl
@[simp] theorem State.updPending_oracle (s : State) (f : PendingWrite → PendingWrite) : (s.updPending f).oracle = s.oracle := rfl

/-! ### State.updBells -/

@[simp] theorem State.updBells_mem (s : State) (i q : Nat) (f : Doorbell → Doorbell) : (s.updBells i q f).mem = s.mem := rfl
@[simp] theorem State.updBells_groups (s : State) (i q : Nat) (f : Doorbell → Doorbell) : (s.updBells i q f).groups = s.groups := rfl
@[simp] theorem State.updBells_teams (s : State) (i q : Nat) (f : Doorbell → Doorbell) : (s.updBells i q f).teams = s.teams := rfl
@[simp] theorem State.updBells_clusters (s : State) (i q : Nat) (f : Doorbell → Doorbell) : (s.updBells i q f).clusters = s.clusters := rfl
@[simp] theorem State.updBells_grids (s : State) (i q : Nat) (f : Doorbell → Doorbell) : (s.updBells i q f).grids = s.grids := rfl
@[simp] theorem State.updBells_ops (s : State) (i q : Nat) (f : Doorbell → Doorbell) : (s.updBells i q f).ops = s.ops := rfl
@[simp] theorem State.updBells_commands (s : State) (i q : Nat) (f : Doorbell → Doorbell) : (s.updBells i q f).commands = s.commands := rfl
@[simp] theorem State.updBells_surveys (s : State) (i q : Nat) (f : Doorbell → Doorbell) : (s.updBells i q f).surveys = s.surveys := rfl
@[simp] theorem State.updBells_notices (s : State) (i q : Nat) (f : Doorbell → Doorbell) : (s.updBells i q f).notices = s.notices := rfl
@[simp] theorem State.updBells_armedTickets (s : State) (i q : Nat) (f : Doorbell → Doorbell) : (s.updBells i q f).armedTickets = s.armedTickets := rfl
@[simp] theorem State.updBells_insets (s : State) (i q : Nat) (f : Doorbell → Doorbell) : (s.updBells i q f).insets = s.insets := rfl
@[simp] theorem State.updBells_projections (s : State) (i q : Nat) (f : Doorbell → Doorbell) : (s.updBells i q f).projections = s.projections := rfl
@[simp] theorem State.updBells_records (s : State) (i q : Nat) (f : Doorbell → Doorbell) : (s.updBells i q f).records = s.records := rfl
@[simp] theorem State.updBells_outstanding (s : State) (i q : Nat) (f : Doorbell → Doorbell) : (s.updBells i q f).outstanding = s.outstanding := rfl
@[simp] theorem State.updBells_slots (s : State) (i q : Nat) (f : Doorbell → Doorbell) : (s.updBells i q f).slots = s.slots := rfl
@[simp] theorem State.updBells_pendingWrites (s : State) (i q : Nat) (f : Doorbell → Doorbell) : (s.updBells i q f).pendingWrites = s.pendingWrites := rfl
@[simp] theorem State.updBells_markers (s : State) (i q : Nat) (f : Doorbell → Doorbell) : (s.updBells i q f).markers = s.markers := rfl
@[simp] theorem State.updBells_hotness (s : State) (i q : Nat) (f : Doorbell → Doorbell) : (s.updBells i q f).hotness = s.hotness := rfl
@[simp] theorem State.updBells_ctl (s : State) (i q : Nat) (f : Doorbell → Doorbell) : (s.updBells i q f).ctl = s.ctl := rfl
@[simp] theorem State.updBells_fabric (s : State) (i q : Nat) (f : Doorbell → Doorbell) : (s.updBells i q f).fabric = s.fabric := rfl
@[simp] theorem State.updBells_power (s : State) (i q : Nat) (f : Doorbell → Doorbell) : (s.updBells i q f).power = s.power := rfl
@[simp] theorem State.updBells_security (s : State) (i q : Nat) (f : Doorbell → Doorbell) : (s.updBells i q f).security = s.security := rfl
@[simp] theorem State.updBells_torus (s : State) (i q : Nat) (f : Doorbell → Doorbell) : (s.updBells i q f).torus = s.torus := rfl
@[simp] theorem State.updBells_handles (s : State) (i q : Nat) (f : Doorbell → Doorbell) : (s.updBells i q f).handles = s.handles := rfl
@[simp] theorem State.updBells_refill (s : State) (i q : Nat) (f : Doorbell → Doorbell) : (s.updBells i q f).refill = s.refill := rfl
@[simp] theorem State.updBells_aged (s : State) (i q : Nat) (f : Doorbell → Doorbell) : (s.updBells i q f).aged = s.aged := rfl
@[simp] theorem State.updBells_cycle (s : State) (i q : Nat) (f : Doorbell → Doorbell) : (s.updBells i q f).cycle = s.cycle := rfl
@[simp] theorem State.updBells_time (s : State) (i q : Nat) (f : Doorbell → Doorbell) : (s.updBells i q f).time = s.time := rfl
@[simp] theorem State.updBells_uptime (s : State) (i q : Nat) (f : Doorbell → Doorbell) : (s.updBells i q f).uptime = s.uptime := rfl
@[simp] theorem State.updBells_agenda (s : State) (i q : Nat) (f : Doorbell → Doorbell) : (s.updBells i q f).agenda = s.agenda := rfl
@[simp] theorem State.updBells_issuer (s : State) (i q : Nat) (f : Doorbell → Doorbell) : (s.updBells i q f).issuer = s.issuer := rfl
@[simp] theorem State.updBells_fresh (s : State) (i q : Nat) (f : Doorbell → Doorbell) : (s.updBells i q f).fresh = s.fresh := rfl
@[simp] theorem State.updBells_oracle (s : State) (i q : Nat) (f : Doorbell → Doorbell) : (s.updBells i q f).oracle = s.oracle := rfl

/-! ### State.logStruck -/

@[simp] theorem State.logError_frame (s : State) (e : SoftError) : s.logError e = { s with mem := (s.logError e).mem } := by
  unfold State.logError
  dsimp only
  split <;> rfl

/-- Logging changes memory alone. -/
theorem State.logStruck_frame (s : State) : s.logStruck = { s with mem := s.logStruck.mem } := by
  unfold State.logStruck
  split
  · rfl
  · dsimp only
    cases SoftError.placed _ with
    | none => rfl
    | some e => exact State.logError_frame _ e

/-- Where no injection has struck, nothing is logged. -/
theorem State.logStruck_none (s : State) (h : s.mem.latent = none) : s.logStruck = s := by
  unfold State.logStruck
  rw [h]

@[simp] theorem State.logStruck_groups (s : State) : s.logStruck.groups = s.groups := by rw [State.logStruck_frame]
@[simp] theorem State.logStruck_teams (s : State) : s.logStruck.teams = s.teams := by rw [State.logStruck_frame]
@[simp] theorem State.logStruck_clusters (s : State) : s.logStruck.clusters = s.clusters := by rw [State.logStruck_frame]
@[simp] theorem State.logStruck_grids (s : State) : s.logStruck.grids = s.grids := by rw [State.logStruck_frame]
@[simp] theorem State.logStruck_ops (s : State) : s.logStruck.ops = s.ops := by rw [State.logStruck_frame]
@[simp] theorem State.logStruck_commands (s : State) : s.logStruck.commands = s.commands := by rw [State.logStruck_frame]
@[simp] theorem State.logStruck_surveys (s : State) : s.logStruck.surveys = s.surveys := by rw [State.logStruck_frame]
@[simp] theorem State.logStruck_notices (s : State) : s.logStruck.notices = s.notices := by rw [State.logStruck_frame]
@[simp] theorem State.logStruck_armedTickets (s : State) : s.logStruck.armedTickets = s.armedTickets := by rw [State.logStruck_frame]
@[simp] theorem State.logStruck_insets (s : State) : s.logStruck.insets = s.insets := by rw [State.logStruck_frame]
@[simp] theorem State.logStruck_projections (s : State) : s.logStruck.projections = s.projections := by rw [State.logStruck_frame]
@[simp] theorem State.logStruck_records (s : State) : s.logStruck.records = s.records := by rw [State.logStruck_frame]
@[simp] theorem State.logStruck_outstanding (s : State) : s.logStruck.outstanding = s.outstanding := by rw [State.logStruck_frame]
@[simp] theorem State.logStruck_doorbells (s : State) : s.logStruck.doorbells = s.doorbells := by rw [State.logStruck_frame]
@[simp] theorem State.logStruck_slots (s : State) : s.logStruck.slots = s.slots := by rw [State.logStruck_frame]
@[simp] theorem State.logStruck_pendingWrites (s : State) : s.logStruck.pendingWrites = s.pendingWrites := by rw [State.logStruck_frame]
@[simp] theorem State.logStruck_markers (s : State) : s.logStruck.markers = s.markers := by rw [State.logStruck_frame]
@[simp] theorem State.logStruck_hotness (s : State) : s.logStruck.hotness = s.hotness := by rw [State.logStruck_frame]
@[simp] theorem State.logStruck_ctl (s : State) : s.logStruck.ctl = s.ctl := by rw [State.logStruck_frame]
@[simp] theorem State.logStruck_fabric (s : State) : s.logStruck.fabric = s.fabric := by rw [State.logStruck_frame]
@[simp] theorem State.logStruck_power (s : State) : s.logStruck.power = s.power := by rw [State.logStruck_frame]
@[simp] theorem State.logStruck_security (s : State) : s.logStruck.security = s.security := by rw [State.logStruck_frame]
@[simp] theorem State.logStruck_torus (s : State) : s.logStruck.torus = s.torus := by rw [State.logStruck_frame]
@[simp] theorem State.logStruck_handles (s : State) : s.logStruck.handles = s.handles := by rw [State.logStruck_frame]
@[simp] theorem State.logStruck_refill (s : State) : s.logStruck.refill = s.refill := by rw [State.logStruck_frame]
@[simp] theorem State.logStruck_aged (s : State) : s.logStruck.aged = s.aged := by rw [State.logStruck_frame]
@[simp] theorem State.logStruck_cycle (s : State) : s.logStruck.cycle = s.cycle := by rw [State.logStruck_frame]
@[simp] theorem State.logStruck_time (s : State) : s.logStruck.time = s.time := by rw [State.logStruck_frame]
@[simp] theorem State.logStruck_uptime (s : State) : s.logStruck.uptime = s.uptime := by rw [State.logStruck_frame]
@[simp] theorem State.logStruck_agenda (s : State) : s.logStruck.agenda = s.agenda := by rw [State.logStruck_frame]
@[simp] theorem State.logStruck_issuer (s : State) : s.logStruck.issuer = s.issuer := by rw [State.logStruck_frame]
@[simp] theorem State.logStruck_fresh (s : State) : s.logStruck.fresh = s.fresh := by rw [State.logStruck_frame]
@[simp] theorem State.logStruck_oracle (s : State) : s.logStruck.oracle = s.oracle := by rw [State.logStruck_frame]

/-! ### State.elapse -/

@[simp] theorem State.elapse_mem (s : State) : (s.elapse).mem = s.logStruck.mem := rfl
@[simp] theorem State.elapse_groups (s : State) : (s.elapse).groups = s.groups := by simp [State.elapse]
@[simp] theorem State.elapse_teams (s : State) : (s.elapse).teams = s.teams := by simp [State.elapse]
@[simp] theorem State.elapse_clusters (s : State) : (s.elapse).clusters = s.clusters := by simp [State.elapse]
@[simp] theorem State.elapse_grids (s : State) : (s.elapse).grids = s.grids := by simp [State.elapse]
@[simp] theorem State.elapse_ops (s : State) : (s.elapse).ops = s.ops := by simp [State.elapse]
@[simp] theorem State.elapse_commands (s : State) : (s.elapse).commands = s.commands := by simp [State.elapse]
@[simp] theorem State.elapse_surveys (s : State) : (s.elapse).surveys = s.surveys := by simp [State.elapse]
@[simp] theorem State.elapse_notices (s : State) : (s.elapse).notices = s.notices := by simp [State.elapse]
@[simp] theorem State.elapse_armedTickets (s : State) : (s.elapse).armedTickets = s.armedTickets := by simp [State.elapse]
@[simp] theorem State.elapse_insets (s : State) : (s.elapse).insets = s.insets := by simp [State.elapse]
@[simp] theorem State.elapse_projections (s : State) : (s.elapse).projections = s.projections := by simp [State.elapse]
@[simp] theorem State.elapse_records (s : State) : (s.elapse).records = s.records := by simp [State.elapse]
@[simp] theorem State.elapse_outstanding (s : State) : (s.elapse).outstanding = s.outstanding := by simp [State.elapse]
@[simp] theorem State.elapse_doorbells (s : State) : (s.elapse).doorbells = s.doorbells := by simp [State.elapse]
@[simp] theorem State.elapse_slots (s : State) : (s.elapse).slots = s.slots := by simp [State.elapse]
@[simp] theorem State.elapse_pendingWrites (s : State) : (s.elapse).pendingWrites = s.pendingWrites := by simp [State.elapse]
@[simp] theorem State.elapse_markers (s : State) : (s.elapse).markers = s.markers := by simp [State.elapse]
@[simp] theorem State.elapse_hotness (s : State) : (s.elapse).hotness = s.hotness := by simp [State.elapse]
@[simp] theorem State.elapse_ctl (s : State) : (s.elapse).ctl = s.ctl := by simp [State.elapse]
@[simp] theorem State.elapse_fabric (s : State) : (s.elapse).fabric = s.fabric := by simp [State.elapse]
@[simp] theorem State.elapse_power (s : State) : (s.elapse).power = s.power := by simp [State.elapse]
@[simp] theorem State.elapse_security (s : State) : (s.elapse).security = s.security := by simp [State.elapse]
@[simp] theorem State.elapse_torus (s : State) : (s.elapse).torus = s.torus := by simp [State.elapse]
@[simp] theorem State.elapse_handles (s : State) : (s.elapse).handles = s.handles := by simp [State.elapse]
@[simp] theorem State.elapse_refill (s : State) : (s.elapse).refill = s.refill := by simp [State.elapse]
@[simp] theorem State.elapse_aged (s : State) : (s.elapse).aged = s.aged := by simp [State.elapse]
@[simp] theorem State.elapse_cycle (s : State) : (s.elapse).cycle = if s.power.pstate = 0 then s.cycle + Config.freeSlack s.oracle else s.cycle := by simp [State.elapse]
@[simp] theorem State.elapse_time (s : State) : (s.elapse).time = s.time + Config.freeNanos s.oracle := by simp [State.elapse]
@[simp] theorem State.elapse_uptime (s : State) : (s.elapse).uptime = s.uptime + Config.freeNanos s.oracle := by simp [State.elapse]
@[simp] theorem State.elapse_agenda (s : State) : (s.elapse).agenda = s.agenda := by simp [State.elapse]
@[simp] theorem State.elapse_issuer (s : State) : (s.elapse).issuer = s.issuer := by simp [State.elapse]
@[simp] theorem State.elapse_fresh (s : State) : (s.elapse).fresh = s.fresh := by simp [State.elapse]
@[simp] theorem State.elapse_oracle (s : State) : (s.elapse).oracle = s.oracle + 1 := by simp [State.elapse]

end Sys2Proof.Machine
end

