-- ==== Sys2Proof/Tests/Slice0.lean ====
section
/-! SUPPORT. Tests: words written out from the encoding tables, ill-formed instructions refused, single steps with results worked out from
the rules, and for every obligation states and operands that meet the hypotheses of its clauses together. -/
open Sys2Proof Sys2Proof.Machine Sys2Proof.Claim
namespace Sys2Proof.Test

/- One theorem after another: each is checked by the kernel as it is elaborated. -/
set_option Elab.async false

/-! ## Helpers -/

/-- A machine whose only group is about to issue w, the one word of its clause. -/
def unit (w : Nat) : State := { State.reset.withFetchWord 32 w with issuer := some 3, agenda := [] }

/-- Its clause, its group, its team and its inset changed. -/
def clause (f : Clause → Clause) (s : State) : State := s.updGroup 3 (fun g => { g with clause := g.clause.map f })
def group (f : Group → Group) (s : State) : State := s.updGroup 3 f
def lane (f : Lane → Lane) (s : State) : State := group (fun g => { g with lanes := g.lanes.map f }) s
def team (f : Team → Team) (s : State) : State := s.updTeam 2 f
def inset (f : Inset → Inset) (s : State) : State := s.updInset 1 f

/-- The clause has another word behind the one that issues. -/
def longer : State → State := clause (fun c => { c with words := c.words ++ [0], header := { c.header with len := 2 } })

/-- Only lane 0 is left. -/
def alone : State → State := group (fun g => { g with lanes := g.lanes.mapIdx (fun l x => { x with exited := decide (l ≠ 0) }) })

/-- Word w waits at port i of the team. -/
def atPort (i : Nat) (w : Word) : State → State := team (fun t => t.setPort i { entries := [[w]], holder := none })

/-- A lane register or an s register set in every lane. -/
def setV (r : Nat) (v : Word) : State → State := lane (fun x => { x with regs := Sparse.set 0 x.regs r v })
def setS (r : Nat) (v : Word) : State → State := group (fun g => { g with sregs := Sparse.set 0 g.sregs r v })
def prefixed (m : XMod) : State → State := clause (fun c => { c with xmod := some m })

/-- A second team of the cluster on the core to the east. -/
def paired (s : State) : State :=
  { s with grids := s.grids.map (fun g => { g with launch := { g.launch with width := 2 } }),
           teams := s.teams ++ [{ (startTeam 1 10 1 1 0) with core := 1 }], groups := s.groups ++ [startGroup fetchLaunch 0 1 10 0 0] }

/-- Every format slot of the grid set. -/
def slots (v : BitVec 64) (s : State) : State :=
  { s with grids := s.grids.map (fun g => { g with launch := { g.launch with slots := List.replicate 8 v } }) }

/-- The issuing context meets a test. -/
def meets (uniform : Bool) (p : Ctx → Bool) (s : State) : Bool :=
  match s.ctx? (!uniform) with
  | some c => (!c.g.stepping || decide (c.cl.index + 1 < c.cl.header.len)) && p c
  | none => false

def allFit (us : List Use) : Bool := us.all (fun u => u.legal && u.quota)

/-- Source fields read one after another, as lane or uniform sources. -/
def readAll (c : Ctx) : State → List Nat → Bool
  | _, [] => true
  | s, f :: fs => match reads c s f with
    | some (t, _) => readAll c t fs
    | none => false
def ureadAll (c : Ctx) : State → List Nat → Bool
  | _, [] => true
  | s, f :: fs => match ureads c s f with
    | some (t, _) => ureadAll c t fs
    | none => false

/-- A lane word with sources and a destination may issue. -/
def laneMeets (srcs : List Nat) (d : Nat) (p : Ctx → Bool) : State → Bool :=
  meets false (fun c => p c && allFit (srcs.map (useSrc c.g.quota) ++ [c.useDst d]) && !c.pushStalls d && readAll c (c.base true) srcs)

/-- Word 0 of the group's clause is free to issue, at the lowest and highest numbers a field has. -/
def plain (_ : Ctx) : Bool := true
def flagOpen (c : Ctx) : Bool := decide (c.cl.header.seta ≠ 15 ∧ c.g.flag c.cl.header.seta < 63)

/-- The inset's space: the first GB on HBM, the second on the vaults, the third on another package, the fourth read-only, the fifth the
host's memory. -/
def mapped (s : State) : State :=
  let m := ((((s.mem.putDword 0x10000 0x1101D).putDword 0x11000 0xDF).putDword 0x11008 (Config.vaultBase + 0xDF)).putDword 0x11010
    (Config.packageBase + Config.packageSize + 0xDF)).putDword 0x11018 0xC7
  inset (fun x => { x with tbase := 0x10000, ranges := [{ base := 0, length := 2 ^ 48, key := 0, perms := 7, tweak := 0 }] })
    { s with mem := m.putDword 0x11020 (Config.hostBase + 0xDF) }

/-- Every access of the instruction is allowed, and nothing holds one up. -/
def accessOk (c : Ctx) (lane : Bool) (needs : List Acc) (n a : Nat) (phys : Nat → Nat) : Bool :=
  (c.accessLanes lane).all (fun l => match c.s.accessAll c.insetId needs (c.address a l) n with
    | .ok p => decide (p = phys l)
    | .error _ => false)
def freeOk (c : Ctx) (ls : List Nat) (n : Nat) (write : Bool) (phys : Nat → Nat) : Bool :=
  c.g.charged.isNone && !c.s.unserved c.g.gid && ls.all (fun l => !c.s.unreachable (phys l)
    && (wordsOf (phys l) n).all (fun w => !c.s.conflicts c.g w write) && !c.s.mem.poisoned (phys l) n)
def faults (c : Ctx) (need : Acc) (n a l : Nat) (kind : Nat) : Bool :=
  match c.s.access c.insetId need (c.address a l) n with
  | .ok _ => false
  | .error f => decide (f.kind = kind)

/-! ## The hypotheses are met -/

/-- An integer modifier and a floating one: whole words, and the 8-bit subfield 3 of the destination. -/
def intMod : XMod := { a := 0, b := 0, width := 1, index := 3, interp := 0, round := 0, sat := true }
def floatMod (r : BitVec 3) : XMod := { a := 0, b := 0, width := 1, index := 1, interp := 2, round := r, sat := false }

theorem witness_LaneIntegerResults :
    (binary (.iadd 103 0 103)).isSome ∧ laneMeets [0, 103] 103 (fun c => decide (c.cl.xmod = none)) (unit 0) ∧
    (unary (.mov 121 127)).isSome ∧ laneMeets [127] 121 plain (paired (atPort 3 7 (unit 0))) ∧
    (immediates (.ori 0 119 127)).isSome ∧ laneMeets [119] 0 (fun c => (immediate c.cl.ximm (127#11)).isSome)
      (clause (fun c => { c with ximm := some 1 }) (unit 0)) ∧
    laneMeets [] 103 (fun c => (immediate c.cl.ximm (0x3FFFF#18)).isSome) (unit 0) ∧
    laneMeets [104, 0] 0 plain (unit 0) ∧ laneMeets [] 103 plain (unit 0) := by decide +kernel

theorem witness_LaneIntegerSubfields :
    (subfield (.rotr 0 1 2)).isSome ∧ intModOk intMod.a ∧ intModOk intMod.b ∧ intMod.intDstOk ∧ intMod.round = 0 ∧
    laneMeets [1, 2] 0 (fun c => decide (c.cl.xmod = some intMod)) (prefixed intMod (unit 0)) ∧
    meets false (fun c => decide (c.cl.xmod = some (floatMod 0))) (prefixed (floatMod 0) (unit 0)) ∧
    ¬(intModOk (floatMod 0).a ∧ intModOk (floatMod 0).b ∧ (floatMod 0).intDstOk ∧ (floatMod 0).round = 0) ∧
    meets false (fun c => decide (c.cl.xmod = some { intMod with width := 0, index := 0, sat := false })
      && allFit [useSrc c.g.quota 1, useSrc c.g.quota 119] && readAll c (c.base true) [1, 119])
      (prefixed { intMod with width := 0, index := 0, sat := false } (unit 0)) ∧
    { intMod with width := 0, index := 0, sat := false }.dstZero := by decide +kernel

theorem witness_LaneAccumulationAndGenerator :
    (accumulate (.imad 103 0 119)).isSome ∧
    meets false (fun c => allFit [useSrc c.g.quota 0, useSrc c.g.quota 119, useV c.g.quota 103] && readAll c (c.base true) [0, 119]) (unit 0) ∧
    (accumulate (.bfi 104 0 0)).isSome ∧ (104 : Nat) ≤ (104#7).toNat ∧
    meets false (fun c => allFit [useVs c.g.quota 102 2, usePair c.g.quota 0]) (unit 0) := by decide +kernel

theorem witness_LanePairs :
    (pairs (.iaddx 102 0 102)).isSome ∧ (pairReg (.leaS3 0 118 127)).isSome ∧
    meets false (fun c => allFit [usePair c.g.quota 0, usePair c.g.quota 102, useVs c.g.quota 102 2]) (unit 0) ∧
    meets false (fun c => allFit [usePair c.g.quota 118, useSrc c.g.quota 127, useVs c.g.quota 0 2] && readAll c (c.base true) [127])
      (atPort 3 1 (unit 0)) ∧
    meets false (fun c => allFit [useSrc c.g.quota 103, useVs c.g.quota 0 2] && readAll c (c.base true) [103]) (unit 0) := by decide +kernel

theorem witness_LanePredicates :
    (predLogic (.pandn 23 0 23)).isSome ∧ meets false plain (unit 0) ∧
    meets false (fun c => decide (c.cl.xmod = none) && allFit [useSrc c.g.quota 0, useSrc c.g.quota 119] && readAll c (c.base true) [0, 119])
      (unit 0) := by decide +kernel

theorem witness_LaneFloatingResults :
    (floatBinary (.fadd 0 1 2)).isSome ∧ (floatFused (.ffnms 0 1 2)).isSome ∧ (floatUnary (.fneg 0 1)).isSome ∧
    (modifiers none true).isSome ∧ (modifiers (some (floatMod 5)) true).isSome ∧ (modifiers (some (floatMod 5)) false).isSome ∧
    laneMeets [1, 2] 0 (fun c => decide (c.cl.xmod = some (floatMod 5))
      && readAll c (afterDraw c (floatMod 5).floatDst (c.base true)) [1, 2]) (prefixed (floatMod 5) (unit 0)) ∧
    laneMeets [1] 103 (fun c => decide (c.cl.xmod = none)) (unit 0) := by decide +kernel

theorem witness_LanePackedAndConverted :
    (packed (.bmax2 0 1 2)).isSome ∧ laneMeets [1, 2] 0 (fun c => c.cl.xmod.isNone) (unit 0) ∧
    (floatMod 5).dstZero = false ∧
    laneMeets [1] 0 (fun c => decide (c.cl.xmod = some (floatMod 5))
      && readAll c (reseeded c (c.base true) (fun l => stepGen (c.g.lane l).gen)) [1]) (prefixed (floatMod 5) (unit 0)) ∧
    laneMeets [1, 2] 0 (fun c => qntSlotOk (c.slot 0) && qntSlotOk (c.slot 7)) (slots 0x0C00000000000000 (unit 0)) := by decide +kernel

theorem witness_convertible : convertible 0 (floatMod 5) ∧ convertible 4 intMod ∧ convertible 2 { intMod with width := 0, index := 0, sat := false } := by
  unfold convertible; decide +kernel

theorem witness_LaneLongResults :
    (divisions (.urem 0 1 2)).isSome ∧ (special (.gelu 0 1 2)).isSome ∧ laneMeets [1, 2] 0 flagOpen (unit 0) ∧
    laneMeets [1, 2] 121 (fun c => flagOpen c && (modifiers c.cl.xmod false).isSome) (paired (unit 0)) := by decide +kernel

theorem witness_LaneCrossLane :
    meets false (fun c => flagOpen c && allFit [useNoPort c.g.quota 119, useNoPort c.g.quota 0, useV c.g.quota 103]) (unit 0) := by decide +kernel

theorem witness_UniformResults :
    (uniBinary (.ualuShra 104 119 127)).isSome ∧
    meets true (fun c => allFit [useUni 119, useUni 127, useS 104] && ureadAll c (c.base false) [119, 127]) (atPort 3 9 (unit 0)) ∧
    meets true (fun c => (immediate c.cl.ximm (0x7FF#11)).isSome && (immediate c.cl.ximm (0#18)).isSome && allFit [useS 119]) (unit 0) ∧
    meets true (fun c => allFit [useSPair 104, useSPair 118, useUni 104, useSPair 104] && ureadAll c (c.base false) [104, 119]) (unit 0) := by
  decide +kernel
/-- Another group of the team. -/
def twoGroups (s : State) : State := { s with groups := s.groups ++ [startGroup { fetchLaunch with threads := 64 } 0 0 2 1 1] }

/-- A clause header of one word stands at an address, and the clause's own space is mapped. -/
def headed (a : Nat) (s : State) : State := { s with mem := s.mem.putDword a 0xFE000000FE000000 }

theorem witness_Branches :
    meets true (fun c => decide (c.cl.header.len ≤ c.cl.index + 1)
      && (match c.s.access c.insetId .x (branchTo c 3) 4 with | .ok p => decide ((c.s.mem.word p).extractLsb' 25 7 = 0x7F#7) | .error _ => false)
      && allFit [useSPair 118] && decide ((c.spair 118).toNat < 2 ^ 48 ∧ (c.spair 118).toNat % 4 = 0)) (headed 12 (mapped (unit 0))) ∧
    meets true (fun c => match c.s.access c.insetId .x (branchTo c 3) 4 with
      | .ok p => decide ((c.s.mem.word p).extractLsb' 25 7 ≠ 0x7F#7)
      | .error _ => false) (mapped (unit 0)) ∧
    meets true (fun c => decide (2 ^ 48 ≤ (c.spair 104).toNat) && decide ((c.spair 106).toNat % 4 ≠ 0)) (setS 1 0x10000 (setS 2 2 (unit 0))) := by
  decide +kernel

theorem witness_ExitLeaves : meets true plain (unit 0) ∧ meets true (fun c => decide (c.run ≠ 1)) (clause (fun c => { c with run := 0 }) (unit 0)) := by
  decide +kernel

theorem witness_QuietWordsAndRejoin :
    meets true (fun c => decide (c.cl.index + 1 < c.cl.header.len)) (longer (unit 0)) ∧
    ((unit 0).issuer.bind (unit 0).group?).any (fun g => g.clause.isSome && g.stop.isNone) ∧
    meets true (fun c => decide ((c.g.rejoin.getD 7 (0, false)).2 = false ∧ c.cl.header.len ≤ c.cl.index + 1)) (unit 0) ∧
    meets true (fun c => decide ((c.g.rejoin.getD 7 (0, false)).2 = true)) (group (fun g => { g with rejoin := g.rejoin.set 7 (3, true) }) (unit 0)) := by
  decide +kernel

theorem witness_SystemFormsAndRegisters :
    meets true (fun c => flagOpen c && allFit [useS 119, useUni 104, useUni 127, useV c.g.quota 103] && ureadAll c (c.base false) [104, 127])
      (atPort 3 5 (unit 0)) ∧
    meets true (fun c => decide ((c.readS 0).toNat = 1 ∧ (c.readS 1).toNat = 12 ∧ (8 : Int) ≤ c.s.quotaAfter c.g - 8 * 12
        ∧ c.s.namesFrom c.g.gid (c.s.quotaAfter c.g - 8 * 12).toNat = false)
      && ((c.s.teamGroups c.g.team).find? (fun h => decide (h.index = 1))).any (fun h => decide (h.gid ≠ c.g.gid ∧ h.exited = false
        ∧ c.s.quotaAfter h + 8 * 12 ≤ 104)))
      (setS 0 1 (setS 1 12 ({ twoGroups (unit 0) with groups := (twoGroups (unit 0)).groups.map (fun g => if g.gid = 3 then g else { g with quota := 8 }) }))) ∧
    meets true (fun c => decide ((c.readS 1).toNat = 0 ∨ (c.readS 0).toNat = c.g.index)
      && c.s.groups.all (fun h => decide (h.team = c.g.team → h.index = c.g.index → h.gid = c.g.gid))) (setS 0 0 (setS 1 0 (unit 0))) ∧
    meets true (fun c => (c.s.gridOf c.g).isSome && (c.s.insetOf c.g).isSome && (c.sysWide 0x10).isSome && (c.sysWide 0x0C).isSome) (unit 0) := by
  decide +kernel

theorem witness_EventsTaken :
    meets true (fun c => (unit 0).group? c.g.gid = some (((unit 0).group? 3).getD c.g) && (c.s.insetOf c.g).all (fun x => (c.s.sealingOf x.id).isNone)
      && (c.s.sealingOf 0).isNone && allFit [useS 119]) (unit 0) := by decide +kernel

/-- The group stands stopped behind an event. -/
def stopped (st : Stop) : State → State := group (fun g => { g with stop := some st })
def ordinary : Stop := { kind := 2, clauseStart := false, slot := none, after := false, run := 1, index := 0, length := 1, late := none }

theorem witness_EventReturn :
    ((stopped ordinary (unit 0)).group? 3).any (fun g => decide (g.stop = some ordinary) && decide (g.lanes.length = 32)
      && g.clause.any (fun cl => decide (cl.header.len = ordinary.length))) ∧ ordinary.late = none ∧ ordinary.slot = none ∧
    ordinary.after = false ∧ ordinary.clauseStart = false := by decide +kernel

/-- A record of a stopped group that awaits HQACK under number 5, and a second group that it stopped. -/
def record (gid : Option Nat) : Record :=
  { kind := 2, ack := true, sub := 0, level := 1, src := 1, stage := 0, grid := 1, cluster := 0, team := 0, group := 1, index := 0, evtag := 0,
    info := 0, addr := 0, route := 1, gid := gid, op := none, seq := some (1, 5), atStart := false, dest := none, awaits := true }
def awaiting (s : State) : State :=
  let t := twoGroups s
  { t with groups := t.groups.map (fun g => if g.gid = 3 then g else { g with stop := some ordinary }),
           outstanding := [{ inset := 1, seq := 5, record := record (some 4) }] }

theorem witness_HandlerForms :
    meets true (fun c => flagOpen c && (c.s.insetOf c.g).any (fun x => x.sys && x.armed.isNone) && allFit [useS 104]) (unit 0) ∧
    meets true (fun c => flagOpen c && (c.s.insetOf c.g).any (fun x => x.sys && decide (x.armed = some c.g.team))) (inset (fun x => { x with armed := some 2 }) (unit 0)) ∧
    meets true (fun c => flagOpen c && (c.s.insetOf c.g).any (·.sys) && allFit [useS 104, useUni 105, useUni 106] && c.g.charged.isNone
      && !c.s.unserved c.g.gid && ureadAll c (c.base false) [105, 106] && decide ((c.readS 2).toNat < 3)
      && (c.s.outstanding.find? (fun p => decide (p.inset = 1 ∧ p.seq = (c.readS 1).toNat))).any (fun o => o.record.op.isNone
        && decide (o.record.gid = some 4) && !o.record.atStart)
      && (((c.base false).release c.g.gid 3 []).group? 4).any (fun g => g.stop.isSome)) (setS 1 5 (setS 2 1 (awaiting (unit 0)))) ∧
    meets true (fun c => c.s.outstanding.all (fun o => decide (o.inset ≠ 1 ∨ o.seq ≠ (c.readS 1).toNat))) (setS 1 6 (awaiting (unit 0))) := by
  decide +kernel

/-- A long operation of the group in flight. -/
def op (id : Nat) (results : List RegWrite) (wait : Waiting) : LongOp :=
  { id := id, gid := 3, flag := 0, header := 0, index := 0, mask := 1, words := [], evtag := 0, operands := [], results := results,
    wait := wait, arrived := false, held := false, again := false, cycle := 0, overtaken := [] }
def withOp (o : LongOp) (s : State) : State := { s with ops := [o] }

theorem witness_LongOperationsComplete :
    ((withOp (op 9 [{ lane := some 31, reg := 103, mask := whole, value := 1, loses := false }, { lane := none, reg := 119, mask := whole, value := 2, loses := false }] .none)
      (unit 0)).op? 9).any (fun o => decide ((o.results.map (fun w => (w.lane, w.reg))).Nodup) && decide (o.wait = .none)
        && o.results.all (fun w => decide (w.lane = none → 104 ≤ w.reg))) ∧
    ((withOp (op 9 [] (.quotaMove 4 1)) (twoGroups (unit 0))).op? 9).any (fun o => decide (o.wait = .quotaMove 4 1 ∧ o.results = [])) ∧
    ((twoGroups (unit 0)).group? 4).isSome ∧ ((unit 0).group? 3).any (fun g => !g.exited) := by decide +kernel

/-- The group between clauses, its clause in memory at 0. -/
def between : State := group (fun g => { g with clause := none }) (mapped { unit 0 with mem := (unit 0).mem.putDword 0 0xFE04000000000000 })

theorem witness_ClausesAndFailures :
    (between.group? 3).any (fun g => g.stop.isNone && g.clause.isNone && !g.exited && between.mayIssue g && !(between.candidates g).isEmpty) ∧
    ((group (fun g => { g with rejoin := (g.rejoin.set 0 (3, true)).set 7 (3, true), lanes := g.lanes.mapIdx (fun l x => { x with parked := some (if l = 0 then 0 else 7) }) })
      (unit 0)).group? 3).any (fun g => g.stop.isNone && decide (g.parkMask ≠ 0) && g.lanes.all (fun x => x.exited || x.parked.isSome)
        && (List.range 8).all (fun j => !(g.rejoin.getD j (0, false)).2
          || (lanesOf (g.rejoin.getD j (0, false)).1).any (fun l => !(g.lane l).exited && decide ((g.lane l).parked ≠ some j)))) ∧
    ((unit 0).group? 3).any (fun g => decide (g.parkMask = 0)) ∧
    ((group (fun g => { g with recv := g.recv.set 3 [{ op := none, words := [] }] }) (unit 0)).group? 3).any
      (fun g => decide (g.recv.getD 3 [] = [] ++ [{ op := none, words := [] }])) := by decide +kernel
/-- An address in v2:v3 of every lane, and in s2:s3. -/
def pointing (a : Nat) (s : State) : State :=
  setV 2 (BitVec.ofNat 32 a) (setV 3 (BitVec.ofNat 32 (a / 2 ^ 32)) (setS 2 (BitVec.ofNat 32 a) (setS 3 (BitVec.ofNat 32 (a / 2 ^ 32)) (mapped s))))
def vaultAt (o : Nat) : Nat := Config.vaultBase + o

theorem witness_Loads :
    meets false (fun c => flagOpen c && allFit [useAddr true c.g.quota 2, useGroup true true c.g.quota 96 5]
      && accessOk c true [.r] 32 2 (fun _ => 0x3FFFFFE0) && freeOk c (c.accessLanes true) 32 false (fun _ => 0x3FFFFFE0)) (pointing 0x3FFFFFE0 (unit 0)) ∧
    meets true (fun c => flagOpen c && allFit [useAddr false c.g.quota 106, useGroup false true c.g.quota 104 0]
      && accessOk c false [.r] 1 106 (fun _ => vaultAt 1) && freeOk c (c.accessLanes false) 1 false (fun _ => vaultAt 1)) (pointing 0x40000001 (unit 0)) ∧
    meets false (fun c => flagOpen c && faults c .r 4 2 0 0x11 && decide (c.address 2 0 % 4 = 0)) (pointing 0x40000000000 (unit 0)) ∧
    meets false (fun c => flagOpen c && accessOk c true [.r] 4 2 (fun _ => vaultAt 0) && c.s.mem.poisoned (vaultAt 0) 4)
      { pointing 0x40000000 (unit 0) with mem := { (pointing 0x40000000 (unit 0)).mem with poison := [(vaultAt 0, 4)] } } ∧
    (2 : Nat) ≤ (2#2).toNat := by decide +kernel

theorem witness_Stores :
    meets false (fun c => flagOpen c && allFit [useAddr true c.g.quota 2, useGroup true false c.g.quota 103 2] && accessOk c true [.w] 4 2 (fun _ => vaultAt 0)
      && freeOk c (c.accessLanes true) 4 true (fun _ => vaultAt 0) && decide (c.g.written = 0)) (pointing 0x40000000 (unit 0)) ∧
    meets true (fun c => flagOpen c && allFit [useAddr false c.g.quota 106, useGroup false false c.g.quota 104 5]
      && accessOk c false [.w] 32 106 (fun _ => Config.hostBase) && freeOk c (c.accessLanes false) 32 true (fun _ => Config.hostBase))
      (pointing 0x100000000 (unit 0)) := by decide +kernel

theorem witness_AccessFaults :
    meets false (fun c => allFit [useAddr true c.g.quota 2, useGroup true true c.g.quota 4 2] && decide (2 ^ 48 ≤ c.address 2 0)) (pointing (2 ^ 48) (unit 0)) ∧
    meets false (fun c => decide (c.address 2 0 < 2 ^ 48 ∧ c.address 2 0 % 4 ≠ 0)) (pointing (2 ^ 48 - 1) (unit 0)) ∧
    meets false (fun c => faults c .w 4 2 0 0x13) (pointing 0xC0000000 (unit 0)) ∧
    meets false (fun c => accessOk c true [.r] 4 2 (fun _ => 0)) (pointing 0 (unit 0)) := by decide +kernel

/-- One tagged access at the vaults. -/
def tagged (kind size : Nat) : LongOp :=
  op 9 [] (.tagged kind size 3 4 [{ lane := some 0, vaddr := 0x40000000, address := vaultAt 8, lo := 1, hi := 2 }])

theorem witness_TaggedAccesses :
    (taggedKind (.ldtPeektag 4 2 1 3)).isSome ∧
    meets false (fun c => flagOpen c && allFit [useAddr true c.g.quota 2, useGroup true true c.g.quota 4 3] && accessOk c true [.r] 8 2 (fun _ => vaultAt 8)
      && accessOk c true [.w] 8 2 (fun _ => vaultAt 8) && vaultBacked (vaultAt 8) && freeOk c [] 8 true (fun _ => 0) && decide (c.g.written = 0)
      && !c.s.unreachable (vaultAt 8)) (pointing 0x40000008 (unit 0)) ∧
    meets false (fun c => accessOk c true [.r] 4 2 (fun _ => 0x40) && !vaultBacked 0x40) (pointing 0x40 (unit 0)) ∧
    ((withOp (tagged 1 8) (unit 0)).group? 3).any (fun g => g.stop.isNone
      && (taggedWords (vaultAt 8) 8).all (fun w => !(withOp (tagged 1 8) (unit 0)).conflicts g w true)) ∧
    vaultAt 8 % 8 = 0 ∧ (withOp (tagged 1 8) (unit 0)).mem.poisoned (vaultAt 8) 8 = false := by decide +kernel

theorem witness_mayServe : mayServe (unit 0).mem 0 [vaultAt 0] ∧ mayServe (unit 0).mem 1 [vaultAt 0] ∧ ¬mayServe (unit 0).mem 3 [vaultAt 0] :=
  ⟨by show ∀ w ∈ _, _; decide +kernel, by show ∀ w ∈ _, _; decide +kernel, by show ¬∀ w ∈ _, _; decide +kernel⟩

theorem witness_Atomics :
    meets false (fun c => flagOpen c && allFit [useAddr true c.g.quota 2, useAtomB true c.g.quota 4 10, useGroup true true c.g.quota 6 2,
        useAtomB true c.g.quota 4 0, useNoPort c.g.quota 4]
      && accessOk c true [.r, .w] 4 2 (fun _ => vaultAt 0) && freeOk c (c.accessLanes true) 4 true (fun _ => vaultAt 0) && decide (c.accessLanes true = [0])
      && decide (backing (vaultAt 0) ≠ .host) && c.cl.xsco.isNone && decide (c.g.atomics.length + (lanesOf c.act).length ≤ 32)) (alone (pointing 0x40000000 (unit 0))) ∧
    meets true (fun c => flagOpen c && allFit [useAddr false c.g.quota 106, useAtomB false c.g.quota 108 13, useGroup false true c.g.quota 119 2]
      && accessOk c false [.r, .w] 4 106 (fun _ => 0) && decide (c.accessLanes false = [0]) && c.g.charged.isNone && allFit [useS 119]) (pointing 0 (unit 0)) ∧
    ((unit 0).groups.map (·.index)).Nodup ∧ (unit 0).groups.all (fun g => decide (g.index < 32)) ∧
    ([({ address := 0, op := 0, phys := vaultAt 0, sum := 1 } : AtomicEntry), { address := 4, op := 0, phys := vaultAt 4, sum := 1 }].Pairwise
      (fun e f => e.phys + 4 ≤ f.phys ∨ f.phys + 4 ≤ e.phys)) := by decide +kernel
/-- A valid tile configuration: its rows less one, the bytes of a row less one, the element-width code. -/
def cfg (rows rowb ew : Nat) : Word := BitVec.ofNat 32 (2 ^ 31 + ew * 2 ^ 16 + (rowb - 1) * 2 ^ 8 + (rows - 1))
def setTile (n : Nat) (w : Word) : State → State := group (fun g => { g with tileCtl := Sparse.set 0 g.tileCtl n w })
def ctl (c : Ctx) (n : Nat) : TileCfg := tileCfg (Sparse.get 0 c.g.tileCtl n)
def tilesOk (c : Ctx) (ts : List Nat) : Bool := ts.all (fun t => decide (t < c.g.tileQuota)) && !c.s.tileBusy c.g.gid ts true
def longOpen (c : Ctx) : Bool := decide (longFlag c ≠ 15 ∧ c.g.flag (longFlag c) < 63)
def whole32 (c : Ctx) (n : Nat) : Bool := (ctl c n).valid && decide ((ctl c n).ew = 3 ∧ (ctl c n).rowb = 128 ∧ (ctl c n).rows = 32)

theorem witness_TileControlAndMoves :
    meets true (fun c => longOpen c && allFit [useS 104] && tilesOk c [15] && !c.s.tileBusy c.g.gid [15] false
        && decide ((c.readS 0).extractLsb' 18 13 = 0 ∧ (c.readS 0).extractLsb' 15 1 = 0 ∧ (c.readS 0).extractLsb' 5 3 = 0
          ∧ 8 * (((c.readS 0).extractLsb' 8 7).toNat + 1) % (4 * 2 ^ ((c.readS 0).extractLsb' 16 2).toNat) = 0)) (setS 0 (cfg 32 128 3) (unit 0)) ∧
    meets true (fun c => decide ((c.readS 0).extractLsb' 5 3 ≠ 0 ∧ c.g.tileQuota ≤ 16)) (setS 0 0x20 (unit 0)) ∧
    meets true (fun c => longOpen c && allFit [useSPair 106, useUni 104] && ureadAll c (c.base false) [104] && tilesOk c [0] && (ctl c 0).valid
        && decide ((ctl c 0).ew ≠ 0 ∧ 8 * (ctl c 0).rowb % (4 * 2 ^ (ctl c 0).ew) = 0 ∧ (c.spair 106).toNat % 4 = 0 ∧ (c.readS 0).toNat % 4 = 0)
        && [(Acc.r, false), (.r, true), (.w, false)].all (fun n =>
          let rows := memoryRows (ctl c 0) n.2 (c.spair 106).toNat (c.readS 0).toNat
          let span (r : Nat) := c.s.checkSpan c.insetId n.1 (rows.getD r (0, 0)).1 (rows.getD r (0, 0)).2
          (List.range rows.length).all (fun r => (span r).2.isNone && (span r).1.all (fun p => !c.s.mem.poisoned p.1 p.2))
            && (tilePieces (ctl c 0) n.2 rows.length (fun r => (span r).1)).all (fun ps => ps.all (fun p => !c.s.unreachable p.1
              && (wordsOf p.1 p.2).all (fun w => !c.s.conflicts c.g w true)))) && c.g.charged.isNone && !c.s.unserved c.g.gid)
      (setTile 0 (cfg 2 8 3) (setS 0 8 (pointing 0x40000000 (unit 0)))) ∧
    meets false (fun c => longOpen c && allFit [useRun c.g.quota 96 8] && tilesOk c [15] && (ctl c 15).valid && decide (4 * (24 + 7 + 1) ≤ (ctl c 15).rowb))
      (setTile 15 (cfg 32 128 0) (unit 0)) := by decide +kernel

theorem witness_MatrixResults :
    meets true (fun c => longOpen c && decide (c.run = BitVec.allOnes 32) && matrixOk c.g (c.slot 0) 0 0 1 (some 2) 0 && matrixOk c.g (c.slot 0) 2 0 1 (some 2) 0
        && tilesOk c [0, 1, 2])
      (slots 0x0C00000000000000 (setTile 0 (cfg 32 128 3) (setTile 1 (cfg 32 32 1) (setTile 2 (cfg 32 32 1) (unit 0))))) ∧
    meets true (fun c => longOpen c && decide (c.run = BitVec.allOnes 32 ∧ (c.slot 0).asym = true) && matrixOk c.g (c.slot 0) 1 0 1 (some 2) 3 && tilesOk c [0, 1, 2, 3])
      (slots 0x2023800000000000 (setTile 0 (cfg 32 128 3) (setTile 1 (cfg 32 32 1) (setTile 2 (cfg 32 32 1) (setTile 3 (cfg 32 128 3) (unit 0)))))) ∧
    meets true (fun c => decide (c.run ≠ BitVec.allOnes 32)) (alone (unit 0)) := by decide +kernel

theorem witness_TileRowOperations :
    (rowMapped (.tmask 0 1 2 0 31)).isSome ∧
    meets true (fun c => longOpen c && tilesOk c [0, 1, 2] && whole32 c 0 && whole32 c 1 && whole32 c 2 && decide (ctl c 0 = ctl c 1))
      (setTile 0 (cfg 32 128 3) (setTile 1 (cfg 32 128 3) (setTile 2 (cfg 32 128 3) (unit 0)))) ∧
    meets true (fun c => longOpen c && tilesOk c [0, 1] && slotWellFormed (c.slot 0) && decide ((c.slot 0).geom = 0 ∧ (c.slot 0).elem ≠ 12
        ∧ (ctl c 1).ew = elemEw (c.slot 0).elem ∧ elemBits (c.slot 0).elem * (32 + 32) ≤ 8 * (ctl c 1).rowb) && whole32 c 0 && decide ((ctl c 1).rows = (ctl c 0).rows))
      (slots 0x0C00000000000000 (setTile 0 (cfg 32 128 3) (setTile 1 (cfg 32 128 1) (unit 0)))) := by decide +kernel
def caughtUpB (c : Ctx) : Bool := c.g.charged.isNone && !c.s.unserved c.g.gid && !c.s.unserved c.g.gid
def objectOk (c : Ctx) (a : Nat) (needs : List Acc) (align n : Nat) (write : Bool) (p : Nat) : Bool :=
  decide ((c.spair a).toNat % align = 0) && needs.all (fun q => match c.s.access c.insetId q (c.spair a).toNat 1 with
    | .ok x => decide (x = p)
    | .error _ => false) && vaultBacked p && caughtUpB c && !c.s.unreachable p && (wordsOf p n).all (fun x => !c.s.conflicts c.g x write)

theorem witness_BarriersAndFences :
    (teamBarrier .barTeam).isSome ∧ (clusterBarrier .waitCluster).isSome ∧
    meets true (fun c => flagOpen c && (c.s.teamOf c.g).any (fun t => (c.s.cluster? t.cluster).isSome) && c.g.pendTeam.isNone && c.g.pendCluster.isNone
      && caughtUpB c && decide (c.g.written = 0)) (unit 0) ∧
    meets true (fun c => decide (c.g.pendTeam ≠ none ∧ c.g.pendCluster ≠ none)) (group (fun g => { g with pendTeam := some 0, pendCluster := some 0 }) (unit 0)) ∧
    meets true (fun c => caughtUpB c && decide (c.g.written ≠ 0) && c.s.markers.all (fun m => decide (m.1 ≠ c.g.gid)))
      (group (fun g => { g with written := 1 }) (unit 0)) ∧
    (3, 0) ∈ [(3, 0), (3, 63)] ∧ [(3, 0), (3, 63)].Nodup ∧ (∃ m ∈ [(3, 0), (3, 63)], m.1 = 3 ∧ m.2 ≠ 0) ∧ (∀ m ∈ [(3, 0)], m.1 = 3 → m.2 = 0) := by decide +kernel

theorem witness_BarrierObjects :
    meets true (fun c => flagOpen c && allFit [useSPair 106, useS 104] && objectOk c 106 [.w, .r] 16 16 true (vaultAt 0) && decide (0 ≤ (c.readS 0).toInt))
      (pointing 0x40000000 (unit 0)) ∧
    meets true (fun c => decide ((c.readS 0).toInt < 0)) (setS 0 0x80000000 (unit 0)) ∧
    meets true (fun c => decide ((c.spair 106).toNat < 2 ^ 48 ∧ (c.spair 106).toNat % 16 ≠ 0)) (pointing 0x40000008 (unit 0)) := by decide +kernel

theorem witness_WaitsAtVault :
    waitsOn (.bo (vaultAt 0) 1 104) = some (vaultAt 0, 16) ∧ waitsOn (.ticket (vaultAt 0) 1 104) = some (vaultAt 0, 8) ∧
    waitsOn (.pointer (vaultAt 0) 1 104) = some (vaultAt 0, 8) ∧ (waitOver (unit 0).mem (.bo (vaultAt 0) 1 104)).isSome ∧
    waitOver (unit 0).mem (.bo (vaultAt 0) 0 104) = none ∧ waitOver (unit 0).mem (.ticket (vaultAt 0) 1 104) = none ∧
    waitOver (unit 0).mem (.pointer (vaultAt 0) 1 104) = none ∧
    ((unit 0).group? 3).any (fun g => g.stop.isNone && (wordsOf (vaultAt 0) 16).all (fun w => !(unit 0).conflicts g w false)) := by decide +kernel

theorem witness_TicketsAndPointers :
    meets true (fun c => flagOpen c && allFit [useSPair 106, useS 104, useSPair 108] && objectOk c 106 [.w, .r] 8 8 true (vaultAt 8)
      && decide (c.s.mem.word (vaultAt 8) = c.s.mem.word (vaultAt 12)) && (match c.s.access c.insetId .r (c.spair 106).toNat 1 with
        | .ok p => inVault (c.s.coreOf c.g) p 8 && (wordsOf p 8).all (fun w => !c.s.meetsGroup c.g w false)
        | .error _ => false)) (pointing 0x40000008 (unit 0)) ∧
    meets true (fun c => decide (c.s.mem.word (vaultAt 8) ≠ c.s.mem.word (vaultAt 12)) && (c.readS 0).getLsbD 0 && decide (c.s.ticketWords (vaultAt 8) < 64))
      (setS 0 1 { pointing 0x40000008 (unit 0) with mem := (pointing 0x40000008 (unit 0)).mem.putWord (vaultAt 8) 5 }) ∧
    ((unit 0).team? 2).any (fun t => t.hasRoom 3 1 && decide (t.residency ≠ .freed)) ∧ (unit 0).notices = [] := by decide +kernel

/-- A grid with the deque capability, and a deque of 16 entries whose owner the group's team is. -/
def dequed (owner : Word) : State :=
  let s := setS 0 4 (pointing 0x40000020 (unit 0))
  { s with grids := s.grids.map (fun g => { g with launch := { g.launch with deque := true } }),
           mem := (s.mem.putWord (vaultAt 0x28) 4).putWord (vaultAt 0x2C) owner }

theorem witness_Deques :
    meets true (fun c => flagOpen c && allFit [useSPair 106, useS 104, useSPair 108] && objectOk c 106 [.w, .r] 32 32 true (vaultAt 0x20)
      && (c.s.gridOf c.g).any (fun g => g.launch.deque) && decide ((c.readS 0).toNat % 32 = 4 ∧ c.s.mem.word (vaultAt 0x2C) = c.ownerWord)
      && (let r := c.s.checkSpan c.insetId .w (c.spair 106).toNat (32 + 8 * 16); r.2.isNone && r.1.all (fun q => inVault 0 q.1 q.2))) (dequed (((unit 0).ctx? false).map (·.ownerWord) |>.getD 0)) ∧
    meets true (fun c => decide (c.s.mem.word (vaultAt 0x2C) ≠ c.ownerWord)) (dequed 0x7FFFFFFF) ∧
    meets true (fun c => (c.s.gridOf c.g).all (fun g => !g.launch.deque)) (unit 0) := by decide +kernel
/-- s registers from s0 up. -/
def setSs (ws : List Nat) (s : State) : State := (ws.zipIdx).foldl (fun s p => setS p.2 (BitVec.ofNat 32 p.1) s) s
def onCopy (s : State) (ws : List Nat) : State := setSs ws (mapped s)
def spanOk (c : Ctx) (need : Acc) (a n : Nat) : Bool := (c.s.checkSpan c.insetId need a n).2.isNone
def localOk (c : Ctx) (need : Acc) (a n : Nat) : Bool :=
  spanOk c need a n && (c.s.checkSpan c.insetId need a n).1.all (fun p => inVault (c.s.coreOf c.g) p.1 p.2)
def namedOk (c : Ctx) (need : Acc) (a align : Nat) : Bool :=
  decide (a % align = 0) && (match c.s.access c.insetId need a 1 with
    | .ok p => vaultBacked p
    | .error _ => false)
def localWord (c : Ctx) (need : Acc) (a n : Nat) : Bool :=
  decide (a % n = 0) && (match c.s.access c.insetId need a n with
    | .ok p => inVault (c.s.coreOf c.g) p n
    | .error _ => false)
def endsOk (c : Ctx) (sa sn da dn : Nat) : Bool :=
  decide (sa % 4 = 0 ∧ da % 4 = 0 ∧ (sn = 0 ∨ dn = 0 ∨ da + dn ≤ sa ∨ sa + sn ≤ da)) && (localOk c .w da dn || localOk c .r sa sn)
def issueOk (c : Ctx) : Bool := longOpen c && caughtUpB c && decide (c.g.written = 0)
def v0 : Nat := 0x40000000

theorem witness_EngineIssueCopies :
    meets true (fun c => issueOk c && allFit [useDesc 104 7, useSPair 112] && namedOk c .w (c.spair 112).toNat 16 && localWord c .w (long c 104 5) 8
      && endsOk c (long c 104 0) 0x100 (long c 104 2) 0x100) (onCopy (unit 0) [0x2000, 0, v0, 0, 0x100, v0 + 0x400, 0, 0, v0 + 0x800, 0]) ∧
    meets true (fun c => issueOk c && endsOk c (long c 104 0) 0 (long c 104 2) 0 && namedOk c .w (c.spair 110).toNat 16)
      (onCopy (unit 0) [v0, 0, 0x2000, 0, 0, 0, v0 + 0x800, 0]) ∧
    meets true (fun c => issueOk c && allFit [useDesc 104 8, useSPair 112] && slotWellFormed (c.slot 0) && decide ((c.slot 0).geom = 0 ∧ (c.slot 0).elem ≠ 12)
      && endsOk c (long c 104 0) 8 (long c 104 2) 8 && localWord c .w (long c 104 6) 8 && namedOk c .w (c.spair 112).toNat 16)
      (slots 0x0C00000000000000 (onCopy (unit 0) [0x2000, 0, v0, 0, 8, 0x400, v0 + 0x400, 0, v0 + 0x800, 0])) ∧
    meets true (fun c => issueOk c && allFit [useDesc 104 9, useSPair 114] && decide (reg c 104 6 < 2 ^ 16 ∧ reg c 104 7 < 2 ^ 20)
      && localOk c .r (long c 104 0) 0x40 && spanOk c .w (long c 104 2) 0x40 && (c.s.partitionCores 1 0).any (fun k =>
        (c.s.checkSpan c.insetId .w (long c 104 2) 0x40).1.all (fun p => inVault k p.1 p.2)) && namedOk c .w (c.spair 114).toNat 16
      && namedOk c .w (long c 104 2 + reg c 104 8) 16) (onCopy (unit 0) [v0, 0, v0 + 0x1000, 0, 0x40, 0x40, 1, 0, 0x100, 0, v0 + 0x800, 0]) := by decide +kernel

theorem witness_EngineIssueRows :
    meets true (fun c => issueOk c && allFit [useDesc 104 9, useSPair 114] && localOk c .r (long c 104 4) 8 && localOk c .r (long c 104 7) 8
      && localOk c .w (long c 104 7) 8 && namedOk c .w (c.spair 114).toNat 16)
      (onCopy (unit 0) [0x2000, 0, 0x10, 4, v0, 0, 2, v0 + 0x100, 0, 0, v0 + 0x800, 0]) ∧
    (collectives (.bcast 104 110)).isSome ∧
    meets true (fun c => issueOk c && allFit [useDesc 104 6, useSPair 110] && localOk c .r (long c 104 0) 4 && localOk c .w (long c 104 2) 4
      && decide (0 < c.clusterSize ∧ reg c 104 5 % 64 ∈ [0, 1, 2, 14] ∧ reg c 104 4 = 1) && namedOk c .w (c.spair 110).toNat 16)
      (onCopy (unit 0) [v0, 0, v0 + 0x100, 0, 1, 0, v0 + 0x800, 0]) ∧
    meets true (fun c => issueOk c && decide (c.run = BitVec.allOnes 32) && matrixOk c.g (c.slot 0) 0 0 1 none 0 && tilesOk c [0, 1]
      && localOk c .r (c.spair 104).toNat (32 * 32) && namedOk c .w (c.spair 106).toNat 16)
      (slots 0x0C00000000000000 (setTile 0 (cfg 32 128 3) (setTile 1 (cfg 32 32 1) (onCopy (unit 0) [v0, 0, v0 + 0x800, 0])))) := by decide +kernel

/-- A chain of the seven kinds of entry and an END behind them. -/
def chain : State :=
  let entry (op n x y : Nat) : List Nat := [op, n, x, 0, y, 0, 1, 0]
  let words := entry 1 4 (v0 + 0x2000) (v0 + 0x3000) ++ entry 2 0 (v0 + 0x2010) 0 ++ entry 3 1 (v0 + 0x2010) 0 ++ entry 4 0 (v0 + 4) 0 ++
    entry 5 0 (v0 + 4) (v0 + 8) ++ entry 6 0 (v0 + 8) 5 ++ entry 7 0 (v0 + 16) 5 ++ entry 0 0 0 0
  let s := onCopy (unit 0) [v0 + 0x1000, 0, 8, 0, v0 + 0x800, 0]
  { s with mem := (words.zipIdx).foldl (fun m p => m.putWord (vaultAt (0x1000 + 4 * p.2)) (BitVec.ofNat 32 p.1)) s.mem }

theorem witness_EngineIssueChain :
    meets true (fun c =>
      let bs := c.s.mem.pieceBytes (c.s.checkSpan c.insetId .r (long c 104 0) 256).1
      let w (i j : Nat) : Nat := entryWord bs i j
      issueOk c && allFit [useDesc 104 3, useSPair 108] && localOk c .r (long c 104 0) 256 && namedOk c .w (c.spair 108).toNat 16
      && (List.range 7).all (fun i => decide (w i 0 = i + 1 ∧ w i 7 = 0)) && decide (w 7 0 = 0 ∧ w 7 7 = 0)
      && endsOk c (w 0 2) 4 (w 0 4) 4 && namedOk c .r (w 1 2) 16 && namedOk c .w (w 2 2) 16 && namedOk c .w (w 3 2) 4 && namedOk c .r (w 4 2) 4
      && localWord c .w (w 4 4) 4 && localWord c .r (w 5 2) 8 && localWord c .w (w 6 2) 8
      && (c.s.checkSpan c.insetId .r (long c 104 0) 256).1.all (fun p => (wordsOf p.1 p.2).all (fun x =>
        !c.s.engineConflict (c.newCommand 5 0 (24 * 16) (c.desc 104 3) (some (vaultAt 0x800))) x false))) chain := by decide +kernel

/-- A command of the group: bytes from HBM into the vault. -/
def command (kind : Nat) (state : CmdState) (dst : Nat) : Command :=
  { id := 20, core := 0, gid := 3, grid := 1, inset := 1, team := 2, kind := kind, channel := 0, desc := [0, 0, 0, 0, 1, 0], object := some (vaultAt 0x800),
    wp := none, ranges := [(vaultAt 0, 0x40, true)], region := [], state := state, order := 5, src := { base := 0x2000, length := dst, pieces := none },
    dst := { base := v0, length := dst, pieces := some [(vaultAt 0, dst)] }, list := { base := 0, length := 0, pieces := none }, progress := 0, inner := 0,
    delivered := 0, entries := [], begun := false, waiting := none, targets := [], stopAt := none, sequence := 1, matched := false, buffer := [],
    packages := 0, run := 1, origin := { record none with kind := 0x20 } }
def withCommands (cs : List Command) (s : State) : State := { s with commands := cs }

theorem witness_EngineSteps :
    ((withCommands [command 0 .issued 0x40] (mapped (unit 0))).command? 20).any (fun k => !k.finished
      && (withCommands [command 0 .issued 0x40] (mapped (unit 0))).engineRoom k) ∧
    64 ≤ ((List.replicate 64 { command 0 .accepted 0x40 with id := 30 }).filter (fun d => decide (d.core = 0 ∧ d.state = .accepted))).length ∧
    rangesClash (vaultAt 0, 0x40, true) (vaultAt 0x3C, 4, false) = true ∧ rangesClash (vaultAt 0, 0x40, true) (vaultAt 0x40, 4, true) = false ∧
    (command 0 .running 0).finished = true ∧ (command 5 .running 0).finished = true := by decide +kernel

/-- A running copy, with its space mapped and without. -/
def copying : State := withCommands [command 0 .running 0x40] (mapped (unit 0))
def pieces (r : Except EngineFail (List (Nat × Nat))) : List (Nat × Nat) :=
  match r with
  | .ok ps => ps
  | .error _ => []

theorem witness_EngineAccess :
    let k := command 0 .running 0x40
    let sp := pieces (copying.reach k .r k.src 0 0x40)
    let dp := pieces (copying.reach k .w k.dst 0 0x40)
    copying.command? 20 = some k ∧ lineBytes k = 0x40 ∧ copying.engineClash k sp false = none ∧ copying.engineClash k dp true = none ∧
    sp.all (fun p => !copying.mem.poisoned p.1 p.2) = true ∧ dp.all (fun p => (packageOf p.1).isNone) = true ∧
    (copying.mem.pieceBytes sp).length = 0x40 ∧ (dp.map (·.2)).sum = 0x40 ∧ copying.bufferFull = false ∧
    ((match (withCommands [k] (unit 0)).readSpan k k.src 0 0x40 with
      | .error f => (failure f).isSome
      | .ok _ => false) : Bool) = true := by decide +kernel

/-- A chain whose first entry waits; a cluster of one team whose collective is matched. -/
def waitEntry : ChainEntry :=
  { op := 2, n := 0, x := v0, y := 0, v := 0, px := vaultAt 0, py := 0, src := { base := 0, length := 0, pieces := none },
    dst := { base := 0, length := 0, pieces := none }, ranges := [] }
def chained : Command := { command 5 .running 0 with entries := [waitEntry, { waitEntry with op := 7 }] }
def gathering : Command :=
  { command 7 .accepted 4 with sequence := 1, src := { base := v0 + 0x100, length := 4, pieces := some [(vaultAt 0x100, 4)] } }

theorem witness_ChainsAndCollectives :
    (withCommands [chained] (unit 0)).tablePlaces (backing waitEntry.px) < 2048 ∧ chained.begun = false ∧
    (withCommands [chained] (unit 0)).engineClash chained [(waitEntry.px, 16)] false = none ∧
    ((withCommands [gathering] (unit 0)).team? 2).any (fun tm => ((withCommands [gathering] (unit 0)).grid? 1).any (fun d =>
        decide (d.launch.width * d.launch.height = 1))
      && (((withCommands [gathering] (unit 0)).clusterTeams tm.cluster).find? (fun u => decide (u.index = 0))).any (fun u =>
        decide ((withCommands [gathering] (unit 0)).participant 1 u.tid = some gathering) && !(withCommands [gathering] (unit 0)).leftBefore 1 u)) ∧
    gathering.agrees gathering ∧ (withCommands [gathering] (unit 0)).mayBegin gathering ∧
    ((match (withCommands [gathering] (unit 0)).readSpan gathering gathering.src 0 4 with
      | .ok _ => true
      | .error _ => false) : Bool) = true := by decide +kernel
/-- A sweep of unit 0 over two pages of one token each, whose page list stands at the vault's start, and a query of both pages. -/
def sweep (pages : Nat) : Sweep :=
  { sequence := 1, inset := 1, desc := [0, BitVec.ofNat 32 pages, 0, 1, 0], next := 0, highest := none, fetched := 0, committed := 0, closed := false,
    cancelled := false, subs := [] }
def query : Subscription :=
  { query := 7, number := 0, list := [0, 1], core := 0, team := 2, ring := v0 + 0x100000, slots := [vaultAt 0x100000], limit := 2, format := 0, output := v0 + 0x200000,
    object := vaultAt 0x300, owner := 2, acc := none, due := [], masked := [], held := [], served := false, finished := false, barred := false }
def unitWith (v : Survey) (s : State) : State := { s with surveys := s.surveys.set 0 v }
def surveyOf (s : State) : Survey := s.survey 0
def running (w : Sweep) : Survey := { Survey.reset with running := some w }
/-- The list has page 0 at VA 0x20000 and page 1 a hole; or page 0 a hole. -/
def paged (s : State) : State := { s with mem := s.mem.putDword (vaultAt 0) 0x20000 }
def partialOf : Accumulator := { m := 0x3F800000, l := 0x3F800000, o := List.replicate 32 0, nonfinite := false }

theorem witness_SurveyInstructions :
    meets true (fun c => issueOk c && allFit [useDesc 104 5, useDesc 104 9, useDesc 115 4] && decide ((c.s.survey 7).running = none ∧ reg c 104 3 < 2 ^ 16)) (onCopy (unit 0) [7, 0x100, 0, 0xFFFF, 0]) ∧
    (let v : Survey := { running (sweep 0) with pending := some { sweep 0 with sequence := 2 } }
     v.running ≠ none ∧ v.pending ≠ none) ∧
    meets true (fun c => issueOk c && allFit [useDesc 104 9, useSPair 114] && decide (c.destination (reg c 104 3 % 16) = some 2) && decide (long c 104 7 % 4 = 0)
      && namedOk c .w (c.spair 114).toNat 16 && spanOk c .r (long c 104 1) 4
      && (c.s.findSweep c.insetId (reg c 104 0 % 2 ^ 16)).any (fun q => decide (q.1 ≠ .last) && !q.2.closed && decide (q.2.subs = [] ∧ q.2.highest = none ∧ q.2.count = 2))
      && decide (pagesOf c (c.s.checkSpan c.insetId .r (long c 104 1) 4).1 2 = [0, 1]) && (c.s.ringSlots c.insetId 0 (long c 104 4)).isSome)
      (let s := onCopy (unit 0) [1, v0, 0, 0x10000, v0 + 0x100000, 0, 2, v0 + 0x200000, 0, 0, v0 + 0x800, 0]
       unitWith (running (sweep v0)) { s with mem := s.mem.putDword (vaultAt 0) 0x10000 }) ∧
    meets true (fun c => issueOk c && allFit [useDesc 104 2] && (match c.s.access c.insetId .r (long c 104 0) 16 with
        | .ok _ => true
        | .error _ => false) && localOk c .r (long c 104 0) 16) (onCopy (unit 0) [v0 + 16, 0]) ∧
    meets true (fun c => issueOk c && allFit [useDesc 104 1] && (sweepOf c 104).any (fun q => decide (q.1 = .running) && !q.2.closed))
      (unitWith (running (sweep v0)) (onCopy (unit 0) [1])) ∧
    meets true (fun c => (sweepOf c 104).isNone) (onCopy (unit 0) [1]) ∧
    ((unitWith (running (sweep v0)) (unit 0)).survey 0).running = some (sweep v0) := by decide +kernel

theorem witness_SurveyEvents :
    ({ Survey.reset with pending := some (sweep v0) } : Survey).running = none ∧
    ((match (unitWith (running { sweep v0 with subs := [query] }) (paged (mapped (unit 0)))).nextPage 0 { sweep v0 with subs := [query] } with
      | .ready p _ => decide (p = 0)
      | _ => false) : Bool) = true ∧
    ((match (unitWith (running { sweep v0 with subs := [query] }) (mapped (unit 0))).nextPage 0 { sweep v0 with subs := [query] } with
      | .hole p => decide (p = 0)
      | _ => false) : Bool) = true ∧ (∃ x ∈ query.list, 0 < x) ∧ (∀ x ∈ query.list, x < (sweep v0).count) ∧ query.list.Pairwise (· < ·) ∧
    query.list.length * (sweep v0).tokens ≤ query.limit ∧
    ((match (unitWith (running { sweep v0 with subs := [query] }) (unit 0)).nextPage 0 { sweep v0 with subs := [query] } with
      | .fails p _ _ => decide (p = 0)
      | _ => false) : Bool) = true ∧ (unit 0).bufferFull = false ∧ ((unit 0).inset? 1).isSome ∧
    ((unit 0).team? 2).any (fun t => decide (t.residency ≠ .freed) && t.hasRoom 1 2 && t.hasRoom 0 2) ∧ (unit 0).ops = [] ∧
    (let e : Staging := { sweep := 1, core := 0, slot := 0, phys := vaultAt 0x100000, page := 0, bytes := [], landed := false, owed := [0], told := [] }
     ({ running { sweep v0 with subs := [query] } with staging := [e] } : Survey).staging = [e] ∧ (sweep v0).sequence = e.sweep) ∧
    (let n : Notice := { id := 5, source := none, team := 2, port := 3, words := [1] }
     [n].find? (fun m => decide (m.id = n.id)) = some n) ∧
    (let q := { query with due := [0], held := [(0, partialOf)] }
     findKey q.held 0 = some partialOf ∧ ({ sweep v0 with subs := [q], next := 1, highest := some 0 } : Sweep).nextPage q = some 1 ∧ (unit 0).teamGone q.team = false) ∧
    (fmtOf query.format).isSome ∧ (f32 0).isZero = true ∧ (f32 0x3F800000).isZero = false := by decide +kernel

/-- A table of two nodes, and a TOL instruction that the unit has not taken. -/
def nodes : List (Nat × TolNode) := [(0, { operands := [], tau := 0, tight := false }), (63, { operands := [(0, 4095)], tau := 1, tight := true })]
def atUnit (minor : Nat) (ws : List Word) : State := withOp (op 9 [] (.tol ws minor 104)) (team (fun t => { t with tol := nodes }) (unit 0))

theorem witness_nodesOk : nodesOk nodes := by unfold nodesOk; decide +kernel
theorem witness_nodeLegal : nodeLegal (63 + 0 * 256) 1 0 1 ∧ nodeLegal 0 0 0 0 := by unfold nodeLegal; decide +kernel
theorem witness_DemandIsLeast : nodesOk nodes ∧ (findKey nodes 63).isSome = true ∧ (4095 : Nat) ≤ 4095 := ⟨witness_nodesOk, by decide, by decide⟩

theorem witness_ToleranceInstructions :
    meets true (fun c => longOpen c && allFit [useUni 104, useSPair 106, useS 119, useUni 127] && ureadAll c (c.base false) [104, 127]
      && decide ((c.readS 0).toNat < 64 ∧ (c.readS 0).toNat ≤ 10)) (atPort 3 0x5FFF (setS 0 10 (unit 0))) ∧
    (0x5FFF : Word).getLsbD 13 = false ∧ (0x5FFF : Word).toNat < 2 ^ 15 ∧
    ((atUnit 0 []).team? 2).any (fun t => decide (t.tol = nodes)) ∧ ((atUnit 0 []).ops.map (·.id)).Nodup ∧
    ((atUnit 0 []).group? 3).any (fun g => decide (g.team = 2) && g.stop.isNone) ∧ findKey nodes 62 = none ∧
    (atUnit 0 []).bufferFull = false := by decide +kernel

theorem witness_unitNext : unitNext (atUnit 3 [0, 1]) 2 (op 9 [] (.tol [0, 1] 3 104)) [0, 1] 3 104 :=
  ⟨[], [], rfl, by simp, by simp, by decide, by decide, rfl, rfl⟩
/-- Words stored from a physical address up. -/
def stored (p : Nat) (ws : List Nat) (s : State) : State :=
  { s with mem := (ws.zipIdx).foldl (fun m q => m.putWord (p + 4 * q.2) (BitVec.ofNat 32 q.1)) s.mem }
/-- A launch record: 33 threads, a quota of 8, one cluster of one team, with a word of its own at +0x30. -/
def launchWords (z nkind slot : Nat) : List Nat := [0x1000, z, 7, 0, 33, 0, 0x0108, 0, 1, 0, 0, 0, nkind * 2 ^ 28, 0, 0, 0, 0, slot]
def recordAt (p : Nat) (ws : List Nat) : State := stored p ws (onCopy (unit 0) [v0, 0, v0 + 0x400, 0])
def spaceOk (c : Ctx) (a n : Nat) : Bool :=
  match c.s.readSpace c.insetId a n with
  | .ok _ => true
  | .error _ => false
def theLaunch : Launch :=
  { entry := 0x1000, args := 7, width := 1, height := 1, threads := 33, clusters := 1, deque := false, restart := false, coop := false, tiles := 1, quota := 8,
    cycles := 0, seed := 1, cbo := 0, nkind := 0, tag := 0, serial := false, imgCount := 0, imgList := 0, slots := List.replicate 8 0 }
def launchBytes (nkind slot : Nat) : List Byte := (recordAt (vaultAt 0) (launchWords 0 nkind slot)).mem.pieceBytes [(vaultAt 0, 128)]

theorem witness_recordSays : recordSays (launchBytes 0 0) theLaunch := by unfold recordSays; decide +kernel
theorem witness_recordLimits : recordZeros (launchBytes 0 0) ∧ recordLimits theLaunch ∧ recordLimits { theLaunch with threads := 1024, quota := 48, tiles := 8 } ∧
    ¬recordLimits { theLaunch with quota := 12 } ∧ ¬recordLimits { theLaunch with threads := 1024, quota := 56 } := by
  unfold recordZeros recordLimits; decide +kernel
theorem witness_recordObject (s : State) (x : Nat) : recordObject s x 0 none := .inl ⟨rfl, rfl⟩

theorem witness_Launches :
    meets true (fun c => issueOk c && allFit [useDesc 104 4] && (c.s.insetOf c.g).any (fun x => decide (c.s.inset? x.id = some x))
      && spaceOk c (long c 104 0) 128 && !c.s.bufferFull && c.s.grids.all (fun g => decide (g.handle ≠ c.s.handles % 0xFFFFFF + 1)))
      (recordAt (vaultAt 0) (launchWords 0 0 0)) ∧
    theLaunch.slots.all slotLaunchable = true ∧ slotLaunchable 0xFC00000000000000 = false ∧ (3 : Nat) ≤ { theLaunch with nkind := 3 }.nkind ∧
    meets true (fun c => spaceOk c (long c 104 2) 64 && decide (c.s.slotOf 1 (long c 104 2) = none) && decide (field (c.s.mem.pieceBytes [(vaultAt 0x400, 64)]) 8 16 12 = 1
      ∧ field (c.s.mem.pieceBytes [(vaultAt 0x400, 64)]) 8 0 5 = 16 ∧ idxDiff 0x10000 0 = 2 ^ 16))
      (stored (vaultAt 0x400) [0, 0, 0x10010, 0] (recordAt (vaultAt 0) (launchWords 0 0 0))) := by decide +kernel

/-- One grid of two clusters, of which one stands; every core row awake. -/
def twoClusters (cores : BitVec 256) : State :=
  let s := inset (fun x => { x with cores := cores }) (unit 0)
  { s with grids := s.grids.map (fun g => { g with launch := { theLaunch with clusters := 3 } }), power := { s.power with rows := 0xFFFF } }

theorem witness_roomOn : roomOn (twoClusters 1) (fetchGrid 1 1) 0 := by unfold roomOn; decide +kernel

theorem witness_GridsRun :
    ((twoClusters 1).grids).any (fun d => !d.launch.coop && decide (d.placed + 1 < d.launch.clusters ∧ d.gate = none) && (twoClusters 1).running d.inset) ∧
    ((twoClusters 1).inset? 1).any (fun x => x.cores.getLsbD (coreAt theLaunch 0 0 0)) ∧
    (twoClusters 0).grids.all (fun d => ((twoClusters 0).inset? d.inset).all (fun x => decide (x.cores = 0))) ∧
    (let s := team (fun t => { t with residency := .freed }) (unit 0)
     (s.grid? 1).any (fun d => decide (d.placed = d.launch.clusters ∧ d.counters = [] ∧ d.launch.nkind = 0 ∧ d.object = none)) ∧
     (s.gridTeams 1).all (fun t => decide (t.residency = .freed)) ∧ s.pendingWrites = [] ∧ s.ops = []) := by decide +kernel

/-- A running device with a doorbell of inset 1 and its control block. -/
def bell (pending : Bool) : Doorbell := { index := 0, qcb := v0 + 0x400, inset := 1, pending := pending, malformed := false, kick := none }
def hwSlot (read write : Nat) : Slot :=
  { slot := 127, qcb := v0 + 0x400, inset := 1, ring := v0, logsize := 4, read := read, write := write, prio := 0, age := 0, err := false, cring := 0 }
def belled (pending : Bool) (slots : List Slot) (logsize nkind : Nat) : State :=
  let s := inset (fun x => { x with qslots := 128 }) (stored (vaultAt 0x400) [v0, 0, 0x10000 + logsize, 0] (stored (vaultAt 0) (launchWords 0 nkind 0) (mapped (unit 0))))
  { s with ctl := { s.ctl with boot := .run }, doorbells := [bell pending], slots := slots }

theorem witness_Queues :
    (belled false [hwSlot 0 0] 4 0).doorbells.find? (fun e => decide (e.index = 0)) = some (bell false) ∧ (belled false [hwSlot 0 0] 4 0).slotOf 1 (v0 + 0x400) = some (hwSlot 0 0) ∧
    ((belled false [] 4 0).inset? 1).any (fun x => decide (x.id = 1)) ∧ idxDiff 16 0 ≤ 2 ^ 4 ∧ 2 ^ 4 < idxDiff 17 0 ∧ (belled false [] 4 0).slotOf 1 (v0 + 0x400) = none ∧
    (belled false [] 4 0).ctl.boot = .run ∧ (belled false [] 4 0).fabric.linkUp = true ∧ (belled false [] 4 0).bufferFull = false ∧ (belled false [] 4 0).ops = [] ∧
    (belled false [hwSlot 0 1] 4 0).running 1 = true ∧ ((match (belled false [hwSlot 0 1] 4 0).readSpace 1 v0 128 with
      | .ok _ => true
      | .error _ => false) : Bool) = true ∧ ((match (unit 0).readSpace 1 v0 128 with
      | .ok _ => false
      | .error _ => true) : Bool) = true ∧ (belled false [hwSlot 0 1] 4 0).grids.all (fun d => decide (d.queue = none)) = true ∧
    ((belled true [] 4 0).slots.filter (fun e => decide (e.inset = 1))).length < (belled true [] 4 0).ownSlots 1 ∧
    field ((belled true [] 4 0).mem.pieceBytes [(vaultAt 0x400, 64)]) 0xC 8 8 + field ((belled true [] 4 0).mem.pieceBytes [(vaultAt 0x400, 64)]) 0xC 0 8 ≤ 255 := by
  decide +kernel

theorem witness_blockGood : blockGood ((belled true [] 4 0).mem.pieceBytes [(vaultAt 0x400, 64)]) 1 ∧ blockGood ((belled true [] 16 0).mem.pieceBytes [(vaultAt 0x400, 64)]) 1 ∧
    ¬blockGood ((belled true [] 3 0).mem.pieceBytes [(vaultAt 0x400, 64)]) 1 ∧ ¬blockGood ((belled true [] 17 0).mem.pieceBytes [(vaultAt 0x400, 64)]) 1 := by
  unfold blockGood; decide +kernel

theorem witness_blockAt :
    (belled true [] 4 0).checkSpan 1 .r (v0 + 0x400) 64 = ([(vaultAt 0x400, 64)], none) ∧ (belled true [] 4 0).mem.poisoned (vaultAt 0x400) 64 = false ∧
    ((List.range 64).all (fun o => (belled true [] 4 0).checkSpan 1 .w (v0 + (0x400 + o)) 1 == ([(vaultAt (0x400 + o), 1)], none)
      && (belled true [] 4 0).checkSpan 1 .w (v0 + (0x400 + o)) (64 - o) == ([(vaultAt (0x400 + o), 64 - o)], none))) = true := by decide +kernel
/-- Inset 1 with a child 2 that runs one group of a grid of its own, stopped by an event; no record waits. -/
def childInset : Inset := { fetchInset 2 with level := 2, parent := 1, tbase := 0x20000, saveBase := 0x100000, cores := 2, qslots := 0, iquota := 0, share := 1 }
def family (s : State) : State :=
  let g := startGroup fetchLaunch 0 0 39 0 0
  { s with insets := s.insets ++ [childInset], grids := s.grids ++ [fetchGrid 2 2],
           clusters := s.clusters ++ [{ cid := 38, grid := 2, index := 0, ax := 1, ay := 0, phase := 0, arrived := [] }],
           teams := s.teams ++ [startTeam 38 39 0 1 0], groups := s.groups ++ [{ g with stop := some ordinary }], fresh := 100 }
def child (f : Inset → Inset) (s : State) : State := s.updInset 2 f

def sysOk (c : Ctx) (d n : Nat) : Bool :=
  longOpen c && (c.s.insetOf c.g).any (fun x => decide (c.s.inset? x.id = some x) && x.sys) && allFit [useDesc d n] && !c.s.bufferFull
    && c.s.ops.all (fun o => decide (o.id < c.s.fresh)) && c.s.commands.all (fun k => (k.waiting).all (fun w => decide (w < c.s.fresh)))
def childOk (c : Ctx) (d : Nat) : Bool :=
  (c.s.inset? (reg c d 0 % 2 ^ 12)).any (fun y => decide (y.id = reg c d 0 % 2 ^ 12 ∧ y.parent = 1)) && c.s.ops.isEmpty
/-- An inset block of the largest cores, and its fields. -/
def block (iquota share : Nat) : List Nat := [0x20000, 0, 0x100000, 0, 0x10000, share, iquota, 1, 2, 0, 0, 0, 0, 0, 0, 0, 0, 0]
def blockState (ws : List Nat) : State :=
  stored (vaultAt 0x400) ws (inset (fun x => { x with cores := 3, iquota := 1024, qslots := 4 }) (onCopy (unit 0) [v0 + 0x400, 0]))
def blockOf9 (ws : List Nat) : List Byte := (blockState ws).mem.pieceBytes [(vaultAt 0x400, 128)]

theorem witness_blocks : blockZeros (blockOf9 (block 1023 0x10001)) ∧ blockLimits (blockOf9 (block 1023 0x10001)) ∧ blockLimits (blockOf9 (block 1024 0xFFFFFFFF)) ∧
    ¬blockLimits (blockOf9 (block 1024 0xFFFF)) ∧ ¬blockZeros (blockOf9 (block 2048 0x10001)) := by
  unfold blockZeros blockLimits; decide +kernel

theorem witness_ChildForms :
    needsSys (.ctxnew 104) = true ∧ meets true (fun c => (c.s.insetOf c.g).any (fun x => !x.sys)) (inset (fun x => { x with sys := false }) (unit 0)) ∧
    (plainForms (.ctxdbgStep 104)).isSome ∧ meets true (fun c => sysOk c 104 5 && (c.s.inset? (reg c 104 0 % 2 ^ 12)).isNone) (setSs [7] (unit 0)) ∧
    meets true (fun c => sysOk c 104 2 && spaceOk c (long c 104 0) 128 && decide (long c 104 0 % 128 = 0 ∧ c.s.inset? 2 = none ∧ c.s.insets.length = 1
        ∧ c.s.ownQuota 1 = 1024 ∧ c.s.ownSlots 1 = 4) && (c.s.insetOf c.g).any (fun x => decide (blockCores (blockOf9 (block 1023 0x10001)) &&& ~~~x.cores = 0 ∧ x.level < 5))
        && c.s.teams.all (fun t => decide (((3#256) &&& ~~~ blockCores (blockOf9 (block 1023 0x10001))).getLsbD t.core = true))) (blockState (block 1023 0x10001)) ∧
    meets true (fun c => sysOk c 104 2 && (c.s.insetOf c.g).any (fun x => decide (5 ≤ x.level))) (inset (fun x => { x with level := 5 }) (blockState (block 0 0x10001))) ∧
    meets true (fun c => sysOk c 104 2 && decide (c.s.ownQuota 1 < 1 + 1024)) (blockState (block 1024 0x10001)) := by decide +kernel

/-- An image that names one inset and no team. -/
def oneWords (id parent : Nat) : List Nat :=
  [192, 0, 1, 0, id] ++ List.replicate 11 0 ++ [0x30000, 0, 0x100000, 0, 0x10000, 0x10001] ++ List.replicate 12 0 ++ [id, parent]
def oneBytes (id parent : Nat) : List Byte := (oneWords id parent).flatMap (natBytes 4) ++ List.replicate 48 0
theorem witness_oneRecord : oneRecord (oneBytes 2 1) ∧ oneRecord (oneBytes 2 0) ∧ ¬oneRecord (List.replicate 192 0) := by
  unfold oneRecord blockLimits
  refine ⟨?_, ?_, fun h => absurd h.1 (by decide +kernel)⟩ <;>
    exact ⟨by decide +kernel, by decide +kernel, by decide +kernel, by decide +kernel, by decide +kernel, by decide +kernel⟩
theorem witness_ChildForms2 :
    meets true (fun c => sysOk c 104 3 && childOk c 104 && spaceOk c (long c 104 1) 128 && decide (long c 104 1 % 128 = 0)
        && decide ((c.s.subtree 2).length ≤ 1)) (family (stored (vaultAt 0x400) (block 0 0x10001) (onCopy (unit 0) [2, v0 + 0x400, 0]))) ∧
    meets true (fun c => sysOk c 104 5 && childOk c 104 && (c.s.inset? 2).any (fun y => !y.frozen) && decide (long c 104 2 % 64 = 0))
        (family (onCopy (unit 0) [2, 0, v0, 0, 0x1000])) ∧
    meets true (fun c => sysOk c 104 2 && childOk c 104 && (c.s.inset? 2).any (·.frozen) && c.s.insets.all (fun z => !c.s.protected z))
        (child (fun y => { y with frozen := true }) (family (onCopy (unit 0) [2, 0]))) ∧
    meets true (fun c => sysOk c 104 3 && childOk c 104 && spaceOk c (long c 104 1) 192 && c.s.under 2 2
        && decide (c.s.mem.pieceBytes [(vaultAt 0x400, 192)] = oneBytes 2 1 ∧ dword (oneBytes 2 1) 0 = 192)
        && !c.s.areasDown 2 && c.s.teams.all (fun t => !c.s.under 2 (c.s.teamInset t)))
        (stored (vaultAt 0x400) (oneWords 2 1)
          { onCopy (unit 0) [2, v0 + 0x400, 0] with insets := (onCopy (unit 0) []).insets ++ [childInset] }) := by decide +kernel

theorem witness_ChildDebug :
    meets true (fun c => sysOk c 104 5 && childOk c 104 && (c.s.group? 40).any (fun g => g.stop.any (fun st => st.late.isNone && st.slot.isNone) && !g.freed
        && decide (g.gid ≠ c.g.gid ∧ g.index = 0 ∧ g.lanes.length = 32) && g.lanes.all (fun z => z.pend.isEmpty) && (c.s.teamOf g).any (·.seated)
        && (c.s.gridOf g).any (fun d => decide (d.handle = reg c 104 1 % 2 ^ 24 ∧ d.inset = 2)))
        && (match c.s.checkSpan 1 .w (long c 104 3) 1024 with
          | ([(_, n)], none) => decide (n = 1024)
          | _ => false) && spaceOk c (long c 104 3) 1024) (family (onCopy (unit 0) [2, 2, 0, v0 + 0x1000, 0])) := by decide +kernel

/-- A form on the child that has begun. -/
def formOp (n : Nat) (ws : List Word) : LongOp := { op 9 [] (.form n 2 ws 104) with arrived := true }
def bare (s : State) : State := { s with insets := s.insets ++ [childInset] }

theorem witness_ChildFormsEnd :
    ((withOp (formOp 2 [2, 0]) (bare (unit 0))).op? 9) = some (formOp 2 [2, 0]) ∧ (bare (unit 0)).freezeDone 2 = true ∧ (family (unit 0)).freezeDone 2 = false ∧
    (bare (mapped (unit 0))).commandsOf 2 = [] ∧ (bare (mapped (unit 0))).children 2 = [] ∧ (bare (mapped (unit 0))).savedTeams 2 = [] ∧
    (bare (mapped (unit 0))).checkSpan 1 .w (v0 + 0x1000) 192 = ([(vaultAt 0x1000, 192)], none) ∧ (bare (unit 0)).subtree 2 = [childInset] ∧
    (bare (unit 0)).commands = [] ∧ (bare (unit 0)).surveys.all (fun v => v.running.isNone && v.pending.isNone) = true ∧
    (bare (unit 0)).grids.all (fun d => decide (d.inset ≠ 2)) = true ∧ (0 : Nat) < ({ unit 0 with refill := 1 } : State).refill := by decide +kernel
/-- A table of four levels for VA 0, at 0x30000, with a last entry. -/
def tables (e0 : Nat) (s : State) : State :=
  { s with mem := (((s.mem.putDword 0x30000 0x3101D).putDword 0x31000 0x3201D).putDword 0x32000 0x3301D).putDword 0x33000 e0 }
def entryOk (s : State) (above : List Inset) (table i e : Nat) : Bool :=
  match s.compose above [.r] (table + 8 * i) with
  | .ok u => decide (s.readEntry u.phys = e)
  | .error _ => false
def walkOk (s : State) (above : List Inset) (e0 : Nat) : Bool :=
  entryOk s above 0x30000 0 0x3101D && entryOk s above 0x31000 0 0x3201D && entryOk s above 0x32000 0 0x3301D && entryOk s above 0x33000 0 e0

theorem witness_entries : pointer 0x3101D ∧ Claim.held 0x3101D = 0x31000 ∧ pointer 0x3201D ∧ Claim.held 0x3201D = 0x32000 ∧ pointer 0x3301D ∧ Claim.held 0x3301D = 0x33000 ∧
    leaf 0x5001F ∧ leaf 0xFFFFFFFF0007 ∧ ¬leaf 0x5005F ∧ ¬leaf 0x5001D := by
  unfold pointer leaf; decide +kernel

theorem witness_translation :
    walkOk (tables 0x5001F (unit 0)) [] 0x5001F ∧ walkOk (tables 0 (unit 0)) [] 0 ∧
    ((inset (fun x => { x with ranges := [{ base := 0x50000, length := 0x10000, key := 0, perms := 7, tweak := 0 }] }) (unit 0)).ancestors 1).length = 1 ∧
    ((unit 0).inset? 1).any (fun x => decide (x.level = 1) && x.ranges.isEmpty) ∧ packageOf 0x5FFFF = none ∧
    walkOk (tables 0x5001F (bare (mapped (unit 0)))) ((mapped (unit 0)).ancestors 1) 0x5001F ∧ ((bare (mapped (unit 0))).ancestors 2).length = 2 := by decide +kernel

/-- Inset 1 maps or unmaps a page of its child, whose table stands at 0x30000. -/
def parent (e0 : Nat) (ws : List Nat) : State := child (fun y => { y with tbase := 0x30000 }) (tables e0 (bare (onCopy (unit 0) ws)))
def mapDesc : List Nat := [2, 0x1C, 0, 0, 0x60000, 0, 1, 0, 0, 0]
def placeOk (c : Ctx) (e0 : Nat) : Bool :=
  walkOk c.s (c.s.ancestors 1) e0 && (match c.s.translate 1 [.w] 0x33000 with
    | .ok u => decide (u.phys = 0x33000)
    | .error _ => false)

theorem witness_Mapping :
    meets true (fun c => sysOk c 104 10 && placeOk c 0 && (c.s.child? 1 2).isSome && c.s.ops.isEmpty && c.s.teams.all (fun t => decide (t.imageFault ≠ some 2))
      && (match c.s.translate 1 [] (long c 104 4) with
        | .ok u => decide (u.perms &&& Claim.rights (reg c 104 1) = Claim.rights (reg c 104 1) ∧ backing u.phys = .hbm)
        | .error _ => false)) (parent 0 mapDesc) ∧
    meets true (fun c => sysOk c 104 10 && placeOk c 0x5001F && c.s.pinned 2 0 0x10000) (parent 0x5001F mapDesc |> fun s =>
      { s with insets := s.insets ++ [{ fetchInset 3 with level := 3, parent := 2, tbase := 0, share := 1 }] }) ∧
    meets true (fun c => sysOk c 104 10 && placeOk c 0x3101D) (parent 0x3101D mapDesc) ∧
    meets true (fun c => sysOk c 104 10 && entryOk c.s (c.s.ancestors 1) 0x30000 0 0) (child (fun y => { y with tbase := 0x30000 }) (bare (onCopy (unit 0) mapDesc))) ∧
    meets true (fun c => sysOk c 104 5 && placeOk c 0x5001F && !c.s.pinned 2 0 0x10000) (parent 0x5001F [2, 0, 0, 0, 1]) ∧
    meets true (fun c => sysOk c 104 5 && placeOk c 0) (parent 0 [2, 0, 0, 0, 1]) ∧
    meets true (fun c => sysOk c 104 5 && decide (long c 104 3 ≠ 0)) (parent 0 [2, 0, 0, 0x10000, 0]) ∧
    meets true (fun c => sysOk c 104 5 && (c.s.child? 1 (reg c 104 0 % 2 ^ 12)).isNone) (parent 0 [7, 0, 0, 0x10000, 0]) ∧
    meets true (fun c => issueOk c && allFit [useDesc 104 2] && !c.s.bufferFull) (unit 0) := by decide +kernel

theorem witness_MappingEnds :
    (withOp { op 9 [] (.form 15 2 [0, 0, 0x10000, 0, 0] 104) with arrived := true } (bare (unit 0))).oldAccess childInset 0 0x10000 = false ∧
    (let s := { parent 0 [] with projections := [{ inset := 2, base := 0, size := 0x10000, entry := 0x33000, span := 1, value := 0x5001F }] }
     (withOp { op 9 [] (.form 14 2 [0, 0, 0x10000, 0, 0] 119) with arrived := true }
       { s with commands := [{ command 0 .running 0x40 with inset := 2, region := [(0x50000, 0x40, true)] }] }).oldAccess childInset 0 0x10000 = true) := by
  decide +kernel

def draining : State := team (fun t => { t with residency := .draining (some 5) }) (unit 0)
def noArea : State := inset (fun x => { x with saveSize := 0 }) (unit 0)
def area : State := inset (fun x => { x with saveSize := 0x20000 }) (unit 0)
def badSave : State := team (fun t => { t with residency := .saving, bound := some 3, imageFault := some 0 }) (unit 0)
def saving : State := group (fun g => { g with quota := 8, tileQuota := 0 }) (team (fun t => { t with residency := .saving }) area)
def flushing : State := team (fun t => { t with residency := .flushing }) (unit 0)

/-- The image of one group of quota 8 without tiles, at 0x100000, and the machine whose team is away. -/
def imageWords : List Nat := [9792, 0, 1]
def awayTeam : State :=
  let s := stored 0x103C40 [8, 0, 0, 0] (stored 0x103000 imageWords (unit 0))
  { team (fun t => { t with residency := .saved, image := 0x3000, imageSize := 9792 }) (inset (fun x => { x with saveBase := 0x100000, cores := 1 }) s) with
    groups := [], power := { s.power with rows := 0xFFFF }, grids := s.grids.map (fun g => { g with launch := { theLaunch with tiles := 0, threads := 32 } }) }

theorem witness_Residency :
    area.team? 2 |>.any (fun tm => (area.teamGrid tm).isSome && (area.inset? (area.teamInset tm)).any (fun x => (x.room (area.imageBytes x tm)).isSome) && tm.runs) := by
  decide +kernel
theorem witness_ResidencyFull :
    (noArea.team? 2).any (fun tm => (noArea.inset? (noArea.teamInset tm)).any (fun x => (x.room (noArea.imageBytes x tm)).isNone)) := by decide +kernel
theorem witness_ResidencyDrain : (draining.team? 2).any (fun tm => decide (tm.residency = .draining (some 5))) ∧ (draining.teams.map (·.tid)).Nodup := by decide +kernel
theorem witness_ResidencyBound :
    (badSave.team? 2).any (fun tm => decide (tm.residency = .saving ∧ tm.bound = some 3 ∧ tm.imageFault = some 0)) ∧ badSave.bufferFull = false := by decide +kernel
theorem witness_ResidencySave :
    (saving.team? 2).any (fun tm => decide (tm.residency = .saving ∧ tm.imageFault = none ∧ tm.tol = [] ∧ tm.tid = 2) && saving.anchorTurn tm
      && (List.range 4).all (fun i => (tm.port i).entries.isEmpty) && (saving.inset? (saving.teamInset tm)).any (fun x =>
        decide (saving.checkSpan x.parent .w (x.saveBase + tm.image) (9792) = ([(0, 9792)], none)))) ∧
    saving.confidential = false ∧ saving.bufferFull = false ∧ saving.ops = [] ∧ (saving.teamGroups 2).map (·.gid) = [3] ∧
    (saving.group? 3).any (fun g => decide (g.freed = false ∧ g.recv = List.replicate 4 [] ∧ g.atomics = [] ∧ g.lanes.length = 32 ∧ g.quota = 8 ∧ g.tileQuota = 0)
      && g.lanes.all (fun z => z.pend.isEmpty)) ∧ saving.groups.map (·.gid) = [3] ∧ (saving.teams.map (·.tid)).Nodup := by decide +kernel
theorem witness_ResidencyFlush :
    (flushing.team? 2).any (fun tm => decide (tm.residency = .flushing ∧ tm.tid = 2) && (flushing.inset? (flushing.teamInset tm)).isSome) ∧ flushing.quiet 2 = true ∧
    flushing.bufferFull = false ∧ (flushing.insets.all (fun z => decide (z.armed ≠ some 2))) ∧ (flushing.teams.map (·.tid)).Nodup := by decide +kernel
theorem witness_ResidencyRestore :
    (awayTeam.team? 2).any (fun tm => decide (tm.tid = 2 ∧ tm.index = 0 ∧ tm.refused = false ∧ tm.imageFault = none ∧ tm.acks = [] ∧ tm.residency = .saved ∧
        (awayTeam.clusterTeams tm.cluster).map (·.tid) = [2]) && (awayTeam.cluster? tm.cluster).isSome
      && (awayTeam.teamGrid tm).any (fun d => decide (d.launch.coop = false ∧ d.launch.width = 1 ∧ d.launch.height = 1)
        && (awayTeam.inset? (awayTeam.teamInset tm)).any (fun x => decide (x.id = awayTeam.teamInset tm) && awayTeam.running x.id
          && (match awayTeam.readImage x tm d.launch with
            | .ok bs => decide (field bs 8 0 32 = 1 ∧ field bs (3136 + 12) 0 32 = 0) && decide ((awayTeam.anchors d x.cores [some (teamNeed d.launch (some bs))]).head? = some 0)
            | _ => false)))) ∧
    awayTeam.bufferFull = false ∧ awayTeam.ops = [] ∧ awayTeam.teamGroups 2 = [] ∧ awayTeam.groups = [] := by
  decide +kernel
def quietHouse : State := { unit 0 with teams := [], groups := [] }
theorem witness_ResidencyShares :
    quietHouse.power.pstate = 0 ∧ (quietHouse.insets.map (·.id)).Nodup ∧ quietHouse.insets.all (fun z => decide (z.id ≠ 0 ∧ z.buckets = [])) ∧ quietHouse.torus = [] ∧
    ((inset (fun x => { x with buckets := [(5, 3)] }) (unit 0)).inset? 1).any (fun x => decide (0 < (findKey x.buckets 5).getD 0 ∧ x.id = 1)) := by decide +kernel

/-! ## Records and the host -/

/-- A record of inset 2 waits for the armed team of inset 1; the host's ring stands at its 4 KiB. -/
def posted (armed : Option Nat) : State :=
  { inset (fun x => { x with armed := armed }) (bare (unit 0)) with records := [{ record none with route := 2, seq := none }] }
def ringed (base : BitVec 64) (w : Nat) : State :=
  { unit 0 with records := [{ record none with seq := none }],
                ctl := { (unit 0).ctl with evbase := base, evlog := 6, evwrite := w, evread := 0 } }

theorem witness_delivery :
    (posted (some 2)).records = [{ record none with route := 2, seq := none }] ∧ ((posted (some 2)).inset? 2).any (fun x => decide (x.parent = 1)) ∧
    ((posted (some 2)).inset? 1).any (fun p => decide (p.id = 1 ∧ p.armed = some 2)) ∧ ((posted (some 2)).team? 2).any (·.hasRoom 2 8) ∧
    ((posted none).inset? 1).any (fun p => decide (p.id = 1 ∧ p.armed = none ∧ p.id < 2 ^ 12)) ∧ ((posted none).insets.map (·.id)).Nodup ∧
    (posted none).teams.all (fun u => !u.runs || !(posted none).under 2 ((posted none).teamInset u)) ∧
    ((ringed 0x1000 0).inset? 1).any (fun x => decide (x.parent = 0)) ∧ (ringed 0x1000 0).fabric.linkUp = true ∧ (ringed 0x1000 0).ctl.evbase ≠ 0 ∧
    idxDiff 0 0 ≠ 2 ^ 6 ∧ (ringed 0 0).ctl.evbase = 0 ∧ idxDiff (ringed 0x1000 64).ctl.evwrite 0 = 2 ^ 6 := by decide +kernel

/-- A running device, whose window stands on the base of HBM, or that base and an offset. -/
def booted (s : State) : State := { s with ctl := { s.ctl with boot := .run } }
def linkDown (s : State) : State := { s with fabric := { s.fabric with linkUp := false } }

theorem witness_hostWindow :
    (unit 0).fabric.linkUp = true ∧ (unit 0).ctl.busy = false ∧ (0xFFFFFFFF#64).getLsbD 31 = true ∧ (0x40000000#64).getLsbD 30 = true ∧ (0x7F#64).getLsbD 31 = false ∧
    (ringed 0 0).ctl.evwrite = (ringed 0 0).ctl.evread ∧ (0x1000#64).toNat % 0x1000 = 0 ∧ (ringed 0 3).ctl.evwrite ≠ (ringed 0 3).ctl.evread ∧
    6 ≤ (16#64).toNat % 32 ∧ (17#64).toNat % 32 > 16 ∧ idxDiff 3 2 ≤ idxDiff 3 0 ∧ idxDiff 3 0 < idxDiff 3 4 ∧ (linkDown (unit 0)).fabric.linkUp = false ∧
    (booted (unit 0)).ctl.boot = .run ∧ 0x5FFFFEFFFE + 2 ≤ 0x5FFFFF0000 ∧ (unit 0).confidential = false ∧ (unit 0).ops = [] ∧ (unit 0).ctl.dmbase = 0 ∧
    backing 0x5FFFFEFFFF = .hbm ∧ backing 0x6000000000 = .none ∧ backing 0 = .hbm := by decide +kernel
def dmAt (base : BitVec 64) : State := { booted (unit 0) with ctl := { (booted (unit 0)).ctl with dmbase := base } }
theorem witness_hostWindowHole : backing ((dmAt 0x5000000000).ctl.dmbase.toNat + 0x1000000000) = .none ∧ 0xFFFFFFFFF + 1 ≤ 2 ^ 36 ∧
    backing ((dmAt 0x6000000000).ctl.dmbase.toNat + 0 + 0) = .none := by decide +kernel

theorem witness_HostForms :
    (posted (some 2)).receiverOf { record none with route := 2, seq := none } = 1 ∧ ((posted (some 2)).inset? 1).any (fun p => decide (p.armed = some 2 ∧ p.id = 1)) ∧
    ((posted (some 2)).team? 2).any (fun t => decide (t.tid = 2) && t.hasRoom 2 8) ∧ (∀ m, ({ record none with seq := none } : Record).seq ≠ some (1, m)) ∧
    (ringed 0x1000 0).receiverOf { record none with seq := none } = 0 ∧ (ringed 0x1000 0).fabric.linkUp = true ∧ (ringed 0x1000 0).ctl.evbase ≠ 0 ∧
    idxDiff (ringed 0x1000 0).ctl.evwrite (ringed 0x1000 0).ctl.evread ≠ 2 ^ 6 ∧ idxDiff (ringed 0x1000 64).ctl.evwrite 65 = 0xFFFFFFFF ∧
    (∀ i < 4, backing ((booted (unit 0)).ctl.dmbase.toNat + 0x100 + i) ≠ .none) :=
  ⟨by decide +kernel, by decide +kernel, by decide +kernel, fun _ => by simp, by decide +kernel, by decide +kernel, by decide +kernel, by decide +kernel,
    by decide +kernel, by decide +kernel⟩

/-! ## The mailbox -/

/-- A mailbox command taken in state RUN, on inset 2, a child of the root beside inset 1. -/
def mail (code : Nat) (begun : Bool) (args : List (BitVec 64)) (s : State) : State :=
  { s with ctl := { s.ctl with boot := .run, busy := true, command := some code, begun := begun, taken := args, args := args } }
def topInset : Inset := { childInset with level := 1, parent := 0, share := 2, cores := 2, saveBase := 0x100000 }
def two (f : Inset → Inset) : State := { unit 0 with insets := (unit 0).insets ++ [f topInset] }
def takenOk (s : State) (code : Nat) (begun : Bool) : Bool :=
  decide (s.ctl.command = some code ∧ s.ctl.outcome = none ∧ s.fabric.linkUp = true ∧ s.ctl.boot = .run ∧ s.ctl.begun = begun)
def rootOk (s : State) (p : Inset → Bool) : Bool :=
  (s.inset? (argument s 0 % 2 ^ 12)).any (fun x => decide (x.parent = 0 ∧ x.id = argument s 0 % 2 ^ 12) && p x)
def bothOk (code : Nat) (begun : Bool) (args : List (BitVec 64)) (s : State) (p : Inset → Bool) : Bool :=
  takenOk (mail code begun args s) code begun && rootOk (mail code begun args s) p

/-- The inset block of INSETNEW in host memory. -/
def hostAt : Nat := 0x800000000000
def hostBlock (ws : List Nat) (s : State) : State := stored hostAt ws s
def hostBytes (ws : List Nat) : List Byte := (hostBlock ws (unit 0)).mem.bytes hostAt 128

theorem witness_MailboxEnds :
    ({ mail 3 false [] (unit 0) with ctl := { (mail 3 false [] (unit 0)).ctl with outcome := some (0, 7) } }).ctl.outcome = some (0, 7) ∧
    ((Instr.freeze, 3) ∈ onInset ++ others) ∧ (unit 0).ctl.boot ≠ .run ∧ takenOk (mail 0x12 false [] (unit 0)) 0x12 false ∧
    0x12 ∉ (onInset ++ others).map (·.2) ++ [0x60, 0x7F] ∧ ((mail 3 false [9] (unit 0)).inset? (argument (mail 3 false [9] (unit 0)) 0 % 2 ^ 12)) = none := by decide +kernel

def newOk (s : State) : Bool :=
  takenOk s 1 false && decide (argument s 0 % 128 = 0 ∧ s.inset? 2 = none ∧ s.insets.length < 1024 ∧ argument s 1 = 0) && s.insets.all (fun z => decide (z.id ≠ 0 ∧ z.share ≠ 2))
    && (List.range 1).all (fun _ => (s.inset? 1).isSome) && s.insets.any (fun y => decide (y.parent = 0 ∧ y.share = 1))
theorem witness_MailboxNew :
    newOk (mail 1 false [0, 0] (hostBlock (block 1 0x10001) (unit 0))) ∧ hostBytes (block 1 0x10001) = (mail 1 false [0, 0] (hostBlock (block 1 0x10001) (unit 0))).mem.bytes hostAt 128 ∧
    (∀ z ∈ (unit 0).insets, blockCores (hostBytes (block 1 0x10001)) &&& z.cores = 0) ∧ field (hostBytes (block 1 0x10001)) 0x18 24 8 ≤ (unit 0).ownSlots 0 ∧
    1 + field (hostBytes (block 1 0x10001)) 0x18 0 11 ≤ (unit 0).ownQuota 0 := by decide +kernel
theorem witness_MailboxBlock : blockZeros (hostBytes (block 1 0x10001)) ∧ blockLimits (hostBytes (block 1 0x10001)) ∧ ¬blockLimits (hostBytes (block 1 0x0001)) := by
  unfold blockZeros blockLimits; decide +kernel

theorem witness_MailboxGrant :
    bothOk 2 false [2, 0, 16] (hostBlock (block 3 0x10001) (two id)) (fun x => decide (field (hostBytes (block 3 0x10001)) 0x18 0 11 ≤ min 1024 ((two id).ownQuota 0 + x.iquota)
      ∧ ((two id).subtree x.id).length ≤ 4)) ∧
    bothOk 2 false [2, 0, 2] (hostBlock (block 3 0x10001) (two id)) (fun _ => true) ∧ 0 < field (hostBytes (block 3 0x10001)) 0x14 16 16 ∧
    bothOk 2 false [2, 0, 32] (hostBlock (block 3 0x10001) (two id)) (fun _ => true) ∧
    takenOk (mail 2 true [2] { two id with refill := 1024 }) 2 true ∧ (mail 2 true [2] { two id with refill := 1024 }).ctl.waits.headD 0 < 1024 := by decide +kernel

theorem witness_MailboxFreeze :
    bothOk 3 false [2, 9] (two id) (fun x => !x.frozen) ∧ bothOk 3 true [2, 9] (two id) (fun x => (two id).freezeDone x.id) ∧
    bothOk 4 false [2] (two (fun x => { x with frozen := true })) (fun x => x.frozen && !x.sealing && decide (x.held = none ∧ x.pendingBreaks = [])) ∧
    (two id).security.migrations = [] ∧ (two id).bufferFull = false ∧ (two id).confidential = false ∧
    bothOk 4 false [2] (two id) (fun x => !x.frozen) ∧ bothOk 5 false [2, 9, 64, 192] (two id) (fun x => !x.frozen) ∧ argument (mail 5 false [2, 9, 64, 192] (two id)) 2 % 64 = 0 ∧
    bothOk 5 false [2] { two id with ctl := { (two id).ctl with straps := 1 } } (fun _ => true) ∧ ({ two id with ctl := { (two id).ctl with straps := 0x80000000 } } : State).ops = [] ∧
    bothOk 5 true [2, 9, 0x400000, 192] (two id) (fun x => (two id).freezeDone x.id && decide ((two id).commandsOf x.id = [] ∧ (two id).children x.id = [] ∧ (two id).savedTeams x.id = [])) ∧
    (∀ i < 192, backing (0x400000 + i) = .hbm) ∧ (∀ z ∈ (two id).insets, z.tablePages = []) := by decide +kernel

/-- An image of no team for inset 2 on HBM at 0x400000. -/
def imaged : State := stored 0x400000 (oneWords 2 0) (two (fun x => { x with frozen := true }))
theorem witness_MailboxRest :
    bothOk 6 false [2, 0x400000] imaged (fun x => x.frozen && imaged.under x.id x.id) ∧
    ((match imaged.readSpace 0 0x400000 192, imaged.readSpace 0 0x400000 64 with
      | .ok bs, .ok hs => decide (bs = oneBytes 2 0 ∧ imaged.areasDown 2 = false ∧ hs = bs.take 64 ∧ bs.length = 192 ∧ dword bs 0 = 192 ∧ field bs 8 0 32 = 1 ∧ field bs 0xC 0 32 = 0 ∧ field bs (64 + 0x48) 0 12 = 2
          ∧ field bs (64 + 0x4C) 0 12 = 0)
      | _, _ => false) : Bool) = true ∧ (∀ t ∈ imaged.teams, imaged.under 2 (imaged.teamInset t) = false) := by decide +kernel
theorem witness_MailboxRevoke :
    bothOk 7 false [2] (two id) (fun _ => true) ∧ bothOk 7 true [2] (two id) (fun x => decide ((two id).subtree x.id = [x])) ∧ (two id).commands = [] ∧
    (∀ v ∈ (two id).surveys, v.running = none ∧ v.pending = none) ∧ (∀ d ∈ (two id).grids, d.inset ≠ 2) ∧ (two id).ops = [] ∧ (∀ z ∈ (two id).insets, z.id ≠ 0) ∧
    bothOk 8 false [2, 0, 0, 0, 0, 0, 0, 0] (two id) (fun x => decide (x.level * 2 ^ 8 + 4 < 2 ^ 24)) ∧
    (mail 8 false [2, 0, 0, 0, 0, 0, 0, 0] (two id)).ctl.args.length = 8 := by decide +kernel

def tabled (e0 : Nat) : State := tables e0 (two (fun x => { x with tbase := 0x30000 }))
theorem witness_MailboxMap :
    bothOk 9 false [2, 0x1C, 0, 0x60000, 1, 0, 0] (tabled 0) (fun y => decide (y.tbase = 0x30000)) ∧ walkOk (tabled 0) [] 0 ∧ (tabled 0).ops = [] ∧
    (∀ t ∈ (tabled 0).teams, t.imageFault ≠ some 2) ∧ bothOk 0xA false [2, 0, 0, 1] (tabled 0x6001F) (fun y => !(tabled 0x6001F).pinned y.id 0 0x10000) ∧
    walkOk (tabled 0x6001F) [] 0x6001F ∧ bothOk 0xB false [2, 0x1000, 1] (two id) (fun _ => true) ∧
    takenOk (mail 0xA true [2] (two id)) 0xA true ∧ (two id).oldAccess topInset 0 0x10000 = false ∧ topInset.id < 2 ^ 12 := by decide +kernel
def ranged : State := two (fun x => { x with ranges := [{ base := 0x50000, length := 0x10000, key := 0, perms := 7, tweak := 0 }] })
theorem witness_MailboxRoot :
    bothOk 0x10 false [2, 0x50000, 0x10000, 0x700] (two id) (fun _ => true) ∧ (∀ t ∈ (two id).teams, t.imageFault ≠ some 0) ∧
    bothOk 0x10 false [2, 0x5FFFFF0000, 0x20000, 0] (two id) (fun _ => true) ∧ 0x6000000000 < 0x5FFFFF0000 + 0x20000 ∧
    bothOk 0x11 false [2, 0x50000] ranged (fun x => (x.ranges.find? (fun r => decide (r.base = argument (mail 0x11 false [2, 0x50000] ranged) 1))).isSome) ∧
    bothOk 0x11 false [2, 0x60000] ranged (fun x => x.ranges.all (fun q => decide (q.base ≠ 0x60000))) ∧
    bothOk 0x11 true [2, 0x50000] ranged (fun x => !ranged.oldRange x 0x50000 0x10000) := by decide +kernel

/-- A queue control block at 0x400 of a vault under inset 1's tables. -/
def qcbState (logsize : Nat) : State := stored (vaultAt 0x400) [v0, 0, 0x10000 + logsize, 0] (mapped (unit 0))
def qcbBytes (logsize : Nat) : List Byte := (qcbState logsize).mem.pieceBytes [(vaultAt 0x400, 64)]
def qcbRead (s : State) : Bool := (match s.readSpace 1 0x40000400 64 with
  | .ok bs => decide (bs = qcbBytes (if s.mem = (qcbState 4).mem then 4 else 3))
  | .error _ => false)
theorem witness_MailboxDoorbells :
    takenOk (mail 0x20 false [8191, 0x40000400, 1] (qcbState 4)) 0x20 false ∧ qcbRead (qcbState 4) ∧ qcbRead (qcbState 3) ∧ ((qcbState 4).inset? 1).any (fun x => decide (x.id = 1)) ∧
    takenOk (mail 0x21 false [0] (belled false [] 4 0)) 0x21 false ∧ (belled false [] 4 0).doorbells.find? (fun d => decide (d.index = 0)) = some (bell false) ∧
    (belled true [] 4 0).doorbells.find? (fun d => decide (d.index = 0)) = some (bell true) ∧ (∀ d ∈ (belled true [] 4 0).doorbells, d.index ≠ 1) := by decide +kernel
theorem witness_queueBlocks : blockGood (qcbBytes 4) 1 ∧ blockGood (qcbBytes 16) 1 ∧ ¬blockGood (qcbBytes 3) 1 ∧ ¬blockGood (qcbBytes 17) 1 := by
  unfold blockGood; decide +kernel

/-- The range grant table entry 1023. -/
def granted (valid : Bool) (inflight : Nat) : State :=
  { unit 0 with fabric := { (unit 0).fabric with grants := [(1023, { base := 0x10000, length := 0x10000, reqmask := 1, subtree := 0, w := true, r := true, valid := valid, withdrawing := false, inflight := inflight })] } }
def grantWords : List Nat := [0x10000, 0, 0x10000, 0, 1, 0, 0x00070007, 0]
def grantBytes : List Byte := (hostBlock grantWords (unit 0)).mem.bytes hostAt 32
theorem witness_MailboxGrants :
    takenOk (mail 0x30 false [1023, 0] (hostBlock grantWords (unit 0))) 0x30 false ∧ findKey (unit 0).fabric.grants 1023 = none ∧ dword grantBytes 0 % 0x10000 = 0 ∧
    dword grantBytes 8 % 0x10000 = 0 ∧ 0 < dword grantBytes 8 ∧ field grantBytes 24 3 13 = 0 ∧ field grantBytes 28 0 32 = 0 ∧
    (findKey (granted true 2).fabric.grants 1023).any (fun g => g.valid && decide (g.inflight ≠ 0)) ∧ (findKey (granted false 0).fabric.grants 1023).any (fun g => !g.valid && decide (g.inflight = 0)) ∧
    takenOk (mail 0x31 true [1023] (granted false 0)) 0x31 true ∧ argument (mail 0x31 true [1023] (granted false 0)) 0 < 1024 := by decide +kernel
theorem witness_MailboxOthers :
    takenOk (mail 0x40 false [100, 1, 0, 0] (unit 0)) 0x40 false ∧ argument (mail 0x40 false [100, 1, 0, 0] (unit 0)) 3 % 2 ^ 6 = (unit 0).ctl.straps.toNat % 2 ^ 6 ∧
    takenOk (mail 0x50 false [0x10000, 2, 0, 1] (unit 0)) 0x50 false ∧ 0x800000000000 + 0 + 2 * 2 ≤ 2 ^ 48 ∧ (mail 0x60 false [9] (unit 0)).ctl.outcome = none ∧
    ({ unit 0 with ctl := { (unit 0).ctl with boot := .waitimg, command := some 0x7F } } : State).ctl.boot = .waitimg ∧ (mail 0x7F false [9] (unit 0)).ctl.boot = .run := by
  decide +kernel

/-! ## Boot, power, errors -/

def atBoot (b : Boot) (s : State) : State := { s with ctl := { s.ctl with boot := b, image := some (0, 0x1000) } }
def powers (f : Power → Power) (s : State) : State := { s with power := f s.power }
/-- A firmware header at the foot of host memory. -/
def firmware (version : Nat) : State := stored hostAt [0x4E4D4C00, 0x32525746, version, 0, 0, 0, 0, 0] (atBoot .verify (unit 0))
def firmwareBytes : List Byte := (firmware 1).mem.bytes hostAt 0x20
theorem witness_headers : headerGood firmwareBytes 0x1000 ∧ ¬headerGood firmwareBytes 0xFFF := by unfold headerGood; decide +kernel

theorem witness_booting :
    (unit 0).mem.wf = true ∧ (atBoot .rom (unit 0)).ctl.boot = .rom ∧ (atBoot .run (unit 0)).ctl.boot ≠ .rom ∧
    (firmware 1).ctl.boot = .verify ∧ (firmware 1).ctl.image = some (0, 0x1000) ∧ 0x800000000000 + 0 + 0x1000 ≤ 2 ^ 48 ∧ 2 ^ 48 < 0x800000000000 + 0x7FFFFFFFF001 + 0x1000 ∧
    (unit 0).ctl.straps.toNat / 2 ^ 8 % 2 ^ 6 ≤ field firmwareBytes 8 0 32 ∧ field firmwareBytes 8 0 32 < ({ (unit 0).ctl with straps := 0x200 } : Control).straps.toNat / 2 ^ 8 % 2 ^ 6 ∧
    (atBoot .run (unit 0)).power.pstate = 0 ∧ (powers (fun p => { p with rows := 0x7FFF }) (unit 0)).power.rows.getLsbD 15 = false ∧
    (powers (fun p => { p with rows := 0x8000 }) (unit 0)).power.rows.getLsbD (255 / 16) = true ∧ Sparse.get 0 (unit 0).power.ramp 255 < 4 ∧
    4 ≤ Sparse.get 0 (powers (fun p => { p with ramp := [(255, 4)] }) (unit 0)).power.ramp 255 := by decide +kernel

/-- A running device whose fleet block starts with these words. -/
def fleetWords (ws : List Nat) : State := stored 0x5FFFFF0000 ws (atBoot .run (unit 0))
def arming (control addr mask : Nat) : State := stored 0x5FFFFF0080 [control, 0, addr % 2 ^ 32, addr / 2 ^ 32, mask % 2 ^ 32, mask / 2 ^ 32] (fleetWords [1])

theorem witness_fleetBlock :
    (unit 0).ctl.boot ≠ .run ∧ fleet (fleetWords [0]) 0 = (unit 0).power.gen ∧ fleet (fleetWords [1]) 0 ≠ (unit 0).power.gen ∧
    ((fleetWords [1]).power.done = false ∧ (fleetWords [1]).mem.struck = false) ∧ fleet (fleetWords [1]) 0x080 % 2 = 0 ∧
    fleet (arming 0x30000001 0x4000000 1) 0x080 / 2 ^ 28 = 3 ∧ fleet (arming 0x30000001 0x4000000 1) 0x088 + 2 ^ 32 * fleet (arming 0x30000001 0x4000000 1) 0x08C = 0x4000000 ∧
    fleet (arming 0x32000001 0x3FFFFFF 0x7F00000000) 0x080 % 2 = 1 ∧ fleet (arming 0x32000001 0x3FFFFFF 0x7F00000000) 0x094 < 2 ^ 7 ∧
    fleet (arming 0x40700001 0xBFFFFFFFF 1) 0x080 / 2 ^ 20 % 2 ^ 8 < 8 ∧ (arming 0x40700001 0xBFFFFFFFF 1).confidential = false := by decide +kernel

/-- An idle package that tolerates 20 µs, and one over its cap with a list of one step. -/
def idleHouse : State := { powers (fun p => { p with lattol := 20 }) (atBoot .run (unit 0)) with teams := [] }
def hot (action throttle : Nat) (done : List (Nat × Nat × Nat)) (insetOf : Nat) : State :=
  powers (fun p => { p with shedn := 1, shed := [(0, insetOf, action)], throttle := throttle, actions := done }) (atBoot .run (two id))

theorem witness_powerRules :
    (2, 20) ∈ lowPower ∧ idleHouse.ctl.boot = .run ∧ (∀ u ∈ idleHouse.teams, u.seated = false) ∧ (∀ c ∈ idleHouse.commands, idleHouse.blocked c = true ∨ c.state = .done) ∧
    (∀ v ∈ idleHouse.surveys, v.running = none) ∧ (∀ q ∈ idleHouse.slots, q.read = q.write) ∧ idleHouse.ctl.busy = false ∧ idleHouse.power.wake = false ∧ 20 ≤ idleHouse.power.lattol ∧
    (∀ e ∈ lowPower, 2 < e.1 → idleHouse.power.lattol < e.2) ∧ idleHouse.power.pstate < 2 ∧
    (powers (fun p => { p with pstate := 3, lattol := 20 }) idleHouse).power.lattol < 220 ∧ (powers (fun p => { p with pstate := 2 }) idleHouse).power.wake = false ∧
    (hot 0 0 [] 2).ctl.boot = .run ∧ (hot 0 0 [] 2).bufferFull = false ∧ (1000 : Nat) ≤ capOf (hot 0 0 [] 2) ∧ 95 * capOf (hot 0 0 [] 2) < 100 * 1616 ∧ capOf (hot 0 0 [] 2) < 1701 ∧
    (hot 0 0 [] 2).power.shed.find? (fun e => decide (e.1 = 0)) = some (0, 2, 0) ∧ ((hot 0 0 [] 2).inset? 2).any (fun z => decide (z.parent = 0)) ∧
    (hot 2 0 [] 9).inset? 9 = none ∧ 100 * 1615 ≤ 95 * capOf (hot 0 0 [] 2) ∧ (hot 1 0 [(0, 2, 1), (1, 2, 2)] 2).power.actions = [] ++ (0, 2, 1) :: [(1, 2, 2)] ∧
    (hot 0 3 [(0, 2, 0)] 2).power.throttle < 7 ∧ (hot 0 7 [(0, 2, 0)] 2).power.throttle = 7 := by decide +kernel
theorem witness_listEnded : listEnded (hot 0 3 [(0, 2, 0)] 2) := by unfold listEnded; decide +kernel
theorem witness_stepNext : stepNext (hot 0 0 [] 2) 0 2 0 ∧ packageIdle idleHouse ∧ ¬packageIdle (unit 0) := by
  refine ⟨⟨by decide, by intro j h; omega, by decide +kernel, by decide +kernel⟩, ?_, ?_⟩ <;> unfold packageIdle <;> decide +kernel

def confidential (s : State) : State := { s with ctl := { s.ctl with straps := 0x20000 } }
theorem witness_softErrors :
    (unit 0).bufferFull = false ∧ (unit 0).power.injection = none ∧ (8#4).toNat ≤ 8 ∧
    ((unit 0).groups.map (·.gid)) = [3] ∧ ((unit 0).group? 3).any (fun g => g.clause.isSome && g.stop.isNone && decide ((unit 0).coreOf g = 0) && ((unit 0).insetOf g).any (fun x => decide (x.id = 1))) ∧
    ({ (unit 0).mem with inject := some (0x1000, 3) } : Memory).inject = some (0x1000, 3) ∧ bitCount 3 = 2 ∧ (0x1000 < 0xFFF + 2 ∧ 0xFFF < 0x1000 + 4) ∧ (0xFFE + 2 ≤ 0x1000) ∧
    (confidential (unit 0)).confidential = true ∧ (unit 0).confidential = false ∧ backing 0x5FFFFFFFFF = .hbm ∧ backing 0x6000000000 ≠ .hbm ∧
    ({ unit 0 with mem := { (unit 0).mem with latent := some (vaultAt 4, 3) } } : State).mem.latent = some (vaultAt 4, 3) ∧ (unit 0).fabric.linkUp = true ∧ (linkDown (unit 0)).fabric.linkUp = false := by
  decide +kernel

theorem witness_errorAt : errorAt 1 5 7 5 7 ∧ errorAt 2 5 0x40 5 0x40 ∧ errorAt 3 9 (vaultAt 4) 0 (vaultAt 4) ∧ errorAt 4 9 0x40 (Config.hbmStack 0x40 % 8) 0x40 ∧
    errorAt 8 5 7 5 0 ∧ ∀ u a, ¬errorAt 9 0 0 u a :=
  ⟨.inl (by decide), .inr (.inl (by decide)), .inr (.inr (.inl (by decide))), .inr (.inr (.inr (.inl ⟨by decide, by decide, rfl, rfl⟩))),
    .inr (.inr (.inr (.inr (by decide)))), fun _ _ h => by unfold errorAt at h; omega⟩

/-! ## Fabric -/

def meshed (s : State) : State := { s with ctl := { s.ctl with boot := .run, straps := 0x10000 } }
def fabric (f : Fabric → Fabric) (s : State) : State := { s with fabric := f s.fabric }
def sentOver (path : Nat) : State :=
  meshed (fabric (fun f => { f with paths := [(1, 2), (1, 3)], received := [(1, 9)], sent := [{ pkg := 1, seq := 7, path := path, sent := 0 }] }) (unit 0))
def holds : Grant := { base := 0x10000, length := 0x10000, reqmask := 2, subtree := 7, w := true, r := true, valid := true, withdrawing := false, inflight := 0 }
def granting : State := meshed (fabric (fun f => { f with grants := [(1023, holds)] }) (unit 0))

theorem witness_transport :
    (sentOver 2).ctl.straps.getLsbD 16 = true ∧ (sentOver 2).ctl.boot = .run ∧ (1, 2) ∈ (sentOver 2).fabric.paths ∧ (sentOver 2).fabric.received.contains (1, 9) = true ∧
    (sentOver 2).fabric.received.contains (1, 8) = false ∧ ((sentOver 2).fabric.sent.find? (fun q => decide (q.pkg = 1 ∧ q.seq = 7))).isSome ∧
    (∃ p ∈ (sentOver 2).fabric.paths, p = (1, 3) ∧ p.2 ≠ 2) ∧ (∀ p ∈ (fabric (fun f => { f with paths := [(1, 2)] }) (sentOver 2)).fabric.paths, p.1 = 1 → p.2 = 2) ∧
    (1, 4) ∉ (sentOver 2).fabric.paths ∧ ((sentOver 2).fabric.paths.filter (fun p => decide (p.1 = 1))).length < 8 ∧
    8 ≤ ((List.replicate 8 (1, 2)).filter (fun p => decide (p.1 = 1))).length ∧ (unit 0).ctl.straps.getLsbD 16 = false ∧
    granting.fabric.grants = [(1023, holds)] ∧ 0x1FFFF + 1 ≤ 0x6000000000 ∧ backing 0x800000000000 = .host ∧
    (∀ e ∈ (fabric (fun f => { f with grants := [] }) granting).fabric.grants, e.2.valid = false) ∧ granting.ops = [] := by decide +kernel
def marked (path : Nat) (ms : List (Nat × Nat × Nat)) : State := { sentOver path with markers := ms }
theorem witness_paths :
    (sentOver 2).fabric.paths.Nodup ∧ (∀ p ∈ (sentOver 2).fabric.sent, p.pkg = 1 → p.seq ≠ 8) ∧ (∀ p ∈ (sentOver 2).fabric.sent, p.pkg = 1 → p.path ≠ 3) ∧
    ((sentOver 3).fabric.sent.find? (fun p => decide (p.pkg = 1 ∧ p.path = 3))).isSome ∧ (5, 1, 3) ∈ (marked 3 [(5, 1, 3), (5, 1, 2)]).markers ∧
    (marked 3 [(5, 1, 3), (5, 1, 2)]).markers.Nodup ∧ (∃ m ∈ (marked 3 [(5, 1, 3), (5, 1, 2)]).markers, m.1 = 5 ∧ m ≠ (5, 1, 3)) ∧
    (∀ m ∈ (marked 3 [(5, 1, 3)]).markers, m.1 = 5 → m = (5, 1, 3)) ∧ (marked 3 []).markers = [] ∧
    (fabric (fun f => { f with paths := [] }) (sentOver 3)).fabric.paths.filter (fun p => decide (p.1 = 1)) = [] := by decide +kernel
theorem witness_meets : meetsHere (group (fun g => { g with writes := [0x10000] }) granting) 0x10000 false ∧ meetsNone granting 0x10000 true := by
  unfold meetsHere meetsNone; decide +kernel
theorem witness_grants : grants holds 1 7 0x1FFFF 1 true ∧ ¬grants holds 1 7 0x1FFFF 2 true ∧ ¬grants holds 0 7 0x10000 1 false := by unfold grants; decide +kernel

/-- A rotation of two subtrees, inset 1 of the first and inset 2 of the other. -/
def gang (current : Nat) (w : Option Switch) (ready : BitVec 64) : State :=
  fabric (fun f => { f with gang := some { period := 100, slots := [1, 2], coordinator := 0, current := current, ready := ready, switch := w } })
    (inset (fun x => { x with subtree := 1, packages := 3 }) (meshed (two (fun x => { x with subtree := 2, packages := 1, ganged := true }))))
def swap (d : Option Bool) : Switch := { tick := 0, outgoing := 1, incoming := some 2, decision := d }

theorem witness_gangRules :
    (gang 0 none 0).fabric.gang.any (fun g => decide (2 ≤ g.slots.length ∧ 0 < g.period ∧ g.switch = none)) ∧ ((gang 0 none 0).insets.map (·.id)).Nodup ∧
    (gang 0 none 0).insets.all (fun x => decide (x.frozen = false ∧ x.revoking = false)) ∧ ({ gang 0 none 0 with teams := [] } : State).teams = [] ∧
    (gang 0 (some (swap none)) 0).fabric.gang.any (fun g => decide (g.switch = some (swap none) ∧ g.coordinator = ownIndex (gang 0 (some (swap none)) 0))) ∧
    ownIndex (gang 0 none 0) = 0 ∧ (gang 0 (some (swap none)) 0).bufferFull = false ∧
    (∀ k < 64, (k = 0 ∨ ∃ x ∈ (gang 0 (some (swap none)) 3).insets, x.packages.getLsbD k = true) → (3#64).getLsbD k = true) ∧
    (gang 0 (some (swap (some true))) 3).fabric.gang.any (fun g => decide (g.switch.map (·.decision) = some (some true))) ∧
    (gang 0 (some (swap (some false))) 3).fabric.gang.any (fun g => decide (g.switch.map (·.decision) = some (some false))) ∧
    ((gang 0 (some (swap (some false))) 3).teams.map (·.tid)).Nodup ∧ (swap none).tick + 20000 < ({ gang 0 (some (swap none)) 0 with time := 20001 } : State).time ∧
    (gang 0 (some (swap none)) 0).time ≤ (swap none).tick + 20000 := by decide +kernel
theorem witness_cores : holdsCores (gang 0 (some (swap none)) 0) 1 ∧ ¬holdsCores (gang 0 (some (swap none)) 0) 2 ∧
    tickOf (gang 0 none 0) { period := 100, slots := [1, 2], coordinator := 0, current := 0, ready := 0, switch := none } 0 := by
  unfold holdsCores tickOf member; decide +kernel

/-! ## The Security Core -/

def security (f : Security → Security) (s : State) : State := { s with security := f s.security }
def sessionAt (n : Nat) (s : State) : State := security (fun x => { x with session := n }) { s with ctl := { s.ctl with boot := .run } }
def keyedWith (k : KeySlot) : State := security (fun x => { x with keys := [(5, k)] }) (sessionAt 5 (unit 0))

theorem witness_attestation :
    (sessionAt 1 (unit 0)).fabric.linkUp = true ∧ (sessionAt 1 (unit 0)).ctl.boot ≠ .rom ∧ (unit 0).ctl.boot = .rom ∧ (sessionAt 5 (unit 0)).security.session = 5 ∧
    (security (fun x => { x with tree := some 3, leaves := 32768, awaiting := [{ code := 3, status := 0, payload := [] }] }) (sessionAt 3 (unit 0))).security.tree ≠ some (leafNow (unit 0)) ∧
    (security (fun x => { x with tree := some 0, leaves := 32768 }) (sessionAt 3 (unit 0))).security.tree = some (leafNow (unit 0)) ∧ (unit 0).security.awaiting = [] ∧
    (unit 0).inset? 9 = none ∧ (unit 0).security.tree = none := by decide +kernel
theorem witness_keySlots :
    keyAt (keyedWith .empty) 5 = .empty ∧ keyAt (keyedWith (.loaded 9)) 5 = .loaded 9 ∧ keyAt (keyedWith (.killing 0x7F true)) 5 = .killing 0x7F true ∧
    (∀ x ∈ (keyedWith (.loaded 9)).insets, ∀ r ∈ x.ranges, r.key ≠ 5) ∧ (∃ j < 8, j ≠ 7 ∧ (0x3F#8).getLsbD j = false) ∧ (∀ j < 8, j ≠ 7 → (0x7F#8).getLsbD j = true) ∧
    keyAt (keyedWith .empty) 6 = .empty := by decide +kernel

/-- Inset 2 at the root alone, nothing of it left in the package. -/
def lone (f : Inset → Inset) : State :=
  let s := sessionAt 5 (two f)
  { s with groups := [], teams := [], grids := [], clusters := [], ctl := { s.ctl with straps := 0x20000 } }
def sealedRange : RootRange := { base := 0x50000, length := 0x10000, key := 5, perms := 7, tweak := 0x50000 }
def sealedInset : Inset := { topInset with ranges := [sealedRange], frozen := true }
def sealedData : Sealed :=
  { nonce := 0, size := 0, insets := [sealedInset], grids := [], clusters := [], teams := [], groups := [], ops := [], outstanding := [], images := [],
    vaults := State.reset.mem, keys := [(5, 9)] }
def unsealing : State := security (fun x => { x with sealed := [sealedData], keys := [] }) (sessionAt 5 (unit 0))

theorem witness_sealing :
    ((lone id).inset? 2).any (fun x => decide (x.parent = 0 ∧ x.id = 2 ∧ x.sealing = false ∧ x.frozen = false)) ∧ (lone id).confidential = true ∧ (lone id).bufferFull = false ∧
    (lone id).security.sealed.length < 256 ∧ 256 ≤ (List.replicate 256 sealedData).length ∧ ((lone (fun x => { x with sealing := true, frozen := true })).inset? 2).any (fun x => x.sealing) ∧
    (lone id).freezeDone 2 = true ∧ (lone (fun x => { x with pendingBreaks := [] })).subtree 2 = [topInset] ∧ ((lone id).insets.map (·.id)).Nodup ∧ (∀ z ∈ (lone id).insets, z.id ≠ 0) ∧
    (∀ v ∈ (lone id).mem.veils, v.base + v.size ≤ 0x6000000000) ∧ (lone id).commands = [] ∧ (lone id).records = [] ∧ (lone id).outstanding = [] ∧ (lone id).ops = [] ∧ (∀ v ∈ (lone id).surveys, v.running = none ∧ v.pending = none) ∧
    0x800000000000 + 0 + (lone id).sealSize topInset ≤ 2 ^ 48 ∧ (unsealing.security.sealed = [sealedData]) ∧ unsealing.mem.bytes hostAt 0 = [] ∧ sealedInset.ranges = [sealedRange] ∧
    (∀ z ∈ unsealing.insets, z.id ≠ 0 ∧ sealedInset.cores &&& z.cores = 0) ∧ sealedInset.qslots ≤ unsealing.ownSlots 0 ∧ 1 + sealedInset.iquota ≤ unsealing.ownQuota 0 ∧
    keyAt unsealing 1 = .empty ∧ unsealing.inset? 2 = none ∧ (unsealing.inset? 1).isSome ∧ (∀ y ∈ unsealing.insets, y.parent = 0 → y.share ≠ 2) ∧
    (∃ y ∈ unsealing.insets, y.parent = 0 ∧ y.share = 1) ∧ unsealing.ops = [] := by decide +kernel
theorem witness_sealingBlocked :
    (let s := lone (fun x => { x with sealing := true, frozen := true })
     let t := { s with commands := [{ command 6 .accepted 0x40 with inset := 2 }] }
     (t.freezeDone 2, t.commands.any (fun c => t.under 2 c.inset && t.blocked c)) = (true, true)) := by decide +kernel

/-- A migration of inset 2. -/
def moving (source : Bool) (code : Nat) : State :=
  security (fun x => { x with migrations := [{ inset := 2, source := source, code := code, since := 0, asked := 0 }] }) (lone (fun x => { x with frozen := true }))
theorem witness_migration :
    (moving true 0).security.migrations.find? (fun n => decide (n.inset = 2)) = some { inset := 2, source := true, code := 0, since := 0, asked := 0 } ∧
    ((moving true 0).inset? 2).any (fun x => decide (x.parent = 0 ∧ x.id = 2)) ∧ (lone id).security.migrations = [] ∧ (moving true 0).freezeDone 2 = true ∧
    (∀ c ∈ (moving true 0).commands, (moving true 0).under 2 c.inset = false) ∧ (moving true 1).fabric.linkUp = true ∧ (moving false 2).security.session = 5 ∧
    (∀ u ∈ (moving false 2).teams, u.refused = false) ∧ (moving true 1).subtree 2 = [{ topInset with frozen := true }] ∧ (moving true 1).confidential = true ∧
    (0 + 10 ^ 9 ≤ 0 + 60 * 10 ^ 9) ∧ (lone id).inset? 7 = none ∧ (∀ m ∈ (moving true 1).security.migrations, m.inset ≠ 7) ∧ (lone id).insets.length < 1024 := by decide +kernel
def importing : State :=
  let s := hostBlock (block 1 0x10001) (sessionAt 5 (unit 0))
  { s with ctl := { s.ctl with straps := 0x20000 } }
theorem witness_import : importing.confidential = true ∧ importing.mem.bytes hostAt 128 = hostBytes (block 1 0x10001) ∧ dword (hostBytes (block 1 0x10001)) 0x40 = 0 := by decide +kernel

/-! ## The machine as a whole -/

theorem witness_StepRunsDecoded :
    (State.reset.withFetchWord 32 0x18082052).agenda = [.issue 3] ∧
    ((State.reset.withFetchWord 32 0x18082052).group? 3).any (fun g => g.clause.any (fun cl => decide (cl.words[cl.index]? = some 0x18082052#32))) ∧
    (decode 0x18082052#32).toOption = some (.icmp 2 4 5 2) ∧ ((unit 0x0C000020).ctx? true).isSome ∧ (unit 0).groups.any (fun g => g.clause.isSome) ∧
    ((clause id (group (fun g => { g with clause := none }) (unit 0))).group? 3).any (fun g => g.clause.isNone) ∧ State.reset.groups = [] ∧ State.reset.agenda = [] ∧
    (decodeTableWord 32 0x18082052).isSome := by decide +kernel
theorem witness_EncodeDecodeRoundTrip : (Instr.icmp 2 4 5 2).wf = true ∧ encode (.icmp 2 4 5 2) = some 0x18082052#32 := by decide +kernel
theorem witness_MemoryFormKept : State.reset.mem.wf = true := by decide +kernel
/-! ## Words written out from the maps of R124, R138, R139 and R140: the major, the selecting value and distinct values in the operand fields -/

/-- The word decodes to the instruction. -/
noncomputable def isWord (w : Nat) (i : Instr) : Bool := decide ((decode (BitVec.ofNat 32 w)).toOption = some i)

theorem test_decode_integer :
    isWord 0x011555B0 (.iadd 69 42 91) ∧ isWord 0x011555B1 (.isub 69 42 91) ∧ isWord 0x011555B2 (.imul 69 42 91) ∧ isWord 0x011555B3 (.imulh 69 42 91) ∧
    isWord 0x011555B4 (.imulhu 69 42 91) ∧ isWord 0x011555B5 (.imin 69 42 91) ∧ isWord 0x011555B6 (.imax 69 42 91) ∧ isWord 0x011555B7 (.umin 69 42 91) ∧
    isWord 0x011555B8 (.umax 69 42 91) ∧ isWord 0x011555B9 (.and 69 42 91) ∧ isWord 0x011555BA (.or 69 42 91) ∧ isWord 0x011555BB (.xor 69 42 91) ∧
    isWord 0x011555BC (.shl 69 42 91) ∧ isWord 0x011555BD (.shr 69 42 91) ∧ isWord 0x011555BE (.shra 69 42 91) ∧ isWord 0x011555BF (.rotr 69 42 91) ∧
    isWord 0x031555B0 (.idiv 69 42 91) ∧ isWord 0x031555B1 (.udiv 69 42 91) ∧ isWord 0x031555B2 (.irem 69 42 91) ∧ isWord 0x031555B3 (.urem 69 42 91) ∧
    isWord 0x03155004 (.popc 69 42) ∧ isWord 0x03155005 (.clz 69 42) ∧ isWord 0x03155006 (.brev 69 42) ∧ isWord 0x03155007 (.iabs 69 42) ∧ isWord 0x031555B8 (.bfx 69 42 91) ∧
    isWord 0x031555B9 (.bfxu 69 42 91) ∧ isWord 0x031555BA (.bfi 69 42 91) ∧ isWord 0x031555BB (.andn 69 42 91) := by decide +kernel
theorem test_decode_immediate :
    isWord 0x0515505B (.iaddi 69 42 91) ∧ isWord 0x0715505B (.andi 69 42 91) ∧ isWord 0x0915505B (.ori 69 42 91) ∧ isWord 0x0B15505B (.xori 69 42 91) ∧
    isWord 0x0D15501B (.shli 69 42 27) ∧ isWord 0x0D15521B (.shri 69 42 27) ∧ isWord 0x0D15541B (.shrai 69 42 27) ∧ isWord 0x0D15561B (.rotri 69 42 27) ∧
    isWord 0x0F1555B0 (.imad 69 42 91) ∧ isWord 0x0F1555B1 (.imadu 69 42 91) ∧ isWord 0x0F1555B2 (.imadh 69 42 91) ∧
    isWord 0x0F1555B3 (.imadhu 69 42 91) := by decide +kernel
theorem test_decode_wide :
    isWord 0x111555B0 (.iaddx 69 42 91) ∧ isWord 0x111555B1 (.isubx 69 42 91) ∧ isWord 0x111555B2 (.shlx 69 42 91) ∧ isWord 0x111555B3 (.shrx 69 42 91) ∧
    isWord 0x111555B4 (.shrax 69 42 91) ∧ isWord 0x111555B5 (.imulw 69 42 91) ∧ isWord 0x111555B6 (.imulwu 69 42 91) ∧ isWord 0x111555B8 (.leaS0 69 42 91) ∧
    isWord 0x111555B7 (.leaS1 69 42 91) ∧ isWord 0x111555BB (.leaS2 69 42 91) ∧ isWord 0x111555BF (.leaS3 69 42 91) ∧ isWord 0x13155000 (.mov 69 42) ∧
    isWord 0x13155001 (.movx 69 42) ∧ isWord 0x13140002 (.ptov 69) ∧ isWord 0x12022803 (.vtop 69) ∧ isWord 0x1514002A (.movi 69 42) ∧ isWord 0x171555B3 (.sel 69 42 91 3) ∧
    isWord 0x185555B9 (.icmp 21 42 91 9) ∧ isWord 0x1A5554B3 (.icmpi 21 42 9 51) := by decide +kernel
theorem test_decode_float :
    isWord 0x1D1555B0 (.fadd 69 42 91) ∧ isWord 0x1D1555B1 (.fsub 69 42 91) ∧ isWord 0x1D1555B2 (.fmul 69 42 91) ∧ isWord 0x1D1555B3 (.fmin 69 42 91) ∧
    isWord 0x1D1555B4 (.fmax 69 42 91) ∧ isWord 0x1D1555B5 (.fcopysign 69 42 91) ∧ isWord 0x1F1555B0 (.ffma 69 42 91) ∧ isWord 0x1F1555B1 (.ffms 69 42 91) ∧
    isWord 0x1F1555B2 (.ffnma 69 42 91) ∧ isWord 0x1F1555B3 (.ffnms 69 42 91) ∧ isWord 0x205555B6 (.fcmp 21 42 91 6) ∧ isWord 0x23155000 (.frndn 69 42) ∧
    isWord 0x23155001 (.frndz 69 42) ∧ isWord 0x23155002 (.frndd 69 42) ∧ isWord 0x23155003 (.frndu 69 42) ∧ isWord 0x23155004 (.fclass 69 42) ∧
    isWord 0x23155005 (.fabs 69 42) ∧ isWord 0x23155006 (.fneg 69 42) := by decide +kernel
theorem test_decode_packed :
    isWord 0x251555B0 (.hadd2 69 42 91) ∧ isWord 0x251555B1 (.hsub2 69 42 91) ∧ isWord 0x251555B2 (.hmul2 69 42 91) ∧ isWord 0x251555B3 (.hfma2 69 42 91) ∧
    isWord 0x251555B4 (.hmin2 69 42 91) ∧ isWord 0x251555B5 (.hmax2 69 42 91) ∧ isWord 0x251555B6 (.badd2 69 42 91) ∧ isWord 0x251555B7 (.bsub2 69 42 91) ∧
    isWord 0x251555B8 (.bmul2 69 42 91) ∧ isWord 0x251555B9 (.bfma2 69 42 91) ∧ isWord 0x251555BA (.bmin2 69 42 91) ∧ isWord 0x251555BB (.bmax2 69 42 91) ∧
    isWord 0x271555B0 (.dot4s8 69 42 91) ∧ isWord 0x271555B1 (.dot4u8 69 42 91) ∧ isWord 0x271555B2 (.dot4su8 69 42 91) ∧ isWord 0x271555B3 (.dot8s4 69 42 91) ∧
    isWord 0x271555B4 (.dot2h 69 42 91) ∧ isWord 0x271555B5 (.dot2b 69 42 91) ∧ isWord 0x271555B6 (.dot4e4 69 42 91) ∧ isWord 0x271555B7 (.dot4e5 69 42 91) ∧
    isWord 0x29155006 (.cvt 69 42 6) ∧ isWord 0x2B1555B6 (.qnt 69 42 91 3) ∧ isWord 0x2D1555B6 (.dqnt 69 42 91 3) ∧ isWord 0x2F15500C (.unpk3 69 42 3) := by decide +kernel
theorem test_decode_special :
    isWord 0x311555B0 (.exp2 69 42 91) ∧ isWord 0x311555B1 (.exp 69 42 91) ∧ isWord 0x311555B2 (.log2 69 42 91) ∧ isWord 0x311555B3 (.rcp 69 42 91) ∧
    isWord 0x311555B4 (.rsqrt 69 42 91) ∧ isWord 0x311555B5 (.sqrt 69 42 91) ∧ isWord 0x311555B6 (.sin 69 42 91) ∧ isWord 0x311555B7 (.cos 69 42 91) ∧
    isWord 0x311555B8 (.tanh 69 42 91) ∧ isWord 0x311555B9 (.sigm 69 42 91) ∧ isWord 0x311555BA (.gelu 69 42 91) ∧ isWord 0x3244B890 (.pand 17 23 9) ∧
    isWord 0x3244B891 (.por 17 23 9) ∧ isWord 0x3244B892 (.pxor 17 23 9) ∧ isWord 0x3244B893 (.pandn 17 23 9) ∧ isWord 0x3244B804 (.pnot 17 23) ∧
    isWord 0x3244B805 (.pmov 17 23) ∧ isWord 0x32440006 (.pset 17) ∧ isWord 0x32440007 (.pclr 17) := by decide +kernel
theorem test_decode_memory :
    isWord 0x35155498 (.ld 69 42 4 2 3) ∧ isWord 0x37155498 (.st 69 42 4 2 3) ∧ isWord 0x3915549B (.ldnr 69 42 4 2 3 3) ∧ isWord 0x3B155320 (.ldtWaitfull 69 42 1 4) ∧
    isWord 0x3B155321 (.ldtTake 69 42 1 4) ∧ isWord 0x3B155322 (.ldtPeektag 69 42 1 4) ∧ isWord 0x3D155320 (.sttPut 69 42 1 4) ∧ isWord 0x3D155321 (.sttFill 69 42 1 4) ∧
    isWord 0x3D155322 (.sttDrain 69 42 1 4) ∧ isWord 0x3F1555BA (.atom 69 42 91 10) ∧ isWord 0x40022AA9 (.ared 69 42 9) := by decide +kernel
theorem test_decode_lanes :
    isWord 0x431555B2 (.lperm 69 42 91 2) ∧ isWord 0x44505801 (.lsense 20 11 1) ∧ isWord 0x4715500A (.lfold 69 42 10) ∧ isWord 0x49155003 (.scan 69 42 3) ∧
    isWord 0x4B60002A (.brl 22 42) ∧ isWord 0x4D140000 (.rng 69) ∧ isWord 0x4C022801 (.rngseed 69) ∧ isWord 0x4F16B730 (.trd 69 10 27 19) ∧
    isWord 0x5116B730 (.twr 69 10 27 19) := by decide +kernel
theorem test_decode_uniform :
    isWord 0x811555B0 (.uadd 69 42 91) ∧ isWord 0x811555B1 (.usub 69 42 91) ∧ isWord 0x811555B2 (.umul 69 42 91) ∧ isWord 0x811555B3 (.umulhu 69 42 91) ∧
    isWord 0x811555B4 (.ualuUmin 69 42 91) ∧ isWord 0x811555B5 (.ualuUmax 69 42 91) ∧ isWord 0x811555B6 (.ualuAnd 69 42 91) ∧ isWord 0x811555B7 (.ualuOr 69 42 91) ∧
    isWord 0x811555B8 (.ualuXor 69 42 91) ∧ isWord 0x811555B9 (.ualuShl 69 42 91) ∧ isWord 0x811555BA (.ualuShr 69 42 91) ∧ isWord 0x811555BB (.ualuShra 69 42 91) ∧
    isWord 0x8315505B (.uaddi 69 42 91) ∧ isWord 0x8514002A (.umovi 69 42) ∧ isWord 0x871555B0 (.uaddx 69 42 91) ∧ isWord 0x871555B1 (.usubx 69 42 91) ∧
    isWord 0x871555B2 (.umulw 69 42 91) ∧ isWord 0x871555BF (.ulea 69 42 91 3) ∧ isWord 0x885555B9 (.ucmp 21 42 91 9) ∧
    isWord 0x8A5554B3 (.ucmpi 21 42 9 51) := by decide +kernel
theorem test_decode_control :
    isWord 0x8D68005B (.bra 22 2 91) ∧ isWord 0x8FF00045 (.call 69) ∧ isWord 0x90000000 .nop ∧ isWord 0x90000001 .exit ∧ isWord 0x90000002 .yield ∧ isWord 0x90000003 .brk ∧
    isWord 0x90022804 (.trap 69) ∧ isWord 0x90022805 (.ret 69) ∧ isWord 0x90022806 (.brr 69) ∧ isWord 0x90022807 (.callr 69) ∧ isWord 0x931402A0 (.sread 69 42) ∧
    isWord 0x92022AA1 (.swrite 69 42) ∧ isWord 0x92022AA2 (.rquota 69 42) ∧ isWord 0x931555B3 (.rdlane 69 42 91) ∧ isWord 0x931555B4 (.wrlane 69 42 91) ∧
    isWord 0x94003000 (.rjset 6) ∧ isWord 0x94003001 (.rjwait 6) ∧ isWord 0x94003002 (.rjclr 6) ∧ isWord 0x95143003 (.rjread 69 6) ∧ isWord 0x96000000 .barTeam ∧
    isWord 0x96000001 .barCluster ∧ isWord 0x96000002 .arriveTeam ∧ isWord 0x96000003 .waitTeam ∧ isWord 0x96000004 .arriveCluster ∧ isWord 0x96000005 .waitCluster ∧
    isWord 0x98000003 (.fence 3) := by decide +kernel
theorem test_decode_sync :
    isWord 0x9A022800 (.boinit 69) ∧ isWord 0x9A022AA1 (.boexp 69 42) ∧ isWord 0x9A022AA2 (.boarr 69 42) ∧ isWord 0x9B1555B3 (.bowait 69 42 91) ∧
    isWord 0x9B1555B4 (.botest 69 42 91) ∧ isWord 0x9A022AA5 (.bofault 69 42) ∧ isWord 0x9C022800 (.tkinit 69) ∧ isWord 0x9D1555B1 (.tkget 69 42 91) ∧
    isWord 0x9D1555B2 (.tkwait 69 42 91) ∧ isWord 0x9D155003 (.tknext 69 42) ∧ isWord 0x9E022AA0 (.dqinit 69 42) ∧ isWord 0x9F1555B1 (.dqpush 69 42 91) ∧
    isWord 0x9F155002 (.dqpop 69 42) ∧ isWord 0x9F155003 (.dqsteal 69 42) ∧ isWord 0xA0000000 .arflush ∧ isWord 0xA1140001 (.arstat 69) ∧ isWord 0xA3155000 (.wpread 69 42) ∧
    isWord 0xA31555B1 (.wpwait 69 42 91) := by decide +kernel
theorem test_decode_tiles :
    isWord 0xA4355000 (.tconf 13 42) ∧ isWord 0xA5146801 (.tcread 69 13) ∧ isWord 0xA4340002 (.tzero 13) ∧ isWord 0xA6AAAD80 (.tld 5 42 91) ∧
    isWord 0xA6AAAD81 (.tst 5 42 91) ∧ isWord 0xA6AAAD82 (.tldt 5 42 91) ∧ isWord 0xA8B56C90 (.mma 5 10 11 3 9) ∧ isWord 0xA8B56C91 (.mmaq 5 10 11 3 9) ∧
    isWord 0xA8B56C92 (.mmat 5 10 11 3 9) ∧ isWord 0xA8B56C93 (.mmab 5 10 11 3 9) ∧ isWord 0xAAB40D50 (.tcvt 5 10 0 3 21) ∧ isWord 0xAAB401D1 (.trmax 5 10 0 0 29) ∧
    isWord 0xAAB401D2 (.trsum 5 10 0 0 29) ∧ isWord 0xAAB561D3 (.trscl 5 10 11 0 29) ∧ isWord 0xAAB56134 (.texp2 5 10 11 0 19) ∧ isWord 0xAAB40135 (.tmov 5 10 0 0 19) ∧
    isWord 0xAAB56136 (.tmask 5 10 11 0 19) := by decide +kernel
theorem test_decode_engines :
    isWord 0xAD155030 (.cpy 69 42 1 1) ∧ isWord 0xAD155051 (.cpym 69 42 1 1) ∧ isWord 0xAD155032 (.cpyc 69 42 1 1) ∧ isWord 0xAF155000 (.gath 69 42) ∧
    isWord 0xAF155001 (.scat 69 42) ∧ isWord 0xB1155000 (.chain 69 42) ∧ isWord 0xB3155000 (.allred 69 42) ∧ isWord 0xB3155001 (.allgath 69 42) ∧
    isWord 0xB3155002 (.redscat 69 42) ∧ isWord 0xB3155003 (.bcast 69 42) ∧ isWord 0xB5155000 (.svsub 69 42) ∧ isWord 0xB5140001 (.svsweep 69) ∧
    isWord 0xB5140002 (.svpart 69) ∧ isWord 0xB5140003 (.svclose 69) ∧ isWord 0xB5140004 (.svstat 69) ∧ isWord 0xB5140014 (.svstatDesc 69) ∧
    isWord 0xB5140005 (.svcancel 69) := by decide +kernel
theorem test_decode_tolerance :
    isWord 0xB71555B0 (.tolnode 69 42 91) ∧ isWord 0xB6022AA1 (.demand 69 42) ∧ isWord 0xB7155002 (.tolget 69 42) ∧ isWord 0xB71555B3 (.fmtsel 69 42 91) ∧
    isWord 0xB71555B4 (.itersel 69 42 91) ∧ isWord 0xB7140005 (.tolchk 69) ∧ isWord 0xB6022806 (.tolclr 69) ∧ isWord 0xB6040006 .tolclrAll ∧ isWord 0xB9140000 (.launch 69) ∧
    isWord 0xB9140001 (.launchq 69) := by decide +kernel
theorem test_decode_privileged :
    isWord 0xBB140000 (.ctxnew 69) ∧ isWord 0xBB1400A1 (.ctxgrant 69 10) ∧ isWord 0xBB140002 (.ctxfrz 69) ∧ isWord 0xBB140003 (.ctxthaw 69) ∧
    isWord 0xBB140004 (.ctxckpt 69 0) ∧ isWord 0xBB140005 (.ctxrest 69) ∧ isWord 0xBB140006 (.ctxrevk 69) ∧ isWord 0xBB140007 (.ctxstat 69) ∧
    isWord 0xBB140008 (.ctxdbgSetbp 69) ∧ isWord 0xBB140018 (.ctxdbgClrbp 69) ∧ isWord 0xBB140028 (.ctxdbgRdstate 69) ∧ isWord 0xBB140038 (.ctxdbgWrstate 69) ∧
    isWord 0xBB140048 (.ctxdbgStep 69) ∧ isWord 0xBD140000 (.mapg 69) ∧ isWord 0xBD140001 (.unmapg 69) ∧ isWord 0xBD140002 (.pinv 69) ∧ isWord 0xBD140003 (.pgreq 69 0) ∧
    isWord 0xBF140000 (.hqarm 69) ∧ isWord 0xBF140001 (.hqdisarm 69) ∧ isWord 0xBF1555B2 (.hqack 69 42 91) := by decide +kernel
theorem test_decode_last :
    isWord 0xC1155498 (.uld 69 42 4 2 3) ∧ isWord 0xC3155498 (.ust 69 42 4 2 3) ∧ isWord 0xC51555BA (.uatom 69 42 91 10) ∧ isWord 0xF8E00000 (.xsco 3 2) ∧
    isWord 0xFB1556D9 (.xmod 69 42 3 3 1 4 1) ∧ isWord 0xFC000045 (.ximm 69) := by decide +kernel
/-- The word decodes to nothing. -/
noncomputable def noWord (w : Nat) : Bool := decide ((decode (BitVec.ofNat 32 w)).toOption = none)

/-- The worked encodings of chapter 9. -/
theorem test_decode_worked :
    isWord 0x18082052 (.icmp 2 4 5 2) ∧ isWord 0x000C2057 (.umin 3 4 5) ∧ isWord 0x81AF66D4 (.ualuUmin 107 108 109) ∧ isWord 0x0C102A03 (.shri 4 5 3) ∧
    isWord 0x1018109B (.leaS2 6 2 9) ∧ isWord 0x98000003 (.fence 3) ∧ isWord 0x10000008 (.leaS0 0 0 0) := by decide +kernel
/-- The reserved words of chapter 9, and a word of each reserved kind of R125, R138 and R139. -/
theorem test_decode_reserved :
    noWord 0x10000009 ∧ noWord 0x0C000020 ∧ noWord 0x98000005 ∧ noWord 0x8E000000 ∧ noWord 0x52000000 ∧ noWord 0x7E000000 ∧ noWord 0xC6000000 ∧ noWord 0xFE000000 ∧
    noWord 0x0200000C ∧ noWord 0x1800000A ∧ noWord 0x2A000001 ∧ noWord 0x34000001 ∧ noWord 0x34000500 ∧ noWord 0x34000008 ∧ noWord 0x0201F814 ∧ noWord 0xF8A00001 := by
  decide +kernel

/-! ## A term that each check of WellFormed refuses -/

theorem test_wf_fields :
    [Instr.icmp 24 4 5 2, .icmp 2 4 5 10, .icmpi 24 4 2 5, .icmpi 2 4 10 5, .fcmp 24 4 5 2, .fcmp 2 4 5 8, .cvt 2 4 8, .pand 24 1 2, .pand 1 24 2, .pand 1 2 24,
     .por 24 1 2, .pxor 1 24 2, .pandn 1 2 24, .pnot 24 1, .pnot 1 24, .pmov 24 1, .pmov 1 24, .pset 24, .pclr 24].all (fun i => !i.wf) = true := by decide +kernel
theorem test_wf_memory :
    [Instr.ld 0 2 5 1 0, .ld 0 2 2 1 5, .ld 0 2 2 0 1, .st 0 2 5 1 0, .st 0 2 2 0 1, .ldnr 0 2 5 1 0 0, .ldnr 0 2 2 0 1 0, .ldtWaitfull 0 2 0 5, .ldtTake 0 2 0 5,
     .ldtPeektag 0 2 0 5, .sttPut 0 2 0 5, .sttFill 0 2 0 5, .sttDrain 0 2 0 5, .atom 0 2 4 14, .ared 2 4 11, .uld 0 2 5 1 0, .uld 0 2 2 0 1, .ust 0 2 5 1 0,
     .ust 0 2 2 0 1, .uatom 0 2 4 14, .xsco 5 0, .xmod 0 0 0 0 0 6 0].all (fun i => !i.wf) = true := by decide +kernel
theorem test_wf_lanes :
    [Instr.lperm 0 1 2 4, .lperm 0 1 2 3, .lsense 0 1 5, .lsense 0 24 0, .lsense 24 0 0, .lfold 0 1 11, .scan 0 1 4, .brl 24 0, .ucmp 24 4 5 2, .ucmp 2 4 5 10,
     .ucmpi 24 4 2 5, .ucmpi 2 4 10 5, .bra 24 0 0, .rjset 8, .rjwait 8, .rjclr 8, .rjread 0 8, .fence 5].all (fun i => !i.wf) = true := by decide +kernel
theorem test_wf_tiles :
    [Instr.tconf 16 0, .tcread 0 16, .tzero 16, .mma 0 1 2 0 16, .mmaq 0 1 2 0 16, .mmat 0 1 2 0 16, .mmab 0 1 2 0 16, .tcvt 0 1 2 0 0, .tcvt 0 1 0 0 48, .tcvt 0 1 0 0 6,
     .trmax 0 1 2 0 0, .trmax 0 1 0 2 0, .trsum 0 1 2 0 0, .trsum 0 1 0 2 0, .trscl 0 1 2 2 0, .texp2 0 1 2 2 0, .texp2 0 1 2 0 32, .tmov 0 1 2 0 0, .tmov 0 1 0 2 0,
     .tmov 0 1 0 0 32, .tmask 0 1 2 2 0, .tmask 0 1 2 0 32].all (fun i => !i.wf) = true := by decide +kernel
theorem test_wf_steps :
    (Instr.hostMemoryAccess true (2 ^ 36) [0]).wf = false ∧ (Instr.flushMarkerGathered 0 64).wf = false ∧ (Instr.doorbellKick 8192 0).wf = false ∧
    (Instr.queueRecordStart 128).wf = false ∧ (Instr.queueMap 2).wf = false ∧ (Instr.gangReady 64).wf = false ∧ (Instr.keykill 64).wf = false ∧ (Instr.keystat 64).wf = false ∧
    (Instr.killConfirm 64 0).wf = false ∧ (Instr.killConfirm 0 8).wf = false ∧ (Instr.pathRemoval 64 0).wf = false ∧ (Instr.pathRemoval 0 8).wf = false ∧
    (Instr.pathReturn 64 0).wf = false ∧ (Instr.pathReturn 0 8).wf = false ∧ (Instr.packetRetransmit 64 0).wf = false := by decide +kernel

/-! ## The last hypotheses -/

theorem witness_SpecialOperands : (0 : Nat) < 11 ∧ (10 : Nat) < 11 := by decide
theorem witness_RoundingKeepsRepresentable :
    (0 : Nat) < 5 ∧ 0x7F800000 < 2 ^ fp32.width ∧ fp32.widen 0x7F800000 = .inf false ∧ fp32.ieee = true ∧ e4m3.widen 0x7E ≠ .nan ∧ 0x7E < 2 ^ e4m3.width ∧
    e2m1.widen 0xF ≠ .nan ∧ (4 : Nat) < 5 := by decide +kernel

/-! ## Further words the chapters write out -/

theorem test_decode_chapters :
    isWord 0x302426A0 (.exp2 9 4 106) ∧ isWord 0x302426AA (.gelu 9 4 106) ∧ isWord 0x2E181004 (.unpk3 6 2 1) ∧ isWord 0x28142000 (.cvt 5 4 0) ∧ isWord 0x4C100000 (.rng 4) ∧
    isWord 0x4C001001 (.rngseed 2) ∧ isWord 0x81AB5EC0 (.uadd 106 107 108) ∧ isWord 0x83AB5001 (.uaddi 106 106 1) ∧ isWord 0x85B40064 (.umovi 109 100) ∧
    isWord 0x8A075108 (.ucmpi 1 106 2 8) ∧ isWord 0x8C140006 (.bra 1 1 6) ∧ isWord 0x8FF00040 (.call 64) ∧ isWord 0x9003B005 (.ret 118) ∧ isWord 0x90035006 (.brr 106) ∧
    isWord 0x90035007 (.callr 106) ∧ isWord 0x90037004 (.trap 110) ∧ isWord 0x93B80050 (.sread 110 5) ∧ isWord 0x92037121 (.swrite 110 0x12) ∧
    isWord 0x920376F2 (.rquota 110 111) ∧ isWord 0x93B826F3 (.rdlane 110 4 111) ∧ isWord 0x921376F4 (.wrlane 4 110 111) ∧ isWord 0x421826A2 (.lperm 6 4 106 2) ∧
    isWord 0x42182003 (.lperm 6 4 0 3) ∧ isWord 0x44080800 (.lsense 2 1 0) ∧ isWord 0x441C0802 (.lsense 7 1 2) ∧ isWord 0x441C0804 (.lsense 7 1 4) ∧
    isWord 0x46142000 (.lfold 5 4 0) ∧ isWord 0x48202000 (.scan 8 4 0) ∧ isWord 0x2A181032 (.qnt 6 2 3 1) ∧ isWord 0x2C1C3032 (.dqnt 7 6 3 1) ∧
    isWord 0xA4035000 (.tconf 0 106) ∧ isWord 0xA40B5800 (.tconf 2 107) ∧ isWord 0x50080000 (.twr 2 0 0 0) ∧ isWord 0xA8402000 (.mma 2 0 1 0 0) ∧
    isWord 0x4E108A00 (.trd 4 2 5 0) ∧ isWord 0xFA000220 (.xmod 0 0 1 0 2 0 0) := by decide +kernel

/-! ## One step, with the results of the chapters' worked examples -/

/-- What a step leaves for register r of lane l: the last short result. -/
def short (o : Host.Outcome State Fault Refusal) (l r : Nat) : Option (Word × Word) :=
  match o with
  | .next t => (t.group? 3).bind (fun g => (((g.lane l).pend.filter (fun p => decide (p.reg = r))).getLast?).map (fun p => (p.mask, p.value)))
  | _ => none
def long (o : Host.Outcome State Fault Refusal) (l r : Nat) : Option (Word × Word) :=
  match o with
  | .next t => ((t.ops.getLast?).bind (fun p => p.results.find? (fun w => decide (w.lane = some l ∧ w.reg = r)))).map (fun w => (w.mask, w.value))
  | _ => none

/-- Chapter 10: both halves of HADD2 round by themselves. -/
theorem test_hadd2 : short (exec (.hadd2 5 3 4) (setV 3 0x3C007BFF (setV 4 0x3C007BFF (unit 0)))) 7 5 = some (0xFFFFFFFF, 0x40007C00) := by decide +kernel
/-- Chapter 11: 2.6875 in E2M1 is 3, in subfield 0 alone. -/
theorem test_cvt : short (exec (.cvt 8 3 0) (prefixed { a := 0, b := 0, width := 3, index := 0, interp := 2, round := 0, sat := false } (setV 3 0x402C0000 (unit 0)))) 0 8 = some (0xF, 5) := by
  decide +kernel
/-- Chapter 11: the digits of byte 1. -/
theorem test_unpk3 :
    (let o := exec (.unpk3 6 2 1) (setV 2 0xC200 (unit 0)); (short o 0 6, short o 0 7)) = (some (0xFFFFFFFF, 0x00FF0001), some (0xFFFFFFFF, 1)) := by decide +kernel
/-- Chapter 2: the first draw of state 1. -/
theorem test_rng : (let o := exec (.rng 4) (lane (fun x => { x with gen := 1 }) (unit 0)); (short o 0 4, short o 0 5)) = (some (0xFFFFFFFF, 0x40822041), some (0xFFFFFFFF, 0)) := by
  decide +kernel
/-- Chapter 11: an asymmetric UINT4 block. -/
def block4 (x : Word) : State := slots 0x2C23400000000000 (setV 2 x (setV 3 0x02083400 (unit 0)))
theorem test_qnt :
    [0x3FA66666, 0x40400000, 0xC0A00000, 0x7FC00000].map (fun x => short (exec (.qnt 6 2 3 1) (block4 x)) 0 6) =
      [0xD00, 0xF00, 0, 0x800].map (fun y => some (0xFFFFFFFF, y)) := by decide +kernel
theorem test_dqnt :
    [0xD00, 0xF00, 0, 0x800].map (fun x => short (exec (.dqnt 7 6 3 1) (setV 6 x (block4 0))) 0 7) =
      [0x3FA00000, 0x3FE00000, 0xC0000000, 0].map (fun y => some (0xFFFFFFFF, y)) := by decide +kernel
/-- Chapter 3: one value in every mode of E4M3, and its negation. -/
theorem test_modes :
    [0, 1, 2, 3, 4].map (fun m => (e4m3.round m false 0 (fp32.widen 0x3E99999A), e4m3.round m false 0 (fp32.widen 0xBE99999A))) =
      [(0x2A, 0xAA), (0x29, 0xA9), (0x29, 0xAA), (0x2A, 0xA9), (0x2A, 0xAA)] := by decide +kernel
theorem test_stochastic :
    [0, 0x6666, 0x6667].map (fun r => e4m3.round 5 false (r <<< 48) (fp32.widen 0x3E99999A)) = [0x29, 0x29, 0x2A] := by decide +kernel

/-! ## States where clauses hold back -/

/-- A late refusal of the table: of a group that runs, and of one that an event has stopped already. -/
def late (s : State) : State := withOp (op 9 [] (.tol [62, 0] 1 104)) (team (fun t => { t with tol := nodes }) s)
theorem witness_toleranceRefusal :
    unitNext (late (unit 0)) 2 (op 9 [] (.tol [62, 0] 1 104)) [62, 0] 1 104 ∧ unitNext (late (stopped ordinary (unit 0))) 2 (op 9 [] (.tol [62, 0] 1 104)) [62, 0] 1 104 ∧
    findKey nodes 62 = none ∧ ((late (unit 0)).group? 3).any (fun g => g.stop.isNone) ∧ (late (unit 0)).bufferFull = false ∧
    ((late (stopped ordinary (unit 0))).group? 3).any (fun g => decide (g.stop = some ordinary)) ∧ (late (stopped ordinary (unit 0))).bufferFull = false :=
  ⟨⟨[], [], rfl, by simp, by simp, by decide, by decide, rfl, rfl⟩, ⟨[], [], rfl, by simp, by simp, by decide, by decide, rfl, rfl⟩,
    by decide, by decide +kernel, by decide +kernel, by decide +kernel, by decide +kernel⟩

/-- Every group of the grid has exited; its team is not freed. -/
theorem witness_GridsRunExited :
    (let s := lane (fun x => { x with exited := true }) (unit 0)
     (s.grid? 1).any (fun d => decide (d.placed = d.launch.clusters ∧ d.completed = false ∧ d.counters = [] ∧ d.launch.nkind = 0 ∧ d.object = none)) ∧
     (s.gridTeams 1).map (·.tid) = [2] ∧ (s.gridTeams 1).all (fun t => decide (t.residency ≠ .freed) && !(s.teamGroups t.tid).isEmpty
       && (s.teamGroups t.tid ++ t.kept).all (·.exited)) ∧ s.pendingWrites = [] ∧ s.ops = []) := by decide +kernel

/-- A bound that no record has told yet, with room in the buffer and with none. -/
def missing (n : Nat) : State := { team (fun t => { t with missed := some (2, 77) }) (unit 0) with records := List.replicate n (record none) }
theorem witness_ResidencyMissed :
    ((missing 0).team? 2).any (fun t => decide (t.missed = some (2, 77) ∧ t.tid = 2) && ((missing 0).inset? ((missing 0).teamInset t)).isSome) ∧
    (missing 0).grids.all (fun d => !d.completed) ∧ (missing 0).bufferFull = false ∧ (missing 4096).bufferFull = true ∧
    ((missing 4096).team? 2).any (fun t => decide (t.missed = some (2, 77) ∧ t.tid = 2)) ∧ (missing 4096).grids.all (fun d => !d.completed) := by decide +kernel

/-- A queue whose record i is the grid that runs; a block in a package that no path leads to; a kick and the bound of a list. -/
def serialAfter (i : Nat) (done : Bool) : State :=
  let s := belled false [hwSlot 1 2] 4 0
  { s with grids := s.grids.map (fun d => { d with queue := some (1, v0 + 0x400, i), completed := done }) }
theorem witness_QueuesHeld :
    (serialAfter 0 false).grids.any (fun d => decide (d.completed = false ∧ d.queue = some (1, v0 + 0x400, 0) ∧ idxDiff 1 0 = 1 ∧ d.placed = d.launch.clusters)) ∧
    (serialAfter 0 true).grids.all (·.completed) ∧ idxDiff 1 1 ≠ 1 ∧ (serialAfter 0 false).bufferFull = false ∧
    (let s : State := { belled false [] 4 0 with doorbells := [{ bell false with qcb := 2 * v0 + 0x400 }], fabric := { (unit 0).fabric with paths := [] } }
     s.ctl.boot = .run ∧ s.fabric.linkUp = true ∧ s.slotOf 1 (2 * v0 + 0x400) = none ∧ s.spaceDown 1 .r (2 * v0 + 0x400) 64 = true) ∧
    ((bell true).kick = none ∧ idxDiff 16 0 ≤ 2 ^ 4) ∧
    ((belled true [] 4 0).ancestors 1).all (fun y => decide (((belled true [] 4 0).slotsUnder y.id).length < y.qslots)) ∧
    (belled true [] 4 0).insets.all (fun y => decide (((belled true [] 4 0).slotsUnder y.id).length ≤ y.qslots)) := by decide +kernel

end Sys2Proof.Test
end

section
/-! What leaves memory as it is: the operations of the state that write none of it, one lemma for each. -/
namespace Sys2Proof.Machine

/-! ### Folds, options and choices -/

/-- A fold of operations that leave memory leaves it. -/
@[simp] theorem State.foldl_mem {α : Type} (f : State → α → State) (hf : ∀ s a, (f s a).mem = s.mem) (l : List α) (s : State) :
    (l.foldl f s).mem = s.mem := by
  induction l generalizing s with
  | nil => rfl
  | cons a rest ih => rw [List.foldl_cons, ih, hf]

@[simp] theorem State.ite_mem (p : Prop) [Decidable p] (s t : State) : (if p then s else t).mem = if p then s.mem else t.mem :=
  apply_ite State.mem p s t

/-! ### Records, ports, regions -/

@[simp] theorem State.noteWake_mem (s : State) : s.noteWake.mem = s.mem := by
  simp [State.noteWake]

@[simp] theorem State.chargeTeam_mem (s : State) (t : Team) : (s.chargeTeam t).mem = s.mem := by
  simp [State.chargeTeam]

@[simp] theorem State.post_mem (s : State) (r : Record) : (s.post r).mem = s.mem := by
  unfold State.post
  split <;> rfl

@[simp] theorem State.closeRegion_mem (s : State) (gid : Nat) : (s.closeRegion gid).mem = s.mem := by
  unfold State.closeRegion
  split <;> rfl

@[simp] theorem State.softBoundary_mem (s : State) (gid : Nat) : (s.softBoundary gid).mem = s.mem := s.closeRegion_mem gid

@[simp] theorem State.stopGroup_mem (s : State) (gid : Nat) (st : Stop) : (s.stopGroup gid st).mem = s.mem := s.softBoundary_mem gid

@[simp] theorem State.push_mem (s : State) (g : Group) (dir : Nat) (e : NeighbourEntry) : (s.push g dir e).mem = s.mem := by
  unfold State.push
  split <;> simp

@[simp] theorem State.fillPush_mem (s : State) (g : Group) (op dir : Nat) (ws : List Word) : (s.fillPush g op dir ws).mem = s.mem := by
  unfold State.fillPush
  split <;> simp

@[simp] theorem State.toPortFrom_mem (s : State) (source : Option Nat) (tid i : Nat) (ws : List Word) : (s.toPortFrom source tid i ws).mem = s.mem := by
  unfold State.toPortFrom
  split <;> simp

@[simp] theorem State.toPort_mem (s : State) (tid i : Nat) (ws : List Word) : (s.toPort tid i ws).mem = s.mem := s.toPortFrom_mem none tid i ws

@[simp] theorem State.deliverNotice_mem (s : State) (n : Notice) : (s.deliverNotice n).mem = s.mem := by
  unfold State.deliverNotice
  split <;> simp

theorem State.popTeam_mem {s t : State} {g : Group} {i : Nat} {w : Word} (h : s.popTeam g i = some (t, w)) : t.mem = s.mem := by
  unfold State.popTeam at h
  split at h
  · cases h
  · dsimp only at h
    split at h
    · split at h
      · cases h
        rw [State.ite_mem, State.closeRegion_mem, ite_self]
        split
        · rfl
        · split <;> simp
      · cases h
    · cases h

theorem State.popNeighbour_mem {s t : State} {g : Group} {dir : Nat} {ws : List Word} (h : s.popNeighbour g dir = some (t, ws)) : t.mem = s.mem := by
  unfold State.popNeighbour at h
  split at h <;> cases h
  rfl

/-! ### Happens-before -/

@[simp] theorem State.teach_mem (s : State) (giver taker : Nat) : (s.teach giver taker).mem = s.mem := rfl
@[simp] theorem State.overwrite_mem (s : State) (gone : Place → Bool) : (s.overwrite gone).mem = s.mem := rfl
@[simp] theorem State.publish_mem (s : State) (p : Party) (scope : Nat) (ls : List Place) : (s.publish p scope ls).mem = s.mem := rfl
@[simp] theorem State.takeUp_mem (s : State) (p : Party) (scope : Nat) (reads : Place → Bool) : (s.takeUp p scope reads).mem = s.mem := rfl
@[simp] theorem State.performAt_mem (s : State) (gid scope : Nat) : (s.performAt gid scope).mem = s.mem := rfl

@[simp] theorem State.record_mem (s : State) (gid : Nat) (ws : List Nat) (write : Bool) : (s.record gid ws write).mem = s.mem := by
  unfold State.record
  dsimp only
  split <;> simp

@[simp] theorem State.noteWrite_mem (s : State) (gid phys : Nat) : (s.noteWrite gid phys).mem = s.mem := by
  unfold State.noteWrite
  split <;> rfl

@[simp] theorem State.release_mem (s : State) (gid scope : Nat) (ls : List Place) : (s.release gid scope ls).mem = s.mem := by
  unfold State.release
  dsimp only
  split <;> simp

@[simp] theorem State.acquire_mem (s : State) (gid scope : Nat) (reads : Place → Bool) : (s.acquire gid scope reads).mem = s.mem := by
  unfold State.acquire
  dsimp only
  split <;> simp

@[simp] theorem State.plainSync_mem (s : State) (gid : Nat) (ls : List Place) : (s.plainSync gid ls).mem = s.mem := by
  unfold State.plainSync
  dsimp only
  split <;> simp

@[simp] theorem State.ordered_mem (s : State) (gid order scope : Nat) (ls : List Place) : (s.ordered gid order scope ls).mem = s.mem := by
  unfold State.ordered
  split <;> simp

@[simp] theorem State.fence_mem (s : State) (gid scope : Nat) : (s.fence gid scope).mem = s.mem := by
  unfold State.fence
  dsimp only
  split <;> simp

theorem State.sendMarkers_mem {s t : State} {id : Nat} {m : BitVec 64} (h : s.sendMarkers id m = some t) : t.mem = s.mem := by
  unfold State.sendMarkers at h
  split at h <;> cases h
  rfl

@[simp] theorem State.charge_mem (s : State) (ws : List Nat) (on : Option Nat) : (s.charge ws on).mem = s.mem := rfl

@[simp] theorem State.touchWrites_mem (s : State) (gid : Nat) (as : List Access) : (s.touchWrites gid as).mem = s.mem := by
  simp [State.touchWrites]

/-! ### The issue of a word -/

theorem State.ctx?_s {s : State} {lane : Bool} {c : Ctx} (h : s.ctx? lane = some c) : c.s = s := by
  unfold State.ctx? at h
  split at h
  · cases h
  · split at h
    · split at h <;> cases h
      rfl
    · cases h

@[simp] theorem Ctx.base_mem (c : Ctx) (lane : Bool) : (c.base lane).mem = c.s.mem := rfl
@[simp] theorem Ctx.take_mem (c : Ctx) (t : Trap) : (c.take t).mem = c.s.mem := by simp [Ctx.take]
@[simp] theorem Ctx.takePart_mem (c : Ctx) (s : State) (t : Trap) : (c.takePart s t).mem = s.mem := by simp [Ctx.takePart]
@[simp] theorem Ctx.takeAfter_mem (c : Ctx) (t : Trap) : (c.takeAfter t).mem = c.s.mem := by simp [Ctx.takeAfter]

@[simp] theorem State.afterClause_mem (s : State) (gid run : Nat) (m : Lanes) : (s.afterClause gid run m).mem = s.mem := by
  unfold State.afterClause
  split <;> simp

@[simp] theorem State.overtake_mem (s : State) (gid : Nat) (lane : Option Nat) (reg : Nat) : (s.overtake gid lane reg).mem = s.mem := by
  unfold State.overtake
  rfl

@[simp] theorem State.overtakeLanes_mem (s : State) (gid : Nat) (m : Lanes) (reg : Nat) : (s.overtakeLanes gid m reg).mem = s.mem := by
  unfold State.overtakeLanes
  split <;> simp

@[simp] theorem Ctx.writeAt_mem (c : Ctx) (s : State) (latency reg : Nat) (mask v : Nat → Word) : (c.writeAt s latency reg mask v).mem = s.mem := by
  simp [Ctx.writeAt]

@[simp] theorem Ctx.write_mem (c : Ctx) (s : State) (latency reg : Nat) (mask : Word) (v : Nat → Word) : (c.write s latency reg mask v).mem = s.mem :=
  c.writeAt_mem s latency reg _ v

@[simp] theorem Ctx.drawn_mem (c : Ctx) (s : State) : (c.drawn s).mem = s.mem := rfl
@[simp] theorem Ctx.drawFor_mem (c : Ctx) (s : State) (d : FloatDst) : (c.drawFor s d).mem = s.mem := by simp [Ctx.drawFor]

@[simp] theorem Ctx.addOp_mem (c : Ctx) (s : State) (flag : Nat) (lane : Bool) (rs : List RegWrite) (w : Waiting) (os : List Word) :
    (c.addOp s flag lane rs w os).mem = s.mem := rfl

@[simp] theorem State.clauseEvent_mem (s : State) (g : Group) (c : Candidate) (t : Trap) (slot : Option Nat) (n : Nat) :
    (s.clauseEvent g c t slot n).mem = s.mem := by
  simp [State.clauseEvent]

@[simp] theorem State.acquireForms_mem (s : State) (gid : Nat) (wait : Nat → Bool) : (s.acquireForms gid wait).mem = s.mem := by
  simp [State.acquireForms]

/-! ### Waits, barriers, freeing -/

@[simp] theorem State.finishWait_mem (s : State) (o : LongOp) (rs : List RegWrite) : (s.finishWait o rs).mem = s.mem := rfl

@[simp] theorem State.lateTrap_mem (s : State) (o : LongOp) (t : Trap) : (s.lateTrap o t).mem = s.mem := by
  unfold State.lateTrap
  split <;> simp

@[simp] theorem State.opAcquires_mem (s : State) (o : LongOp) (scope : Nat) (reads : Place → Bool) : (s.opAcquires o scope reads).mem = s.mem := by
  unfold State.opAcquires
  split <;> simp

@[simp] theorem State.ticketReached_mem (s : State) (phys : Nat) : (s.ticketReached phys).mem = s.mem := by
  simp [State.ticketReached]

@[simp] theorem State.checkTeamBarrier_mem (s : State) (tid : Nat) : (s.checkTeamBarrier tid).mem = s.mem := by
  unfold State.checkTeamBarrier
  split <;> simp

@[simp] theorem State.checkClusterBarrier_mem (s : State) (cid : Nat) : (s.checkClusterBarrier cid).mem = s.mem := by
  unfold State.checkClusterBarrier
  split <;> simp

@[simp] theorem State.arriveTeam_mem (s : State) (g : Group) : (s.arriveTeam g).mem = s.mem := by simp [State.arriveTeam]
@[simp] theorem State.arriveCluster_mem (s : State) (g : Group) : (s.arriveCluster g).mem = s.mem := by simp [State.arriveCluster]

@[simp] theorem State.disarmFreed_mem (s : State) (t : Team) : (s.disarmFreed t).mem = s.mem := by
  unfold State.disarmFreed
  split <;> rfl

@[simp] theorem State.dropImage_mem (s : State) (t : Team) : (s.dropImage t).mem = s.mem := rfl
@[simp] theorem State.dropGrid_mem (s : State) (h : Nat) : (s.dropGrid h).mem = s.mem := rfl
@[simp] theorem State.dropEnded_mem (s : State) (h : Nat) : (s.dropEnded h).mem = s.mem := by simp [State.dropEnded]

@[simp] theorem State.freeTeam_mem (s : State) (tid : Nat) : (s.freeTeam tid).mem = s.mem := by
  unfold State.freeTeam
  split <;> simp

@[simp] theorem State.settle_mem (s : State) (gid : Nat) : (s.settle gid).mem = s.mem := by
  unfold State.settle
  split <;> simp

@[simp] theorem State.moveQuota_mem (s : State) (giver receiver n : Nat) : (s.moveQuota giver receiver n).mem = s.mem := by
  simp [State.moveQuota]

theorem State.landed_mem {s t : State} {o : LongOp} (h : s.landed o = some t) : t.mem = s.mem := by
  unfold State.landed at h
  split at h
  · cases h; rfl
  · split at h <;> cases h
    simp
  · cases h
    split <;> simp
  · cases h

@[simp] theorem State.completeOp_mem (s : State) (o : LongOp) : (s.completeOp o).mem = s.mem := by simp [State.completeOp]

/-! ### Engines and Survey -/

@[simp] theorem State.tell_mem (s : State) (tid word : Nat) : (s.tell tid word).mem = s.mem := by
  unfold State.tell
  rfl
@[simp] theorem State.deliver_mem (s : State) (c : Command) (n : Nat) : (s.deliver c n).mem = s.mem := rfl
@[simp] theorem State.countWork_mem (s : State) (grid core : Nat) (up : Bool) : (s.countWork grid core up).mem = s.mem := rfl
@[simp] theorem State.leaveEngine_mem (s : State) (c : Command) : (s.leaveEngine c).mem = s.mem := by simp [State.leaveEngine]
@[simp] theorem State.chargeRest_mem (s : State) (c : Command) : (s.chargeRest c).mem = s.mem := by simp [State.chargeRest]
@[simp] theorem State.nextEntry_mem (s : State) (c : Command) : (s.nextEntry c).mem = s.mem := rfl
@[simp] theorem State.updSurvey_mem (s : State) (u : Nat) (f : Survey → Survey) : (s.updSurvey u f).mem = s.mem := rfl
@[simp] theorem State.updSweep_mem (s : State) (u : Nat) (p : SweepPlace) (f : Sweep → Sweep) : (s.updSweep u p f).mem = s.mem := rfl

@[simp] theorem State.mergeNotice_mem (s : State) (u : Nat) (w : Sweep) (q : Subscription) (flags : Nat) : (s.mergeNotice u w q flags).mem = s.mem :=
  s.toPort_mem _ _ _

@[simp] theorem State.endQuery_mem (s : State) (u i : Nat) : (s.endQuery u i).mem = s.mem := rfl

@[simp] theorem State.checkClose_mem (s : State) (u : Nat) : (s.checkClose u).mem = s.mem := by
  unfold State.checkClose
  split <;> dsimp only <;> split <;> simp

@[simp] theorem State.postPartial_mem (s : State) (u i p : Nat) (b : Accumulator) : (s.postPartial u i p b).mem = s.mem := by
  unfold State.postPartial
  dsimp only
  split <;> simp

@[simp] theorem State.maskFreed_mem (s : State) (u i : Nat) : (s.maskFreed u i).mem = s.mem := by
  unfold State.maskFreed
  split
  · rfl
  · split <;> simp

@[simp] theorem State.takePartial_mem (s : State) (c : Command) : (s.takePartial c).mem = s.mem := by
  unfold State.takePartial
  extract_lets bs word w0 u p number v formed here late
  split
  · split
    · simp
    · cases late <;> simp
  · simp
  · simp

@[simp] theorem State.tolRefuse_mem (s : State) (o : LongOp) (minor dst : Nat) (ws : List Word) : (s.tolRefuse o minor dst ws).mem = s.mem := by
  unfold State.tolRefuse
  split <;> simp

/-! ### Insets, grids, teams -/

@[simp] theorem State.learnTables_mem (s : State) : s.learnTables.mem = s.mem := rfl
@[simp] theorem State.createInset_mem (s : State) (p : Nat) (b : Block) : (s.createInset p b).1.mem = s.mem := rfl
@[simp] theorem State.reshare_mem (s : State) : s.reshare.mem = s.mem := rfl
@[simp] theorem State.addStale_mem (s : State) (y va entry old : Nat) : (s.addStale y va entry old).mem = s.mem := by simp [State.addStale]
@[simp] theorem State.retryImages_mem (s : State) (y : Nat) : (s.retryImages y).mem = s.mem := by
  unfold State.retryImages
  rfl
@[simp] theorem State.retryUnder_mem (s : State) (p : Nat) : (s.retryUnder p).mem = s.mem := by simp [State.retryUnder]
@[simp] theorem State.pinv_mem (s : State) (y a n : Nat) : (s.pinv y a n).mem = s.mem := rfl
@[simp] theorem State.startCluster_mem (s : State) (d : Grid) (i ax ay : Nat) : (s.startCluster d i ax ay).mem = s.mem := rfl

theorem State.placeFrom_mem {h : Nat} {mask : BitVec 256} {n : Nat} {t : State} :
    ∀ {s : State} {least : Nat}, s.placeFrom h mask n least = some t → t.mem = s.mem := by
  induction n with
  | zero =>
    intro s least hp
    cases hp
    rfl
  | succ n ih =>
    intro s least hp
    unfold State.placeFrom at hp
    split at hp
    · cases hp
    · obtain ⟨a, -, ha⟩ := List.exists_of_findSome?_eq_some hp
      exact (ih ha).trans (State.startCluster_mem _ _ _ _ _)

theorem State.placeClusters_mem {s t : State} {h n : Nat} {mask : BitVec 256} (hp : s.placeClusters h mask n = some t) : t.mem = s.mem := by
  unfold State.placeClusters at hp
  split at hp
  · cases hp
  · dsimp only at hp
    split at hp
    · cases hp
    · exact State.placeFrom_mem hp

theorem State.placeNext_mem {s t : State} {d : Grid} (h : s.placeNext d = some t) : t.mem = s.mem := State.placeClusters_mem h

@[simp] theorem State.updSlot_mem (s : State) (n : Nat) (f : Slot → Slot) : (s.updSlot n f).mem = s.mem := rfl
@[simp] theorem State.setPending_mem (s : State) (inset qcb : Nat) (b : Bool) : (s.setPending inset qcb b).mem = s.mem := rfl

@[simp] theorem State.postTeam_mem (s : State) (t : Team) (kind sub : Nat) (info : Word) (addr : Nat) : (s.postTeam t kind sub info addr).mem = s.mem := by
  unfold State.postTeam
  split <;> simp

@[simp] theorem State.postImageFault_mem (s : State) (t : Team) (f : XFault) (addr : Nat) : (s.postImageFault t f addr).mem = s.mem := by
  unfold State.postImageFault
  split <;> simp

@[simp] theorem State.stopTeam_mem (s : State) (tid : Nat) : (s.stopTeam tid).mem = s.mem := by simp [State.stopTeam]

theorem State.beginSave_mem {s u : State} {x : Inset} {t : Team} {bound : Option Nat} {reason : Nat} (h : s.beginSave x t bound reason = some u) :
    u.mem = s.mem := by
  obtain ⟨o, -, rfl⟩ := Option.map_eq_some_iff.mp h
  simp

/-- A save that begins or not leaves memory. -/
@[simp] theorem State.beginSave_getD_mem (s d : State) (x : Inset) (t : Team) (bound : Option Nat) (reason : Nat) (h : d.mem = s.mem) :
    ((s.beginSave x t bound reason).getD d).mem = s.mem := by
  cases hb : s.beginSave x t bound reason with
  | none => exact h
  | some u => exact State.beginSave_mem hb

@[simp] theorem State.boundMissed_mem (s : State) (t : Team) (c : Option Choice) : (s.boundMissed t c).mem = s.mem := by
  simp [State.boundMissed]

@[simp] theorem State.leaveTeam_mem (bound : Option Nat) (reason : Nat) (s : State) (tid : Nat) : (State.leaveTeam bound reason s tid).mem = s.mem := by
  unfold State.leaveTeam
  split
  · rfl
  · split
    · split
      · rfl
      · dsimp only
        split <;> simp
    · rfl

@[simp] theorem State.leave_mem (s : State) (bound : Option Nat) (reason : Nat) (tids : List Nat) : (s.leave bound reason tids).mem = s.mem := by
  simp [State.leave]

@[simp] theorem State.freezeInset_mem (s : State) (x : Nat) (bound : Option Nat) (reason : Nat) : (s.freezeInset x bound reason).mem = s.mem := by
  simp [State.freezeInset]

@[simp] theorem State.leaveCores_mem (s : State) (x : Nat) : (s.leaveCores x).mem = s.mem := by simp [State.leaveCores]
@[simp] theorem State.unseat_mem (s : State) (tid : Nat) (all : Bool) : (s.unseat tid all).mem = s.mem := by
  unfold State.unseat
  rfl
@[simp] theorem State.flushTeam_mem (s : State) (t : Team) : (s.flushTeam t).mem = s.mem := by simp [State.flushTeam]
@[simp] theorem State.reissueTol_mem (s : State) (g : Group) (o : LongOp) : (s.reissueTol g o).mem = s.mem := rfl

@[simp] theorem State.reissueLate_mem (s : State) (g : Group) (st : Stop) : (s.reissueLate g st).mem = s.mem := by
  unfold State.reissueLate
  split <;> simp

@[simp] theorem State.dropLate_mem (s : State) (g : Group) (st : Stop) : (s.dropLate g st).mem = s.mem := by
  unfold State.dropLate
  split <;> simp

@[simp] theorem State.reissue_mem (s : State) (gi : GroupImage) : (s.reissue gi).mem = s.mem := by simp [State.reissue]
@[simp] theorem State.linkLate_mem (s : State) (gi : GroupImage) (first : Nat) : (s.linkLate gi first).mem = s.mem := rfl
@[simp] theorem State.seatFlushed_mem (s : State) (d : Grid) (t : Team) (core : Nat) : (s.seatFlushed d t core).mem = s.mem := rfl
@[simp] theorem State.thawInset_mem (s : State) (x : Nat) : (s.thawInset x).mem = s.mem := rfl
@[simp] theorem State.dropRecords_mem (s : State) (x : Nat) (gone gids ops : List Nat) : (s.dropRecords x gone gids ops).mem = s.mem := rfl
@[simp] theorem State.dropSubtree_mem (s : State) (gone : List Nat) : (s.dropSubtree gone).mem = s.mem := rfl
@[simp] theorem State.grantCores_mem (s : State) (p x : Nat) (mask : BitVec 256) : (s.grantCores p x mask).mem = s.mem := by simp [State.grantCores]

theorem State.placeImage_mem {s t : State} {i : Nat × List Byte} (h : s.placeImage i = some t) : t.mem = s.mem := by
  unfold State.placeImage at h
  split at h
  · obtain ⟨o, -, rfl⟩ := Option.map_eq_some_iff.mp h
    rfl
  · cases h
    rfl

theorem State.placeImages_mem {is : List (Nat × List Byte)} {t : State} : ∀ {s : State}, s.placeImages is = some t → t.mem = s.mem := by
  induction is with
  | nil =>
    intro s h
    cases h
    rfl
  | cons i rest ih =>
    intro s h
    obtain ⟨u, hu, ht⟩ := Option.bind_eq_some_iff.mp h
    exact (ih ht).trans (State.placeImage_mem hu)

@[simp] theorem State.discardImages_mem (s : State) (x : Nat) (kept : List Nat) : (s.discardImages x kept).mem = s.mem := by
  simp [State.discardImages]

/-! ### Forms and records -/

@[simp] theorem State.formEnds_mem (s : State) (op dst : Nat) (ws : List Word) : (s.formEnds op dst ws).mem = s.mem := rfl
@[simp] theorem State.formAcquires_mem (s : State) (o : LongOp) (child : Nat) : (s.formAcquires o child).mem = s.mem := rfl

@[simp] theorem State.formFault_mem (s : State) (o : LongOp) (f : Option (XFault × Nat)) : (s.formFault o f).mem = s.mem := by
  unfold State.formFault
  split <;> simp

@[simp] theorem Answer.finish_mem (a : Answer) (o : LongOp) (dst : Nat) : (a.finish o dst).mem = a.state.mem := by simp [Answer.finish]

@[simp] theorem Ctx.mapFault_mem (c : Ctx) (s : State) (f : Option (XFault × Nat)) : (c.mapFault s f).mem = s.mem := by
  unfold Ctx.mapFault
  split <;> simp

@[simp] theorem State.lets_mem (s : State) (giver : Nat) (r : Record) : (s.lets giver r).mem = s.mem := by
  unfold State.lets
  split <;> simp

@[simp] theorem State.deliverRecord_mem (s : State) (r : Record) (team : Nat) : (s.deliverRecord r team).mem = s.mem := by
  simp [State.deliverRecord]

@[simp] theorem State.escalate_mem (s : State) (r : Record) : (s.escalate r).2.mem = s.mem := by simp [State.escalate]

/-! ### The device -/

@[simp] theorem State.writeEvread_mem (s : State) (v : Nat) : (s.writeEvread v).mem = s.mem := by simp [State.writeEvread]
@[simp] theorem State.writeRing_mem (s : State) (log : Bool) (v : BitVec 64) : (s.writeRing log v).mem = s.mem := by simp [State.writeRing]
@[simp] theorem State.go_mem (s : State) (code : BitVec 16) : (s.go code).mem = s.mem := by simp [State.go]
@[simp] theorem State.ends_mem (s : State) (code result : Nat) : (s.ends code result).mem = s.mem := rfl
@[simp] theorem State.waitsFor_mem (s : State) (ws : List Nat) : (s.waitsFor ws).mem = s.mem := rfl
@[simp] theorem State.startFreeze_mem (s : State) (x : Inset) (reason : Nat) : (s.startFreeze x reason).mem = s.mem := by simp [State.startFreeze]
@[simp] theorem State.postBreaks_mem (s : State) (x : Inset) : (s.postBreaks x).mem = s.mem := by simp [State.postBreaks]
@[simp] theorem State.setGrant_mem (s : State) (i : Nat) (g : Grant) : (s.setGrant i g).mem = s.mem := rfl
@[simp] theorem State.toBoot_mem (s : State) (b : Boot) : (s.toBoot b).mem = s.mem := rfl
@[simp] theorem State.sendPacket_mem (s : State) (pkg seq path : Nat) : (s.sendPacket pkg seq path).mem = s.mem := rfl
@[simp] theorem State.heat_mem (s : State) (a n : Nat) : (s.heat a n).mem = s.mem := by simp [State.heat]
@[simp] theorem State.setGang_mem (s : State) (g : Gang) : (s.setGang g).mem = s.mem := rfl
@[simp] theorem State.refillAccounts_mem (s : State) : s.refillAccounts.mem = s.mem := rfl
@[simp] theorem State.refillBuckets_mem (s : State) : s.refillBuckets.mem = s.mem := rfl
@[simp] theorem State.spend_mem (s : State) (core inset bytes : Nat) : (s.spend core inset bytes).mem = s.mem := rfl
@[simp] theorem State.drainTorus_mem (s : State) : s.drainTorus.mem = s.mem := by simp [State.drainTorus]
@[simp] theorem State.shedRecord_mem (s : State) (undo floor : Bool) (action i : Nat) : (s.shedRecord undo floor action i).mem = s.mem := s.post_mem _
@[simp] theorem State.actNow_mem (s : State) (after : Nat) : (s.actNow after).mem = s.mem := rfl
@[simp] theorem State.slow_mem (s : State) (x : Nat) (b : Bool) : (s.slow x b).mem = s.mem := rfl
theorem State.setPower_mem (s : State) (p : Power) : ({ s with power := p } : State).mem = s.mem := rfl
@[simp] theorem State.easeNow_mem (s : State) : s.easeNow.mem = s.mem := by
  unfold State.easeNow
  exact (State.setPower_mem _ _).trans (State.waitUntil_mem _ _)
@[simp] theorem State.undoShed_mem (s : State) (x action : Nat) : (s.undoShed x action).mem = s.mem := by simp [State.undoShed]

@[simp] theorem State.poisonStop_mem (s : State) (e : SoftError) : (s.poisonStop e).mem = s.mem := by
  unfold State.poisonStop
  split
  · rfl
  · split <;> simp

/-! ### The Security Core -/

@[simp] theorem State.respond_mem (s : State) (code status : Nat) (bs : List Byte) : (s.respond code status bs).mem = s.mem := rfl
@[simp] theorem State.sign_mem (s : State) (r : Response) : (s.sign r).mem = s.mem := by simp [State.sign]
@[simp] theorem State.answers_mem (s : State) (code : Nat) (bs : List Byte) : (s.answers code bs).mem = s.mem := rfl
@[simp] theorem State.setKey_mem (s : State) (n : Nat) (k : KeySlot) : (s.setKey n k).mem = s.mem := rfl
@[simp] theorem State.killKeys_mem (s : State) (ks : List Nat) : (s.killKeys ks).mem = s.mem := by simp [State.killKeys]
@[simp] theorem State.freezeFor_mem (s : State) (x : Inset) (bound : Nat) : (s.freezeFor x bound).mem = s.mem := by simp [State.freezeFor]
@[simp] theorem State.endSeal_mem (s : State) (x : Inset) (code : Nat) : (s.endSeal x code).mem = s.mem := by simp [State.endSeal]
@[simp] theorem State.setMigration_mem (s : State) (m : Migration) : (s.setMigration m).mem = s.mem := rfl
@[simp] theorem State.dropMigration_mem (s : State) (x : Nat) : (s.dropMigration x).mem = s.mem := rfl
@[simp] theorem State.message_mem (s : State) (kind x : Nat) : (s.message kind x).mem = s.mem := rfl

end Sys2Proof.Machine
end

section
/-! What writes memory and keeps its canonical form, one lemma for each operation. -/
namespace Sys2Proof.Machine

/-! ### Memory -/

@[simp] theorem Memory.wf_ite (p : Prop) [Decidable p] (m n : Memory) (hm : m.wf = true) (hn : n.wf = true) : (if p then m else n).wf = true := by
  split <;> assumption

theorem Memory.wf_tagStep (m : Memory) (kind size dst : Nat) (l : TagLane) (h : m.wf = true) : (tagStep m kind size dst l).1.wf = true := by
  unfold tagStep
  split <;> simp [h, Memory.wf_setTags, Memory.wf_store]

theorem Memory.wf_storeRows (m : Memory) (g : Group) (t : Nat) (ranges : List (List (Nat × Nat))) (h : m.wf = true) :
    (m.storeRows g t ranges).wf = true :=
  Memory.wf_foldl _ (fun m _ hm => Memory.wf_storePieces _ m _ hm) _ _ h

theorem Memory.wf_scrub (m : Memory) (h : m.wf = true) : m.scrub.wf = true := by
  obtain ⟨hcells, -, -⟩ := m.wf_iff.mp h
  exact (Memory.wf_iff _).mpr ⟨m.wf_scrub_cells _ hcells, .nil, .nil⟩

/-- Marks put in their places keep memory in its form. -/
theorem Memory.wf_insertMarks (m : Memory) (marks : List (Nat × Nat)) (h : m.wf = true) :
    { m with poison := marks.foldl (fun ps p => insertMark p ps) m.poison }.wf = true := by
  obtain ⟨hcells, hempties, hpoison⟩ := m.wf_iff.mp h
  refine (Memory.wf_iff _).mpr ⟨hcells, hempties, ?_⟩
  show (marks.foldl (fun ps p => insertMark p ps) m.poison).Pairwise (fun p q => markBefore p q)
  generalize m.poison = ps at hpoison
  clear h hcells hempties
  induction marks generalizing ps with
  | nil => exact hpoison
  | cons p rest ih => exact ih _ (insertMark_sorted _ _ hpoison)

theorem Memory.wf_putBack (m v : Memory) (ps : List (Nat × Nat)) (h : m.wf = true) : (m.putBack v ps).wf = true := by
  have hzero := Memory.wf_foldl _ (fun m (p : Nat × Nat) hm => m.wf_zeroFill p.1 p.2 hm) ps m h
  have hbytes := Memory.wf_foldl _ (fun m (c : Host.Cell) hm => m.wf_setByte c.1 c.2 hm) v.cells _ hzero
  have htags := Memory.wf_foldl _ (fun m (a : Nat) hm => m.wf_setTag a false hm) v.empties _ hbytes
  exact Memory.wf_insertMarks _ v.poison htags

/-! ### The state -/

theorem State.wf_ite {p : Prop} [Decidable p] {s t : State} (hs : s.mem.wf = true) (ht : t.mem.wf = true) : (if p then s else t).mem.wf = true := by
  split <;> assumption

/-- A fold of operations that keep the form keeps it. -/
theorem State.foldl_wf {α : Type} (f : State → α → State) (hf : ∀ s a, s.mem.wf = true → (f s a).mem.wf = true) (l : List α) (s : State)
    (h : s.mem.wf = true) : (l.foldl f s).mem.wf = true := by
  induction l generalizing s with
  | nil => exact h
  | cons a rest ih => exact ih _ (hf s a h)

section
variable {s : State} (h : s.mem.wf = true)
include h

theorem State.wf_waitUntil (t : Nat) : (s.waitUntil t).mem.wf = true := by
  rw [State.waitUntil_mem]
  exact h

@[simp] theorem State.wf_veilRanges (x : Inset) (rs : List RootRange) : (s.veilRanges x rs).mem.wf = true := h
@[simp] theorem State.wf_unveilRanges (x : Inset) (rs : List RootRange) : (s.unveilRanges x rs).mem.wf = true := h

@[simp] theorem State.wf_logError (e : SoftError) : (s.logError e).mem.wf = true := by
  unfold State.logError
  dsimp only
  split <;> simp [h, Memory.wf_putBytes]

@[simp] theorem State.wf_drainEntry (gid : Nat) (e : AtomicEntry) : (s.drainEntry gid e).mem.wf = true := by
  unfold State.drainEntry
  dsimp only
  split <;> simp [h, Memory.wf_putWord]

@[simp] theorem State.wf_flushPoint (tid : Nat) : (s.flushPoint tid).mem.wf = true :=
  State.foldl_wf _ (fun _ _ hs => State.wf_drainEntry hs _ _) _ _ h

@[simp] theorem State.wf_checkFlush (tid : Nat) : (s.checkFlush tid).mem.wf = true := by
  unfold State.checkFlush
  dsimp only
  split <;> simp [h]

@[simp] theorem State.wf_drainOldest (gid : Nat) : (s.drainOldest gid).mem.wf = true := by
  unfold State.drainOldest
  split
  · exact h
  · split <;> simp [h]

@[simp] theorem State.wf_contribute (gid op : Nat) (x : Access) (v : Word) : (s.contribute gid op x v).mem.wf = true := by
  unfold State.contribute
  split
  · exact h
  · split <;> simp [h]

@[simp] theorem State.wf_makeRoom (gid n : Nat) : (s.makeRoom gid n).mem.wf = true := by
  induction n generalizing s with
  | zero => exact h
  | succ n ih => exact ih (State.wf_drainOldest h gid)

/-! Waits that are served -/

theorem State.wf_servePoison {o : LongOp} {a n : Nat} {k : Option State} (hk : ∀ t, k = some t → t.mem.wf = true) {t : State}
    (ht : s.servePoison o a n k = some t) : t.mem.wf = true := by
  unfold State.servePoison at ht
  split at ht
  · exact hk t ht
  · split at ht <;> cases ht
    simp [h]

theorem State.wf_serveFlush {o : LongOp} {ws : List Nat} {t : State} (ht : s.serveFlush o ws = some t) : t.mem.wf = true := by
  unfold State.serveFlush at ht
  split at ht
  · cases ht
  · dsimp only at ht
    split at ht
    · cases ht
    · split at ht
      · cases ht
        simp [h]
      · split at ht
        · rw [State.sendMarkers_mem ht, h]
        · cases ht
          simp [h]

/-- One wait served at a word, where its results alone change. -/
theorem State.wf_servePoison_some {o : LongOp} {a n : Nat} {u t : State} (hu : u.mem.wf = true) (ht : s.servePoison o a n (some u) = some t) :
    t.mem.wf = true :=
  State.wf_servePoison h (fun _ hv => Option.some.inj hv ▸ hu) ht

theorem State.wf_serveOp {o : LongOp} {t : State} (ht : s.serveOp o = some t) : t.mem.wf = true := by
  unfold State.serveOp at ht
  split at ht
  case h_1 => exact State.wf_serveFlush h ht
  case h_2 => cases ht
  case h_3 kind size scope dst lanes _ _ =>
    split at ht
    · cases ht
    · next l _ =>
      have hstep := Memory.wf_tagStep s.mem kind size dst l h
      dsimp only at ht
      split at ht
      · exact State.wf_servePoison_some h (by simpa using hstep) ht
      · cases ht
        simpa using hstep
  case h_4 =>
    split at ht
    · cases ht
    · exact State.wf_servePoison_some h (by simp [h]) ht
  case h_5 =>
    dsimp only at ht
    split at ht
    · exact State.wf_servePoison_some h (by simp [h]) ht
    · cases ht
  case h_6 =>
    dsimp only at ht
    split at ht
    · exact State.wf_servePoison_some h (by simp [h]) ht
    · cases ht
  case h_7 =>
    split at ht
    · split at ht <;> cases ht
      simp [h]
    · cases ht
  case h_8 =>
    split at ht
    · split at ht <;> cases ht
      simp [h]
    · cases ht
  case h_9 => cases ht

@[simp] theorem wf_serveLoop (fuel : Nat) : (serveLoop fuel s).mem.wf = true := by
  induction fuel generalizing s with
  | zero => exact h
  | succ fuel ih =>
    unfold serveLoop
    split
    · exact h
    · next t ht =>
      obtain ⟨o, -, ho⟩ := List.exists_of_findSome?_eq_some ht
      exact ih (State.wf_serveOp h ho)

@[simp] theorem State.wf_serve : s.serve.mem.wf = true := wf_serveLoop h _

theorem State.wf_widePart {o : LongOp} {load : Bool} {order scope dst : Nat} {l : TagLane} {rest : List TagLane} {t : State}
    (ht : s.widePart o load order scope dst l rest = some t) : t.mem.wf = true := by
  unfold State.widePart at ht
  dsimp only at ht
  split at ht
  · exact State.wf_servePoison_some h (by simp [h]) ht
  · cases ht
    apply State.wf_serve
    split <;> simp [h, Memory.wf_store]

@[simp] theorem State.wf_groupExited (gid : Nat) : (s.groupExited gid).mem.wf = true := by
  unfold State.groupExited
  split
  · exact h
  · split
    · exact h
    · simp [h]

@[simp] theorem State.wf_arrive (g : Group) (o : LongOp) : (s.arrive g o).mem.wf = true := by
  unfold State.arrive
  extract_lets vs before o' others
  split
  · exact h
  · split
    · simp [h]
    · split
      · simp [h]
      · simp [h]
      · exact State.wf_serve h

@[simp] theorem State.wf_allGathered (op : Nat) : (s.allGathered op).mem.wf = true := by
  unfold State.allGathered
  split
  · exact h
  · exact State.wf_serve h

end

end Sys2Proof.Machine
end

section
/-! The engines, Survey and the writes of the device keep the canonical form of memory. -/
namespace Sys2Proof.Machine

/-! ### Engine steps -/

/-- A step of an engine that answers a state answers one whose memory is in canonical form. -/
def StepWf (r : Except EngineFail State) : Prop := ∀ t, r = .ok t → t.mem.wf = true

theorem StepWf.ok {s : State} (h : s.mem.wf = true) : StepWf (.ok s) := fun _ ht => Except.ok.inj ht ▸ h

theorem StepWf.error (f : EngineFail) : StepWf (.error f) := fun _ ht => nomatch ht

theorem StepWf.bind {α : Type} {x : Except EngineFail α} {f : α → Except EngineFail State} (hf : ∀ a, x = .ok a → StepWf (f a)) :
    StepWf (x >>= f) := by
  cases x with
  | error e => exact StepWf.error e
  | ok a => exact hf a rfl

/-- A step after a step. -/
theorem StepWf.seq {x : Except EngineFail State} {f : State → Except EngineFail State} (hx : StepWf x)
    (hf : ∀ t, t.mem.wf = true → StepWf (f t)) : StepWf (x >>= f) :=
  StepWf.bind (fun t ht => hf t (hx t ht))

section
variable {s : State} (h : s.mem.wf = true)
include h

theorem State.stepWf_writeSpan (c : Command) (sp : Span) (off : Nat) (bs : List Byte) : StepWf (s.writeSpan c sp off bs) := by
  refine StepWf.bind (fun ps _ => ?_)
  split
  · exact StepWf.error _
  · exact StepWf.ok (by simp [h, Memory.wf_storePieces])

@[simp] theorem State.wf_arriveObject (obj : Option Nat) (n : Nat) : (s.arriveObject obj n).mem.wf = true := by
  cases obj with
  | none => exact h
  | some p => exact Memory.wf_boArrive _ _ _ h

@[simp] theorem State.wf_errorObject (obj : Option Nat) (code : Word) : (s.errorObject obj code).mem.wf = true := by
  cases obj with
  | none => exact h
  | some p => exact Memory.wf_boError _ _ _ h

/-- An arrival or none, then the error. -/
theorem State.wf_arriveError (p : Prop) [Decidable p] (a b : Option Nat) (n : Nat) (code : Word) :
    ((if p then s.arriveObject a n else s).errorObject b code).mem.wf = true :=
  State.wf_errorObject (by simp [h]) _ _

@[simp] theorem State.wf_endCommand (c : Command) (code : Word) (count : Bool) : (s.endCommand c code count).mem.wf = true := by
  have htargets := State.foldl_wf _ (fun s (t : Target) hs => State.wf_arriveError hs (count = true) t.object t.object t.progress code)
    (c.targets.filter (fun t => decide (t.progress < t.dst.length))) s h
  apply State.wf_serve
  simpa using State.wf_arriveError htargets _ _ _ _ _

@[simp] theorem State.wf_failCommand (c : Command) (f : EngineFail) : (s.failCommand c f).mem.wf = true := by
  cases f <;> simp [State.failCommand, h]

@[simp] theorem State.wf_completeCommand (c : Command) : (s.completeCommand c).mem.wf = true := by
  apply State.wf_serve
  simp [h]

theorem State.stepWf_pointerStep (c : Command) (dst : Span) (off n : Nat) : StepWf (s.pointerStep c dst off n) := by
  unfold State.pointerStep
  split
  · exact StepWf.ok h
  · refine StepWf.bind (fun ps _ => ?_)
    split
    · exact StepWf.error _
    · exact StepWf.ok (Memory.wf_putDword _ _ _ h)

theorem State.stepWf_copyStep (c : Command) (src dst : Span) (off : Nat) (from_ : Nat → Nat → Nat × Nat) (f : Nat → Nat → List Byte → List Byte) :
    StepWf (s.copyStep c src dst off from_ f) :=
  StepWf.bind (fun _ _ => (State.stepWf_writeSpan h _ _ _ _).seq (fun _ ht => (State.stepWf_pointerStep ht _ _ _ _).seq (fun _ hu => StepWf.ok hu)))

theorem State.stepWf_multicastStep (c : Command) : StepWf (s.multicastStep c) := by
  unfold State.multicastStep
  dsimp only
  split
  · split
    · exact StepWf.error _
    · exact StepWf.ok h
  · split
    · exact StepWf.error _
    · exact StepWf.ok h
    · refine (State.stepWf_writeSpan h _ _ _ _).seq (fun t ht => StepWf.ok ?_)
      simp [ht]

theorem State.stepWf_gatherStep (c : Command) : StepWf (s.gatherStep c) :=
  StepWf.bind (fun _ _ => StepWf.bind (fun _ _ => (State.stepWf_writeSpan (by simpa using h) _ _ _ _).seq (fun _ ht => StepWf.ok ht)))

theorem State.stepWf_streamStep (c : Command) : StepWf (s.streamStep c) := StepWf.bind (fun _ _ => StepWf.ok h)

theorem State.stepWf_chainStep (c : Command) (e : ChainEntry) : StepWf (s.chainStep c e) := by
  unfold State.chainStep
  dsimp only
  split
  · exact StepWf.error _
  · split
    · split
      · exact StepWf.ok h
      · exact (State.stepWf_copyStep h _ _ _ _ _ _).seq (fun t ht => StepWf.ok (by simp [ht]))
    · split
      · exact StepWf.error _
      · split <;> exact StepWf.ok (by simp [h])
    · split
      · exact StepWf.error _
      · exact StepWf.ok (Memory.wf_boArrive _ _ _ h)
    · split
      · exact StepWf.error _
      · split
        · exact StepWf.error _
        · exact StepWf.ok (Memory.wf_putWord _ _ _ h)
    · split
      · exact StepWf.error _
      · exact StepWf.ok (Memory.wf_putDword _ _ _ h)
    · exact StepWf.error _
    · exact StepWf.error _
    · split
      · exact StepWf.error _
      · exact StepWf.ok h

theorem State.stepWf_engineStep (c : Command) : StepWf (s.engineStep c) := by
  unfold State.engineStep
  split
  · exact State.stepWf_copyStep h _ _ _ _ _ _
  · exact State.stepWf_multicastStep h _
  · exact State.stepWf_copyStep h _ _ _ _ _ _
  · exact State.stepWf_gatherStep h _
  · exact State.stepWf_gatherStep h _
  · split
    · exact State.stepWf_chainStep h _ _
    · exact StepWf.error _
  · exact State.stepWf_streamStep h _
  · exact State.stepWf_streamStep h _
  · split
    · exact StepWf.error _
    · exact (State.stepWf_writeSpan h _ _ _ _).seq (fun _ ht => StepWf.ok ht)

/-! ### Survey -/

@[simp] theorem State.wf_writeLines (inset fuel a : Nat) (bs : List Byte) : (s.writeLines inset fuel a bs).1.mem.wf = true := by
  induction fuel generalizing s a bs with
  | zero => exact h
  | succ fuel ih =>
    unfold State.writeLines
    split
    · exact h
    · dsimp only
      split
      · exact h
      · exact ih (by simp [h, Memory.wf_storePieces]) _ _

@[simp] theorem State.wf_finishQuery (u : Nat) (w : Sweep) (i : Nat) (q : Subscription) : (s.finishQuery u w i q).mem.wf = true := by
  unfold State.finishQuery
  dsimp only
  apply State.wf_serve
  split <;> simp [h]

@[simp] theorem State.wf_checkQuery (u i : Nat) : (s.checkQuery u i).mem.wf = true := by
  unfold State.checkQuery
  split
  · exact h
  · split
    · exact h
    · split <;> simp [h]

@[simp] theorem State.wf_checkQueries (u n : Nat) : (s.checkQueries u n).mem.wf = true :=
  State.foldl_wf _ (fun _ _ hs => State.wf_checkQuery hs _ _) _ _ h

theorem State.wf_mergeNext {u i : Nat} {t : State} (ht : s.mergeNext u i = some t) : t.mem.wf = true := by
  unfold State.mergeNext at ht
  split at ht
  · cases ht
  · split at ht
    · cases ht
    · split at ht
      · cases ht
      · split at ht <;> cases ht
        simp [h]

@[simp] theorem State.wf_mergeAll (u i n : Nat) : (s.mergeAll u i n).mem.wf = true := by
  induction n generalizing s with
  | zero => exact h
  | succ n ih =>
    unfold State.mergeAll
    split
    · exact h
    · next t ht => exact ih (State.wf_mergeNext h ht)

@[simp] theorem State.wf_passPage (u : Nat) (w : Sweep) : (s.passPage u w).mem.wf = true := by
  unfold State.passPage
  exact State.wf_checkQueries (by simp [h]) _ _

@[simp] theorem State.wf_cancelSweep (u : Nat) (p : SweepPlace) (w : Sweep) (code : Word) (notify : Bool) :
    (s.cancelSweep u p w code notify).mem.wf = true := by
  unfold State.cancelSweep
  dsimp only
  apply State.wf_serve
  have hs (open_ : List Subscription) : (open_.foldl (fun s q => s.errorObject (some q.object) code) s).mem.wf = true :=
    State.foldl_wf _ (fun _ _ hs => State.wf_errorObject hs _ _) open_ s h
  split <;> simpa using hs _

@[simp] theorem State.wf_revokeSweeps (gone : List Nat) : (s.revokeSweeps gone).mem.wf = true := by
  refine State.foldl_wf _ (fun s u hs => ?_) _ _ h
  extract_lets v s'
  have hs' : s'.mem.wf = true := by
    unfold s'
    split
    · split <;> simp [hs]
    · exact hs
  split
  · split <;> simp [hs']
  · exact hs'

/-! ### Writes through an inset's tables -/

@[simp] theorem State.wf_writeSpace (inset a : Nat) (bs : List Byte) : (s.writeSpace inset a bs).1.mem.wf = true :=
  State.wf_serve (Memory.wf_storePieces _ _ _ h)

/-- The state of a write and the fault it met, taken apart. -/
theorem State.wf_writeSpace_eq {inset a : Nat} {bs : List Byte} {r : State × Option (XFault × Nat)} (hr : s.writeSpace inset a bs = r) :
    r.1.mem.wf = true := hr ▸ State.wf_writeSpace h inset a bs

@[simp] theorem State.wf_applyPlan (y : Inset) (ws : List EntryWrite) (bad : Option (XFault × Nat)) : (State.applyPlan s y ws bad).1.mem.wf = true := by
  induction ws generalizing s bad with
  | nil => exact h
  | cons w rest ih =>
    cases bad with
    | some f => exact h
    | none =>
      unfold State.applyPlan
      split
      · exact h
      · dsimp only
        apply ih
        split
        · rw [State.updInset_mem, State.setMem_mem]
          exact Memory.wf_store _ _ _ h
        · simp [h, Memory.wf_putDword]

/-- The state of applied entries and the fault they met, taken apart. -/
theorem State.wf_applyPlan_eq {y : Inset} {ws : List EntryWrite} {bad : Option (XFault × Nat)} {r : State × Option (XFault × Nat)}
    (hr : State.applyPlan s y ws bad = r) : r.1.mem.wf = true := hr ▸ State.wf_applyPlan h y ws bad

@[simp] theorem State.wf_fillVaults (p a n : Nat) : (s.fillVaults p a n).mem.wf = true := by
  refine State.foldl_wf _ (fun s q hs => ?_) _ _ h
  split
  · split
    · exact Memory.wf_zeroFill _ _ _ hs
    · exact hs
  · exact hs

/-! ### Launches and queues -/

@[simp] theorem State.wf_copyImage (inset fuel src dst n : Nat) : (s.copyImage inset fuel src dst n).1.mem.wf = true := by
  induction fuel generalizing s src dst n with
  | zero => exact h
  | succ fuel ih =>
    unfold State.copyImage
    split
    · exact h
    · dsimp only
      split
      · exact h
      · exact h
      · exact h
      · next bs _ _ =>
        split
        · next heq => exact State.wf_writeSpace_eq h heq
        · next heq => exact ih (State.wf_writeSpace_eq h heq) _ _ _

@[simp] theorem State.wf_copyImages (inset list k i : Nat) : (s.copyImages inset list k i).1.mem.wf = true := by
  induction k generalizing s i with
  | zero => exact h
  | succ k ih =>
    unfold State.copyImages
    split
    · exact h
    · exact h
    · next e _ =>
      dsimp only
      split
      · exact h
      · have hw := State.wf_copyImage h inset (blockDword e 16 / 0x8000 + 4) (blockDword e 0) (blockDword e 8) (blockDword e 16)
        split
        · next heq =>
          rw [heq] at hw
          exact ih hw _
        · exact hw

@[simp] theorem State.wf_checkLaunch (x : Inset) (queued : Bool) (d : Grid) (reserved : Bool) :
    (s.checkLaunch x queued d reserved).1.mem.wf = true := by
  unfold State.checkLaunch
  extract_lets
  split
  · exact h
  · split
    · exact h
    · split
      · exact h
      · split
        · exact h
        · exact State.wf_copyImages h _ _ _ _

/-- The state of a launch's checks, taken apart. -/
theorem State.wf_checkLaunch_eq {x : Inset} {queued : Bool} {d : Grid} {reserved : Bool} {r : State × Option Nat × Option Nat}
    (hr : s.checkLaunch x queued d reserved = r) : r.1.mem.wf = true := hr ▸ State.wf_checkLaunch h x queued d reserved

theorem State.wf_launch {x : Inset} {record : Nat} {bs : List Byte} {queue gate : Option (Nat × Nat × Nat)} {team : Option Nat}
    {r : State × Nat × Nat} (hr : s.launch x record bs queue gate team = some r) : r.1.mem.wf = true := by
  unfold State.launch at hr
  dsimp only at hr
  split at hr
  · cases hr
  · next heq =>
    cases hr
    exact State.wf_checkLaunch_eq h heq
  · next heq =>
    cases hr
    simpa using State.wf_checkLaunch_eq h heq

@[simp] theorem State.wf_writeQcb (inset qcb off : Nat) (bs : List Byte) : (s.writeQcb inset qcb off bs).mem.wf = true :=
  State.wf_writeSpace h _ _ _

@[simp] theorem State.wf_writeState (inset qcb : Nat) (err : Bool) (age : Nat) : (s.writeState inset qcb err age).mem.wf = true := by
  unfold State.writeState
  split <;> simp [h]

@[simp] theorem State.wf_advanceRead (inset qcb : Nat) : (s.advanceRead inset qcb).mem.wf = true := by
  unfold State.advanceRead
  split
  · exact h
  · split <;> simp [h]

@[simp] theorem State.wf_completionEntry (inset qcb tag status : Nat) : (s.completionEntry inset qcb tag status).mem.wf = true := by
  unfold State.completionEntry
  split
  · exact h
  · next a q _ =>
    split
    · next heq =>
      refine State.wf_writeQcb ?_ _ _ _ _
      exact State.wf_writeSpace_eq h heq
    · exact h

@[simp] theorem State.wf_notePlaced (g : Nat) : (s.notePlaced g).mem.wf = true := by
  unfold State.notePlaced
  split
  · split
    · split <;> simp [h]
    · exact h
  · exact h

@[simp] theorem State.wf_flipObject (d : Grid) : (s.flipObject d).mem.wf = true := by
  unfold State.flipObject
  split
  · exact h
  · split
    · exact h
    · simpa using Memory.wf_boFlip _ _ h

@[simp] theorem State.wf_completionNotice (d : Grid) : (s.completionNotice d).mem.wf = true := by
  unfold State.completionNotice
  split <;> simp [h]

@[simp] theorem State.wf_overrun (x : Inset) (qcb value : Nat) : (s.overrun x qcb value).mem.wf = true := by
  unfold State.overrun
  dsimp only
  split <;> simp [h]

@[simp] theorem State.wf_takeKick (inset qcb value : Nat) : (s.takeKick inset qcb value).mem.wf = true := by
  unfold State.takeKick
  dsimp only
  split
  · simp [h]
  · split
    · next heq =>
      rw [State.updBells_mem]
      exact State.wf_writeSpace_eq h heq
    · simp [h]

end

end Sys2Proof.Machine
end

section
/-! Queues, images, insets, forms, power and sealing keep the canonical form of memory. -/
namespace Sys2Proof.Machine

@[simp] theorem State.answer_state (s : State) (code : Nat) : (s.answer code).state = s := rfl

section
variable {s : State} (h : s.mem.wf = true)
include h

/-! ### Queues -/

@[simp] theorem State.wf_unmapSlot (q : Slot) : (s.unmapSlot q).mem.wf = true := by
  have hq := State.wf_writeState (State.wf_writeQcb h q.inset q.qcb 0x10 (natBytes 4 q.read ++ natBytes 4 q.write)) q.inset q.qcb q.err q.age
  unfold State.unmapSlot
  dsimp only
  split <;> simpa using hq

@[simp] theorem State.wf_mapQueue (w : Waiter) (slot : Nat) : (s.mapQueue w slot).mem.wf = true := by
  unfold State.mapQueue
  split
  · exact h
  · dsimp only
    split
    · split <;> simp [h]
    · simp [h]

@[simp] theorem State.wf_unmapExcess (x n : Nat) : (s.unmapExcess x n).mem.wf = true := by
  induction n generalizing s with
  | zero => exact h
  | succ n ih =>
    unfold State.unmapExcess
    dsimp only
    split
    · exact ih (State.wf_unmapSlot h _)
    · exact h

/-! ### Images and teams -/

@[simp] theorem State.wf_veilImage (x : Inset) (o n : Nat) : (s.veilImage x o n).mem.wf = true := by
  unfold State.veilImage
  split <;> exact h

@[simp] theorem State.wf_dropImageKey (x : Inset) : (s.dropImageKey x).mem.wf = true := h

@[simp] theorem State.wf_saveTeam (x : Inset) (t : Team) : (s.saveTeam x t).mem.wf = true := by
  unfold State.saveTeam
  extract_lets s' bs n bytes
  have hv := State.wf_veilImage (s := s') (by simp [s', h]) x t.image bs.length
  split
  · next heq => simpa using State.wf_writeSpace_eq hv heq
  · next heq => simpa using State.wf_writeSpace_eq hv heq

@[simp] theorem State.wf_resumeGroup (gid action : Nat) : (s.resumeGroup gid action).mem.wf = true := by
  unfold State.resumeGroup
  split
  · exact h
  · split
    · exact h
    · dsimp only
      split
      · exact State.wf_serve (by simp [h])
      · refine State.wf_serve ?_
        split
        · simp [h]
        · split
          · simp [h]
          · split <;> simp [h]
      · exact State.wf_groupExited (by simp [h]) _

@[simp] theorem State.wf_stepGroup (gid : Nat) : (s.stepGroup gid).mem.wf = true := State.wf_resumeGroup h _ _

@[simp] theorem State.wf_seatSaved (x : Inset) (t : Team) (core : Nat) (bs : List Byte) : (s.seatSaved x t core bs).mem.wf = true := by
  refine State.foldl_wf _ (fun _ _ hs => State.wf_resumeGroup hs _ _) _ _ ?_
  rw [State.updInset_mem, State.foldl_mem _ (by simp)]
  split <;> exact h

@[simp] theorem State.wf_seatCluster (x : Inset) (d : Grid) (images : List (Nat × List Byte)) (cid a : Nat) :
    (s.seatCluster x d images cid a).mem.wf = true := by
  refine State.foldl_wf _ (fun s p hs => ?_) _ _ h
  dsimp only
  split
  · exact hs
  · split <;> simp [hs]

theorem State.wf_seatClusters {x : Inset} {d : Grid} {images : List (Nat × List Byte)} {cids : List Nat} {t : State}
    (ht : s.seatClusters x d images cids = some t) : t.mem.wf = true := by
  induction cids generalizing s with
  | nil =>
    cases ht
    exact h
  | cons cid rest ih =>
    unfold State.seatClusters at ht
    obtain ⟨a, -, ha⟩ := List.exists_of_findSome?_eq_some ht
    exact ih (State.wf_seatCluster h _ _ _ _ _) ha

/-! ### Insets -/

@[simp] theorem State.wf_revokeInset (x : Nat) : (s.revokeInset x).mem.wf = true := by
  unfold State.revokeInset
  split
  · exact h
  · extract_lets gone s₁ s₂ s₃ gids ops cores s₄ s₅ s₆
    have h₁ : s₁.mem.wf = true := State.wf_revokeSweeps h _
    have h₂ : s₂.mem.wf = true := State.foldl_wf _ (fun s c hs => by split <;> simp [hs]) _ _ h₁
    have h₃ : s₃.mem.wf = true := State.foldl_wf _ (fun _ _ hs => State.wf_errorObject hs _ _) _ _ h₂
    have h₄ : s₄.mem.wf = true := by simpa [s₄] using h₃
    have h₅ : s₅.mem.wf = true := State.wf_dropImageKey (State.wf_unveilRanges h₄ _ _) _
    exact State.wf_serve h₅

@[simp] theorem State.wf_applyGrants (p x aux : Nat) (b : Block) : (s.applyGrants p x aux b).mem.wf = true := by
  unfold State.applyGrants
  dsimp only
  split <;> simp [h]

@[simp] theorem State.wf_newChild (p : Nat) (b : Block) : (s.newChild p b).1.mem.wf = true :=
  State.wf_unmapExcess (by simpa using h) _ _

@[simp] theorem State.wf_grantBytes (x : Inset) (r : RootRange) : (s.grantBytes x r).mem.wf = true :=
  State.foldl_wf _ (fun s q hs => by
    split
    · exact Memory.wf_zeroFill _ _ _ hs
    · exact hs) _ _ h

/-! ### Mappings and checkpoints -/

@[simp] theorem State.wf_mapPages (y : Inset) (m : MapReq) : (s.mapPages y m).state.mem.wf = true := by
  unfold State.mapPages
  extract_lets pl code
  split
  · exact h
  · split
    · exact h
    · split
      · next heq => simpa using State.wf_applyPlan_eq h heq
      · next heq => simpa using State.wf_fillVaults (State.wf_applyPlan_eq h heq) _ _ _

@[simp] theorem State.wf_unmapPages (y : Inset) (size va count : Nat) : (s.unmapPages y size va count).state.mem.wf = true := by
  unfold State.unmapPages
  extract_lets n aligned pl code
  split
  · exact h
  · split
    · exact h
    · split <;> next heq => exact State.wf_applyPlan_eq h heq

@[simp] theorem State.wf_checkpoint (p : Nat) (x : Inset) (dest room : Nat) (thaw : Bool) : (s.checkpoint p x dest room thaw).state.mem.wf = true := by
  unfold State.checkpoint
  extract_lets n xs ts size
  split
  · exact h
  · split
    · exact h
    · split
      · exact h
      · split
        · next heq => exact State.wf_writeSpace_eq h heq
        · next heq =>
          have hw := State.wf_writeSpace_eq h heq
          split <;> simpa using hw

@[simp] theorem State.wf_writeImages (images : List (Nat × List Byte)) : (s.writeImages images).1.mem.wf = true := by
  induction images generalizing s with
  | nil => exact h
  | cons i rest ih =>
    unfold State.writeImages
    split
    · split
      · next heq => exact State.wf_writeSpace_eq h heq
      · next heq => exact ih (State.wf_writeSpace_eq h heq)
    · exact ih h

@[simp] theorem State.wf_restoreCheckpoint (x : Inset) (bs : List Byte) : (s.restoreCheckpoint x bs).state.mem.wf = true := by
  unfold State.restoreCheckpoint
  extract_lets images code
  split
  · exact h
  · split
    · exact h
    · next t ht =>
      have hw := State.wf_writeImages (s := t) (by simpa [State.placeImages_mem ht] using h) images
      split <;> next heq =>
        rw [heq] at hw
        exact hw

@[simp] theorem State.wf_debugForm (p : Nat) (x : Inset) (n : Nat) (ws : List Word) : (s.debugForm p x n ws).state.mem.wf = true := by
  unfold State.debugForm
  dsimp only
  split
  · exact h
  · split
    · exact h
    · split
      · exact h
      · split
        · split <;> next heq => exact State.wf_writeSpace_eq h heq
        · split
          · split <;> exact h
          · simp [h]

/-! ### Forms and records -/

@[simp] theorem State.wf_beginForm (o : LongOp) (n child : Nat) (ws : List Word) (dst : Nat) : (s.beginForm o n child ws dst).mem.wf = true := by
  unfold State.beginForm
  extract_lets p s' aux b granted
  have h' : s'.mem.wf = true := by simpa [s'] using h
  split
  · simp [h']
  · split
    · dsimp only
      split
      · simp [h']
      · split <;> simp [granted, h']
    all_goals simp [h']

@[simp] theorem State.wf_endForm (o : LongOp) (n child : Nat) (ws : List Word) (dst : Nat) : (s.endForm o n child ws dst).mem.wf = true := by
  unfold State.endForm
  dsimp only
  split
  · simp [h]
  · split <;> simp [h]

@[simp] theorem State.wf_stepForm (op : Nat) : (s.stepForm op).mem.wf = true := by
  unfold State.stepForm
  split
  · exact h
  · split
    · dsimp only
      split
      · simp [h]
      · split <;> simp [h]
    · exact h

@[simp] theorem State.wf_acknowledge (r : Record) (action reply : Nat) : (s.acknowledge r action reply).2.mem.wf = true := by
  unfold State.acknowledge
  split
  · split
    · exact h
    · split
      · split <;> simp [h]
      · exact h
  · split
    · exact h
    · split
      · split <;> simp [h]
      · split <;> simp [h]
  · exact h

/-! ### The host and the device -/

@[simp] theorem State.wf_hostWrite (addr : Nat) (bs : List Byte) : (s.hostWrite addr bs).mem.wf = true := Memory.wf_store _ _ _ h

theorem State.wf_launchHeld {x : Inset} {t : State} (ht : s.launchHeld x = some t) : t.mem.wf = true := by
  unfold State.launchHeld at ht
  split at ht
  · cases ht
    exact h
  · dsimp only at ht
    split at ht
    · obtain ⟨r, hr, rfl⟩ := Option.map_eq_some_iff.mp ht
      exact State.wf_launch (by simpa using h) hr
    · cases ht
    · cases ht
      simpa using h

@[simp] theorem State.wf_windowStore (p : Nat × List Byte) : (s.windowStore p).mem.wf = true := by
  unfold State.windowStore
  extract_lets addrs power s'
  have h' : s'.mem.wf = true := by unfold s'; split <;> exact h
  split
  · exact Memory.wf_putStored _ _ _ (Memory.wf_strike _ _ _ (Memory.wf_cleanse _ _ _ h'))
  · refine Memory.wf_foldl _ (fun m q hm => ?_) _ _ h'
    split
    · exact Memory.wf_putStored _ _ _ hm
    · exact hm

@[simp] theorem State.wf_applyInjection : s.applyInjection.mem.wf = true := by
  unfold State.applyInjection
  extract_lets
  split
  · exact h
  · split
    · exact h
    · exact h

@[simp] theorem State.wf_applyShed (x action : Nat) : (s.applyShed x action).mem.wf = true := by
  unfold State.applyShed
  split <;> simp [h]

@[simp] theorem State.wf_poisonAt (e : SoftError) : (s.poisonAt e).mem.wf = true := by
  unfold State.poisonAt
  split <;> simp [h, Memory.wf_mark]

@[simp] theorem State.wf_injected (e : SoftError) : (s.injected e).mem.wf = true := by
  unfold State.injected
  split
  · split <;> exact h
  · exact h

@[simp] theorem State.wf_logStruck : s.logStruck.mem.wf = true := by
  unfold State.logStruck
  split
  · exact h
  · extract_lets e memory s'
    have h' : s'.mem.wf = true := h
    cases e.placed with
    | none => exact h'
    | some f => exact State.wf_logError h' f

@[simp] theorem State.wf_elapse : s.elapse.mem.wf = true := State.wf_logStruck h

/-! ### Sealing -/

@[simp] theorem State.wf_finishSeal (x : Inset) (addr room : Nat) : (s.finishSeal x addr room).mem.wf = true := by
  unfold State.finishSeal
  dsimp only
  split
  · simp [h]
  · split
    · simp [h]
    · split
      · simp [h]
      · split <;> simp [h]

@[simp] theorem State.wf_standAgain (d : Sealed) (r : Renaming) (share : Nat) (bases : List Nat) : (s.standAgain d r share bases).mem.wf = true := by
  unfold State.standAgain
  extract_lets xs s₁ s₂
  have h₁ : s₁.mem.wf = true := Memory.wf_putBack _ _ _ h
  have h₂ : s₂.mem.wf = true := State.foldl_wf _ (fun _ _ hs => State.wf_veilRanges hs _ _) _ _ h₁
  refine State.foldl_wf _ (fun s x hs => ?_) _ _ h₂
  exact hs

theorem State.wf_rewriteImages {r : Renaming} {images : List (Nat × List Byte)} {t : State} (ht : s.rewriteImages r images = some t) :
    t.mem.wf = true := by
  induction images generalizing s with
  | nil =>
    cases ht
    exact h
  | cons i rest ih =>
    unfold State.rewriteImages at ht
    split at ht
    · exact ih h ht
    · split at ht
      · exact ih h ht
      · dsimp only at ht
        split at ht
        · cases ht
        · next heq => exact ih (by simpa using State.wf_writeSpace_eq (State.wf_veilImage h _ _ _) heq) ht

end

end Sys2Proof.Machine
end

section
/-! Verdicts and outcomes that keep the canonical form of memory, and the forms that instructions share. -/
namespace Sys2Proof.Machine

/-! ### The predicates -/

/-- Every state that a verdict carries has memory in canonical form. -/
def Verdict.MemWf : Verdict → Prop
  | .done s => s.mem.wf = true
  | .jump s _ _ => s.mem.wf = true
  | .hold s => s.mem.wf = true
  | .trapPart s _ => s.mem.wf = true
  | _ => True

/-- The next state that an outcome answers, if it answers one, has memory in canonical form. -/
def OutcomeWf (o : Host.Outcome State Fault Refusal) : Prop := ∀ t, o = .next t → t.mem.wf = true

namespace Verdict.MemWf

theorem stall : Verdict.stall.MemWf := trivial
theorem trap (t : Trap) : (Verdict.trap t).MemWf := trivial
theorem trapAfter (t : Trap) : (Verdict.trapAfter t).MemWf := trivial
theorem done {s : State} (h : s.mem.wf = true) : (Verdict.done s).MemWf := h
theorem jump {s : State} {target : Nat} {who : Lanes} (h : s.mem.wf = true) : (Verdict.jump s target who).MemWf := h
theorem hold {s : State} (h : s.mem.wf = true) : (Verdict.hold s).MemWf := h
theorem trapPart {s : State} {t : Trap} (h : s.mem.wf = true) : (Verdict.trapPart s t).MemWf := h

theorem ite {p : Prop} [Decidable p] {v w : Verdict} (hv : v.MemWf) (hw : w.MemWf) : (if p then v else w).MemWf := by
  split <;> assumption

end Verdict.MemWf

namespace OutcomeWf

theorem next {s : State} (h : s.mem.wf = true) : OutcomeWf (.next s) := fun _ ht => Host.Outcome.next.inj ht ▸ h
theorem fault (f : Fault) : OutcomeWf (.fault f) := fun _ ht => nomatch ht

theorem ite {p : Prop} [Decidable p] {v w : Host.Outcome State Fault Refusal} (hv : OutcomeWf v) (hw : OutcomeWf w) :
    OutcomeWf (if p then v else w) := by
  split <;> assumption

/-- Moving a group on to its next word leaves memory in its form. -/
theorem wf_moveOn {s : State} {gid run : Nat} {f : Group → Group} {m : Lanes} (h : s.mem.wf = true) :
    ((s.updGroup gid f).afterClause gid run m).mem.wf = true := by
  simpa using h

/-- A word that issues answers what its verdict carries, and its group's counters alone change behind that. -/
theorem issue {s : State} {lane : Bool} {body : Ctx → Verdict} (h : s.mem.wf = true) (hb : ∀ c : Ctx, c.s.mem.wf = true → (body c).MemWf) :
    OutcomeWf (issue s lane body) := by
  unfold Machine.issue
  split
  · exact next h
  · next c hc =>
    have hs : c.s.mem.wf = true := by rw [State.ctx?_s hc, h]
    have hv := hb c hs
    generalize body c = v at hv
    cases v with
    | stall => exact next h
    | hold t => exact next hv
    | trap t => exact next (by simpa using hs)
    | trapAfter t => exact next (by simpa using hs)
    | trapPart t e => exact next ((congrArg Memory.wf (c.takePart_mem t e)).trans hv)
    | done t => exact next (wf_moveOn hv)
    | jump t target who => exact next (wf_moveOn hv)

end OutcomeWf

/-! ### Verdicts by the way they are reached -/

namespace Verdict.MemWf
variable {c : Ctx} {k : Verdict}

theorem illegalOperand {lane : Bool} : (c.illegalOperand lane).MemWf := trivial
theorem quotaFault {m : Lanes} : (c.quotaFault m).MemWf := trivial
theorem illegalInstruction {lane : Bool} : (c.illegalInstruction lane).MemWf := trivial

theorem uses {lane : Bool} {us : List Use} (hk : k.MemWf) : (c.uses lane us k).MemWf := ite illegalOperand (ite quotaFault hk)

theorem charged (hk : k.MemWf) : (c.charged k).MemWf := by
  unfold Ctx.charged
  split
  · trivial
  · exact hk

theorem src {s : State} {f : Nat} {k : State → (Nat → Word) → Verdict} (h : s.mem.wf = true) (hk : ∀ t x, t.mem.wf = true → (k t x).MemWf) :
    (c.src s f k).MemWf := by
  unfold Ctx.src
  refine ite (hk _ _ h) (ite (hk _ _ h) (ite (hk _ _ h) (ite ?_ ?_)))
  · split
    · trivial
    · next ht => exact hk _ _ (by rw [State.popNeighbour_mem ht, h])
  · have hgo : Verdict.MemWf (match s.popTeam c.g (f - 124) with
      | none => .stall
      | some (s, w) => k s (fun _ => w)) := by
      split
      · trivial
      · next ht => exact hk _ _ (by rw [State.popTeam_mem ht, h])
    exact ite hgo (charged hgo)

theorem usrc {s : State} {f : Nat} {k : State → Word → Verdict} (h : s.mem.wf = true) (hk : ∀ t x, t.mem.wf = true → (k t x).MemWf) :
    (c.usrc s f k).MemWf := by
  unfold Ctx.usrc
  refine ite (hk _ _ h) ?_
  have hgo : Verdict.MemWf (match s.popTeam c.g (f - 124) with
    | none => .stall
    | some (s, w) => k s w) := by
    split
    · trivial
    · next ht => exact hk _ _ (by rw [State.popTeam_mem ht, h])
  exact ite hgo (charged hgo)

theorem result {s : State} {latency f : Nat} {mask : Word} {v : Nat → Word} (h : s.mem.wf = true) : (c.result s latency f mask v).MemWf :=
  ite (done (by simpa using h)) (ite (done h) (done (by simpa using h)))

theorem resultP {s : State} {latency p : Nat} {v : Nat → Bool} (h : s.mem.wf = true) : (c.resultP s latency p v).MemWf := done (by simpa using h)

theorem resultPair {s : State} {latency f : Nat} {v : Nat → BitVec 64} (h : s.mem.wf = true) : (c.resultPair s latency f v).MemWf :=
  done (by simpa using h)

theorem long {s : State} {matrix lane : Bool} {rs : List RegWrite} {w : Waiting} {os : List Word} (h : s.mem.wf = true) :
    (c.long s matrix lane rs w os).MemWf :=
  ite illegalInstruction (ite stall (done (by simpa using h)))

theorem longResult {s : State} {f : Nat} {mask : Word} {v : Nat → Word} (h : s.mem.wf = true) : (c.longResult s f mask v).MemWf :=
  ite (long h) (long (by simpa using h))

theorem imm11 {lane : Bool} {i : BitVec 11} {k : Word → Verdict} (hk : ∀ w, (k w).MemWf) : (c.imm11 lane i k).MemWf := by
  unfold Ctx.imm11
  split
  · exact hk _
  · exact ite (hk _) illegalInstruction

theorem imm18 {lane : Bool} {i : BitVec 18} {k : Word → Verdict} (hk : ∀ w, (k w).MemWf) : (c.imm18 lane i k).MemWf := by
  unfold Ctx.imm18
  split
  · exact hk _
  · exact ite (hk _) illegalInstruction

theorem gathered {scope : Nat} (h : c.s.mem.wf = true) (hk : k.MemWf) : (c.gathered scope k).MemWf := by
  refine ite hk ?_
  split
  · trivial
  · next ht => exact hold (by rw [State.sendMarkers_mem ht, h])

theorem checkTarget {lane : Bool} {t : Nat} (hk : k.MemWf) : (c.checkTarget lane t k).MemWf := by
  unfold Ctx.checkTarget
  split
  · exact hk
  · exact ite hk illegalInstruction

theorem checkIndirect {t : Nat} (hk : k.MemWf) : (c.checkIndirect t k).MemWf := ite illegalInstruction (checkTarget hk)

theorem checkAccess {lane : Bool} {needs : List Acc} {n : Nat} {addrs : List (Nat × Nat)} {k : List Access → Verdict} (hk : ∀ as, (k as).MemWf) :
    (c.checkAccess lane needs n addrs k).MemWf := by
  unfold Ctx.checkAccess
  dsimp only
  split
  · exact hk _
  · trivial

theorem refuseWhere {lane : Bool} {kind sub : Nat} {as : List Access} {p : Access → Bool} (hk : k.MemWf) :
    (c.refuseWhere lane kind sub as p k).MemWf := by
  unfold Ctx.refuseWhere
  split
  · exact hk
  · trivial

theorem checkPoison {lane : Bool} {n : Nat} {as : List Access} (hk : k.MemWf) : (c.checkPoison lane n as k).MemWf := refuseWhere hk

theorem checkConflict {lane : Bool} {sub n : Nat} {write : Bool} {as : List Access} (hk : k.MemWf) :
    (c.checkConflict lane sub n write as k).MemWf := by
  unfold Ctx.checkConflict
  extract_lets
  split
  · exact hk
  · trivial

theorem ready {as : List Access} (hk : k.MemWf) : (c.ready as k).MemWf := charged (ite stall (ite stall hk))

theorem object {a : BitVec 7} {need : List Acc} {align : Nat} {k : Nat → Verdict} (hk : ∀ p, (k p).MemWf) : (c.object a need align k).MemWf := by
  refine ite (trap _) (checkAccess (fun as => ?_))
  split
  · trivial
  · exact ite (trap _) (hk _)

theorem cleanWords {a : BitVec 7} {p : Nat} {reads : List Nat} (hk : k.MemWf) : (c.cleanWords a p reads k).MemWf := by
  unfold Ctx.cleanWords
  split
  · trivial
  · exact hk

theorem reach {p : Nat} {reads writes : List Nat} (hk : k.MemWf) : (c.reach p reads writes k).MemWf := by
  refine ready ?_
  split
  · trivial
  · exact hk

theorem writePointer {a : BitVec 7} {k : List Access → Nat → Verdict} (hk : ∀ as p, (k as p).MemWf) : (c.writePointer a k).MemWf := by
  unfold Ctx.writePointer
  refine checkAccess (fun as => ?_)
  split
  · trivial
  · exact ite (trap _) (hk _ _)

theorem pointerConflict {p : Nat} (hk : k.MemWf) : (c.pointerConflict p k).MemWf := by
  unfold Ctx.pointerConflict
  split
  · trivial
  · exact hk

theorem deque (hk : k.MemWf) : (c.deque k).MemWf := ite hk illegalInstruction

theorem dequeRange {a : BitVec 7} {p cap : Nat} {k : List (Nat × Nat) → Verdict} (hk : ∀ ps, (k ps).MemWf) : (c.dequeRange a p cap k).MemWf := by
  unfold Ctx.dequeRange
  extract_lets
  split
  · trivial
  · exact ite (hk _) (trap _)

theorem tileUse {lane : Bool} {ts : List Nat} {ok : Bool} (hk : k.MemWf) : (c.tileUse lane ts ok k).MemWf :=
  ite (trap _) (ite illegalOperand (ite stall hk))

theorem converged (hk : k.MemWf) : (c.converged k).MemWf := ite hk (trap _)

theorem localSpan {need : Acc} {a n : Nat} {k : Span → Verdict} (hk : ∀ sp, (k sp).MemWf) : (c.localSpan need a n k).MemWf := by
  unfold Ctx.localSpan
  split
  · trivial
  · trivial
  · exact hk _

theorem copySpans {sa sn da dn : Nat} {k : Span → Span → List (Nat × Nat) → List (Nat × Nat) → Verdict} (hk : ∀ x y r w, (k x y r w).MemWf) :
    (c.copySpans sa sn da dn k).MemWf := by
  unfold Ctx.copySpans
  split
  · trivial
  · exact hk _ _ _ _

theorem named {need : Acc} {addr align kind : Nat} {k : Nat → Verdict} (hk : ∀ p, (k p).MemWf) : (c.named need addr align kind k).MemWf := by
  refine ite (trap _) ?_
  split
  · trivial
  · exact ite (trap _) (ite (hk _) (trap _))

theorem localWord {need : Acc} {addr n : Nat} {k : Nat → Verdict} (hk : ∀ p, (k p).MemWf) : (c.localWord need addr n k).MemWf := by
  refine ite illegalOperand ?_
  split
  · trivial
  · exact ite (hk _) (trap _)

theorem objectA {a : BitVec 7} {k : Nat → Verdict} (hk : ∀ p, (k p).MemWf) : (c.objectA a k).MemWf := named hk

theorem command {cm : Command} (h : c.s.mem.wf = true) : (c.command cm).MemWf :=
  charged (ite stall (gathered h (long (by simpa using h))))

theorem copyPointer {nm : Bool} {addr : Nat} {k : Option Nat → Verdict} (hk : ∀ p, (k p).MemWf) : (c.copyPointer nm addr k).MemWf :=
  ite (localWord (fun _ => hk _)) (hk _)

theorem targetObjects {rbo : Word} {ts acc : List Target} {k : List Target → Verdict} (hk : ∀ ts, (k ts).MemWf) :
    (c.targetObjects rbo ts acc k).MemWf := by
  induction ts generalizing acc with
  | nil => exact hk _
  | cons t rest ih => exact named (fun _ => ih)

theorem streamSpan {a n : Nat} {k : Span → List (Nat × Nat) → Verdict} (hk : ∀ sp ps, (k sp ps).MemWf) : (c.streamSpan a n k).MemWf :=
  ite (hk _ _) (trap _)

theorem chainEntries {bs : List Byte} {is : List Nat} {total : Nat} {acc : List ChainEntry} {k : List ChainEntry → Verdict} (hk : ∀ es, (k es).MemWf) :
    (c.chainEntries bs is total acc k).MemWf := by
  induction is generalizing total acc with
  | nil => exact hk _
  | cons i rest ih =>
    refine ite illegalOperand ?_
    split
    · exact hk _
    · refine ite illegalOperand ?_
      split
      · exact illegalOperand
      · exact ih
    · exact named (fun _ => ih)
    · exact named (fun _ => ih)
    · exact ite (trap _) (named (fun _ => ih))
    · exact ite (trap _) (named (fun _ => localWord (fun _ => ih)))
    · exact localWord (fun _ => ih)
    · exact localWord (fun _ => ih)

theorem tol {s : State} {minor dst : Nat} {ws : List Word} (h : s.mem.wf = true) : (c.tol s minor dst ws).MemWf := ite (long h) illegalOperand

theorem sysForm {sys : Bool} {k : Inset → Verdict} (hk : ∀ x, (k x).MemWf) : (c.sysForm sys k).MemWf := by
  unfold Ctx.sysForm
  split
  · trivial
  · exact ite (trap _) (hk _)

theorem form {sys : Bool} {d : BitVec 7} {n : Nat} {k : Inset → List Word → Verdict} (hk : ∀ x ws, (k x ws).MemWf) : (c.form sys d n k).MemWf :=
  sysForm (fun _ => uses (hk _ _))

theorem block {addr align n : Nat} {k : List Byte → Verdict} (hk : ∀ bs, (k bs).MemWf) : (c.block addr align n k).MemWf := by
  refine ite illegalOperand ?_
  split
  · exact hk _
  · trivial
  · trivial
  · trivial

theorem answered {s : State} {d : BitVec 7} {code result : Nat} (h : s.mem.wf = true) : (c.answered s d code result).MemWf := long h

theorem launching {x : Inset} {k : State → Verdict} (h : c.s.mem.wf = true) (hk : ∀ t, t.mem.wf = true → (k t).MemWf) : (c.launching x k).MemWf :=
  charged (ite stall (gathered h (hk _ (by simpa using h))))

theorem launched {s : State} {x y : Inset} {addr : Nat} {bs : List Byte} {gate : Option (Nat × Nat × Nat)} {k : State → Nat → Nat → Verdict}
    (h : s.mem.wf = true) (hk : ∀ t code g, t.mem.wf = true → (k t code g).MemWf) : (c.launched s x y addr bs gate k).MemWf := by
  unfold Ctx.launched
  split
  · trivial
  · next ht =>
    have hw := State.wf_launch h ht
    exact hk _ _ _ (by split <;> simpa using hw)

theorem childForm {s : State} {n : Nat} {d : BitVec 7} {child : Nat} {ws : List Word} (h : s.mem.wf = true) :
    (c.childForm s n d child ws).MemWf := by
  refine ite (answered h) ?_
  have hlong : (c.long s true false [] (.form n child ws d.toNat) []).MemWf := long h
  split
  · next heq =>
    rw [heq] at hlong
    exact done (State.wf_stepForm hlong _)
  · exact hlong

theorem grantFields_go {aux addr : Nat} {k : List Byte → Verdict} (hk : ∀ bs, (k bs).MemWf) (spots : List (Nat × Nat × Nat)) (bs : List Byte) :
    (Ctx.grantFields.go c aux addr k spots bs).MemWf := by
  induction spots generalizing bs with
  | nil => exact hk _
  | cons p rest ih => exact ite (block (fun _ => ih _)) (ih _)

theorem grantFields {aux addr : Nat} {k : List Byte → Verdict} (hk : ∀ bs, (k bs).MemWf) : (c.grantFields aux addr k).MemWf :=
  ite illegalOperand (grantFields_go hk _ _)

theorem untilPinv {s : State} {n : Nat} {d : BitVec 7} {child a len code : Nat} (h : s.mem.wf = true) :
    (c.untilPinv s n d child a len code).MemWf := by
  unfold Ctx.untilPinv
  have hlong : (c.long s true false [] (.form n child [natWord a, hiWord a, natWord len, hiWord len, natWord code] d.toNat) []).MemWf := long h
  split
  · next heq =>
    rw [heq] at hlong
    exact done hlong
  · exact hlong

theorem hqAnswer {s : State} {d : BitVec 7} {code : Nat} (h : s.mem.wf = true) : (c.hqAnswer s d code).MemWf := long h

theorem floatMods {useB : Bool} {k : BitVec 7 → BitVec 7 → FloatDst → Verdict} (hk : ∀ a b d, (k a b d).MemWf) : (c.floatMods useB k).MemWf := by
  unfold Ctx.floatMods
  split
  · exact hk _ _ _
  · exact ite (hk _ _ _) illegalOperand

end Verdict.MemWf

end Sys2Proof.Machine
end

section
/-! Instructions of registers, lanes, control and system registers keep the canonical form of memory. -/
namespace Sys2Proof.Machine

section
variable {s : State} (h : s.mem.wf = true)
include h

/-! ### Shared forms of lane and uniform instructions -/

theorem OutcomeWf.laneBin {latency : Nat} {d a b : BitVec 7} {f : Word → Word → Word} : OutcomeWf (laneBin s latency d a b f) :=
  .issue h fun _ hc => .uses <| .ite .stall <| .src hc fun _ _ hx => .src hx fun _ _ hy => .result hy

theorem OutcomeWf.laneUn {latency : Nat} {d a : BitVec 7} {f : Word → Word} : OutcomeWf (laneUn s latency d a f) :=
  .issue h fun _ hc => .uses <| .ite .stall <| .src hc fun _ _ hx => .result hx

theorem OutcomeWf.laneImm {latency : Nat} {d a : BitVec 7} {i : BitVec 11} {f : Word → Word → Word} : OutcomeWf (laneImm s latency d a i f) :=
  .issue h fun _ hc => .imm11 fun _ => .uses <| .ite .stall <| .src hc fun _ _ hx => .result hx

theorem OutcomeWf.laneAcc {latency : Nat} {d a b : BitVec 7} {f : Word → Word → Word → Word} : OutcomeWf (laneAcc s latency d a b f) :=
  .issue h fun _ hc => .uses <| .src hc fun _ _ hx => .src hx fun _ _ hy => .result hy

theorem OutcomeWf.laneLong {d a b : BitVec 7} {f : Word → Word → Word} : OutcomeWf (laneLong s d a b f) :=
  .issue h fun _ hc => .uses <| .ite .stall <| .src hc fun _ _ hx => .src hx fun _ _ hy => .longResult hy

theorem OutcomeWf.lanePred {d a b : BitVec 7} {f : Bool → Bool → Bool} : OutcomeWf (lanePred s d a b f) :=
  .issue h fun _ hc => .resultP hc

theorem OutcomeWf.uniBin {d a b : BitVec 7} {f : Word → Word → Word} : OutcomeWf (uniBin s d a b f) :=
  .issue h fun _ hc => .uses <| .usrc hc fun _ _ hx => .usrc hx fun _ _ hy => .done hy

theorem OutcomeWf.uniWide {d a b : BitVec 7} {f : BitVec 64 → BitVec 64 → BitVec 64} : OutcomeWf (uniWide s d a b f) :=
  .issue h fun _ hc => .uses <| .done hc

theorem OutcomeWf.uniJump {a : BitVec 7} {link : Bool} : OutcomeWf (uniJump s a link) :=
  .issue h fun _ hc => .uses <| .checkIndirect <| .jump <| by split <;> exact hc

theorem OutcomeWf.prefixWord {f : Clause → Clause} : OutcomeWf (prefixWord s f) := by
  unfold Machine.prefixWord
  split
  · exact .next h
  · split
    · exact .next h
    · exact .next h

theorem OutcomeWf.falu {d a b : BitVec 7} {f : Bool → FVal → FVal → Bool → FVal} : OutcomeWf (falu s d a b f) :=
  .issue h fun _ hc => .floatMods fun _ _ _ => .uses <| .ite .stall <| .src (by simpa using hc) fun _ _ hx => .src hx fun _ _ hy => .result hy

theorem OutcomeWf.ffma {d a b : BitVec 7} {negProduct negD : Bool} : OutcomeWf (ffma s d a b negProduct negD) :=
  .issue h fun _ hc => .floatMods fun _ _ _ => .uses <| .src (by simpa using hc) fun _ _ hx => .src hx fun _ _ hy => .result hy

theorem OutcomeWf.funi {d a : BitVec 7} {f : FVal → FVal} : OutcomeWf (funi s d a f) :=
  .issue h fun _ hc => .floatMods fun _ _ _ => .uses <| .ite .stall <| .src (by simpa using hc) fun _ _ hx => .result hx

theorem OutcomeWf.half2 {d a b : BitVec 7} {f : Fmt} {op : FVal → FVal → FVal} : OutcomeWf (half2 s d a b f op) := .laneBin h

theorem OutcomeWf.halfFma {d a b : BitVec 7} {f : Fmt} : OutcomeWf (halfFma s d a b f) := .laneAcc h

theorem OutcomeWf.sfuOp {fn : Nat} {d a b : BitVec 7} : OutcomeWf (sfuOp s fn d a b) :=
  .issue h fun _ hc => .floatMods fun _ _ _ => .uses <| .ite .stall <| .src (by simpa using hc) fun _ _ hx => .src hx fun _ _ hy => .longResult hy

theorem OutcomeWf.ialu {latency : Nat} {d a b : BitVec 7} {plain : Word → Word → Word} {exact : Option (Int → Int → Int)} {signed : Bool} :
    OutcomeWf (ialu s latency d a b plain exact signed) := by
  refine .issue h fun c hc => ?_
  dsimp only
  split
  · exact .uses <| .ite .stall <| .src hc fun _ _ hx => .src hx fun _ _ hy => .result hy
  · exact .ite .illegalOperand <| .uses <| .ite .stall <| .src hc fun _ _ hx => .src hx fun _ _ hy => .result hy

theorem OutcomeWf.widePair {latency : Nat} {d a b : BitVec 7} {f : BitVec 64 → BitVec 64 → BitVec 64} : OutcomeWf (widePair s latency d a b f) :=
  .issue h fun _ hc => .uses <| .resultPair hc

theorem OutcomeWf.wideReg {latency : Nat} {d a b : BitVec 7} {f : BitVec 64 → Word → BitVec 64} : OutcomeWf (wideReg s latency d a b f) :=
  .issue h fun _ hc => .uses <| .src hc fun _ _ hx => .resultPair hx

theorem OutcomeWf.wideMul {d a b : BitVec 7} {f : Word → Word → BitVec 64} : OutcomeWf (wideMul s d a b f) :=
  .issue h fun _ hc => .uses <| .src hc fun _ _ hx => .resultPair hx

/-! ### Uniform instructions -/

theorem wf_execUaddi {d a : BitVec 7} {i : BitVec 11} : OutcomeWf (execUaddi d a i s) :=
  .issue h fun _ hc => .imm11 fun _ => .uses <| .usrc hc fun _ _ hx => .done hx

theorem wf_execUmovi {d : BitVec 7} {i : BitVec 18} : OutcomeWf (execUmovi d i s) :=
  .issue h fun _ hc => .imm18 fun _ => .uses <| .done hc

theorem wf_execUmulw {d a b : BitVec 7} : OutcomeWf (execUmulw d a b s) :=
  .issue h fun _ hc => .uses <| .usrc hc fun _ _ hx => .usrc hx fun _ _ hy => .done hy

theorem wf_execUlea {d a b : BitVec 7} {sh : BitVec 2} : OutcomeWf (execUlea d a b sh s) :=
  .issue h fun _ hc => .uses <| .usrc hc fun _ _ hx => .done hx

theorem wf_execUcmp {d a b : BitVec 7} {cc : BitVec 4} : OutcomeWf (execUcmp d a b cc s) :=
  .issue h fun _ hc => .uses <| .usrc hc fun _ _ hx => .usrc hx fun _ _ hy => .resultP hy

theorem wf_execUcmpi {d a : BitVec 7} {cc : BitVec 4} {i : BitVec 7} : OutcomeWf (execUcmpi d a cc i s) :=
  .issue h fun _ hc => .uses <| .usrc hc fun _ _ hx => .resultP hx

/-! ### Control -/

theorem wf_execBra {p : BitVec 5} {m : BitVec 2} {o : BitVec 18} : OutcomeWf (execBra p m o s) :=
  .issue h fun _ hc => .checkTarget <| .ite (.jump hc) (.done hc)

theorem wf_execBrl {p : BitVec 5} {o : BitVec 18} : OutcomeWf (execBrl p o s) :=
  .issue h fun _ hc => .checkTarget <| .ite (.done hc) <| .ite (.jump hc) (.jump hc)

theorem wf_execCall {o : BitVec 18} : OutcomeWf (execCall o s) :=
  .issue h fun _ hc => .checkTarget (.jump hc)

theorem wf_execNop : OutcomeWf (execNop s) := .issue h fun _ hc => .done hc

theorem wf_execExit : OutcomeWf (execExit s) :=
  .issue h fun _ hc => .done (State.wf_groupExited (by simpa using hc) _)

theorem wf_execYield : OutcomeWf (execYield s) := .issue h fun _ hc => .done hc

theorem wf_execBrk : OutcomeWf (execBrk s) := .issue h fun _ _ => .trapAfter _

theorem wf_execTrap {a : BitVec 7} : OutcomeWf (execTrap a s) := .issue h fun _ _ => .uses (.trapAfter _)

theorem wf_execRjset {j : BitVec 7} : OutcomeWf (execRjset j s) := .issue h fun _ hc => .done hc
theorem wf_execRjwait {j : BitVec 7} : OutcomeWf (execRjwait j s) := .issue h fun _ hc => .done hc
theorem wf_execRjclr {j : BitVec 7} : OutcomeWf (execRjclr j s) := .issue h fun _ hc => .done hc
theorem wf_execRjread {d j : BitVec 7} : OutcomeWf (execRjread d j s) := .issue h fun _ hc => .uses (.done hc)

/-! ### System registers, quotas, lanes -/

theorem wf_execSread {d n : BitVec 7} : OutcomeWf (execSread d n s) := .issue h fun _ hc => .uses (.long hc)

theorem wf_execSwrite {a n : BitVec 7} : OutcomeWf (execSwrite a n s) :=
  .issue h fun _ hc => .uses <| .usrc hc fun _ _ hx => .long hx

theorem wf_execRquota {a b : BitVec 7} : OutcomeWf (execRquota a b s) := by
  refine .issue h fun c hc => .uses <| .usrc hc fun _ _ hx => .usrc hx fun _ _ hy => ?_
  split
  · exact .illegalOperand
  · exact .ite .illegalOperand <| .ite .stall <| .long hy

theorem wf_execRdlane {d a b : BitVec 7} : OutcomeWf (execRdlane d a b s) :=
  .issue h fun _ hc => .uses <| .usrc hc fun _ _ hx => .long hx

theorem wf_execWrlane {d a b : BitVec 7} : OutcomeWf (execWrlane d a b s) :=
  .issue h fun _ hc => .uses <| .usrc hc fun _ _ hx => .usrc hx fun _ _ hy => .long <| by split <;> simpa using hy

theorem wf_execLperm {d a b : BitVec 7} {m : BitVec 4} : OutcomeWf (execLperm d a b m s) := .issue h fun _ hc => .uses (.long hc)

theorem wf_execLsense {d a : BitVec 7} {m : BitVec 4} : OutcomeWf (execLsense d a m s) := by
  refine .issue h fun c hc => ?_
  dsimp only
  split
  · exact .long hc
  · exact .long hc
  · exact .uses (.long hc)
  · exact .uses (.long hc)
  · exact .uses (.long hc)

theorem wf_execLfold {d a : BitVec 7} {m : BitVec 4} : OutcomeWf (execLfold d a m s) := .issue h fun _ hc => .uses (.long hc)
theorem wf_execScan {d a : BitVec 7} {m : BitVec 4} : OutcomeWf (execScan d a m s) := .issue h fun _ hc => .uses (.long hc)

/-! ### Moves, compares, conversions -/

theorem wf_execFcmp {d a b : BitVec 7} {cc : BitVec 4} : OutcomeWf (execFcmp d a b cc s) :=
  .issue h fun _ hc => .floatMods fun _ _ _ => .ite .illegalOperand <| .uses <| .src hc fun _ _ hx => .src hx fun _ _ hy => .resultP hy

theorem wf_execFclass {d a : BitVec 7} : OutcomeWf (execFclass d a s) :=
  .issue h fun _ hc => .floatMods fun _ _ _ => .ite .illegalOperand <| .uses <| .ite .stall <| .src hc fun _ _ hx => .result hx

theorem wf_execCvt {d a : BitVec 7} {m : BitVec 4} : OutcomeWf (execCvt d a m s) := by
  refine .issue h fun c hc => ?_
  dsimp only
  split
  · exact .uses <| .ite .stall <| .src hc fun _ _ hx => .result hx
  · exact .ite .illegalOperand <| .uses <| .ite .stall <| .src (by split <;> exact hc) fun _ _ hx => .ite (.result hx) (.result hx)

theorem wf_execQnt {d a b : BitVec 7} {n : BitVec 3} : OutcomeWf (execQnt d a b n s) :=
  .issue h fun _ hc => .uses <| .ite .illegalOperand <| .src hc fun _ _ hx => .src hx fun _ _ hy => .done (by simpa using hy)

theorem wf_execDqnt {d a b : BitVec 7} {n : BitVec 3} : OutcomeWf (execDqnt d a b n s) :=
  .issue h fun _ hc => .uses <| .ite .illegalOperand <| .ite .stall <| .src hc fun _ _ hx => .src hx fun _ _ hy =>
    .ite (.done (by simpa using hy)) (.result hy)

theorem wf_execUnpk3 {d a : BitVec 7} {n : BitVec 2} : OutcomeWf (execUnpk3 d a n s) :=
  .issue h fun _ hc => .uses <| .src hc fun _ _ hx => .resultPair hx

theorem wf_execRng {d : BitVec 7} : OutcomeWf (execRng d s) := .issue h fun _ hc => .uses (.resultPair hc)
theorem wf_execRngseed {a : BitVec 7} : OutcomeWf (execRngseed a s) := .issue h fun _ hc => .uses (.done hc)
theorem wf_execMovx {d a : BitVec 7} : OutcomeWf (execMovx d a s) := .issue h fun _ hc => .uses (.resultPair hc)
theorem wf_execPtov {d : BitVec 7} : OutcomeWf (execPtov d s) := .issue h fun _ hc => .uses <| .ite .stall (.result hc)

theorem wf_execVtop {a : BitVec 7} : OutcomeWf (execVtop a s) :=
  .issue h fun _ hc => .uses <| .src hc fun _ _ hx => .done <| State.foldl_wf _ (fun _ _ hs => by simpa using hs) _ _ hx

theorem wf_execMovi {d : BitVec 7} {i : BitVec 18} : OutcomeWf (execMovi d i s) :=
  .issue h fun _ hc => .imm18 fun _ => .uses <| .ite .stall (.result hc)

theorem wf_execSel {d a b : BitVec 7} {p : BitVec 4} : OutcomeWf (execSel d a b p s) :=
  .issue h fun _ hc => .uses <| .ite .stall <| .src hc fun _ _ hx => .src hx fun _ _ hy => .result hy

theorem wf_execIcmp {d a b : BitVec 7} {cc : BitVec 4} : OutcomeWf (execIcmp d a b cc s) := by
  refine .issue h fun c hc => ?_
  dsimp only
  split
  · exact .uses <| .src hc fun _ _ hx => .src hx fun _ _ hy => .resultP hy
  · exact .ite .illegalOperand <| .uses <| .src hc fun _ _ hx => .src hx fun _ _ hy => .resultP hy

theorem wf_execIcmpi {d a : BitVec 7} {cc : BitVec 4} {i : BitVec 7} : OutcomeWf (execIcmpi d a cc i s) :=
  .issue h fun _ hc => .uses <| .src hc fun _ _ hx => .resultP hx

end

end Sys2Proof.Machine
end

section
/-! Instructions of memory, synchronisation, tiles, engines, Survey, tolerance and contexts keep the canonical form of memory. -/
namespace Sys2Proof.Machine

/-- An access that performs at once, or behind the markers of its scope. -/
theorem Verdict.MemWf.orGathered {c : Ctx} {p : Prop} [Decidable p] {scope : Nat} {k : Verdict} (h : c.s.mem.wf = true) (hk : k.MemWf) :
    (if p then k else c.gathered scope k).MemWf := .ite hk (.gathered h hk)

theorem Verdict.MemWf.gatheredOr {c : Ctx} {p : Prop} [Decidable p] {scope : Nat} {k : Verdict} (h : c.s.mem.wf = true) (hk : k.MemWf) :
    (if p then c.gathered scope k else k).MemWf := .ite (.gathered h hk) hk

/-- The state that the effect of a word starts from. -/
theorem Ctx.wf_base {c : Ctx} {lane : Bool} (h : c.s.mem.wf = true) : (c.base lane).mem.wf = true := h

theorem Memory.wf_atomLanes (c : Ctx) (lane : Bool) (d b op : Nat) (as : List Access) (m : Memory) (rs : List RegWrite) (h : m.wf = true) :
    (atomLanes c lane d b op as m rs).1.wf = true := by
  induction as generalizing m rs with
  | nil => exact h
  | cons x rest ih => exact ih _ _ (m.wf_putWord _ _ h)

section
variable {s : State} (h : s.mem.wf = true)
include h

/-! ### Loads, stores, atomics -/

theorem OutcomeWf.loadForm {lane : Bool} {d a : BitVec 7} {z o k : Nat} : OutcomeWf (loadForm s lane d a z o k) :=
  .issue h fun _ hc => .ite .illegalOperand <| .uses <| .checkAccess fun _ => .checkPoison <| .ready <| .checkConflict <|
    .ite (.long (by simpa using hc)) (.long (by simpa using hc))

theorem OutcomeWf.storeForm {lane : Bool} {d a : BitVec 7} {z o k : Nat} : OutcomeWf (storeForm s lane d a z o k) := by
  refine .issue h fun c hc => .ite .illegalOperand <| .uses <| .checkAccess fun as => .ready <| .checkConflict <| .orGathered hc <|
    .ite (.long (by simpa using hc)) <| .long <| State.wf_serve ?_
  rw [State.touchWrites_mem, State.setMem_mem]
  exact Memory.wf_foldl _ (fun m _ hm => m.wf_store _ _ hm) _ _ (by simpa using hc)

theorem OutcomeWf.tagForm {kind : Nat} {d a : BitVec 7} {z : BitVec 1} {k : BitVec 3} : OutcomeWf (tagForm s kind d a z k) :=
  .issue h fun _ hc => .uses <| .checkAccess fun _ => .refuseWhere <| .ready <| .orGathered hc <| .long (by simpa using hc)

theorem OutcomeWf.atomForm {lane : Bool} {d a b : BitVec 7} {op : BitVec 4} : OutcomeWf (atomForm s lane d a b op) :=
  .issue h fun _ hc => .uses <| .checkAccess fun _ => .refuseWhere <| .checkPoison <| .ready <| .checkConflict <| .gatheredOr hc <|
    .long <| State.wf_serve <| by simpa using Memory.wf_atomLanes _ _ _ _ _ _ _ _ (by simpa using hc)

theorem wf_execLdnr {d a : BitVec 7} {z : BitVec 3} {o : BitVec 2} {k p : BitVec 3} : OutcomeWf (execLdnr d a z o k p s) := by
  refine .issue h fun c hc => .ite .illegalOperand <| .uses ?_
  split
  · exact .trap _
  · exact .ready <| .long (by simpa using hc)

theorem wf_execAred {a b : BitVec 7} {o : BitVec 4} : OutcomeWf (execAred a b o s) :=
  .issue h fun _ hc => .uses <| .checkAccess fun _ => .refuseWhere <| .checkPoison <| .long <| State.wf_serve <|
    State.foldl_wf _ (fun _ _ hs => State.wf_contribute hs _ _ _ _) _ _ (State.wf_makeRoom (Ctx.wf_base hc) _ _)

/-! ### Barriers, objects, tickets, deques -/

theorem wf_execFence {k : BitVec 4} : OutcomeWf (execFence k s) :=
  .issue h fun _ hc => .charged <| .ite .stall <| .gathered hc <| .long (by simpa using hc)

theorem OutcomeWf.barForm {cluster arrive wait : Bool} : OutcomeWf (barForm s cluster arrive wait) := by
  refine .issue h fun c hc => .ite .illegalOperand <| .charged <| .ite .stall ?_
  extract_lets cid phase b w
  have hb : b.mem.wf = true := by
    clear_value phase
    unfold b
    split <;> simpa using hc
  have hlong : (c.long b false false [] w []).MemWf := .long hb
  split
  · next t heq =>
    rw [heq] at hlong
    have ht : t.mem.wf = true := hlong
    exact .done <| State.wf_serve <| by simpa using ht
  · exact hlong

theorem wf_execArflush : OutcomeWf (execArflush s) := by
  refine .issue h fun c hc => .charged ?_
  have hlong : (c.long ((c.base false).updGroup c.g.gid (fun g => { g with flushed := true })) false false [] .flushPoint []).MemWf := .long hc
  split
  · next heq =>
    rw [heq] at hlong
    exact .done <| State.wf_serve <| State.wf_checkFlush hlong _
  · exact hlong

theorem wf_execArstat {d : BitVec 7} : OutcomeWf (execArstat d s) := .issue h fun _ hc => .uses (.long hc)

theorem wf_execBoinit {a : BitVec 7} : OutcomeWf (execBoinit a s) :=
  .issue h fun _ hc => .uses <| .object fun _ => .reach <| .long <| State.wf_serve <| Memory.wf_boInit _ _ hc

/-- A form on a barrier object, where what it makes of memory keeps the form. -/
theorem OutcomeWf.boForm {a b : BitVec 7} {signed release : Bool} {f : Memory → Nat → Word → Memory}
    (hf : ∀ m p n, m.wf = true → (f m p n).wf = true) : OutcomeWf (boForm s a b signed release f) :=
  .issue h fun _ hc => .uses <| .ite .illegalOperand <| .object fun _ => .cleanWords <| .reach <| .long <| State.wf_serve <| hf _ _ _ hc

theorem wf_execBowait {d a b : BitVec 7} : OutcomeWf (execBowait d a b s) :=
  .issue h fun _ hc => .uses <| .object fun _ => .reach <| .long (by simpa using hc)

theorem wf_execBotest {d a b : BitVec 7} : OutcomeWf (execBotest d a b s) :=
  .issue h fun _ hc => .uses <| .object fun _ => .cleanWords <| .reach <| .long (by simpa using hc)

theorem wf_execWpread {d a : BitVec 7} : OutcomeWf (execWpread d a s) :=
  .issue h fun _ hc => .uses <| .writePointer fun _ _ => .cleanWords <| .ready <| .pointerConflict <| .long (by simpa using hc)

theorem wf_execWpwait {d a b : BitVec 7} : OutcomeWf (execWpwait d a b s) :=
  .issue h fun _ hc => .uses <| .writePointer fun _ _ => .ready <| .long (by simpa using hc)

theorem wf_execTkinit {a : BitVec 7} : OutcomeWf (execTkinit a s) :=
  .issue h fun _ hc => .uses <| .object fun _ => .reach <| .long <| State.wf_serve <| by
    simpa using Memory.wf_putWord _ _ _ (Memory.wf_putWord _ _ _ hc)

theorem wf_execTkget {d a b : BitVec 7} : OutcomeWf (execTkget d a b s) := by
  refine .issue h fun c hc => .uses <| .object fun p => .cleanWords <| .reach <| .ite .stall <| .long ?_
  have hput := Memory.wf_putWord c.s.mem p (c.s.mem.word p + 1) hc
  split <;> split <;> simpa using hput

theorem wf_execTkwait {d a b : BitVec 7} : OutcomeWf (execTkwait d a b s) :=
  .issue h fun _ hc => .uses <| .object fun _ => .reach <| .long hc

theorem wf_execTknext {d a : BitVec 7} : OutcomeWf (execTknext d a s) :=
  .issue h fun c hc => .uses <| .object fun _ => .cleanWords <| .reach <| .ite (.long hc) <| .long <| State.wf_serve <| by
    simpa using Memory.wf_putWord _ _ _ hc

theorem wf_execDqinit {a b : BitVec 7} : OutcomeWf (execDqinit a b s) :=
  .issue h fun _ hc => .deque <| .uses <| .ite .illegalOperand <| .object fun _ => .dequeRange fun _ => .reach <| .long <| State.wf_serve <|
    Memory.wf_store _ _ _ <| Memory.wf_putWord _ _ _ <| Memory.wf_putWord _ _ _ <| Memory.wf_putWord _ _ _ <| Memory.wf_putWord _ _ _ hc

/-- A form on a deque, where its effect keeps the form of memory. -/
theorem OutcomeWf.dqForm {us : List Use} {a : BitVec 7} {owner : Bool} {f : Ctx → Memory → Nat → (Word → Nat) → DequeEffect}
    (hf : ∀ c m p e, m.wf = true → (f c m p e).mem.wf = true) : OutcomeWf (dqForm s us a owner f) :=
  .issue h fun _ hc => .deque <| .uses <| .object fun _ => .cleanWords <| .dequeRange fun _ => .ite .illegalOperand <| .cleanWords <| .reach <|
    .long <| State.wf_serve <| hf _ _ _ _ hc

theorem wf_execDqpush {d a b : BitVec 7} : OutcomeWf (execDqpush d a b s) :=
  .dqForm h fun c m p e hm => by
    dsimp only
    split
    · exact hm
    · split
      · exact hm
      · exact Memory.wf_putWord _ _ _ (Memory.wf_putDword _ _ _ hm)

theorem wf_execDqpop {d a : BitVec 7} : OutcomeWf (execDqpop d a s) :=
  .dqForm h fun c m p e hm => by
    dsimp only
    split
    · exact hm
    · exact Memory.wf_putWord _ _ _ hm

theorem wf_execDqsteal {d a : BitVec 7} : OutcomeWf (execDqsteal d a s) :=
  .dqForm h fun c m p e hm => by
    dsimp only
    split
    · exact hm
    · exact Memory.wf_putWord _ _ _ hm

/-! ### Tiles -/

theorem wf_execTconf {n a : BitVec 7} : OutcomeWf (execTconf n a s) := .issue h fun _ hc => .uses <| .tileUse <| .ite .stall (.long hc)
theorem wf_execTcread {d n : BitVec 7} : OutcomeWf (execTcread d n s) := .issue h fun _ hc => .uses <| .tileUse (.long hc)
theorem wf_execTzero {n : BitVec 7} : OutcomeWf (execTzero n s) := .issue h fun _ hc => .tileUse (.long hc)

theorem OutcomeWf.tmem {form : Nat} {t : BitVec 4} {p k : BitVec 7} : OutcomeWf (tmem s form t p k) := by
  refine .issue h fun c hc => .uses <| .usrc hc fun popped stride hp => .tileUse <| .ite (.trap _) ?_
  extract_lets rs ranges as clash n moved words s' m written loaded put mixed bad before
  split
  · exact .trap _
  · refine .ready ?_
    have hs : s'.mem.wf = true := by simpa [s'] using hp
    have hw : written.mem.wf = true := State.wf_serve (by simpa using Memory.wf_storeRows _ _ _ _ hs)
    clear_value clash bad
    split
    · split
      · exact .long hw
      · exact .trapPart (Memory.wf_mixWords _ _ _ _ hw)
    · split
      · exact .trapPart (by simpa using hc)
      · exact .long (by simpa using hs)
      · exact .trapPart (by simpa using hs)

theorem wf_execTrd {d : BitVec 7} {t : BitVec 4} {col n : BitVec 5} : OutcomeWf (execTrd d t col n s) :=
  .issue h fun _ hc => .uses <| .tileUse (.long hc)

theorem wf_execTwr {d : BitVec 7} {t : BitVec 4} {col n : BitVec 5} : OutcomeWf (execTwr d t col n s) :=
  .issue h fun _ hc => .uses <| .tileUse (.long hc)

theorem OutcomeWf.matrix {form : Nat} {d a b : BitVec 4} {sl : BitVec 3} {u : BitVec 6} : OutcomeWf (matrix s form d a b sl u) :=
  .issue h fun _ hc => .converged <| .tileUse (.long hc)

theorem OutcomeWf.rowReduce {d a : BitVec 4} {u : BitVec 6} {f : List Word → Option Word → Word} : OutcomeWf (rowReduce s d a u f) :=
  .issue h fun _ hc => .tileUse (.long hc)

theorem OutcomeWf.rowMap {d a b : BitVec 4} {u : BitVec 6} {f : Nat → Word → Word → Word} : OutcomeWf (rowMap s d a b u f) :=
  .issue h fun _ hc => .tileUse (.long hc)

theorem wf_execTmov {d a b : BitVec 4} {sl : BitVec 3} {u : BitVec 6} : OutcomeWf (execTmov d a b sl u s) :=
  .issue h fun _ hc => .tileUse (.long hc)

theorem wf_execTcvt {d a b : BitVec 4} {sl : BitVec 3} {u : BitVec 6} : OutcomeWf (execTcvt d a b sl u s) :=
  .issue h fun _ hc => .ite (.tileUse (.long hc)) (.tileUse (.long hc))

/-! ### Engine commands -/

theorem wf_execCpy {d a : BitVec 7} {w ch : BitVec 1} : OutcomeWf (execCpy d a w ch s) :=
  .issue h fun _ hc => .uses <| .ite .illegalOperand <| .objectA fun _ => .copyPointer fun _ => .copySpans fun _ _ _ _ => .command hc

theorem wf_execCpyc {d a : BitVec 7} {w ch : BitVec 1} : OutcomeWf (execCpyc d a w ch s) :=
  .issue h fun _ hc => .uses <| .ite .illegalOperand <| .objectA fun _ => .copyPointer fun _ => .copySpans fun _ _ _ _ => .command hc

theorem wf_execCpym {d a : BitVec 7} {r ch : BitVec 1} : OutcomeWf (execCpym d a r ch s) := by
  refine .issue h fun c hc => .uses <| .ite .illegalOperand <| .objectA fun _ => .localSpan fun _ => ?_
  split
  · exact .trap _
  · exact .ite (.targetObjects fun _ => .command hc) (.command hc)

theorem OutcomeWf.gather {scatter : Bool} {d a : BitVec 7} : OutcomeWf (gather s scatter d a) :=
  .issue h fun _ hc => .uses <| .ite .illegalOperand <| .objectA fun _ => .localSpan fun _ => .localSpan fun _ => .command hc

theorem wf_execMmab {d a b : BitVec 4} {sl : BitVec 3} {u : BitVec 6} : OutcomeWf (execMmab d a b sl u s) :=
  .issue h fun _ hc => .converged <| .tileUse <| .ite (.trap _) <| .ite (.trap _) <| .streamSpan fun _ _ => .named fun _ => .command hc

theorem wf_execChain {d a : BitVec 7} : OutcomeWf (execChain d a s) := by
  refine .issue h fun c hc => .uses <| .ite .illegalOperand <| .objectA fun _ => .localSpan fun _ => ?_
  dsimp only
  split
  · exact .command hc
  · exact .command hc
  · exact .stall
  · exact .chainEntries fun _ => .command hc

theorem OutcomeWf.collective {variant : Nat} {d a : BitVec 7} : OutcomeWf (collective s variant d a) :=
  .issue h fun _ hc => .uses <| .ite .illegalOperand <| .objectA fun _ => .localSpan fun _ => .localSpan fun _ => .command hc

/-! ### Survey and tolerance -/

theorem wf_execSvpart {d : BitVec 7} : OutcomeWf (execSvpart d s) := by
  refine .issue h fun c hc => .uses <| .checkAccess fun _ => ?_
  dsimp only
  split
  · exact .trap _
  · exact .ite (.command hc) (.command hc)

theorem wf_execSvsweep {d : BitVec 7} : OutcomeWf (execSvsweep d s) :=
  .issue h fun _ hc => .uses <| .ite .illegalOperand <| .ite (.long hc) (.long (by simpa using hc))

theorem wf_execSvsub {d a : BitVec 7} : OutcomeWf (execSvsub d a s) := by
  refine .issue h fun c hc => .uses ?_
  dsimp only
  split
  · exact .illegalOperand
  · refine .ite .illegalOperand <| .objectA fun _ => ?_
    split
    · exact .trap _
    · refine .ite (.trap _) ?_
      split
      · exact .long hc
      · exact .long hc

/-- A form on a sweep's handle, where what it makes of the state keeps the form. -/
theorem OutcomeWf.handleForm {d : BitVec 7} {n : Nat} {f : Ctx → Nat → Option (SweepPlace × Sweep) → State → State × List Word}
    (hf : ∀ c u sw t, t.mem.wf = true → (f c u sw t).1.mem.wf = true) : OutcomeWf (handleForm s d n f) :=
  .issue h fun _ hc => .uses <| .ite .illegalOperand <| .long <| hf _ _ _ _ hc

theorem wf_execSvclose {d : BitVec 7} : OutcomeWf (execSvclose d s) :=
  .handleForm h fun c u sw t ht => by
    split
    · split
      · exact ht
      · simpa using ht
    · exact ht

theorem wf_execSvcancel {d : BitVec 7} : OutcomeWf (execSvcancel d s) :=
  .handleForm h fun c u sw t ht => by
    split
    · exact ht
    · exact State.wf_cancelSweep ht _ _ _ _ _
    · exact ht

theorem wf_execSvstat {d : BitVec 7} : OutcomeWf (execSvstat d s) := .handleForm h fun _ _ _ _ ht => ht
theorem wf_execSvstatDesc {d : BitVec 7} : OutcomeWf (execSvstatDesc d s) := .handleForm h fun _ _ _ _ ht => ht

theorem wf_execTolnode {k a b : BitVec 7} : OutcomeWf (execTolnode k a b s) := .issue h fun _ hc => .uses <| .usrc hc fun _ _ hx => .tol hx

theorem wf_execDemand {a b : BitVec 7} : OutcomeWf (execDemand a b s) :=
  .issue h fun _ hc => .uses <| .usrc hc fun _ _ hx => .usrc hx fun _ _ hy => .tol hy

theorem wf_execTolget {d a : BitVec 7} : OutcomeWf (execTolget d a s) := .issue h fun _ hc => .uses <| .usrc hc fun _ _ hx => .tol hx

theorem wf_execFmtsel {d a b : BitVec 7} : OutcomeWf (execFmtsel d a b s) :=
  .issue h fun _ hc => .uses <| .usrc hc fun _ _ hx => .usrc hx fun _ _ hy => .tol hy

theorem wf_execItersel {d a b : BitVec 7} : OutcomeWf (execItersel d a b s) :=
  .issue h fun _ hc => .uses <| .usrc hc fun _ _ hx => .usrc hx fun _ _ hy => .tol hy

theorem wf_execTolchk {d : BitVec 7} : OutcomeWf (execTolchk d s) := .issue h fun _ hc => .uses (.tol hc)
theorem wf_execTolclr {a : BitVec 7} : OutcomeWf (execTolclr a s) := .issue h fun _ hc => .uses (.tol hc)
theorem wf_execTolclrAll : OutcomeWf (execTolclrAll s) := .issue h fun _ hc => .tol hc

/-! ### Launches and context forms -/

theorem wf_execLaunch {d : BitVec 7} : OutcomeWf (execLaunch d s) :=
  .issue h fun _ hc => .form fun _ _ => .block fun _ => .launching hc fun _ hl => .launched hl fun _ _ _ ht => .answered ht

theorem wf_execLaunchq {d : BitVec 7} : OutcomeWf (execLaunchq d s) :=
  .issue h fun _ hc => .form fun _ _ => .block fun _ => .block fun _ => .ite (.answered hc) <| .launching hc fun _ hl => .launched hl
    fun _ _ _ ht => .answered ht

theorem wf_execCtxnew {d : BitVec 7} : OutcomeWf (execCtxnew d s) :=
  .issue h fun _ hc => .form fun _ _ => .block fun _ => .ite (.ite (.answered hc) (.answered (State.wf_newChild (Ctx.wf_base hc) _ _))) <|
    .block fun _ => .ite (.answered hc) <| .launching hc fun _ hl => .launched (State.wf_newChild hl _ _) fun _ _ _ ht => .answered ht

theorem OutcomeWf.ctxForm {n len : Nat} {d : BitVec 7} : OutcomeWf (ctxForm s n len d) :=
  .issue h fun _ hc => .form fun _ _ => .ite .stall (.childForm hc)

theorem wf_execCtxgrant {d : BitVec 7} {g : BitVec 5} : OutcomeWf (execCtxgrant d g s) :=
  .issue h fun _ hc => .form fun _ _ => .ite .illegalOperand <| .grantFields fun _ => .childForm hc

theorem wf_execCtxckpt {d : BitVec 7} {t : BitVec 1} : OutcomeWf (execCtxckpt d t s) :=
  .issue h fun _ hc => .form fun _ _ => .ite .illegalOperand <| .ite .stall (.childForm hc)

theorem wf_execCtxrest {d : BitVec 7} : OutcomeWf (execCtxrest d s) :=
  .issue h fun _ hc => .form fun _ _ => .block fun _ => .block fun _ => .ite .stall (.childForm hc)

theorem wf_execCtxrevk {d : BitVec 7} : OutcomeWf (execCtxrevk d s) :=
  .issue h fun _ hc => .form fun _ _ => .childForm <| by split <;> exact hc

theorem wf_execMapg {d : BitVec 7} : OutcomeWf (execMapg d s) := by
  refine .issue h fun c hc => .form fun _ _ => .ite .illegalOperand <| .ite .stall ?_
  split
  · exact .answered hc
  · next y _ => exact .answered <| State.wf_serve <| by simpa using State.wf_mapPages (s := c.base false) hc y _

theorem wf_execUnmapg {d : BitVec 7} : OutcomeWf (execUnmapg d s) := by
  refine .issue h fun c hc => .form fun _ _ => .ite .stall ?_
  split
  · exact .answered hc
  · next y _ =>
    have hu (size va count : Nat) := State.wf_unmapPages (s := c.base false) hc y size va count
    exact .ite (.answered (hu _ _ _)) (.untilPinv (by simpa using hu _ _ _))

theorem wf_execPinv {d : BitVec 7} : OutcomeWf (execPinv d s) := by
  refine .issue h fun c hc => .form fun _ _ => .ite .illegalOperand ?_
  split
  · exact .answered hc
  · exact .untilPinv hc

theorem wf_execPgreq {d : BitVec 7} {w : BitVec 1} : OutcomeWf (execPgreq d w s) :=
  .issue h fun _ hc => .form fun _ _ => .ite .stall <| .long (by simpa using hc)

/-! ### The handler's queue -/

theorem OutcomeWf.hqForm {d : BitVec 7} {us : List Use} {k : Ctx → Inset → Verdict} (hk : ∀ c x, c.s.mem.wf = true → (k c x).MemWf) :
    OutcomeWf (hqForm s d us k) :=
  .issue h fun _ hc => .sysForm fun _ => .uses (hk _ _ hc)

theorem wf_execHqarm {d : BitVec 7} : OutcomeWf (execHqarm d s) := .hqForm h fun _ _ hc => .ite (.hqAnswer hc) (.hqAnswer hc)
theorem wf_execHqdisarm {d : BitVec 7} : OutcomeWf (execHqdisarm d s) := .hqForm h fun _ _ hc => .ite (.hqAnswer hc) (.hqAnswer hc)

theorem wf_execHqack {d a b : BitVec 7} : OutcomeWf (execHqack d a b s) := by
  refine .hqForm h fun c x hc => .usrc hc fun _ _ hseq => .usrc hseq fun _ w hw => .ite .illegalOperand <| .charged <| .ite .stall ?_
  split
  · exact .hqAnswer hw
  · next o _ =>
    have ha (action reply : Nat) := State.wf_acknowledge (s := State.release _ c.g.gid 3 []) (by simpa using hw) o.record action reply
    exact .ite (.hqAnswer hw) (.hqAnswer (by simpa using ha _ _))

end

end Sys2Proof.Machine
end

section
/-! The machine's own steps for groups, engines, Survey, queues, teams and the torus keep the canonical form of memory. -/
namespace Sys2Proof.Machine

/-- A save that begins, or what stands in its place. -/
theorem State.wf_beginSave_getD {s d : State} {x : Inset} {t : Team} {bound : Option Nat} {reason : Nat} (h : s.mem.wf = true) (hd : d.mem.wf = true) :
    ((s.beginSave x t bound reason).getD d).mem.wf = true := by
  cases hb : s.beginSave x t bound reason with
  | none => exact hd
  | some u => exact (congrArg Memory.wf (State.beginSave_mem hb)).trans h

section
variable {s : State} (h : s.mem.wf = true)
include h

/-! ### Groups and waits -/

theorem wf_execClauseStart {gid : Nat} : OutcomeWf (execClauseStart gid s) := by
  unfold execClauseStart
  split
  · exact .next h
  · refine .ite (.next h) ?_
    dsimp only
    split
    · exact .next h
    · split
      · exact .next (by simpa using h)
      · exact .next h
      · split
        · exact .next (by simpa using h)
        · exact .next (by simpa using h)

theorem wf_execRejoinDeadlock {gid : Nat} : OutcomeWf (execRejoinDeadlock gid s) := by
  unfold execRejoinDeadlock
  split
  · exact .next h
  · exact .ite (.next (by simpa using h)) (.next h)

theorem wf_execNeighbourParityError {gid : Nat} {dir : BitVec 2} : OutcomeWf (execNeighbourParityError gid dir s) := by
  have hlog (e : SoftError) : (s.logError e).mem.wf = true := State.wf_logError h e
  unfold execNeighbourParityError
  split
  · exact .next h
  · dsimp only
    split
    · exact .next (hlog _)
    · refine .ite (.next (hlog _)) <| .ite (.next ?_) (.next ?_)
      · rw [State.post_mem, State.updGroup_mem]
        exact hlog _
      · rw [State.stopGroup_mem, State.post_mem, State.updGroup_mem]
        exact hlog _

theorem wf_execTaggedAccessArrival {op : Nat} : OutcomeWf (execTaggedAccessArrival op s) := by
  unfold execTaggedAccessArrival
  split
  · exact .next h
  · split
    · exact .next h
    · refine .ite (.next h) ?_
      split
      · exact .next (by simpa using h)
      · exact .next (State.wf_arrive h _ _)

theorem wf_execFlushMarkerGathered {op pkg : Nat} : OutcomeWf (execFlushMarkerGathered op pkg s) := by
  unfold execFlushMarkerGathered
  split
  · exact .next h
  · exact .next (State.wf_allGathered (by exact h) op)

theorem wf_execQsvNoticePush {notice : Nat} : OutcomeWf (execQsvNoticePush notice s) := by
  unfold execQsvNoticePush
  split
  · exact .next h
  · exact .ite (.next h) (.next (by split <;> simpa using h))

theorem wf_execLongOpComplete {op : Nat} : OutcomeWf (execLongOpComplete op s) := by
  have hs := State.wf_stepForm h op
  unfold execLongOpComplete
  dsimp only
  split
  · exact .next hs
  · next o _ =>
    split
    · next load order scope dst l rest _ =>
      cases ht : (s.stepForm op).widePart o load order scope dst l rest with
      | none => exact .next hs
      | some t => exact .next (State.wf_widePart hs ht)
    · split
      · next ht => exact .next (by simpa [State.landed_mem ht] using hs)
      · exact .next hs

theorem wf_execStorePerformed {word : Nat} : OutcomeWf (execStorePerformed word s) := .next h

/-! ### Engines -/

theorem wf_execEngineCommandAccept {cmd : Nat} : OutcomeWf (execEngineCommandAccept cmd s) := by
  unfold execEngineCommandAccept
  split
  · exact .next h
  · refine .ite (.next h) ?_
    extract_lets coll c' s₁ s₂ wait s₃ s₄
    have h₁ : s₁.mem.wf = true := by unfold s₁; split <;> exact h
    have h₃ : s₃.mem.wf = true := h₁
    exact .ite (.next (State.wf_completeCommand (State.foldl_wf _ (fun _ _ hs => State.wf_arriveObject hs _ _) _ _ h₃) _)) (.next h₃)

theorem wf_execEngineCommandStart {cmd : Nat} : OutcomeWf (execEngineCommandStart cmd s) := by
  unfold execEngineCommandStart
  split
  · exact .next h
  · exact .ite (.next h) (.next h)

theorem wf_execEngineAccess {cmd : Nat} : OutcomeWf (execEngineAccess cmd s) := by
  unfold execEngineAccess
  split
  · exact .next h
  · refine .ite (.next h) ?_
    split
    · next ht => exact .next (State.wf_serve (State.stepWf_engineStep h _ _ ht))
    · exact .ite (.next h) (.next (State.wf_failCommand h _ _))

theorem wf_execChainEntryStart {cmd : Nat} : OutcomeWf (execChainEntryStart cmd s) := by
  unfold execChainEntryStart
  split
  · exact .next h
  · split
    · exact .next h
    · refine .ite (.next h) ?_
      split
      · exact .next h
      · refine .ite (.next h) ?_
        split
        · exact .ite (.next h) (.next (State.wf_failCommand h _ _))
        · exact .ite (.next h) (.next (State.wf_failCommand h _ _))
        · exact .next (State.wf_serve h)

theorem wf_execCollectiveMatch {cmd : Nat} : OutcomeWf (execCollectiveMatch cmd s) := by
  have hcancel (cs : List Command) : (cs.foldl (fun s d => s.endCommand d 7 false) s).mem.wf = true :=
    State.foldl_wf _ (fun _ _ hs => State.wf_endCommand hs _ _ _) _ _ h
  unfold execCollectiveMatch
  split
  · exact .next h
  · refine .ite (.next h) <| .ite (.next (hcancel _)) <| .ite (.next h) <| .ite (.ite (.next h) (.next (by simpa using hcancel _))) <|
      .ite (.next h) ?_
    dsimp only
    split
    · exact .ite (.next h) (.next (State.wf_failCommand (hcancel _) _ _))
    · exact .next <| State.foldl_wf _ (fun s i hs => by split <;> exact hs) _ _ h

theorem wf_execEngineCommandComplete {cmd : Nat} : OutcomeWf (execEngineCommandComplete cmd s) := by
  unfold execEngineCommandComplete
  split
  · exact .next h
  · refine .ite (.next h) <| .ite (.ite (.next h) (.next (by simpa using h))) <| .ite (.next ?_) (.next (State.wf_completeCommand h _))
    next c _ =>
    cases ht : s.sendMarkers cmd c.packages with
    | none => exact h
    | some t => exact (congrArg Memory.wf (State.sendMarkers_mem ht)).trans h

/-! ### Survey and the tolerance unit -/

theorem wf_execSweepStart {unit : BitVec 3} : OutcomeWf (execSweepStart unit s) := by
  unfold execSweepStart
  dsimp only
  split
  · exact .next (by simpa using h)
  · exact .next h

theorem wf_execPageCommit {unit : BitVec 3} : OutcomeWf (execPageCommit unit s) := by
  unfold execPageCommit
  dsimp only
  split
  · exact .next h
  · split
    · exact .next (State.wf_passPage h _ _)
    · exact .next (State.wf_checkQueries (by simpa using h) _ _)
    · exact .next h

theorem wf_execHoleCommit {unit : BitVec 3} : OutcomeWf (execHoleCommit unit s) := by
  unfold execHoleCommit
  dsimp only
  split
  · exact .next h
  · split
    · refine .next (State.wf_checkQueries (State.foldl_wf _ (fun _ _ hs => State.wf_mergeAll hs _ _ _) _ _ ?_) _ _)
      exact State.foldl_wf _ (fun _ _ hs => by simpa using hs) _ _ (by simpa using h)
    · exact .next h

theorem wf_execPageArrival {unit : BitVec 3} {core : BitVec 8} : OutcomeWf (execPageArrival unit core s) := by
  unfold execPageArrival
  extract_lets u v
  split
  · exact .next h
  · next t _ =>
    extract_lets s₁ here
    have h₁ : s₁.mem.wf = true := Memory.wf_store _ _ _ h
    clear_value s₁ here
    split
    · exact .next (State.wf_serve h₁)
    · exact .next (State.wf_serve (State.foldl_wf _ (fun s tid hs => by dsimp only; split <;> simpa using hs) _ _ h₁))

theorem wf_execPageFetchFault {unit : BitVec 3} : OutcomeWf (execPageFetchFault unit s) := by
  unfold execPageFetchFault
  dsimp only
  split
  · exact .next h
  · split
    · refine .ite (.next h) (.next (State.wf_serve ?_))
      rw [State.checkClose_mem]
      refine State.wf_checkQueries ?_ _ _
      split
      · rw [State.post_mem]
        exact State.foldl_wf _ (fun s i hs => by split <;> simp [hs]) _ _ (by simpa using h)
      · exact State.foldl_wf _ (fun s i hs => by split <;> simp [hs]) _ _ (by simpa using h)
    · exact .next h

theorem wf_execPartialMerge {unit : BitVec 3} {sub : Nat} : OutcomeWf (execPartialMerge unit sub s) := by
  have hs : (s.maskFreed unit.toNat sub).mem.wf = true := by simpa using h
  unfold execPartialMerge
  dsimp only
  split
  · exact .next (State.wf_checkQuery hs _ _)
  · next ht => exact .next (State.wf_mergeNext hs ht)

theorem wf_execTolUnitTake {team : Nat} : OutcomeWf (execTolUnitTake team s) := by
  unfold execTolUnitTake
  split
  · exact .next h
  · split
    · dsimp only
      split
      · exact .next h
      · exact .ite (.next h) (.next (by simpa using h))
    · exact .next h

/-! ### Placement and queues -/

theorem wf_execClusterPlacement : OutcomeWf (execClusterPlacement s) := by
  unfold execClusterPlacement
  dsimp only
  split
  · next t ht =>
    obtain ⟨d, -, hd⟩ := List.exists_of_findSome?_eq_some ht
    obtain ⟨u, hu, rfl⟩ := Option.map_eq_some_iff.mp hd
    exact .next (State.wf_notePlaced (by rw [State.placeNext_mem hu, h]) _)
  · exact .next h

theorem wf_execGridComplete {handle : Nat} : OutcomeWf (execGridComplete handle s) := by
  unfold execGridComplete
  split
  · exact .next h
  · exact .ite (.next (State.wf_serve (by simpa using State.wf_completionNotice (State.wf_flipObject h _) _))) (.next h)

theorem wf_execDoorbellKick {index : Nat} {value : BitVec 32} : OutcomeWf (execDoorbellKick index value s) := by
  have hwake : s.noteWake.mem.wf = true := by simpa using h
  unfold execDoorbellKick
  refine .ite (.next h) ?_
  split
  · exact .next h
  · split
    · exact .next h
    · dsimp only
      split
      · exact .ite (.ite (.next hwake) (.next (State.wf_overrun hwake _ _ _))) (.next hwake)
      · split
        · exact .ite (.ite (.next hwake) (.next (State.wf_overrun hwake _ _ _))) (.next (State.wf_takeKick hwake _ _ _))
        · exact .next (State.wf_takeKick hwake _ _ _)

theorem wf_execDoorbellIgnoredWrite {index offset width : Nat} : OutcomeWf (execDoorbellIgnoredWrite index offset width s) :=
  .ite (.next h) (.next h)

theorem wf_execQueueRecordStart {slot : Nat} : OutcomeWf (execQueueRecordStart slot s) := by
  unfold execQueueRecordStart
  split
  · exact .next h
  · split
    · exact .next h
    · refine .ite (.next h) ?_
      dsimp only
      split
      · exact .next h
      · exact .next (State.wf_advanceRead (by simpa using h) _ _)
      · refine .ite (.next h) ?_
        split
        · exact .next h
        · next ht => exact .next (State.wf_launch h ht)
        · next ht =>
          have hlaunch := State.wf_launch h ht
          refine .next (State.wf_advanceRead ?_ _ _)
          split
          · exact State.wf_completionEntry hlaunch _ _ _ _
          · exact hlaunch

theorem wf_execQueueMap {die : Nat} : OutcomeWf (execQueueMap die s) := by
  have hs : (s.insets.foldl (fun s x => s.unmapExcess x.id s.slots.length) s).mem.wf = true :=
    State.foldl_wf _ (fun _ _ hs => State.wf_unmapExcess hs _ _) _ _ h
  unfold execQueueMap
  dsimp only
  split
  · exact .next hs
  · refine .ite (.next hs) ?_
    split
    · exact .next (State.wf_mapQueue hs _ _)
    · split
      · exact .ite (.next (State.wf_mapQueue (State.wf_unmapSlot hs _) _ _)) (.next hs)
      · exact .next hs

theorem wf_execQueueAgeingTick : OutcomeWf (execQueueAgeingTick s) :=
  .next <| State.foldl_wf _ (fun s q hs => by
    split
    · exact State.wf_writeState hs _ _ _ _
    · exact hs) _ _ h

/-! ### Teams -/

theorem wf_execDrainLatencyExpiry {team : Nat} : OutcomeWf (execDrainLatencyExpiry team s) := by
  unfold execDrainLatencyExpiry
  split
  · exact .next h
  · split
    · exact .next (State.wf_beginSave_getD (by exact h) (by exact h))
    · exact .next (State.wf_beginSave_getD h h)
    · exact .next h

theorem wf_execRequestBoundPassed {team : Nat} : OutcomeWf (execRequestBoundPassed team s) := by
  unfold execRequestBoundPassed
  split
  · exact .next h
  · split
    · exact .ite (.next h) (.next (by simpa using h))
    · exact .ite (.next h) (.next (by simpa using h))
    · exact .next h

theorem wf_execTeamSave {team : Nat} : OutcomeWf (execTeamSave team s) := by
  unfold execTeamSave
  split
  · exact .next h
  · split
    · exact .next h
    · refine .ite (.next h) ?_
      split
      · exact .ite (.next h) (.next (State.wf_saveTeam h _ _))
      · exact .next (by simpa using h)
      · exact .next h

theorem wf_execTeamRestore {team : Nat} : OutcomeWf (execTeamRestore team s) := by
  unfold execTeamRestore
  split
  · exact .next h
  · split
    · refine .ite (.next h) ?_
      split
      · exact .next h
      · exact .next (by simpa using h)
      · exact .next (by simpa using h)
      · split
        · exact .next h
        · next u hu =>
          have hseated := State.wf_seatClusters h hu
          refine .next (State.wf_serve (State.foldl_wf _ (fun _ _ hs => by simpa using hs) _ _ ?_))
          exact State.foldl_wf _ (fun _ _ hs => State.wf_checkFlush (by simpa using hs) _) _ _ hseated
    · exact .next h

/-! ### Records and the torus -/

theorem wf_execRecordDelivery : OutcomeWf (execRecordDelivery s) := by
  unfold execRecordDelivery
  split
  · exact .next h
  · split
    · exact .next (by simpa using h)
    · exact .next (by simpa using h)
    · exact .next h

theorem wf_execHostEventRingWrite : OutcomeWf (execHostEventRingWrite s) := by
  unfold execHostEventRingWrite
  split
  · exact .next h
  · exact .ite (.next h) (.next (State.wf_hostWrite h _ _))

theorem wf_execTorusPacketSend {core : BitVec 8} {inset bytes : Nat} : OutcomeWf (execTorusPacketSend core inset bytes s) :=
  .ite (.next h) <| .ite (.next h) (.next h)

theorem wf_execRefillBoundary : OutcomeWf (execRefillBoundary s) :=
  .ite (.next h) <| .next <| by simpa using h

end

end Sys2Proof.Machine
end

section
/-! The device's registers, mailbox commands, memory window, links, reset, gangs, power and soft errors keep the canonical form of memory. -/
namespace Sys2Proof.Machine

theorem State.setMarkers_mem (s : State) (ms : List (Nat × Nat × Nat)) : ({ s with markers := ms } : State).mem = s.mem := rfl

section
variable {s : State} (h : s.mem.wf = true)
include h

/-! ### Registers -/

theorem wf_execEvreadWrite {value : BitVec 32} : OutcomeWf (execEvreadWrite value s) := .ite (.next (by simpa using h)) (.next h)

theorem wf_execEventRingConfigWrite {log : Bool} {value : BitVec 64} : OutcomeWf (execEventRingConfigWrite log value s) :=
  .ite (.next (by simpa using h)) (.next h)

theorem wf_execControlRegisterWrite {offset : Nat} {value : BitVec 64} : OutcomeWf (execControlRegisterWrite offset value s) :=
  .ite (.next h) <|
  .ite (.next (by split <;> simpa using h)) <|
  .ite (.next (by split <;> simpa using h)) <|
  .ite (.next (by simpa using h)) <|
  .ite (.next (by simpa using h)) <|
  .ite (.next (by simpa using h)) <|
  .ite (.next (by simpa using h)) <|
  .ite (.next (by simpa using h)) <|
  .ite (.next (by simpa using h)) (.next h)

theorem wf_execMailboxOverrun : OutcomeWf (execMailboxOverrun s) := .next (by split <;> simpa using h)

theorem wf_execMailboxComplete : OutcomeWf (execMailboxComplete s) := by
  unfold execMailboxComplete
  split
  · exact .next h
  · exact .next (by simpa using h)

/-! ### The mailbox -/

/-- A command that keeps the form as it begins and as it goes on. -/
theorem OutcomeWf.mailbox {code : Nat} {early : Bool} {begin_ goOn : State → State} (hbegin : (begin_ s).mem.wf = true)
    (hgoOn : (goOn s).mem.wf = true) : OutcomeWf (mailbox s code early begin_ goOn) :=
  .ite (.next h) <| .ite (.next h) <| .ite (.next hgoOn) (.next hbegin)

theorem State.wf_hostBlock {addr align n : Nat} {k : List Byte → State} (hk : ∀ bs, (k bs).mem.wf = true) :
    (s.hostBlock addr align n k).mem.wf = true :=
  State.wf_ite h <| State.wf_ite h (hk _)

theorem State.wf_levelOne {id : Nat} {k : Inset → State} (hk : ∀ x, (k x).mem.wf = true) : (s.levelOne id k).mem.wf = true := by
  unfold State.levelOne
  split
  · exact hk _
  · exact h

theorem State.wf_endPinv : s.endPinv.mem.wf = true := by
  unfold State.endPinv
  split
  · exact State.wf_levelOne h fun _ => State.wf_ite h h
  · exact h

theorem State.wf_clearDoorbell : s.clearDoorbell.mem.wf = true := by
  unfold State.clearDoorbell
  split
  · exact h
  · exact State.wf_ite h h

theorem wf_execMailboxUnknownCommand : OutcomeWf (execMailboxUnknownCommand s) := by
  unfold execMailboxUnknownCommand
  split
  · exact .next h
  · exact .ite (.next h) (.mailbox h h h)

theorem wf_execInsetnew : OutcomeWf (execInsetnew s) :=
  .mailbox h (State.wf_hostBlock h fun _ => State.wf_ite h (by simpa using h)) h

theorem wf_execInsetgrant : OutcomeWf (execInsetgrant s) :=
  .mailbox h
    (State.wf_levelOne h fun _ => State.wf_ite h <| State.wf_hostBlock h fun _ => State.wf_ite h <|
      State.wf_ite (State.wf_applyGrants h _ _ _ _) (State.wf_applyGrants h _ _ _ _))
    (State.wf_ite h h)

theorem wf_execFreeze : OutcomeWf (execFreeze s) :=
  .mailbox h (State.wf_levelOne h fun _ => by simpa using h) (State.wf_levelOne h fun _ => State.wf_ite h h)

theorem wf_execThaw : OutcomeWf (execThaw s) := by
  refine .mailbox h (State.wf_levelOne h fun x => State.wf_ite h <| State.wf_ite h ?_) h
  split
  · exact h
  · next ht => simpa using State.wf_launchHeld (by simpa using h) ht

theorem wf_execCkpt : OutcomeWf (execCkpt s) :=
  .mailbox h (State.wf_levelOne h fun _ => State.wf_ite h (by simpa using h))
    (State.wf_levelOne h fun _ => State.wf_ite (State.wf_checkpoint h _ _ _ _ _) h)

theorem wf_execRest : OutcomeWf (execRest s) := by
  refine .mailbox h (State.wf_levelOne h fun x => State.wf_ite h <| State.wf_ite h ?_) h
  split
  · exact h
  · exact h
  · split
    · exact h
    · exact h
    · exact State.wf_restoreCheckpoint h _ _

theorem wf_execRevoke : OutcomeWf (execRevoke s) :=
  .mailbox h (State.wf_levelOne h fun _ => State.wf_ite h h) (State.wf_levelOne h fun _ => State.wf_ite (State.wf_revokeInset h _) h)

theorem wf_execStat : OutcomeWf (execStat s) := .mailbox h (State.wf_levelOne h fun _ => h) h

theorem wf_execMap : OutcomeWf (execMap s) := by
  refine .mailbox h (State.wf_levelOne h fun y => State.wf_ite h ?_) h
  rw [State.ends_mem]
  exact State.wf_serve (by simpa using State.wf_mapPages h y _)

theorem wf_execUnmap : OutcomeWf (execUnmap s) :=
  .mailbox h (State.wf_levelOne h fun _ => State.wf_ite (State.wf_unmapPages h _ _ _ _) (State.wf_unmapPages h _ _ _ _)) (State.wf_endPinv h)

theorem wf_execInval : OutcomeWf (execInval s) := .mailbox h (State.wf_levelOne h fun _ => State.wf_ite h h) (State.wf_endPinv h)

theorem wf_execRootmap : OutcomeWf (execRootmap s) :=
  .mailbox h (State.wf_levelOne h fun x => State.wf_ite h <| State.wf_serve <| by simpa using State.wf_grantBytes h x _) h

theorem wf_execRootunmap : OutcomeWf (execRootunmap s) := by
  refine .mailbox h (State.wf_levelOne h fun x => ?_) (State.wf_levelOne h fun x => ?_)
  · split
    · exact h
    · exact State.wf_unveilRanges h _ _
  · split
    · exact State.wf_ite h h
    · exact h

theorem wf_execDbset : OutcomeWf (execDbset s) := by
  refine .mailbox h (State.wf_ite h <| State.wf_ite h ?_) h
  split
  · exact h
  · exact h
  · exact State.wf_ite h h

theorem wf_execDbclr : OutcomeWf (execDbclr s) := .mailbox h (State.wf_clearDoorbell h) (State.wf_clearDoorbell h)

theorem wf_execRgtset : OutcomeWf (execRgtset s) :=
  .mailbox h (State.wf_ite h <| State.wf_ite h <| State.wf_hostBlock h fun _ => State.wf_ite h h) h

theorem wf_execRgtwithdraw : OutcomeWf (execRgtwithdraw s) :=
  .mailbox h (State.wf_ite h <| State.wf_ite h h) (State.wf_ite h h)

theorem wf_execGangset : OutcomeWf (execGangset s) := .mailbox h (State.wf_ite h h) h

theorem wf_execHotread : OutcomeWf (execHotread s) :=
  .mailbox h (State.wf_ite h <| State.wf_ite h <| State.wf_hostWrite h _ _) h

theorem wf_execTimeset : OutcomeWf (execTimeset s) := .mailbox h h h
theorem wf_execLoadfw : OutcomeWf (execLoadfw s) := .mailbox h (State.wf_ite h h) h

/-! ### The window, the link, reset and boot -/

theorem wf_execHostMemoryAccess {write : Bool} {offset : Nat} {bytes : List (BitVec 8)} : OutcomeWf (execHostMemoryAccess write offset bytes s) := by
  unfold execHostMemoryAccess
  refine .ite (.next h) ?_
  split
  · exact .fault _
  · exact .ite (.next (State.wf_serve (by simpa using State.foldl_wf _ (fun _ _ hs => State.wf_windowStore hs _) _ _ h))) (.next h)

theorem wf_execFlitCrcFailure : OutcomeWf (execFlitCrcFailure s) := .ite (.next h) (.next (State.wf_logError h _))

theorem wf_execLinkRetrainComplete : OutcomeWf (execLinkRetrainComplete s) := .next h

theorem wf_execDeviceReset {straps : BitVec 32} : OutcomeWf (execDeviceReset straps s) := .next (Memory.wf_scrub _ h)

theorem wf_execBootRomComplete : OutcomeWf (execBootRomComplete s) := .ite (.next h) (.next h)

theorem wf_execFirmwareVerifyComplete {ecdsa lms linkFault : Bool} : OutcomeWf (execFirmwareVerifyComplete ecdsa lms linkFault s) := by
  unfold execFirmwareVerifyComplete
  split
  · exact .ite (.next (by simpa using h)) (.next (by simpa using h))
  · exact .next h

theorem wf_execCoreRowWake {row : BitVec 4} : OutcomeWf (execCoreRowWake row s) := .ite (.next h) (.next (by simpa using h))
theorem wf_execMatrixRampStep {core : BitVec 8} : OutcomeWf (execMatrixRampStep core s) := .ite (.next h) (.next (by simpa using h))

/-! ### The fabric -/

theorem wf_execFabricPacketReceive {pkg path seq : Nat} : OutcomeWf (execFabricPacketReceive pkg path seq s) :=
  .ite (.next h) (.next (by simpa using h))

theorem wf_execPacketRetransmit {pkg seq : Nat} : OutcomeWf (execPacketRetransmit pkg seq s) := by
  refine .ite (.next h) ?_
  split
  · refine .next ?_
    rw [State.sendPacket_mem]
    exact State.wf_waitUntil h _
  · exact .next (by simpa using h)
  · exact .next (by simpa using h)
  · exact .next h

theorem wf_execPathRemoval {pkg path : Nat} : OutcomeWf (execPathRemoval pkg path s) := by
  unfold execPathRemoval
  split
  · exact .next h
  · refine .ite (.next h) ?_
    extract_lets s₁ lost
    have h₁ : s₁.mem.wf = true := (congrArg Memory.wf (State.updFabric_mem _ _)).trans (State.wf_waitUntil h _)
    exact .ite (.next h₁) (.next (State.foldl_wf _ (fun _ _ hs => State.wf_allGathered hs _) _ _
      ((congrArg Memory.wf (State.setMarkers_mem _ _)).trans h₁)))

theorem wf_execPathReturn {pkg path : Nat} : OutcomeWf (execPathReturn pkg path s) := .ite (.next h) (.next h)

theorem wf_execRemoteRequestCheck {pkg subtree addr len : Nat} {write : Bool} : OutcomeWf (execRemoteRequestCheck pkg subtree addr len write s) := by
  refine .ite (.next h) ?_
  dsimp only
  split
  · exact .next (by simpa using h)
  · refine .ite (.next (by simpa using h)) <| .ite (.next (State.wf_serve ?_)) (.next (by simpa using h))
    rw [State.learnTables_mem, State.setMem_mem]
    exact Memory.wf_store _ _ _ (by simpa using h)

theorem wf_execPtpSync {time : BitVec 64} : OutcomeWf (execPtpSync time s) := .ite (.next h) (.next h)

/-! ### Gangs -/

@[simp] theorem State.wf_holdGang (n : Nat) (b : Bool) : (s.holdGang n b).mem.wf = true := h

theorem wf_execGangTick : OutcomeWf (execGangTick s) := by
  unfold execGangTick
  split
  · exact .next h
  · refine .ite (.next h) (.next ?_)
    rw [State.setGang_mem, State.leave_mem]
    exact State.foldl_wf _ (fun _ _ hs => State.wf_holdGang hs _ _) _ _ (by simpa using h)

theorem wf_execGangReady {pkg : Nat} : OutcomeWf (execGangReady pkg s) := by
  unfold execGangReady
  split
  · exact .next h
  · split
    · exact .next h
    · exact .ite (.next h) (.next h)

theorem wf_execGangDecision : OutcomeWf (execGangDecision s) := by
  unfold execGangDecision
  split
  · exact .next h
  · split
    · exact .next h
    · exact .ite (.next h) (.next (State.wf_ite (by simpa using h) (by simpa using h)))

theorem wf_execCommit : OutcomeWf (execCommit s) := by
  unfold execCommit
  split
  · exact .next h
  · split
    · exact .next h
    · refine .ite (.next h) (.next ?_)
      rw [State.setGang_mem]
      split
      · exact h
      · exact h

theorem wf_execAbort : OutcomeWf (execAbort s) := by
  unfold execAbort
  split
  · exact .next h
  · split
    · exact .next h
    · exact .ite (.next h) (.next h)

/-! ### Power and soft errors -/

theorem wf_execFleetGenSample : OutcomeWf (execFleetGenSample s) := by
  refine .ite (.next h) ?_
  extract_lets s₁ _ s₂
  have h₂ : s₂.mem.wf = true := (congrArg Memory.wf (State.setPower_mem _ _)).trans (State.wf_waitUntil h _)
  exact .ite (.next h₂) (.next (State.wf_applyInjection
    ((congrArg Memory.wf ((State.measured_mem _ _).trans (State.setPower_mem _ _))).trans h₂)))

theorem wf_execPowerStateEntry : OutcomeWf (execPowerStateEntry s) := .ite (.next h) (.next h)

theorem wf_execPowerStateExit : OutcomeWf (execPowerStateExit s) :=
  .ite (.next h) <| .ite (.next (by simpa using h)) (.next (by simpa using h))

theorem wf_execShedStep {pwr : Nat} : OutcomeWf (execShedStep pwr s) := by
  unfold execShedStep
  split
  · exact .next (by simpa using h)
  · refine .ite (.next (by simpa using h)) (.next ?_)
    rw [State.shedRecord_mem]
    exact State.wf_ite (State.wf_applyShed (by simpa using h) _ _) (by simpa using h)

theorem wf_execShedUndo {pwr : Nat} : OutcomeWf (execShedUndo pwr s) := by
  unfold execShedUndo
  split
  · exact .next (by simpa using h)
  · refine .ite (.next (by simpa using h)) (.next ?_)
    rw [State.shedRecord_mem]
    exact State.wf_ite (by simpa using h) (by simpa using h)

theorem wf_execThrottleStep {pwr : Nat} : OutcomeWf (execThrottleStep pwr s) := .ite (.next (by simpa using h)) (.next (by simpa using h))
theorem wf_execThrottleUndo {pwr : Nat} : OutcomeWf (execThrottleUndo pwr s) := .ite (.next (by simpa using h)) (.next (by simpa using h))

theorem wf_execThrottleFloorReport {pwr : Nat} : OutcomeWf (execThrottleFloorReport pwr s) :=
  .ite (.next (by simpa using h)) (.next (by simpa using h))

theorem wf_execMemoryErrorDetected {array : BitVec 4} {unit : BitVec 8} {addr : Nat} {unc : Bool} {inset : Nat} {syndrome : BitVec 32} :
    OutcomeWf (execMemoryErrorDetected array unit addr unc inset syndrome s) := by
  unfold execMemoryErrorDetected
  dsimp only
  split
  · exact .next h
  · next e _ =>
    have hlog := State.wf_logError (State.wf_injected h e) e
    exact .ite (.next h) (.next (State.wf_ite (State.wf_poisonAt hlog e) hlog))

theorem wf_execBurstTagFailure {line tries : Nat} : OutcomeWf (execBurstTagFailure line tries s) :=
  .ite (.next h) (.next (State.wf_poisonAt (State.wf_logError h _) _))

end

end Sys2Proof.Machine
end

section
/-! The Security Core's requests, sealing and migration keep the canonical form of memory. -/
namespace Sys2Proof.Machine

section
variable {s : State} (h : s.mem.wf = true)
include h

/-! ### Requests -/

theorem OutcomeWf.spdm {k : State → State} (hk : (k s).mem.wf = true) : OutcomeWf (spdm s k) := .ite (.next h) (.next hk)

theorem OutcomeWf.vendor {k : State → State} (hk : (k s).mem.wf = true) : OutcomeWf (vendor s k) := .spdm h (State.wf_ite h hk)

/-- A message between packages, where what it does keeps the form. -/
theorem OutcomeWf.onMessage {inset : Nat} {valid : Bool} {k : Migration → State} (hk : ∀ m, (k m).mem.wf = true) :
    OutcomeWf (s.onMessage inset valid k) := by
  refine .ite (.spdm h h) ?_
  cases hm : (if valid && s.fabric.linkUp then s.migration? inset else none) with
  | none => exact .next h
  | some m => exact .next (hk m)

theorem State.wf_connected {n : Nat} {k : State → State} (hk : (k s).mem.wf = true) : (s.connected n k).mem.wf = true := State.wf_ite h hk

theorem State.wf_slotZero {slot : Nat} {k : State → State} (hk : (k s).mem.wf = true) : (s.slotZero slot k).mem.wf = true := State.wf_ite h hk

theorem State.wf_sign (r : Response) : (s.sign r).mem.wf = true := by simpa using h

theorem wf_execGetVersion : OutcomeWf (execGetVersion s) := .spdm h h
theorem wf_execGetCapabilities : OutcomeWf (execGetCapabilities s) := .spdm h (State.wf_ite h h)
theorem wf_execNegotiateAlgorithms {supported : Bool} : OutcomeWf (execNegotiateAlgorithms supported s) :=
  .spdm h (State.wf_ite h (State.wf_ite h h))
theorem wf_execGetDigests : OutcomeWf (execGetDigests s) := .spdm h (State.wf_connected h h)
theorem wf_execGetCertificate {slot : Nat} : OutcomeWf (execGetCertificate slot s) := .spdm h (State.wf_connected h (State.wf_slotZero h h))

theorem wf_execChallenge {slot : Nat} {nonce : BitVec 256} : OutcomeWf (execChallenge slot nonce s) :=
  .spdm h (State.wf_connected h (State.wf_slotZero h (State.wf_sign h _)))

theorem wf_execGetMeasurements {index : Nat} {nonce : BitVec 256} : OutcomeWf (execGetMeasurements index nonce s) :=
  .spdm h (State.wf_connected h (State.wf_ite h (State.wf_sign h _)))

theorem wf_execKeyExchange {slot : Nat} : OutcomeWf (execKeyExchange slot s) :=
  .spdm h (State.wf_ite h (State.wf_slotZero h (State.wf_sign (by exact h) _)))

theorem wf_execFinish {verified : Bool} : OutcomeWf (execFinish verified s) := .spdm h (State.wf_ite h (State.wf_ite h h))
theorem wf_execEndSession : OutcomeWf (execEndSession s) := .spdm h (State.wf_ite h h)

theorem wf_execFreshTopLevelLeaf : OutcomeWf (execFreshTopLevelLeaf s) := by
  refine .ite (.next h) (.next ?_)
  rw [State.updSecurity_mem]
  exact State.wf_ite (State.wf_waitUntil h _) h

/-! ### Keys -/

theorem wf_execKeyload {slot : Nat} {key : BitVec 512} : OutcomeWf (execKeyload slot key s) := .vendor h (State.wf_ite h (State.wf_ite h h))
theorem wf_execKeykill {slot : Nat} : OutcomeWf (execKeykill slot s) := .vendor h (State.wf_ite h (State.wf_ite h h))

theorem wf_execKeystat {slot : Nat} : OutcomeWf (execKeystat slot s) := by
  refine .vendor h (State.wf_ite h ?_)
  split <;> exact h

theorem wf_execKillConfirm {slot die : Nat} : OutcomeWf (execKillConfirm slot die s) := by
  unfold execKillConfirm
  split
  · exact .ite (.next h) <| .ite (.next h) (.next (State.wf_ite h h))
  · exact .next h

/-! ### Sealing -/

theorem State.wf_setKey (n : Nat) (k : KeySlot) : (s.setKey n k).mem.wf = true := h

theorem wf_execSealInset {inset addr size bound : Nat} : OutcomeWf (execSealInset inset addr size bound s) := by
  unfold execSealInset
  split
  · exact .vendor h h
  · exact .ite (.ite (.next (State.wf_finishSeal h _ _ _)) (.next h)) (.vendor h (State.wf_ite h (State.wf_ite h (by simpa using h))))

theorem wf_execUnsealInset {addr : Nat} {bases : List Nat} : OutcomeWf (execUnsealInset addr bases s) := by
  refine .vendor h ?_
  split
  · exact h
  · split
    · exact h
    · refine State.wf_ite h ?_
      extract_lets r t
      have ht : t.mem.wf = true := State.foldl_wf _ (fun _ _ hs => State.wf_setKey hs _ _) _ _ h
      split
      · exact h
      · next hu => simpa using State.wf_rewriteImages (State.wf_standAgain ht _ _ _ _) hu

/-! ### Migration -/

theorem wf_execMigout {inset bound : Nat} : OutcomeWf (execMigout inset bound s) := by
  unfold execMigout
  split
  · exact .vendor h h
  · exact .ite (.ite (.next h) <| .ite (.next h) (.next h)) (.vendor h (State.wf_ite h (by simpa using h)))

theorem wf_execMigin {addr block : Nat} {bases : List Nat} : OutcomeWf (execMigin addr block bases s) := by
  refine .vendor h (State.wf_ite h <| State.wf_ite h <| State.wf_ite h <| State.wf_ite h ?_)
  extract_lets r t t'
  have ht : t.mem.wf = true := State.foldl_wf _ (fun _ _ hs => State.wf_setKey hs _ _) _ _ h
  have ht' : t'.mem.wf = true := State.wf_veilRanges ht _ _
  simpa using ht'

theorem wf_execVerified {inset : Nat} {valid : Bool} : OutcomeWf (execVerified inset valid s) :=
  .onMessage h fun _ => State.wf_ite (by simpa using State.wf_revokeInset h inset) (State.wf_ite h h)

theorem wf_execErased {inset : Nat} {valid : Bool} : OutcomeWf (execErased inset valid s) :=
  .onMessage h fun _ => State.wf_ite h <| State.wf_ite h <| State.wf_ite h h

theorem wf_execActive {inset : Nat} {valid : Bool} : OutcomeWf (execActive inset valid s) := .onMessage h fun _ => State.wf_ite h h
theorem wf_execAborted {inset : Nat} {valid : Bool} : OutcomeWf (execAborted inset valid s) := .onMessage h fun _ => State.wf_ite h h

theorem wf_execMigabort {inset : Nat} : OutcomeWf (execMigabort inset s) := by
  refine .vendor h ?_
  split
  · exact h
  · exact State.wf_ite h <| State.wf_ite (by simpa using State.wf_revokeInset h inset) h

theorem wf_execMigstat {inset : Nat} : OutcomeWf (execMigstat inset s) := .vendor h h

theorem wf_execErasedRequest {inset : Nat} : OutcomeWf (execErasedRequest inset s) := by
  unfold execErasedRequest
  split
  · exact .next h
  · refine .ite (.next h) (.next ?_)
    rw [State.message_mem, State.setMigration_mem]
    exact State.wf_waitUntil h _

theorem wf_execErasedResend {inset : Nat} : OutcomeWf (execErasedResend inset s) := by
  unfold execErasedResend
  split
  · exact .next h
  · exact .ite (.next h) (.next h)

theorem wf_execHoldexpired {inset : Nat} : OutcomeWf (execHoldexpired inset s) := by
  unfold execHoldexpired
  split
  · exact .next h
  · refine .ite (.next h) (.next ?_)
    rw [State.setMigration_mem]
    exact State.wf_waitUntil h _

end

end Sys2Proof.Machine
end

section
/-! Every instruction, and every step, keeps the canonical form of memory. -/
namespace Sys2Proof.Machine

section
variable {s : State} (h : s.mem.wf = true)
include h

/-- The instruction that issues, or the machine's own step, keeps memory in its form. -/
theorem wf_exec (i : Instr) : OutcomeWf (exec i s) := by
  cases i with
  | clauseStart => exact wf_execClauseStart h
  | longOpComplete => exact wf_execLongOpComplete h
  | rejoinDeadlock => exact wf_execRejoinDeadlock h
  | neighbourParityError => exact wf_execNeighbourParityError h
  | clusterPlacement => exact wf_execClusterPlacement h
  | gridComplete => exact wf_execGridComplete h
  | taggedAccessArrival => exact wf_execTaggedAccessArrival h
  | storePerformed => exact wf_execStorePerformed h
  | flushMarkerGathered => exact wf_execFlushMarkerGathered h
  | engineCommandAccept => exact wf_execEngineCommandAccept h
  | engineCommandStart => exact wf_execEngineCommandStart h
  | engineAccess => exact wf_execEngineAccess h
  | engineCommandComplete => exact wf_execEngineCommandComplete h
  | chainEntryStart => exact wf_execChainEntryStart h
  | collectiveMatch => exact wf_execCollectiveMatch h
  | sweepStart => exact wf_execSweepStart h
  | pageCommit => exact wf_execPageCommit h
  | holeCommit => exact wf_execHoleCommit h
  | pageArrival => exact wf_execPageArrival h
  | qsvNoticePush => exact wf_execQsvNoticePush h
  | pageFetchFault => exact wf_execPageFetchFault h
  | partialMerge => exact wf_execPartialMerge h
  | tolUnitTake => exact wf_execTolUnitTake h
  | doorbellKick => exact wf_execDoorbellKick h
  | doorbellIgnoredWrite => exact wf_execDoorbellIgnoredWrite h
  | queueRecordStart => exact wf_execQueueRecordStart h
  | queueMap => exact wf_execQueueMap h
  | queueAgeingTick => exact wf_execQueueAgeingTick h
  | refillBoundary => exact wf_execRefillBoundary h
  | torusPacketSend => exact wf_execTorusPacketSend h
  | drainLatencyExpiry => exact wf_execDrainLatencyExpiry h
  | teamSave => exact wf_execTeamSave h
  | teamRestore => exact wf_execTeamRestore h
  | recordDelivery => exact wf_execRecordDelivery h
  | hostEventRingWrite => exact wf_execHostEventRingWrite h
  | evreadWrite => exact wf_execEvreadWrite h
  | eventRingConfigWrite => exact wf_execEventRingConfigWrite h
  | controlRegisterWrite => exact wf_execControlRegisterWrite h
  | mailboxOverrun => exact wf_execMailboxOverrun h
  | mailboxUnknownCommand => exact wf_execMailboxUnknownCommand h
  | mailboxComplete => exact wf_execMailboxComplete h
  | insetnew => exact wf_execInsetnew h
  | insetgrant => exact wf_execInsetgrant h
  | freeze => exact wf_execFreeze h
  | thaw => exact wf_execThaw h
  | ckpt => exact wf_execCkpt h
  | rest => exact wf_execRest h
  | revoke => exact wf_execRevoke h
  | stat => exact wf_execStat h
  | map => exact wf_execMap h
  | unmap => exact wf_execUnmap h
  | inval => exact wf_execInval h
  | rootmap => exact wf_execRootmap h
  | rootunmap => exact wf_execRootunmap h
  | dbset => exact wf_execDbset h
  | dbclr => exact wf_execDbclr h
  | rgtset => exact wf_execRgtset h
  | rgtwithdraw => exact wf_execRgtwithdraw h
  | gangset => exact wf_execGangset h
  | hotread => exact wf_execHotread h
  | timeset => exact wf_execTimeset h
  | loadfw => exact wf_execLoadfw h
  | hostMemoryAccess => exact wf_execHostMemoryAccess h
  | flitCrcFailure => exact wf_execFlitCrcFailure h
  | deviceReset => exact wf_execDeviceReset h
  | bootRomComplete => exact wf_execBootRomComplete h
  | firmwareVerifyComplete => exact wf_execFirmwareVerifyComplete h
  | coreRowWake => exact wf_execCoreRowWake h
  | matrixRampStep => exact wf_execMatrixRampStep h
  | fabricPacketReceive => exact wf_execFabricPacketReceive h
  | remoteRequestCheck => exact wf_execRemoteRequestCheck h
  | packetRetransmit => exact wf_execPacketRetransmit h
  | pathRemoval => exact wf_execPathRemoval h
  | ptpSync => exact wf_execPtpSync h
  | gangTick => exact wf_execGangTick h
  | gangReady => exact wf_execGangReady h
  | gangDecision => exact wf_execGangDecision h
  | commit => exact wf_execCommit h
  | abort => exact wf_execAbort h
  | fleetGenSample => exact wf_execFleetGenSample h
  | powerStateEntry => exact wf_execPowerStateEntry h
  | powerStateExit => exact wf_execPowerStateExit h
  | shedStep => exact wf_execShedStep h
  | shedUndo => exact wf_execShedUndo h
  | throttleStep => exact wf_execThrottleStep h
  | throttleUndo => exact wf_execThrottleUndo h
  | throttleFloorReport => exact wf_execThrottleFloorReport h
  | memoryErrorDetected => exact wf_execMemoryErrorDetected h
  | burstTagFailure => exact wf_execBurstTagFailure h
  | killConfirm => exact wf_execKillConfirm h
  | getVersion => exact wf_execGetVersion h
  | getCapabilities => exact wf_execGetCapabilities h
  | negotiateAlgorithms => exact wf_execNegotiateAlgorithms h
  | getDigests => exact wf_execGetDigests h
  | getCertificate => exact wf_execGetCertificate h
  | challenge => exact wf_execChallenge h
  | getMeasurements => exact wf_execGetMeasurements h
  | keyExchange => exact wf_execKeyExchange h
  | finish => exact wf_execFinish h
  | endSession => exact wf_execEndSession h
  | keyload => exact wf_execKeyload h
  | keykill => exact wf_execKeykill h
  | keystat => exact wf_execKeystat h
  | sealInset => exact wf_execSealInset h
  | unsealInset => exact wf_execUnsealInset h
  | migout => exact wf_execMigout h
  | migin => exact wf_execMigin h
  | verified => exact wf_execVerified h
  | erased => exact wf_execErased h
  | active => exact wf_execActive h
  | aborted => exact wf_execAborted h
  | migabort => exact wf_execMigabort h
  | migstat => exact wf_execMigstat h
  | erasedRequest => exact wf_execErasedRequest h
  | erasedResend => exact wf_execErasedResend h
  | holdexpired => exact wf_execHoldexpired h
  | linkRetrainComplete => exact wf_execLinkRetrainComplete h
  | pathReturn => exact wf_execPathReturn h
  | requestBoundPassed => exact wf_execRequestBoundPassed h
  | freshTopLevelLeaf => exact wf_execFreshTopLevelLeaf h
  | iadd d a b => exact (.ialu h : OutcomeWf (execIadd d a b s))
  | isub d a b => exact (.ialu h : OutcomeWf (execIsub d a b s))
  | imul d a b => exact (.ialu h : OutcomeWf (execImul d a b s))
  | imulh d a b => exact (.ialu h : OutcomeWf (execImulh d a b s))
  | imulhu d a b => exact (.ialu h : OutcomeWf (execImulhu d a b s))
  | imin d a b => exact (.ialu h : OutcomeWf (execImin d a b s))
  | imax d a b => exact (.ialu h : OutcomeWf (execImax d a b s))
  | umin d a b => exact (.ialu h : OutcomeWf (execUmin d a b s))
  | umax d a b => exact (.ialu h : OutcomeWf (execUmax d a b s))
  | and d a b => exact (.ialu h : OutcomeWf (execAnd d a b s))
  | or d a b => exact (.ialu h : OutcomeWf (execOr d a b s))
  | xor d a b => exact (.ialu h : OutcomeWf (execXor d a b s))
  | shl d a b => exact (.ialu h : OutcomeWf (execShl d a b s))
  | shr d a b => exact (.ialu h : OutcomeWf (execShr d a b s))
  | shra d a b => exact (.ialu h : OutcomeWf (execShra d a b s))
  | rotr d a b => exact (.ialu h : OutcomeWf (execRotr d a b s))
  | idiv d a b => exact (.laneLong h : OutcomeWf (execIdiv d a b s))
  | udiv d a b => exact (.laneLong h : OutcomeWf (execUdiv d a b s))
  | irem d a b => exact (.laneLong h : OutcomeWf (execIrem d a b s))
  | urem d a b => exact (.laneLong h : OutcomeWf (execUrem d a b s))
  | popc d a => exact (.laneUn h : OutcomeWf (execPopc d a s))
  | clz d a => exact (.laneUn h : OutcomeWf (execClz d a s))
  | brev d a => exact (.laneUn h : OutcomeWf (execBrev d a s))
  | iabs d a => exact (.laneUn h : OutcomeWf (execIabs d a s))
  | bfx d a b => exact (.laneBin h : OutcomeWf (execBfx d a b s))
  | bfxu d a b => exact (.laneBin h : OutcomeWf (execBfxu d a b s))
  | bfi d a b => exact (.laneAcc h : OutcomeWf (execBfi d a b s))
  | andn d a b => exact (.laneBin h : OutcomeWf (execAndn d a b s))
  | iaddi d a imm => exact (.laneImm h : OutcomeWf (execIaddi d a imm s))
  | andi d a imm => exact (.laneImm h : OutcomeWf (execAndi d a imm s))
  | ori d a imm => exact (.laneImm h : OutcomeWf (execOri d a imm s))
  | xori d a imm => exact (.laneImm h : OutcomeWf (execXori d a imm s))
  | shli d a n => exact (.laneUn h : OutcomeWf (execShli d a n s))
  | shri d a n => exact (.laneUn h : OutcomeWf (execShri d a n s))
  | shrai d a n => exact (.laneUn h : OutcomeWf (execShrai d a n s))
  | rotri d a n => exact (.laneUn h : OutcomeWf (execRotri d a n s))
  | imad d a b => exact (.laneAcc h : OutcomeWf (execImad d a b s))
  | imadu d a b => exact (.laneAcc h : OutcomeWf (execImadu d a b s))
  | imadh d a b => exact (.laneAcc h : OutcomeWf (execImadh d a b s))
  | imadhu d a b => exact (.laneAcc h : OutcomeWf (execImadhu d a b s))
  | iaddx d a b => exact (.widePair h : OutcomeWf (execIaddx d a b s))
  | isubx d a b => exact (.widePair h : OutcomeWf (execIsubx d a b s))
  | shlx d a b => exact (.wideReg h : OutcomeWf (execShlx d a b s))
  | shrx d a b => exact (.wideReg h : OutcomeWf (execShrx d a b s))
  | shrax d a b => exact (.wideReg h : OutcomeWf (execShrax d a b s))
  | imulw d a b => exact (.wideMul h : OutcomeWf (execImulw d a b s))
  | imulwu d a b => exact (.wideMul h : OutcomeWf (execImulwu d a b s))
  | leaS0 d a b => exact (.wideReg h : OutcomeWf (execLeaS0 d a b s))
  | leaS1 d a b => exact (.wideReg h : OutcomeWf (execLeaS1 d a b s))
  | leaS2 d a b => exact (.wideReg h : OutcomeWf (execLeaS2 d a b s))
  | leaS3 d a b => exact (.wideReg h : OutcomeWf (execLeaS3 d a b s))
  | mov d a => exact (.laneUn h : OutcomeWf (execMov d a s))
  | movx => exact wf_execMovx h
  | ptov => exact wf_execPtov h
  | vtop => exact wf_execVtop h
  | movi => exact wf_execMovi h
  | sel => exact wf_execSel h
  | icmp => exact wf_execIcmp h
  | icmpi => exact wf_execIcmpi h
  | fadd d a b => exact (.falu h : OutcomeWf (execFadd d a b s))
  | fsub d a b => exact (.falu h : OutcomeWf (execFsub d a b s))
  | fmul d a b => exact (.falu h : OutcomeWf (execFmul d a b s))
  | fmin d a b => exact (.falu h : OutcomeWf (execFmin d a b s))
  | fmax d a b => exact (.falu h : OutcomeWf (execFmax d a b s))
  | fcopysign d a b => exact (.falu h : OutcomeWf (execFcopysign d a b s))
  | ffma d a b => exact (.ffma h : OutcomeWf (execFfma d a b s))
  | ffms d a b => exact (.ffma h : OutcomeWf (execFfms d a b s))
  | ffnma d a b => exact (.ffma h : OutcomeWf (execFfnma d a b s))
  | ffnms d a b => exact (.ffma h : OutcomeWf (execFfnms d a b s))
  | fcmp => exact wf_execFcmp h
  | frndn d a => exact (.funi h : OutcomeWf (execFrndn d a s))
  | frndz d a => exact (.funi h : OutcomeWf (execFrndz d a s))
  | frndd d a => exact (.funi h : OutcomeWf (execFrndd d a s))
  | frndu d a => exact (.funi h : OutcomeWf (execFrndu d a s))
  | fclass => exact wf_execFclass h
  | fabs d a => exact (.funi h : OutcomeWf (execFabs d a s))
  | fneg d a => exact (.funi h : OutcomeWf (execFneg d a s))
  | hadd2 d a b => exact (.half2 h : OutcomeWf (execHadd2 d a b s))
  | hsub2 d a b => exact (.half2 h : OutcomeWf (execHsub2 d a b s))
  | hmul2 d a b => exact (.half2 h : OutcomeWf (execHmul2 d a b s))
  | hfma2 d a b => exact (.halfFma h : OutcomeWf (execHfma2 d a b s))
  | hmin2 d a b => exact (.half2 h : OutcomeWf (execHmin2 d a b s))
  | hmax2 d a b => exact (.half2 h : OutcomeWf (execHmax2 d a b s))
  | badd2 d a b => exact (.half2 h : OutcomeWf (execBadd2 d a b s))
  | bsub2 d a b => exact (.half2 h : OutcomeWf (execBsub2 d a b s))
  | bmul2 d a b => exact (.half2 h : OutcomeWf (execBmul2 d a b s))
  | bfma2 d a b => exact (.halfFma h : OutcomeWf (execBfma2 d a b s))
  | bmin2 d a b => exact (.half2 h : OutcomeWf (execBmin2 d a b s))
  | bmax2 d a b => exact (.half2 h : OutcomeWf (execBmax2 d a b s))
  | dot4s8 d a b => exact (.laneAcc h : OutcomeWf (execDot4s8 d a b s))
  | dot4u8 d a b => exact (.laneAcc h : OutcomeWf (execDot4u8 d a b s))
  | dot4su8 d a b => exact (.laneAcc h : OutcomeWf (execDot4su8 d a b s))
  | dot8s4 d a b => exact (.laneAcc h : OutcomeWf (execDot8s4 d a b s))
  | dot2h d a b => exact (.laneAcc h : OutcomeWf (execDot2h d a b s))
  | dot2b d a b => exact (.laneAcc h : OutcomeWf (execDot2b d a b s))
  | dot4e4 d a b => exact (.laneAcc h : OutcomeWf (execDot4e4 d a b s))
  | dot4e5 d a b => exact (.laneAcc h : OutcomeWf (execDot4e5 d a b s))
  | cvt => exact wf_execCvt h
  | qnt => exact wf_execQnt h
  | dqnt => exact wf_execDqnt h
  | unpk3 => exact wf_execUnpk3 h
  | exp2 d a b => exact (.sfuOp h : OutcomeWf (execExp2 d a b s))
  | exp d a b => exact (.sfuOp h : OutcomeWf (execExp d a b s))
  | log2 d a b => exact (.sfuOp h : OutcomeWf (execLog2 d a b s))
  | rcp d a b => exact (.sfuOp h : OutcomeWf (execRcp d a b s))
  | rsqrt d a b => exact (.sfuOp h : OutcomeWf (execRsqrt d a b s))
  | sqrt d a b => exact (.sfuOp h : OutcomeWf (execSqrt d a b s))
  | sin d a b => exact (.sfuOp h : OutcomeWf (execSin d a b s))
  | cos d a b => exact (.sfuOp h : OutcomeWf (execCos d a b s))
  | tanh d a b => exact (.sfuOp h : OutcomeWf (execTanh d a b s))
  | sigm d a b => exact (.sfuOp h : OutcomeWf (execSigm d a b s))
  | gelu d a b => exact (.sfuOp h : OutcomeWf (execGelu d a b s))
  | pand d a b => exact (.lanePred h : OutcomeWf (execPand d a b s))
  | por d a b => exact (.lanePred h : OutcomeWf (execPor d a b s))
  | pxor d a b => exact (.lanePred h : OutcomeWf (execPxor d a b s))
  | pandn d a b => exact (.lanePred h : OutcomeWf (execPandn d a b s))
  | pnot d a => exact (.lanePred h : OutcomeWf (execPnot d a s))
  | pmov d a => exact (.lanePred h : OutcomeWf (execPmov d a s))
  | pset d => exact (.lanePred h : OutcomeWf (execPset d s))
  | pclr d => exact (.lanePred h : OutcomeWf (execPclr d s))
  | ld d a z o k => exact (.loadForm h : OutcomeWf (execLd d a z o k s))
  | st d a z o k => exact (.storeForm h : OutcomeWf (execSt d a z o k s))
  | ldnr => exact wf_execLdnr h
  | ldtWaitfull d a z k => exact (.tagForm h : OutcomeWf (execLdtWaitfull d a z k s))
  | ldtTake d a z k => exact (.tagForm h : OutcomeWf (execLdtTake d a z k s))
  | ldtPeektag d a z k => exact (.tagForm h : OutcomeWf (execLdtPeektag d a z k s))
  | sttPut d a z k => exact (.tagForm h : OutcomeWf (execSttPut d a z k s))
  | sttFill d a z k => exact (.tagForm h : OutcomeWf (execSttFill d a z k s))
  | sttDrain d a z k => exact (.tagForm h : OutcomeWf (execSttDrain d a z k s))
  | atom d a b o => exact (.atomForm h : OutcomeWf (execAtom d a b o s))
  | ared => exact wf_execAred h
  | lperm => exact wf_execLperm h
  | lsense => exact wf_execLsense h
  | lfold => exact wf_execLfold h
  | scan => exact wf_execScan h
  | brl => exact wf_execBrl h
  | rng => exact wf_execRng h
  | rngseed => exact wf_execRngseed h
  | trd => exact wf_execTrd h
  | twr => exact wf_execTwr h
  | uadd d a b => exact (.uniBin h : OutcomeWf (execUadd d a b s))
  | usub d a b => exact (.uniBin h : OutcomeWf (execUsub d a b s))
  | umul d a b => exact (.uniBin h : OutcomeWf (execUmul d a b s))
  | umulhu d a b => exact (.uniBin h : OutcomeWf (execUmulhu d a b s))
  | ualuUmin d a b => exact (.uniBin h : OutcomeWf (execUaluUmin d a b s))
  | ualuUmax d a b => exact (.uniBin h : OutcomeWf (execUaluUmax d a b s))
  | ualuAnd d a b => exact (.uniBin h : OutcomeWf (execUaluAnd d a b s))
  | ualuOr d a b => exact (.uniBin h : OutcomeWf (execUaluOr d a b s))
  | ualuXor d a b => exact (.uniBin h : OutcomeWf (execUaluXor d a b s))
  | ualuShl d a b => exact (.uniBin h : OutcomeWf (execUaluShl d a b s))
  | ualuShr d a b => exact (.uniBin h : OutcomeWf (execUaluShr d a b s))
  | ualuShra d a b => exact (.uniBin h : OutcomeWf (execUaluShra d a b s))
  | uaddi => exact wf_execUaddi h
  | umovi => exact wf_execUmovi h
  | uaddx d a b => exact (.uniWide h : OutcomeWf (execUaddx d a b s))
  | usubx d a b => exact (.uniWide h : OutcomeWf (execUsubx d a b s))
  | umulw => exact wf_execUmulw h
  | ulea => exact wf_execUlea h
  | ucmp => exact wf_execUcmp h
  | ucmpi => exact wf_execUcmpi h
  | bra => exact wf_execBra h
  | call => exact wf_execCall h
  | nop => exact wf_execNop h
  | exit => exact wf_execExit h
  | yield => exact wf_execYield h
  | brk => exact wf_execBrk h
  | trap => exact wf_execTrap h
  | ret a => exact (.uniJump h : OutcomeWf (execRet a s))
  | brr a => exact (.uniJump h : OutcomeWf (execBrr a s))
  | callr a => exact (.uniJump h : OutcomeWf (execCallr a s))
  | sread => exact wf_execSread h
  | swrite => exact wf_execSwrite h
  | rquota => exact wf_execRquota h
  | rdlane => exact wf_execRdlane h
  | wrlane => exact wf_execWrlane h
  | rjset => exact wf_execRjset h
  | rjwait => exact wf_execRjwait h
  | rjclr => exact wf_execRjclr h
  | rjread => exact wf_execRjread h
  | barTeam => exact (.barForm h : OutcomeWf (execBarTeam s))
  | barCluster => exact (.barForm h : OutcomeWf (execBarCluster s))
  | arriveTeam => exact (.barForm h : OutcomeWf (execArriveTeam s))
  | waitTeam => exact (.barForm h : OutcomeWf (execWaitTeam s))
  | arriveCluster => exact (.barForm h : OutcomeWf (execArriveCluster s))
  | waitCluster => exact (.barForm h : OutcomeWf (execWaitCluster s))
  | fence => exact wf_execFence h
  | boinit => exact wf_execBoinit h
  | boexp a b => exact (.boForm h fun m p _ hm => m.wf_boExpect p _ hm : OutcomeWf (execBoexp a b s))
  | boarr a b => exact (.boForm h fun m p _ hm => m.wf_boArrive p _ hm : OutcomeWf (execBoarr a b s))
  | bowait => exact wf_execBowait h
  | botest => exact wf_execBotest h
  | bofault a b => exact (.boForm h fun m p _ hm => m.wf_boError p _ hm : OutcomeWf (execBofault a b s))
  | tkinit => exact wf_execTkinit h
  | tkget => exact wf_execTkget h
  | tkwait => exact wf_execTkwait h
  | tknext => exact wf_execTknext h
  | dqinit => exact wf_execDqinit h
  | dqpush => exact wf_execDqpush h
  | dqpop => exact wf_execDqpop h
  | dqsteal => exact wf_execDqsteal h
  | arflush => exact wf_execArflush h
  | arstat => exact wf_execArstat h
  | wpread => exact wf_execWpread h
  | wpwait => exact wf_execWpwait h
  | tconf => exact wf_execTconf h
  | tcread => exact wf_execTcread h
  | tzero => exact wf_execTzero h
  | tld t p k => exact (.tmem h : OutcomeWf (execTld t p k s))
  | tst t p k => exact (.tmem h : OutcomeWf (execTst t p k s))
  | tldt t p k => exact (.tmem h : OutcomeWf (execTldt t p k s))
  | mma d a b st u => exact (.matrix h : OutcomeWf (execMma d a b st u s))
  | mmaq d a b st u => exact (.matrix h : OutcomeWf (execMmaq d a b st u s))
  | mmat d a b st u => exact (.matrix h : OutcomeWf (execMmat d a b st u s))
  | mmab => exact wf_execMmab h
  | tcvt d a b st u => exact wf_execTcvt (b := b) h
  | trmax d a b st u => exact (.rowReduce h : OutcomeWf (execTrmax d a b st u s))
  | trsum d a b st u => exact (.rowReduce h : OutcomeWf (execTrsum d a b st u s))
  | trscl d a b st u => exact (.rowMap h : OutcomeWf (execTrscl d a b st u s))
  | texp2 d a b st u => exact (.rowMap h : OutcomeWf (execTexp2 d a b st u s))
  | tmov d a b st u => exact wf_execTmov (b := b) (sl := st) h
  | tmask d a b st u => exact (.rowMap h : OutcomeWf (execTmask d a b st u s))
  | cpy => exact wf_execCpy h
  | cpym => exact wf_execCpym h
  | cpyc => exact wf_execCpyc h
  | gath d a => exact (.gather h : OutcomeWf (execGath d a s))
  | scat d a => exact (.gather h : OutcomeWf (execScat d a s))
  | chain => exact wf_execChain h
  | allred d a => exact (.collective h : OutcomeWf (execAllred d a s))
  | allgath d a => exact (.collective h : OutcomeWf (execAllgath d a s))
  | redscat d a => exact (.collective h : OutcomeWf (execRedscat d a s))
  | bcast d a => exact (.collective h : OutcomeWf (execBcast d a s))
  | svsub => exact wf_execSvsub h
  | svsweep => exact wf_execSvsweep h
  | svpart => exact wf_execSvpart h
  | svclose => exact wf_execSvclose h
  | svstat => exact wf_execSvstat h
  | svstatDesc => exact wf_execSvstatDesc h
  | svcancel => exact wf_execSvcancel h
  | tolnode => exact wf_execTolnode h
  | demand => exact wf_execDemand h
  | tolget => exact wf_execTolget h
  | fmtsel => exact wf_execFmtsel h
  | itersel => exact wf_execItersel h
  | tolchk => exact wf_execTolchk h
  | tolclr => exact wf_execTolclr h
  | tolclrAll => exact wf_execTolclrAll h
  | launch => exact wf_execLaunch h
  | launchq => exact wf_execLaunchq h
  | ctxnew => exact wf_execCtxnew h
  | ctxgrant => exact wf_execCtxgrant h
  | ctxfrz d => exact (.ctxForm h : OutcomeWf (execCtxfrz d s))
  | ctxthaw d => exact (.ctxForm h : OutcomeWf (execCtxthaw d s))
  | ctxckpt => exact wf_execCtxckpt h
  | ctxrest => exact wf_execCtxrest h
  | ctxrevk => exact wf_execCtxrevk h
  | ctxstat d => exact (.ctxForm h : OutcomeWf (execCtxstat d s))
  | ctxdbgSetbp d => exact (.ctxForm h : OutcomeWf (execCtxdbgSetbp d s))
  | ctxdbgClrbp d => exact (.ctxForm h : OutcomeWf (execCtxdbgClrbp d s))
  | ctxdbgRdstate d => exact (.ctxForm h : OutcomeWf (execCtxdbgRdstate d s))
  | ctxdbgWrstate d => exact (.ctxForm h : OutcomeWf (execCtxdbgWrstate d s))
  | ctxdbgStep d => exact (.ctxForm h : OutcomeWf (execCtxdbgStep d s))
  | mapg => exact wf_execMapg h
  | unmapg => exact wf_execUnmapg h
  | pinv => exact wf_execPinv h
  | pgreq => exact wf_execPgreq h
  | hqarm => exact wf_execHqarm h
  | hqdisarm => exact wf_execHqdisarm h
  | hqack => exact wf_execHqack h
  | uld d a z o k => exact (.loadForm h : OutcomeWf (execUld d a z o k s))
  | ust d a z o k => exact (.storeForm h : OutcomeWf (execUst d a z o k s))
  | uatom d a b o => exact (.atomForm h : OutcomeWf (execUatom d a b o s))
  | xsco st o => exact (.prefixWord h : OutcomeWf (execXsco st o s))
  | xmod a b w imm t r st => exact (.prefixWord h : OutcomeWf (execXmod a b w imm t r st s))
  | ximm x => exact (.prefixWord h : OutcomeWf (execXimm x s))

/-- A word that issues keeps the form, whether it decodes or traps. -/
theorem wf_runWord (w : Word) : OutcomeWf (runWord w s) := by
  unfold runWord
  dsimp only
  split
  · exact wf_exec h _
  · exact .issue h fun _ _ => .illegalOperand
  · exact .issue h fun _ _ => .illegalInstruction

theorem wf_moveGroup (gid : Nat) : OutcomeWf (moveGroup gid s) := by
  unfold moveGroup
  split
  · exact wf_runWord (by exact h) _
  · exact wf_exec (by exact h) _

/-- The first group that moves keeps the form; without one the state stays. -/
theorem wf_tryMoves (gids : List Nat) : OutcomeWf (tryMoves s gids) := by
  induction gids with
  | nil => exact .next h
  | cons gid rest ih =>
    have hmove := wf_moveGroup h gid
    unfold tryMoves
    split
    · next heq => exact .ite ih (.next (hmove _ heq))
    · exact hmove

theorem wf_step : OutcomeWf (step s) := by
  have helapse : s.elapse.mem.wf = true := State.wf_elapse h
  unfold step
  split
  · exact wf_moveGroup (by exact helapse) _
  · exact wf_exec (by exact helapse) _
  · exact wf_tryMoves helapse _

end

end Sys2Proof.Machine
end

section
namespace Sys2Proof.Machine

/-- Settles O59: each party's move goes through operations that keep the order of bytes, tags and marks (R3, R63, R342, R372). -/
theorem memoryFormKept : Obligations.MemoryFormKept := fun _ t h ht => wf_step h t ht

end Sys2Proof.Machine
end

section
/-! A long operation in flight, and an event taken at issue: what the forms that end in either leave (R37, R128, R137). -/
namespace Sys2Proof.Laws
open Sys2Proof.Machine Sys2Proof.Claim

/-! ### Long operations -/

/-- A long word whose flag has room puts its operation in flight (R37, R128). -/
theorem long_inFlight {c : Ctx} {p : State} {matrix lane : Bool} {rs : List RegWrite} {wait : Waiting} {os : List Word} {flag : Nat}
    (hn : c.flagNo matrix = flag) (hf : flagFree c flag) :
    c.long p matrix lane rs wait os = .done (inFlight c p flag lane rs wait os) := by
  subst hn
  obtain ⟨hne, hlt⟩ := hf
  unfold Ctx.long
  rw [if_neg hne, if_neg (by omega)]
  rfl

theorem carries_inFlight {c : Ctx} {p : State} {flag : Nat} {lane : Bool} {rs : List RegWrite} {wait : Waiting} {os : List Word} (h : carries c p) :
    carries c (inFlight c p flag lane rs wait os) := by
  have hraised := carries_updGroup c.g.gid (·.raise flag) h (fun _ => ⟨rfl, rfl, rfl⟩)
  exact carries_groups hraised rfl

theorem carries_wrote_refl {c : Ctx} {p : State} (h : carries c p) : wrote p c.g.gid noWrites noUni p := by
  obtain ⟨g, hg, -⟩ := h
  exact wrote_refl hg

/-- What a word has written stands beside the operation it then puts in flight. -/
theorem wrote_inFlight {c : Ctx} {p q : State} {w : Writes} {u : UniWrites} (flag : Nat) (lane : Bool) (rs : List RegWrite) (wait : Waiting)
    (os : List Word) (hw : wrote p c.g.gid w u q) :
    wrote (inFlight c p flag lane rs wait os) c.g.gid w u (inFlight c q flag lane rs wait os) := by
  obtain ⟨hframe, hops, hgids, hothers, g, h, hg, hh, hkept, huni, hlen, hlanes⟩ := hw
  have hraised : ∀ x : Group, x.gid = c.g.gid → (x.raise flag).gid = c.g.gid := fun _ hx => hx
  have hfresh : q.fresh = p.fresh := by rw [hframe]
  refine ⟨?_, ?_, ?_, ?_, g.raise flag, h.raise flag, group_updGroup_self _ hg hraised, group_updGroup_self _ hh hraised, ?_, huni, hlen, hlanes⟩
  · unfold inFlight; rw [hframe]; rfl
  · simp only [inFlight, State.updGroup_ops, List.map_append, hops, hfresh]
  · exact (gids_updGroup q _ (·.raise flag) hraised).trans (hgids.trans (gids_updGroup p _ (·.raise flag) hraised).symm)
  · intro id hid
    exact (group_updGroup_other (·.raise flag) hid hraised).trans ((hothers id hid).trans (group_updGroup_other (·.raise flag) hid hraised).symm)
  · rw [hkept]; rfl

/-- A word whose body writes and then puts a long operation in flight has settled with both. -/
theorem issue_wrote_long {s : State} {lane b : Bool} {body : Ctx → Verdict} {c : Ctx} {p q : State} {w : Writes} {u : UniWrites} {rs : List RegWrite}
    {wait : Waiting} {os : List Word} (hi : issues s lane c) (hf : flagFree c c.cl.header.seta) (hb : body c = c.long q false b rs wait os)
    (hw : wrote p c.g.gid w u q) (hp : carries c p) :
    ∃ t, issue s lane body = .next t ∧ settles (inFlight c p c.cl.header.seta b rs wait os) c.g.gid w u t :=
  issue_done hi (hb.trans (long_inFlight rfl hf)) (wrote_inFlight _ _ _ _ _ hw) (carries_stepping (carries_inFlight hp))

/-- A word whose body puts a long operation in flight has settled with it. -/
theorem issue_long {s : State} {lane b : Bool} {body : Ctx → Verdict} {c : Ctx} {p : State} {rs : List RegWrite} {wait : Waiting} {os : List Word}
    (hi : issues s lane c) (hf : flagFree c c.cl.header.seta) (hb : body c = c.long p false b rs wait os) (hp : carries c p) :
    ∃ t, issue s lane body = .next t ∧ settles (inFlight c p c.cl.header.seta b rs wait os) c.g.gid noWrites noUni t :=
  issue_wrote_long hi hf hb (carries_wrote_refl hp) hp

/-- A word whose body is an event takes it, before any effect (R137). -/
theorem issue_trap {s : State} {lane : Bool} {body : Ctx → Verdict} {c : Ctx} {tr : Trap} (hc : s.ctx? lane = some c) (hb : body c = .trap tr) :
    issue s lane body = .next (c.take tr) := by
  unfold issue
  simp only [hc, hb]

/-! ### Another lane's register (R205) -/

/-- One register of one lane written at once, whatever the other lanes do. -/
theorem wrote_putNow_lane {c : Ctx} {p : State} (k r : Nat) (mask v : Word) (hp : carries c p) :
    wrote p c.g.gid (fun l n => if l = k ∧ n = r then some (mask, v) else none) noUni
      ((p.updGroup c.g.gid (fun g => g.updLane k (fun x => x.putNow r mask v))).overtake c.g.gid (some k) r) := by
  obtain ⟨g, hg, -⟩ := hp
  refine wrote_blurred (q := p.updGroup c.g.gid (fun g => g.updLane k (fun x => x.putNow r mask v))) ?_ ⟨rfl, issuedOp_overtake _ _ _ _⟩
  refine wrote_updGroup _ hg (fun _ => rfl) (fun _ _ => rfl) (by simp [Group.updLane]) ?_
  intro l x y hx hy
  simp only [Group.updLane, List.getElem?_modify, hx, Option.map_eq_map, Option.map_some, Option.some.injEq] at hy
  by_cases hl : k = l
  · subst hl
    simp only [if_true] at hy
    subst hy
    have hkin := kin_putNow x r mask v
    refine laneAfter_of_bits (by rw [hkin]) (by rw [hkin]) (by rw [hkin]) (by rw [hkin]) fun n j hn => ?_
    rw [landed_putNow _ _ _ _ _ _ hn, applied_bit]
    by_cases hr : n = r
    · simp [hr]
    · simp [hr]
  · simp only [hl, if_false] at hy
    subst hy
    refine laneAfter_of_bits rfl rfl rfl rfl fun n j _ => ?_
    rw [applied_bit]
    simp [Ne.symm hl]

/-- The model's reading of another lane is the one R205 gives: short results whose latency has passed are seen. -/
theorem laneNow_eq_seenNow (c : Ctx) (k r : Nat) : c.laneNow k r = seenNow c k r := by
  simp only [Ctx.laneNow, seenNow, List.foldl_filter, decide_eq_true_eq]

theorem low5_toNat (y : Word) : (y.extractLsb' 0 5).toNat = y.toNat % 32 := by
  simp [BitVec.extractLsb'_toNat]

end Sys2Proof.Laws
end

section
/-! What reading uniform sources leaves of the groups of a package and of the operations in flight (R36, R204). -/
namespace Sys2Proof.Laws
open Sys2Proof.Machine Sys2Proof.Claim

/-- What a register move asks of a group: which it is, where it stands, its quota, and whether it has exited (R204). -/
structure Seat where
  gid : Nat
  team : Nat
  index : Nat
  quota : Nat
  exited : Bool

def seat (g : Group) : Seat := { gid := g.gid, team := g.team, index := g.index, quota := g.quota, exited := g.exited }

/-- No group's seat and no operation in flight has changed. -/
def seatsKept (s t : State) : Prop := t.groups.map seat = s.groups.map seat ∧ t.ops = s.ops

theorem seatsKept_trans {s t u : State} (h : seatsKept s t) (k : seatsKept t u) : seatsKept s u := ⟨k.1.trans h.1, k.2.trans h.2⟩

theorem seatsKept_of_eq {s t : State} (hg : t.groups = s.groups) (ho : t.ops = s.ops) : seatsKept s t := ⟨by rw [hg], ho⟩

theorem seatsKept_updGroup (s : State) (gid : Nat) (f : Group → Group) (hf : ∀ g, seat (f g) = seat g) : seatsKept s (s.updGroup gid f) := by
  refine ⟨?_, rfl⟩
  rw [State.updGroup_groups, List.map_map]
  refine List.map_congr_left fun g _ => ?_
  simp only [Function.comp]
  split
  · exact hf g
  · rfl

theorem seatsKept_closeRegion (s : State) (gid : Nat) : seatsKept s (s.closeRegion gid) := by
  unfold State.closeRegion
  split
  · exact seatsKept_of_eq rfl rfl
  · exact seatsKept_trans (seatsKept_of_eq rfl rfl) (seatsKept_updGroup _ _ _ fun _ => rfl)

theorem ops_deliverNotice (s : State) (n : Notice) : (s.deliverNotice n).ops = s.ops := by
  unfold State.deliverNotice
  split
  · rfl
  · split
    · rfl
    · split <;> rfl

theorem seatsKept_popTeam {s t : State} {g : Group} {i : Nat} {w : Word} (h : s.popTeam g i = some (t, w)) : seatsKept s t := by
  unfold State.popTeam at h
  split at h
  · cases h
  · dsimp only at h
    split at h
    · split at h
      · simp only [Option.some.injEq, Prod.mk.injEq] at h
        obtain ⟨rfl, -⟩ := h
        have hclose : ∀ u : State, u.groups = s.groups ∧ u.ops = s.ops → seatsKept s (if i = 3 then u else u.closeRegion g.gid) := by
          intro u ⟨hg, ho⟩
          split
          · exact seatsKept_of_eq hg ho
          · exact seatsKept_trans (seatsKept_of_eq hg ho) (seatsKept_closeRegion u g.gid)
        apply hclose
        split
        · exact ⟨rfl, rfl⟩
        · split
          · exact ⟨groups_deliverNotice _ _, ops_deliverNotice _ _⟩
          · exact ⟨rfl, rfl⟩
      · cases h
    · cases h

theorem seatsKept_ureads {c : Ctx} {s t : State} {f : Nat} {x : Word} (h : ureads c s f = some (t, x)) : seatsKept s t := by
  unfold ureads at h
  split at h
  · cases h; exact seatsKept_of_eq rfl rfl
  · split at h
    · cases h
    · exact seatsKept_popTeam h

/-! ### Quotas after the moves under way (R204) -/

theorem quotaAfter_congr {s t : State} {g h : Group} (ho : t.ops = s.ops) (hs : seat h = seat g) : t.quotaAfter h = s.quotaAfter g := by
  have hgid : h.gid = g.gid := congrArg Seat.gid hs
  have hquota : h.quota = g.quota := congrArg Seat.quota hs
  unfold State.quotaAfter
  rw [ho, hgid, hquota]

theorem namesFrom_congr {s t : State} (ho : t.ops = s.ops) (gid lo : Nat) : t.namesFrom gid lo = s.namesFrom gid lo := by
  unfold State.namesFrom
  rw [ho]

/-! ### The group a register move names -/

/-- The group of a team by its index, as RQUOTA finds it. -/
def memberAt (s : State) (team n : Nat) : Option Group := (s.teamGroups team).find? (fun h => decide (h.index = n))

theorem memberAt_eq_find (s : State) (team n : Nat) : memberAt s team n = s.groups.find? (fun h => decide (h.team = team) && decide (h.index = n)) := by
  unfold memberAt State.teamGroups
  rw [List.find?_filter]
  simp only [Bool.decide_and, decide_eq_true_eq]

theorem memberAt_some {s : State} {team n : Nat} {h : Group} (hf : memberAt s team n = some h) : h ∈ s.groups ∧ h.team = team ∧ h.index = n := by
  rw [memberAt_eq_find] at hf
  have hp := List.find?_some hf
  simp only [Bool.and_eq_true, decide_eq_true_eq] at hp
  exact ⟨List.mem_of_find?_eq_some hf, hp⟩

/-- The seat a register move names depends on the seats of the groups alone. -/
theorem memberAt_seat_congr {s t : State} (h : seatsKept s t) (team n : Nat) : (memberAt t team n).map seat = (memberAt s team n).map seat := by
  have hseat : ∀ u : State, (memberAt u team n).map seat = (u.groups.map seat).find? (fun r => decide (r.team = team) && decide (r.index = n)) := by
    intro u
    rw [memberAt_eq_find, List.find?_map]
    rfl
  rw [hseat, hseat, h.1]

/-- The group of a word has the index and the team of the first group of its number. -/
theorem ctx_group_place {s : State} {lane : Bool} {c : Ctx} (h : s.ctx? lane = some c) :
    ∃ g, s.group? c.g.gid = some g ∧ c.g.team = g.team ∧ c.g.index = g.index := by
  obtain ⟨-, g, hg, -, -, -, -, -, hc, -⟩ := ctx_cases h
  obtain ⟨id, -, hid⟩ := Option.bind_eq_some_iff.mp hg
  have hgid : c.g.gid = g.gid := by rw [hc]; rfl
  exact ⟨g, by rw [hgid, group_gid hid]; exact hid, by rw [hc]; rfl, by rw [hc]; rfl⟩

/-- Where a group is changed that keeps its place, another group that a register move names is named still. -/
theorem memberAt_updGroup_other {s : State} {gid team n : Nat} {g g' h : Group} (hg : s.group? gid = some g) (hteam : g'.team = g.team)
    (hindex : g'.index = g.index) (hf : memberAt s team n = some h) (hne : h.gid ≠ gid) :
    memberAt (s.updGroup gid (fun _ => g')) team n = some h := by
  rw [memberAt_eq_find, List.find?_eq_some_iff_append] at hf ⊢
  obtain ⟨hh, as, bs, happ, has⟩ := hf
  refine ⟨hh, as.map (fun x => if x.gid = gid then g' else x), bs.map (fun x => if x.gid = gid then g' else x), ?_, ?_⟩
  · simp only [State.updGroup_groups, happ, List.map_append, List.map_cons, if_neg hne]
  · intro a ha
    obtain ⟨x, hx, rfl⟩ := List.mem_map.mp ha
    by_cases hown : x.gid = gid
    · have hfirst : g ∈ as := by
        unfold State.group? at hg
        rw [happ, List.find?_append] at hg
        cases hl : as.find? (fun g => decide (g.gid = gid)) with
        | none => exact absurd (List.find?_eq_none.mp hl x hx) (by simp [hown])
        | some y =>
          rw [hl] at hg
          cases hg
          exact List.mem_of_find?_eq_some hl
      simpa only [if_pos hown, hteam, hindex] using has g hfirst
    · simpa only [if_neg hown] using has x hx

/-- The start of the effect changes the issuing group alone. -/
theorem memberAt_base {s : State} {lane : Bool} {c : Ctx} (hc : s.ctx? lane = some c) (b : Bool) {n : Nat} {h : Group}
    (hf : memberAt s c.g.team n = some h) (hne : h.gid ≠ c.g.gid) : memberAt (c.base b) c.g.team n = some h := by
  obtain ⟨g, hg, hteam, hindex⟩ := ctx_group_place hc
  rw [← State.ctx?_s hc] at hg hf
  exact memberAt_updGroup_other (g' := { c.g with
      lastIssue := c.cycle, lastLane := (if b then c.cycle else c.g.lastLane), lastUniform := (if b then c.g.lastUniform else c.cycle) })
    hg hteam hindex hf hne

/-- A group that a register move names at the start of the effect is the issuing one or stood before. -/
theorem memberAt_base_origin {c : Ctx} {b : Bool} {team n : Nat} {h : Group} (hf : memberAt (c.base b) team n = some h) :
    h.gid = c.g.gid ∨ h ∈ c.s.groups := by
  obtain ⟨hmem, -⟩ := memberAt_some hf
  obtain ⟨g, hg, rfl⟩ := List.mem_map.mp (show h ∈ c.s.groups.map _ from hmem)
  split
  · exact .inl rfl
  · exact .inr hg

end Sys2Proof.Laws
end

section
/-! SREAD, SWRITE, RDLANE, WRLANE and RQUOTA, and the system registers (R44, R203 to R205). -/
namespace Sys2Proof.Laws
open Sys2Proof.Machine Sys2Proof.Claim

/-! ### The values of the system registers (R44) -/

theorem sysRead_wide {c : Ctx} {n : Nat} {v : BitVec 64} (h : c.sysWide n = some v) :
    c.sysRead n = (v.extractLsb' 0 32, c.g.latch.filter (fun e => decide (e.1 ≠ n + 1)) ++ [(n + 1, v.extractLsb' 32 32)]) := by
  have hlow : v.truncate 32 = v.extractLsb' 0 32 := by ext i hi; simp
  have hhigh : (v >>> 32).truncate 32 = v.extractLsb' 32 32 := by ext i hi; simp
  unfold Ctx.sysRead
  simp only [h, hlow, hhigh]

theorem low32_ofNat (n : Nat) : (BitVec.ofNat 64 n).extractLsb' 0 32 = BitVec.ofNat 32 n := by
  apply BitVec.eq_of_toNat_eq
  simp only [BitVec.extractLsb'_toNat, BitVec.toNat_ofNat, Nat.shiftRight_zero]
  omega

/-- The high half of a 64-bit register, where a read of the low half has latched it. -/
theorem sysRead_latched {c : Ctx} {n : Nat} {w : Word} (hhigh : c.sysWide (n + 1) = none) (hlow : (c.sysWide n).isSome)
    (hl : findKey c.g.latch (n + 1) = some w) : (c.sysRead (n + 1)).1 = w := by
  obtain ⟨v, hv⟩ := Option.isSome_iff_exists.mp hlow
  unfold Ctx.sysRead
  simp only [hhigh, Nat.add_one_ne_zero, if_false, Nat.add_sub_cancel, hv, hl]

/-- A 32-bit register, which is no half of a 64-bit one. -/
theorem sysRead_word {c : Ctx} {n : Nat} (hn : c.sysWide n = none) (hprev : n = 0 ∨ c.sysWide (n - 1) = none) : (c.sysRead n).1 = c.sysWord n := by
  have hnone : (if n = 0 then none else c.sysWide (n - 1)) = none := by
    by_cases h : n = 0
    · rw [if_pos h]
    · rw [if_neg h]; exact hprev.resolve_left h
  unfold Ctx.sysRead
  simp only [hn, hnone]

theorem sysWide_eq_none {c : Ctx} {n : Nat} (h : n ∉ [0x08, 0x0A, 0x0C, 0x10]) : c.sysWide n = none := by
  simp only [List.mem_cons, List.not_mem_nil, or_false, not_or] at h
  unfold Ctx.sysWide
  split <;> simp_all

theorem sysWord_eq_zero {c : Ctx} {n : Nat} (h : n ∉ [0, 1, 2, 3, 4, 5, 6, 0x12]) : c.sysWord n = 0 := by
  simp only [List.mem_cons, List.not_mem_nil, or_false, not_or] at h
  unfold Ctx.sysWord
  split <;> simp_all

theorem findKey_filter_append {α : Type} (m : List (Nat × α)) (k : Nat) (x : α) :
    findKey (m.filter (fun e => decide (e.1 ≠ k)) ++ [(k, x)]) k = some x := by
  have hgone : (m.filter (fun e => decide (e.1 ≠ k))).find? (fun e => decide (e.1 = k)) = none := by
    rw [List.find?_eq_none]
    intro e he
    simpa using (List.mem_filter.mp he).2
  unfold findKey
  rw [List.find?_append, hgone]
  simp

/-- An SREAD of the low half of a 64-bit register latches its high half (R44). -/
theorem sysRead_high_of_latch {c d : Ctx} {n : Nat} {v : BitVec 64} (hn : n ∈ [0x08, 0x0A, 0x0C, 0x10]) (hv : c.sysWide n = some v)
    (hl : d.g.latch = (c.sysRead n).2) (hd : (d.sysWide n).isSome) : (d.sysRead (n + 1)).1 = v.extractLsb' 32 32 := by
  have hhigh : d.sysWide (n + 1) = none := by
    simp only [List.mem_cons, List.not_mem_nil, or_false] at hn
    obtain rfl | rfl | rfl | rfl := hn <;> rfl
  rw [sysRead_wide hv] at hl
  exact sysRead_latched hhigh hd (by rw [hl]; exact findKey_filter_append _ _ _)

theorem systemRegisters : systemRegistersHold := by
  unfold systemRegistersHold
  refine ⟨fun c => ⟨?_, ?_, ?_⟩, fun c g hg => ⟨?_, ?_⟩, fun c x hx => ?_, fun c => ⟨?_, ?_⟩, ?_, ?_⟩
  · exact sysRead_word rfl (.inr rfl)
  · exact sysRead_word rfl (.inr rfl)
  · exact sysRead_word rfl (.inr rfl)
  · rw [sysRead_word rfl (.inl rfl)]
    simp [Ctx.sysWord, hg]
  · have hseed : c.sysWide 0x0C = some g.launch.seed := by simp [Ctx.sysWide, hg]
    rw [sysRead_wide hseed]
  · rw [sysRead_word rfl (.inr rfl)]
    simp [Ctx.sysWord, hx]
  · rw [sysRead_wide (v := BitVec.ofNat 64 c.cycle) rfl]
    exact low32_ofNat _
  · rw [sysRead_wide (v := BitVec.ofNat 64 c.s.time) rfl]
    exact low32_ofNat _
  · exact fun c d n v hn hv hl hd => sysRead_high_of_latch hn hv hl hd
  · intro c n _ hn
    simp only [List.mem_cons, List.not_mem_nil, or_false, not_or] at hn
    have hword := sysWord_eq_zero (c := c) (n := n) (by simp; omega)
    rw [sysRead_word (sysWide_eq_none (by simp; omega)) (.inr (sysWide_eq_none (by simp; omega))), hword]

/-! ### The moves RQUOTA may make (R15, R16, R204) -/

section
variable {s : State} {c : Ctx} {s1 s2 : State} {a b : BitVec 7} {x y : Word}
  (hfit : fits [useUni a.toNat, useUni b.toNat]) (ha : ureads c (c.base false) a.toNat = some (s1, x)) (hb : ureads c s1 b.toNat = some (s2, y))
include hfit ha hb

/-- A move to another group of the team that leaves both quotas in their range, and names no register in use, is under way. -/
theorem execRquota_moves {h : Group} (hi : issues s false c) (hflag : flagFree c c.cl.header.seta)
    (hf : memberAt c.s c.g.team x.toNat = some h) (hy : y.toNat ≠ 0) (hne : h.gid ≠ c.g.gid) (hlive : h.exited = false)
    (hlow : (8 : Int) ≤ c.s.quotaAfter c.g - 8 * (y.toNat : Int)) (hhigh : c.s.quotaAfter h + 8 * (y.toNat : Int) ≤ 104)
    (hnames : c.s.namesFrom c.g.gid (c.s.quotaAfter c.g - 8 * (y.toNat : Int)).toNat = false) :
    ∃ t, exec (.rquota a b) s = .next t ∧
      settles (inFlight c s2 c.cl.header.seta false [] (.quotaMove h.gid y.toNat) []) c.g.gid noWrites noUni t := by
  have hcs := State.ctx?_s hi.1
  have hkept : seatsKept (c.base false) s2 := seatsKept_trans (seatsKept_ureads ha) (seatsKept_ureads hb)
  have hops : s2.ops = c.s.ops := hkept.2
  have hbase : memberAt (c.base false) c.g.team x.toNat = some h := memberAt_base hi.1 false (hcs ▸ hf) hne
  have hmap := memberAt_seat_congr hkept c.g.team x.toNat
  rw [hbase, Option.map_some, Option.map_eq_some_iff] at hmap
  obtain ⟨h', hf', hseat⟩ := hmap
  have hgid : h'.gid = h.gid := congrArg Seat.gid hseat
  have hexit : h'.exited = false := (congrArg Seat.exited hseat).trans hlive
  have hgiver : s2.quotaAfter c.g = c.s.quotaAfter c.g := quotaAfter_congr hops rfl
  have htaker : s2.quotaAfter h' = c.s.quotaAfter h := quotaAfter_congr hops hseat
  refine issue_long (p := s2) hi hflag ?_ (carries_ureads (carries_ureads (carries_base hi.1 false) ha) hb)
  have hmay : ¬(y.toNat = 0 ∨ h.gid = c.g.gid ∨ h'.exited = true ∨ s2.quotaAfter c.g - 8 * (y.toNat : Int) < 8 ∨
      104 < s2.quotaAfter h' + 8 * (y.toNat : Int)) := by
    rw [hexit, hgiver, htaker]
    simp only [hy, hne, Bool.false_eq_true, false_or]
    omega
  unfold memberAt at hf'
  simp only [uses_ok hfit, usrc_reads ha, usrc_reads hb, hf', hgid, if_neg hmay]
  rw [namesFrom_congr hops, hgiver, hnames]
  rfl

/-- A move of nothing, to the group itself, or to none that runs is an illegal operand. -/
theorem execRquota_illegal (hc : s.ctx? false = some c)
    (hbad : y.toNat = 0 ∨ x.toNat = c.g.index ∨ ∀ h ∈ c.s.teamGroups c.g.team, h.index ≠ x.toNat ∨ h.exited)
    (hone : ∀ h ∈ c.s.groups, h.team = c.g.team → h.index = c.g.index → h.gid = c.g.gid) :
    exec (.rquota a b) s = .next (c.take { kind := 2, info := c.run, addr := c.cl.base }) := by
  have hkept : seatsKept (c.base false) s2 := seatsKept_trans (seatsKept_ureads ha) (seatsKept_ureads hb)
  refine issue_trap hc ?_
  simp only [uses_ok hfit, usrc_reads ha, usrc_reads hb]
  split
  · rfl
  · rename_i h' hf'
    have hmap := memberAt_seat_congr hkept c.g.team x.toNat
    rw [show memberAt s2 c.g.team x.toNat = some h' from hf', Option.map_some, eq_comm, Option.map_eq_some_iff] at hmap
    obtain ⟨h, hf, hseat⟩ := hmap
    obtain ⟨-, hteam, hindex⟩ := memberAt_some hf
    have hgid : h'.gid = h.gid := (congrArg Seat.gid hseat).symm
    have hexit : h'.exited = h.exited := (congrArg Seat.exited hseat).symm
    have hrefused : y.toNat = 0 ∨ h.gid = c.g.gid ∨ h.exited = true := by
      obtain hown | hmem := memberAt_base_origin hf
      · exact .inr (.inl hown)
      · obtain hy | hx | hnone := hbad
        · exact .inl hy
        · exact .inr (.inl (hone h hmem hteam (hindex.trans hx)))
        · have hteams : h ∈ c.s.teamGroups c.g.team := List.mem_filter.mpr ⟨hmem, decide_eq_true hteam⟩
          exact .inr (.inr ((hnone h hteams).resolve_left (fun hne => hne hindex)))
    rw [if_pos]
    · rfl
    · rw [hgid, hexit]
      obtain hy | hown | hex := hrefused
      · exact .inl hy
      · exact .inr (.inl hown)
      · exact .inr (.inr (.inl hex))

end

/-! ### The forms -/

/-- The system registers SWRITE reaches, among the results of a long operation. -/
theorem swrite_results (n : BitVec 7) (x : Word) :
    (if n = 0x10 ∨ n = 0x11 ∨ n = 0x12 then [uniResult (sysBase + n.toNat) x] else []) =
      if n.toNat ∈ [0x10, 0x11, 0x12] then [{ lane := none, reg := 256 + n.toNat, mask := whole, value := x, loses := false }] else [] := by
  have hiff : (n = 0x10 ∨ n = 0x11 ∨ n = 0x12) ↔ n.toNat ∈ [0x10, 0x11, 0x12] := by
    simp [← BitVec.toNat_inj]
  simp only [hiff]
  rfl

theorem execSread_settles {s : State} {c : Ctx} {d n : BitVec 7} (hi : issues s false c) (hflag : flagFree c c.cl.header.seta)
    (hfit : fits [useS d.toNat]) :
    ∃ t, exec (.sread d n) s = .next t ∧
      settles (inFlight c ((c.base false).updGroup c.g.gid (fun g => { g with latch := (c.sysRead n.toNat).2 })) c.cl.header.seta false
        [uniResult d.toNat (c.sysRead n.toNat).1] .none []) c.g.gid noWrites noUni t := by
  refine issue_long hi hflag ?_ (carries_updGroup _ _ (carries_base hi.1 false) (fun _ => ⟨rfl, rfl, rfl⟩))
  simp only [uses_ok hfit]

theorem execSwrite_settles {s : State} {c : Ctx} {a n : BitVec 7} {s1 : State} {x : Word} (hi : issues s false c)
    (hflag : flagFree c c.cl.header.seta) (hfit : fits [useUni a.toNat]) (ha : ureads c (c.base false) a.toNat = some (s1, x)) :
    ∃ t, exec (.swrite a n) s = .next t ∧
      settles (inFlight c s1 c.cl.header.seta false
        (if n.toNat ∈ [0x10, 0x11, 0x12] then [{ lane := none, reg := 256 + n.toNat, mask := whole, value := x, loses := false }] else []) .none [])
        c.g.gid noWrites noUni t := by
  refine issue_long hi hflag ?_ (carries_ureads (carries_base hi.1 false) ha)
  simp only [uses_ok hfit, usrc_reads ha, swrite_results]

theorem execRdlane_settles {s : State} {c : Ctx} {d a b : BitVec 7} {s1 : State} {y : Word} (hi : issues s false c)
    (hflag : flagFree c c.cl.header.seta) (hfit : fits [useV c.g.quota a.toNat, useUni b.toNat, useS d.toNat])
    (hb : ureads c (c.base false) b.toNat = some (s1, y)) :
    ∃ t, exec (.rdlane d a b) s = .next t ∧
      settles (inFlight c s1 c.cl.header.seta false
        [{ lane := none, reg := d.toNat, mask := whole, value := seenNow c (y.extractLsb' 0 5).toNat a.toNat, loses := false }] .none [])
        c.g.gid noWrites noUni t := by
  refine issue_long hi hflag ?_ (carries_ureads (carries_base hi.1 false) hb)
  simp only [uses_ok hfit, usrc_reads hb, laneNow_eq_seenNow, low5_toNat]
  rfl

theorem execWrlane_settles {s : State} {c : Ctx} {d a b : BitVec 7} {s1 s2 : State} {x y : Word} (hi : issues s false c)
    (hflag : flagFree c c.cl.header.seta) (hfit : fits [useV c.g.quota d.toNat, useUni a.toNat, useUni b.toNat])
    (ha : ureads c (c.base false) a.toNat = some (s1, x)) (hb : ureads c s1 b.toNat = some (s2, y)) :
    ∃ t, exec (.wrlane d a b) s = .next t ∧
      settles (inFlight c s2 c.cl.header.seta false [] .none []) c.g.gid
        (fun l r => if l = (y.extractLsb' 0 5).toNat ∧ r = d.toNat ∧ (c.g.lane (y.extractLsb' 0 5).toNat).exited = false
          then some (whole, x) else none) noUni t := by
  have hcarries := carries_ureads (carries_ureads (carries_base hi.1 false) ha) hb
  rw [low5_toNat]
  cases hexit : (c.g.lane (y.toNat % 32)).exited with
  | true =>
    simp only [Bool.true_eq_false, and_false, if_false]
    refine issue_long hi hflag ?_ hcarries
    simp only [uses_ok hfit, usrc_reads ha, usrc_reads hb, hexit, if_true]
  | false =>
    simp only [and_true]
    refine issue_wrote_long hi hflag ?_ (wrote_putNow_lane (y.toNat % 32) d.toNat whole x hcarries) hcarries
    simp only [uses_ok hfit, usrc_reads ha, usrc_reads hb, hexit, Bool.false_eq_true, if_false]
    rfl

theorem systemForms : systemFormsHold :=
  ⟨fun _ _ _ _ hi hflag hfit => execSread_settles hi hflag hfit,
    fun _ _ _ _ _ _ hi hflag hfit ha => execSwrite_settles hi hflag hfit ha,
    fun _ _ _ _ _ _ _ hi hflag hfit hb => execRdlane_settles hi hflag hfit hb,
    fun _ _ _ _ _ _ _ _ _ hi hflag hfit ha hb => execWrlane_settles hi hflag hfit ha hb,
    fun _ _ _ _ _ _ _ _ _ hi hflag hfit ha hb hf hy hne hlive hlow hhigh hnames =>
      execRquota_moves hfit ha hb hi hflag hf hy hne hlive hlow hhigh hnames,
    fun _ _ _ _ _ _ _ _ hc hfit ha hb hbad hone => execRquota_illegal hfit ha hb hc hbad hone⟩

/-- Settles O16: each form puts in flight what it reads, writes at once or moves (R203 to R205), an RQUOTA that may not move is an illegal
operand (R16), and the system registers read as R44 lists them. -/
theorem systemFormsAndRegisters : Obligations.SystemFormsAndRegisters := ⟨systemForms, systemRegisters⟩

end Sys2Proof.Laws
end

section
/-! What serving the waits, and telling teams and objects, leaves of the Survey units and of the groups (R65, R109, R182). -/
namespace Sys2Proof.Laws
open Sys2Proof.Machine Sys2Proof.Claim

/-- Every group stands still under its number, and none has come to step alone (R331). -/
def stands (s t : State) : Prop := ∀ gid g, s.group? gid = some g → ∃ h, t.group? gid = some h ∧ (g.stepping = false → h.stepping = false)

/-- The Survey units are as they were, and every group stands. -/
structure Served (s t : State) : Prop where
  surveys : t.surveys = s.surveys
  groups : stands s t

/-! ### Steps of the relation -/

theorem stands_of_eq {s t : State} (h : t.groups = s.groups) : stands s t := fun gid g hg =>
  ⟨g, by unfold State.group? at *; rw [h]; exact hg, id⟩

theorem stands_trans {s t u : State} (h : stands s t) (k : stands t u) : stands s u := fun gid g hg =>
  let ⟨g', hg', hstep⟩ := h gid g hg
  let ⟨g'', hg'', hstep'⟩ := k gid g' hg'
  ⟨g'', hg'', hstep' ∘ hstep⟩

theorem stands_updGroup (s : State) (gid : Nat) (f : Group → Group)
    (hf : ∀ x, (f x).gid = x.gid ∧ (x.stepping = false → (f x).stepping = false)) : stands s (s.updGroup gid f) := by
  intro id g hg
  have hkey : ∀ x : Group, x.gid = gid → (f x).gid = gid := fun x hx => (hf x).1.trans hx
  by_cases hid : id = gid
  · subst hid
    exact ⟨f g, group_updGroup_self f hg hkey, (hf g).2⟩
  · exact ⟨g, (group_updGroup_other f hid hkey).trans hg, fun h => h⟩

theorem Served.of_eq {s t : State} (hsurveys : t.surveys = s.surveys) (hgroups : t.groups = s.groups) : Served s t :=
  ⟨hsurveys, stands_of_eq hgroups⟩

theorem Served.refl (s : State) : Served s s := .of_eq rfl rfl

theorem Served.trans {s t u : State} (h : Served s t) (k : Served t u) : Served s u :=
  ⟨k.surveys.trans h.surveys, stands_trans h.groups k.groups⟩

theorem Served.updGroup (s : State) (gid : Nat) (f : Group → Group)
    (hf : ∀ x, (f x).gid = x.gid ∧ (x.stepping = false → (f x).stepping = false)) : Served s (s.updGroup gid f) :=
  ⟨rfl, stands_updGroup s gid f hf⟩

theorem Served.foldl {α : Type} (f : State → α → State) (hf : ∀ s a, Served s (f s a)) (l : List α) (s : State) : Served s (l.foldl f s) := by
  induction l generalizing s with
  | nil => exact .refl s
  | cons a rest ih => exact (hf s a).trans (ih _)

/-! ### Regions, releases, events -/

theorem served_closeRegion (s : State) (gid : Nat) : Served s (s.closeRegion gid) := by
  unfold State.closeRegion
  split
  · exact .refl s
  · refine Served.trans ?_ (Served.updGroup _ _ _ fun _ => ⟨rfl, id⟩)
    exact .of_eq rfl rfl

theorem served_release (s : State) (gid scope : Nat) (places : List Place) : Served s (s.release gid scope places) := by
  refine (served_closeRegion s gid).trans ?_
  unfold State.release
  dsimp only
  split <;> exact .of_eq rfl rfl

theorem served_acquire (s : State) (gid scope : Nat) (reads : Place → Bool) : Served s (s.acquire gid scope reads) := by
  refine (served_closeRegion s gid).trans ?_
  unfold State.acquire
  dsimp only
  split <;> exact .of_eq rfl rfl

theorem served_post (s : State) (r : Record) : Served s (s.post r) := by
  unfold State.post
  split <;> exact .of_eq rfl rfl

theorem served_stopGroup (s : State) (gid : Nat) (st : Stop) : Served s (s.stopGroup gid st) := by
  unfold State.stopGroup State.softBoundary
  refine Served.trans ?_ (Served.updGroup _ _ _ fun _ => ⟨rfl, fun _ => rfl⟩)
  exact (served_closeRegion s gid).trans (.of_eq rfl rfl)

theorem served_lateTrap (s : State) (o : LongOp) (t : Trap) : Served s (s.lateTrap o t) := by
  unfold State.lateTrap
  split
  · exact .refl s
  · split
    · exact .refl s
    · exact (served_post _ _).trans (served_stopGroup _ _ _)

theorem served_sendMarkers {s t : State} {id : Nat} {m : BitVec 64} (h : s.sendMarkers id m = some t) : Served s t := by
  unfold State.sendMarkers at h
  split at h <;> cases h
  exact .of_eq rfl rfl

/-! ### Waits that are served -/

theorem served_opAcquires (s : State) (o : LongOp) (scope : Nat) (reads : Place → Bool) : Served s (s.opAcquires o scope reads) := by
  unfold State.opAcquires
  split
  · exact .of_eq rfl rfl
  · exact served_acquire _ _ _ _

theorem served_tagRole (s : State) (o : LongOp) (kind size scope : Nat) (l : TagLane) : Served s (s.tagRole o kind size scope l) := by
  unfold State.tagRole
  dsimp only
  split
  · split
    · exact .of_eq rfl rfl
    · refine Served.trans ?_ (served_release _ _ _ _)
      exact .of_eq rfl rfl
  · split
    · exact .refl s
    · exact served_opAcquires _ _ _ _

theorem served_finishWait (s : State) (o : LongOp) (rs : List RegWrite) : Served s (s.finishWait o rs) := .of_eq rfl rfl

theorem served_servePoison {s u t : State} {o : LongOp} {a n : Nat} (hu : Served s u) (ht : s.servePoison o a n (some u) = some t) : Served s t := by
  unfold State.servePoison at ht
  split at ht
  · cases ht; exact hu
  · split at ht <;> cases ht
    exact served_lateTrap _ _ _

theorem served_serveFlush {s t : State} {o : LongOp} {ws : List Nat} (ht : s.serveFlush o ws = some t) : Served s t := by
  unfold State.serveFlush at ht
  split at ht
  · cases ht
  · dsimp only at ht
    split at ht
    · cases ht
    · split at ht
      · cases ht
        exact served_lateTrap _ _ _
      · split at ht
        · exact served_sendMarkers ht
        · cases ht
          exact (served_finishWait s o []).trans (served_release _ _ _ _)

theorem served_serveOp {s t : State} {o : LongOp} (ht : s.serveOp o = some t) : Served s t := by
  unfold State.serveOp at ht
  split at ht
  case h_1 => exact served_serveFlush ht
  case h_2 => cases ht
  case h_3 kind size scope dst lanes _ _ =>
    split at ht
    · cases ht
    · next l _ =>
      dsimp only at ht
      have hgo : ∀ m f, Served s (((s.tagRole o kind size scope l).setMem m).updOp o.id f) :=
        fun _ _ => (served_tagRole s o kind size scope l).trans (.of_eq rfl rfl)
      split at ht
      · exact served_servePoison (hgo _ _) ht
      · cases ht
        exact hgo _ _
  case h_4 =>
    split at ht
    · cases ht
    · exact served_servePoison ((served_finishWait s o _).trans (served_opAcquires _ _ _ _)) ht
  case h_5 =>
    dsimp only at ht
    split at ht
    · refine served_servePoison ?_ ht
      split
      · exact (served_finishWait s o _).trans (served_acquire _ _ _ _)
      · exact served_finishWait s o _
    · cases ht
  case h_6 =>
    dsimp only at ht
    split at ht
    · exact served_servePoison ((served_finishWait s o _).trans (served_opAcquires _ _ _ _)) ht
    · cases ht
  case h_7 =>
    split at ht
    · split at ht <;> cases ht
      exact ((served_finishWait s o _).trans (served_acquire _ _ _ _)).trans (.updGroup _ _ _ fun x => by split <;> exact ⟨rfl, id⟩)
    · cases ht
  case h_8 =>
    split at ht
    · split at ht <;> cases ht
      exact ((served_finishWait s o _).trans (served_acquire _ _ _ _)).trans (.updGroup _ _ _ fun x => by split <;> exact ⟨rfl, id⟩)
    · cases ht
  case h_9 => cases ht

theorem served_serveLoop (fuel : Nat) (s : State) : Served s (serveLoop fuel s) := by
  induction fuel generalizing s with
  | zero => exact .refl s
  | succ fuel ih =>
    unfold serveLoop
    split
    · exact .refl s
    · next t ht =>
      obtain ⟨o, -, ho⟩ := List.exists_of_findSome?_eq_some ht
      exact (served_serveOp ho).trans (ih t)

theorem served_serve (s : State) : Served s s.serve := served_serveLoop _ s

/-! ### Objects and ports -/

theorem served_errorObject (s : State) (obj : Option Nat) (code : Word) : Served s (s.errorObject obj code) := by
  unfold State.errorObject
  split <;> exact .of_eq rfl rfl

theorem served_mergeNotice (s : State) (u : Nat) (w : Sweep) (q : Subscription) (flags : Nat) : Served s (s.mergeNotice u w q flags) := by
  unfold State.mergeNotice State.toPort State.toPortFrom
  split
  · exact .refl s
  · split
    · exact .refl s
    · split <;> exact .of_eq rfl rfl

end Sys2Proof.Laws
end

section
/-! Words of the engines and of the Survey units at issue: descriptors, handles, commands (R96 to R99, R105, R110, R228, R239 to R243). -/
namespace Sys2Proof.Laws
open Sys2Proof.Machine Sys2Proof.Claim

/-! ### The issue of an engine word (R37, R128) -/

/-- The issuing group stands, and does not step alone where the word was issued without (R331). -/
def attends (c : Ctx) (s : State) : Prop := ∃ g, s.group? c.g.gid = some g ∧ (c.g.stepping = false → g.stepping = false)

theorem attends_stands {c : Ctx} {s t : State} (h : attends c s) (k : stands s t) : attends c t :=
  let ⟨g, hg, hstep⟩ := h
  let ⟨g', hg', hstep'⟩ := k c.g.gid g hg
  ⟨g', hg', hstep' ∘ hstep⟩

theorem attends_base {s : State} {lane : Bool} {c : Ctx} (h : s.ctx? lane = some c) (b : Bool) : attends c (c.base b) :=
  let ⟨g, hg, _, hstep⟩ := carries_base h b
  ⟨g, hg, fun h => hstep.trans h⟩

theorem attends_inFlight {c : Ctx} {p : State} {flag : Nat} {lane : Bool} {rs : List RegWrite} {wait : Waiting} {os : List Word} (h : attends c p) :
    attends c (inFlight c p flag lane rs wait os) :=
  attends_stands (attends_stands h (stands_updGroup p c.g.gid (·.raise flag) fun _ => ⟨rfl, fun h => h⟩)) (stands_of_eq rfl)

theorem flagNo_engine (c : Ctx) : c.flagNo true = longFlag c := by
  unfold Ctx.flagNo longFlag
  by_cases h : c.cl.header.setb = 15 <;> simp [h]

/-- An engine word whose body puts a long operation in flight has settled with it, whatever has stopped the group meanwhile. -/
theorem issue_engine {s : State} {lane b : Bool} {body : Ctx → Verdict} {c : Ctx} {p : State} {rs : List RegWrite} {wait : Waiting} {os : List Word}
    (hi : issues s lane c) (hf : flagFree c (longFlag c)) (hb : body c = c.long p true b rs wait os) (hp : attends c p) :
    ∃ t, issue s lane body = .next t ∧ settles (inFlight c p (longFlag c) b rs wait os) c.g.gid noWrites noUni t := by
  rw [long_inFlight (flagNo_engine c) hf] at hb
  obtain ⟨g, hg, hstep⟩ := attends_inFlight (flag := longFlag c) (lane := b) (rs := rs) (wait := wait) (os := os) hp
  have hmoves := settles_of_moved (fun g => g.advance c.cl c.run 0 0) (fun g => moved_advance g _ _ _ _) (wrote_refl hg)
  have hquiet : (g.advance c.cl c.run 0 0).stepping = false ∨ (g.advance c.cl c.run 0 0).clause.isNone = false := by
    obtain hfree | hmore := hi.2
    · left
      rw [(moved_advance g c.cl c.run 0 0).1]
      exact hstep hfree
    · exact .inr (advance_clause _ _ _ _ _ hmore)
  refine ⟨_, ?_, hmoves⟩
  unfold issue
  simp only [hi.1, hb]
  rw [afterClause_quiet (group_updGroup_self _ hg fun x hx => (gid_advance x _ _ _ _).trans hx) hquiet]

/-! ### Descriptors (R227) -/

theorem descWord_desc (c : Ctx) (d : BitVec 7) {n i : Nat} (h : i < n) : descWord (c.desc d n) i = reg c d.toNat i := by
  unfold descWord Ctx.desc reg
  simp [h]

theorem descPair_desc (c : Ctx) (d : BitVec 7) {n i : Nat} (h : i + 1 < n) : descPair (c.desc d n) i = long c d.toNat i := by
  unfold descPair long
  rw [descWord_desc c d h, descWord_desc c d (Nat.lt_of_succ_lt h)]

/-- A word or object that passes its checks (R67, R71, R228). -/
theorem named_ok {c : Ctx} {need : Acc} {addr align kind p : Nat} {k : Nat → Verdict} (h : named c need addr align p) :
    c.named need addr align kind k = k p := by
  obtain ⟨halign, haccess, v, hvault⟩ := h
  have hobject : objectOk align addr p = true := by simp [objectOk, halign, vaultBacked, hvault]
  have hown : ownVault p = true := by simp [ownVault, hvault]
  unfold Ctx.named
  simp [halign, haccess, hobject, hown]

/-! ### Commands (R228) -/

theorem closeRegion_frame (s : State) (gid : Nat) :
    s.closeRegion gid = { s with groups := (s.closeRegion gid).groups, pendingWrites := (s.closeRegion gid).pendingWrites } := by
  unfold State.closeRegion
  split <;> rfl

/-- A release changes the releasing group's region and what the pending writes know, and nothing else (R85). -/
theorem release_frame (s : State) (gid scope : Nat) (places : List Place) :
    s.release gid scope places =
      { s with groups := (s.release gid scope places).groups, pendingWrites := (s.release gid scope places).pendingWrites } := by
  unfold State.release
  dsimp only
  rw [closeRegion_frame]
  split <;> rfl

/-- The places a command's ranges lie in are among those the issuer may reach without gathering markers first. -/
def withinPieces (cm : Command) (ps : List (Nat × Nat)) : Prop := ∀ r ∈ cm.region ++ cm.entries.flatMap (·.ranges), ∃ p ∈ ps, r.1 = p.1

theorem issue_command {s : State} {body : Ctx → Verdict} {c : Ctx} {cm : Command} {ps : List (Nat × Nat)} {kind : Nat} {object : Option Nat}
    {told : Command → Prop} (hi : issues s false c) (hf : flagFree c (longFlag c)) (hb : body c = c.command cm) (hmay : mayIssue c ps)
    (hwithin : withinPieces cm ps)
    (hcm : cm.id = c.s.fresh ∧ cm.gid = c.g.gid ∧ cm.team = c.g.team ∧ cm.core = c.s.coreOf c.g ∧ cm.inset = c.insetId ∧ cm.kind = kind ∧
      cm.object = object ∧ cm.state = .issued ∧ cm.progress = 0 ∧ cm.delivered = 0 ∧ told cm) :
    ∃ t, issue s false body = .next t ∧ commanded c t kind object told := by
  obtain ⟨⟨hcharged, hunserved⟩, hwritten⟩ := hmay
  have hnear : (if cm.remote then 4 else 3) ≠ 4 ∨ c.g.written = 0 := by
    refine hwritten.symm.imp_left fun hnone => ?_
    have hlocal : cm.remote = false := by
      unfold Command.remote
      rw [List.any_eq_false]
      intro r hr
      obtain ⟨p, hp, hrp⟩ := hwithin r hr
      rw [hrp, hnone p hp]
      simp
    simp [hlocal]
  have hframe := release_frame (c.base false) c.g.gid (if cm.remote then 4 else 3) []
  have hattends : attends c { ((c.base false).release c.g.gid (if cm.remote then 4 else 3) []).teach c.g.gid cm.id with
      commands := c.s.commands ++ [cm], fresh := c.s.fresh + 1 } :=
    attends_stands (attends_stands (attends_base hi.1 false) (served_release _ _ _ _).groups) (stands_of_eq rfl)
  have hbody : body c = c.long { ((c.base false).release c.g.gid (if cm.remote then 4 else 3) []).teach c.g.gid cm.id with
      commands := c.s.commands ++ [cm], fresh := c.s.fresh + 1 } true false [] (.accept cm.id) [] := by
    rw [hb]
    unfold Ctx.command Ctx.charged Ctx.gathered
    simp only [hcharged, hunserved, Bool.false_eq_true, if_false, if_pos hnear]
    rw [hframe]
    rfl
  obtain ⟨t, ht, hset⟩ := issue_engine hi hf hbody hattends
  exact ⟨t, ht, cm, hset, hcm⟩

end Sys2Proof.Laws
end

section
/-! The six SV instructions (R96 to R99, R104 to R106, R110, R239 to R243). -/
namespace Sys2Proof.Laws
open Sys2Proof.Machine Sys2Proof.Claim

/-! ### What leaves the groups -/

theorem checkClose_frame (s : State) (u : Nat) : s.checkClose u = { s with surveys := (s.checkClose u).surveys } := by
  unfold State.checkClose
  extract_lets closed
  have hclosed : closed = { s with surveys := closed.surveys } := by
    unfold closed
    split
    · rfl
    · split <;> rfl
  split
  · exact hclosed
  · split
    · rw [hclosed]; rfl
    · exact hclosed

theorem checkClose_groups (s : State) (u : Nat) : (s.checkClose u).groups = s.groups := by rw [checkClose_frame]

/-- Ending a sweep at once leaves every group standing (R110). -/
theorem stands_cancelSweep (s : State) (u : Nat) (p : SweepPlace) (w : Sweep) (code : Word) (notify : Bool) :
    stands s (s.cancelSweep u p w code notify) := by
  unfold State.cancelSweep
  extract_lets open_ ended w' drop quiet kept swept
  have hended : stands s ended := (Served.foldl _ (fun s q => served_errorObject s _ _) open_ s).groups
  have hswept : stands s swept := stands_trans hended (stands_of_eq rfl)
  refine stands_trans ?_ (served_serve _).groups
  split
  · exact stands_trans hswept (Served.foldl _ (fun s q => served_mergeNotice s _ _ _ _) open_ swept).groups
  · exact hswept

/-- Which sweeps a unit holds once its running one has been ended at once, and which pages in flight keep their slots (R110). -/
theorem cancelSweep_surveys (s : State) (u : Nat) (w : Sweep) (code : Word) (notify : Bool) :
    (s.cancelSweep u .running w code notify).surveys = s.surveys.modify u (fun v =>
      { v with
        running := none
        last := some { w with closed := true, cancelled := true,
                              subs := w.subs.map (fun q => { q with finished := true, due := [], masked := [], held := [], acc := none }) }
        staging := v.staging.filter (fun t => decide (t.sweep ≠ w.sequence) || !t.landed) }) := by
  unfold State.cancelSweep
  extract_lets open_ ended w' drop quiet kept swept
  have hended : ended.surveys = s.surveys := (Served.foldl _ (fun s q => served_errorObject s _ _) open_ s).surveys
  have hswept : swept.surveys = s.surveys.modify u (fun v => { v with running := none, last := some w', staging := kept v }) := by
    rw [← hended]
    rfl
  rw [(served_serve _).surveys]
  split
  · rw [(Served.foldl _ (fun s q => served_mergeNotice s _ _ _ _) open_ swept).surveys, hswept]
  · exact hswept

/-! ### SVSWEEP (R96, R240) -/

/-- The sweep that a descriptor starts. -/
def newSweep (c : Ctx) (d : BitVec 7) : Sweep :=
  { sequence := (c.s.survey (reg c d.toNat 0 % 8)).sequence
    inset := c.insetId
    desc := c.desc d 5
    next := 0
    highest := none
    fetched := 0
    committed := 0
    closed := false
    cancelled := false
    subs := [] }

/-- A unit that has taken a sweep: to run, or behind the one it runs. -/
def takesSweep (w : Sweep) (v : Survey) : Survey :=
  { v with
    sequence := if v.sequence = 8191 then 1 else v.sequence + 1
    running := (v.running.orElse (fun _ => v.pending)).orElse (fun _ => some w)
    pending := if v.running = none ∧ v.pending = none then none else some w }

theorem takesSweep_eq (w : Sweep) (v : Survey) :
    { v with
      sequence := if v.sequence = 8191 then 1 else v.sequence + 1
      running := if v.running.isSome then v.running else if v.pending.isSome then v.pending else some w
      pending := if v.running.isSome ∨ v.pending.isSome then some w else none } = takesSweep w v := by
  unfold takesSweep
  cases v.running <;> cases v.pending <;> simp

section
variable {s : State} {c : Ctx} {d : BitVec 7} (hi : issues s false c) (hf : flagFree c (longFlag c)) (hfit : fits [useDesc d.toNat 5])
  (hlegal : reg c d.toNat 0 / 2 ^ 11 % 32 = 0 ∧ reg c d.toNat 0 / 2 ^ 6 % 4 = 0 ∧ reg c d.toNat 0 / 8 % 2 = 0 ∧ reg c d.toNat 3 < 2 ^ 16 ∧
    reg c d.toNat 1 % 8 = 0)
include hi hf hfit hlegal

theorem execSvsweep_busy (hrunning : (c.s.survey (reg c d.toNat 0 % 8)).running ≠ none) (hpending : (c.s.survey (reg c d.toNat 0 % 8)).pending ≠ none) :
    ∃ t, exec (.svsweep d) s = .next t ∧
      settles (inFlight c (c.base false) (longFlag c) false [uniResult d.toNat 0x06000000] .none []) c.g.gid noWrites noUni t := by
  obtain ⟨h11, h6, h3, hcount, halign⟩ := hlegal
  refine issue_engine hi hf ?_ (attends_base hi.1 false)
  have hhigh : reg c d.toNat 3 / 2 ^ 16 = 0 := Nat.div_eq_of_lt hcount
  rw [← Option.isSome_iff_ne_none] at hrunning hpending
  simp only [uses_ok hfit, descWord_desc c d (show 0 < 5 by omega), descWord_desc c d (show 1 < 5 by omega), descWord_desc c d (show 3 < 5 by omega),
    h11, h6, h3, hhigh, halign, ne_eq, not_true_eq_false, or_self, if_false, hrunning, hpending, Bool.and_self, if_true]
  rfl

theorem execSvsweep_starts (hroom : (c.s.survey (reg c d.toNat 0 % 8)).running = none ∨ (c.s.survey (reg c d.toNat 0 % 8)).pending = none) :
    ∃ t, exec (.svsweep d) s = .next t ∧
      settles (inFlight c (((c.base false).updSurvey (reg c d.toNat 0 % 8) (takesSweep (newSweep c d))).checkClose (reg c d.toNat 0 % 8)) (longFlag c) false
        [uniResult d.toNat (BitVec.ofNat 32 (reg c d.toNat 0 % 8 * 2 ^ 13 + (c.s.survey (reg c d.toNat 0 % 8)).sequence))] .none [])
        c.g.gid noWrites noUni t := by
  obtain ⟨h11, h6, h3, hcount, halign⟩ := hlegal
  have hhigh : reg c d.toNat 3 / 2 ^ 16 = 0 := Nat.div_eq_of_lt hcount
  have hone : ((c.s.survey (reg c d.toNat 0 % 8)).running.isSome && (c.s.survey (reg c d.toNat 0 % 8)).pending.isSome) = false := by
    obtain h | h := hroom <;> simp [h]
  refine issue_engine hi hf ?_ (attends_stands (attends_base hi.1 false) (stands_of_eq (checkClose_groups _ _)))
  simp only [uses_ok hfit, descWord_desc c d (show 0 < 5 by omega), descWord_desc c d (show 1 < 5 by omega), descWord_desc c d (show 3 < 5 by omega),
    h11, h6, h3, hhigh, halign, ne_eq, not_true_eq_false, or_self, if_false, hone, Bool.false_eq_true, takesSweep_eq]
  rfl

end

/-! ### SVSUB (R97 to R99, R241) -/

theorem risingBelow_of {n : Nat} {xs : List Nat} (hrising : xs.Pairwise (· < ·)) (hbelow : ∀ x ∈ xs, x < n) : risingBelow n xs = true := by
  simpa [risingBelow, hrising] using hbelow

/-- Nothing refuses a subscription to a sweep that is open, of a well-formed list and ring, with room, that comes before its lowest page (R98, R99). -/
theorem subStatus_ok {p : SweepPlace} {w : Sweep} {v : Survey} {list : List Nat} {core ring : Nat} {slots : List Nat} (hplace : p ≠ .last)
    (hopen : w.closed = false) (hlist : risingBelow w.count list = true) (hring : ∀ q ∈ w.subs, q.core = core → q.ring = ring)
    (hsubs : w.subs.length < 2016) (hcore : (w.subs.filter (fun q => decide (q.core = core))).length < 32)
    (htable : (((v.running.map (·.subs)).getD [] ++ (v.pending.map (·.subs)).getD []).filter (fun q => !q.finished)).length < 4096)
    (hnew : ∀ h, w.highest = some h → h < list.headD 0) : subStatus (some (p, w)) v list core ring (some slots) = 0 := by
  have hsame : w.subs.any (fun q => decide (q.core = core ∧ q.ring ≠ ring)) = false := by
    rw [List.any_eq_false]
    intro q hq
    simpa using hring q hq
  have hroom : ¬(2016 ≤ w.subs.length ∨ 32 ≤ (w.subs.filter (fun q => decide (q.core = core))).length ∨
      4096 ≤ (((v.running.map (·.subs)).getD [] ++ (v.pending.map (·.subs)).getD []).filter (fun q => !q.finished)).length) := by omega
  unfold subStatus
  simp only [hopen, hplace, hlist, hsame, Bool.false_eq_true, or_self, Bool.not_true, if_false, reduceCtorEq, if_neg hroom]
  split
  · next h hh => exact if_neg (Nat.not_le.mpr (hnew h hh))
  · rfl

/-- The core a descriptor of SVSUB names. -/
def subCore (c : Ctx) (d : BitVec 7) : Nat := 16 * (reg c d.toNat 3 / 16 % 16) + reg c d.toNat 3 % 16

/-- The subscription that a descriptor of SVSUB describes. -/
def newQuery (c : Ctx) (d : BitVec 7) (tid obj : Nat) (lp : List (Nat × Nat)) (slots : List Nat) (w : Sweep) : Subscription :=
  { query := reg c d.toNat 0 / 2 ^ 16
    number := (w.subs.filter (fun q => decide (q.team = tid))).length
    list := pagesOf c lp (reg c d.toNat 3 / 2 ^ 16 + 1)
    core := subCore c d
    team := tid
    ring := long c d.toNat 4
    slots := slots
    limit := reg c d.toNat 6 % 2 ^ 24
    format := reg c d.toNat 6 / 2 ^ 24 % 64
    output := long c d.toNat 7
    object := obj
    owner := c.g.team
    acc := none
    due := []
    masked := []
    held := []
    served := false
    finished := false
    barred := false }

theorem execSvsub_accepts {s : State} {c : Ctx} {d a : BitVec 7} {tid obj : Nat} {lp : List (Nat × Nat)} {p : SweepPlace} {w : Sweep} {slots : List Nat}
    (hi : issues s false c) (hf : flagFree c (longFlag c)) (hfit : fits [useDesc d.toNat 9, useSPair a.toNat])
    (hteam : c.destination (subCore c d) = some tid)
    (hlegal : reg c d.toNat 3 / 2 ^ 8 % 256 = 0 ∧ reg c d.toNat 6 < 2 ^ 30 ∧ reg c d.toNat 6 / 2 ^ 24 % 64 ≤ 4 ∧
      long c d.toNat 7 % outputBytes (reg c d.toNat 6 / 2 ^ 24 % 64) = 0 ∧ long c d.toNat 1 % 2 = 0)
    (hobj : named c .w (c.spair a.toNat).toNat 16 obj)
    (hlp : c.s.checkSpan c.insetId .r (long c d.toNat 1) (2 * (reg c d.toNat 3 / 2 ^ 16 + 1)) = (lp, none))
    (hclean : ∀ q ∈ lp, c.s.mem.poisoned q.1 q.2 = false) (hsweep : c.s.findSweep c.insetId (reg c d.toNat 0 % 2 ^ 16) = some (p, w))
    (hslots : c.s.ringSlots c.insetId (subCore c d) (long c d.toNat 4) = some slots)
    (hstatus : subStatus (some (p, w)) (c.s.survey (reg c d.toNat 0 % 2 ^ 16 / 2 ^ 13)) (pagesOf c lp (reg c d.toNat 3 / 2 ^ 16 + 1)) (subCore c d)
      (long c d.toNat 4) (some slots) = 0) :
    ∃ t, exec (.svsub d a) s = .next t ∧
      settles (inFlight c ((c.base false).updSweep (reg c d.toNat 0 % 2 ^ 16 / 2 ^ 13) p
        (fun w' => { w' with subs := w'.subs ++ [newQuery c d tid obj lp slots w] })) (longFlag c) false
        [uniResult d.toNat (BitVec.ofNat 32 ((newQuery c d tid obj lp slots w).number * 2 ^ 16))] .none []) c.g.gid noWrites noUni t := by
  obtain ⟨hreserved, hlimit, hformat, houtput, hlist⟩ := hlegal
  have hhigh : reg c d.toNat 6 / 2 ^ 30 = 0 := Nat.div_eq_of_lt hlimit
  have hformat' : ¬ 4 < reg c d.toNat 6 / 2 ^ 24 % 64 := by omega
  have hpoison : lp.any (fun p => c.s.mem.poisoned p.1 p.2) = false := by
    rw [List.any_eq_false]
    intro q hq
    simp [hclean q hq]
  unfold subCore at hteam hslots hstatus
  unfold pagesOf at hstatus
  refine issue_engine hi hf ?_ (attends_stands (attends_base hi.1 false) (stands_of_eq rfl))
  simp only [uses_ok hfit, descWord_desc c d (show 0 < 9 by omega), descWord_desc c d (show 3 < 9 by omega), descWord_desc c d (show 6 < 9 by omega),
    descPair_desc c d (show 1 + 1 < 9 by omega), descPair_desc c d (show 4 + 1 < 9 by omega), descPair_desc c d (show 7 + 1 < 9 by omega),
    hteam, hreserved, hhigh, hformat', houtput, hlist, ne_eq, not_true_eq_false, or_self, if_false, Ctx.objectA, named_ok hobj, hlp, hpoison,
    Bool.false_eq_true, hsweep, hslots, hstatus]
  rfl

/-! ### SVPART (R105, R106, R242) -/

/-- The check of an access that passes (R60). -/
theorem checkAccess_one {c : Ctx} {need : Acc} {n lane a p : Nat} {k : List Access → Verdict} (h : c.s.access c.insetId need a n = .ok p) :
    c.checkAccess false [need] n [(lane, a)] k = k [{ lane := lane, address := a, phys := p }] := by
  unfold State.access at h
  simp [Ctx.checkAccess, h]

theorem execSvpart_posts {s : State} {c : Ctx} {d : BitVec 7} {p0 : Nat} {ps : List (Nat × Nat)} (hi : issues s false c) (hf : flagFree c (longFlag c))
    (hfit : fits [useDesc d.toNat 2]) (haccess : c.s.access c.insetId .r (long c d.toNat 0) 16 = .ok p0)
    (hlocal : localRange c .r (long c d.toNat 0) (c.s.partialBytes (c.s.mem.word p0).toNat) ps) (hmay : mayIssue c ps) :
    ∃ t, exec (.svpart d) s = .next t ∧ commanded c t 11 none (fun cm =>
      cm.src.base = long c d.toNat 0 ∧ cm.src.length = c.s.partialBytes (c.s.mem.word p0).toNat ∧ cm.origin.kind = 0x25 ∧
      cm.origin.addr = long c d.toNat 0) := by
  obtain ⟨hspan, hvault⟩ := hlocal
  have hinside : piecesInVault (c.s.coreOf c.g) ps = true := List.all_eq_true.mpr hvault
  let new := c.newCommand 11 0 0 (c.desc d 2) none
  refine issue_command (cm := { (new.withRanges ps []) with
      src := { base := long c d.toNat 0, length := c.s.partialBytes (c.s.mem.word p0).toNat, pieces := some ps }
      origin := { new.origin with kind := 0x25, sub := 0, info := 0, addr := long c d.toNat 0 } }) hi hf ?_ hmay ?_
    ⟨rfl, rfl, rfl, rfl, rfl, rfl, rfl, rfl, rfl, rfl, rfl, rfl, rfl, rfl⟩
  · simp only [uses_ok hfit, descPair_desc c d (show 0 + 1 < 2 by omega), checkAccess_one haccess, List.head?_cons, Option.map_some, Option.getD_some,
      hspan, hinside, if_true]
    rfl
  · intro r hr
    obtain ⟨p, hp, rfl⟩ : ∃ p ∈ ps, (p.1, p.2, false) = r := by simpa [Command.withRanges, marked, new, Ctx.newCommand] using hr
    exact ⟨p, hp, rfl⟩

/-! ### SVCLOSE, SVCANCEL, SVSTAT (R110, R243) -/

theorem answer_eq_range (d : Nat) (ws : List Word) : (List.range ws.length).map (fun i => uniResult (d + i) (ws.getD i 0)) = answer d ws := by
  apply List.ext_getElem
  · simp [answer]
  · intro i h1 h2
    have hi : i < ws.length := by simpa using h1
    simp [answer, hi]

/-- A form on a sweep's handle answers what it makes of the sweep that its handle names. -/
theorem handleForm_settles {s : State} {c : Ctx} {d : BitVec 7} {n : Nat} {f : Ctx → Nat → Option (SweepPlace × Sweep) → State → State × List Word}
    {p : State} {ws : List Word} (hi : issues s false c) (hf : flagFree c (longFlag c)) (hfit : fits [useDesc d.toNat n]) (hh : reg c d.toNat 0 < 2 ^ 16)
    (hform : f c (reg c d.toNat 0 / 2 ^ 13) (sweepOf c d.toNat) (c.base false) = (p, ws)) (hp : stands (c.base false) p) :
    ∃ t, handleForm s d n f = .next t ∧ settles (inFlight c p (longFlag c) false (answer d.toNat ws) .none []) c.g.gid noWrites noUni t := by
  refine issue_engine hi hf ?_ (attends_stands (attends_base hi.1 false) hp)
  have hhigh : (c.readS (d.toNat - 104)).toNat / 2 ^ 16 = 0 := Nat.div_eq_of_lt hh
  unfold sweepOf reg at hform
  simp only [Nat.add_zero] at hform
  simp only [uses_ok hfit, hhigh, ne_eq, not_true_eq_false, if_false, hform, answer_eq_range]

section
variable {s : State} {c : Ctx} {d : BitVec 7} (hi : issues s false c) (hf : flagFree c (longFlag c)) (hh : reg c d.toNat 0 < 2 ^ 16)
include hi hf hh

theorem execSvclose_closes {p : SweepPlace} {w : Sweep} (hfit : fits [useDesc d.toNat 1]) (hsweep : sweepOf c d.toNat = some (p, w)) (hplace : p ≠ .last)
    (hopen : w.closed = false) :
    ∃ t, execSvclose d s = .next t ∧
      settles (inFlight c (((c.base false).updSweep (reg c d.toNat 0 / 2 ^ 13) p (fun w => { w with closed := true })).checkClose
        (reg c d.toNat 0 / 2 ^ 13)) (longFlag c) false [uniResult d.toNat 0] .none []) c.g.gid noWrites noUni t := by
  unfold execSvclose
  refine handleForm_settles (ws := [0]) hi hf hfit hh ?_ (stands_of_eq (checkClose_groups _ _))
  simp [hsweep, hplace, hopen]

theorem execSvclose_closed {p : SweepPlace} {w : Sweep} (hfit : fits [useDesc d.toNat 1]) (hsweep : sweepOf c d.toNat = some (p, w))
    (hshut : p = .last ∨ w.closed = true) :
    ∃ t, execSvclose d s = .next t ∧
      settles (inFlight c (c.base false) (longFlag c) false [uniResult d.toNat closedStatus] .none []) c.g.gid noWrites noUni t := by
  unfold execSvclose
  refine handleForm_settles (ws := [closedStatus]) hi hf hfit hh ?_ (stands_of_eq rfl)
  simp [hsweep, hshut.symm]

theorem execSvclose_noSweep (hfit : fits [useDesc d.toNat 1]) (hsweep : sweepOf c d.toNat = none) :
    ∃ t, execSvclose d s = .next t ∧
      settles (inFlight c (c.base false) (longFlag c) false [uniResult d.toNat closedStatus] .none []) c.g.gid noWrites noUni t := by
  unfold execSvclose
  refine handleForm_settles (ws := [closedStatus]) hi hf hfit hh ?_ (stands_of_eq rfl)
  rw [hsweep]

theorem execSvcancel_cancels {p : SweepPlace} {w : Sweep} (hfit : fits [useDesc d.toNat 1]) (hsweep : sweepOf c d.toNat = some (p, w)) (hplace : p ≠ .last) :
    ∃ t, execSvcancel d s = .next t ∧
      settles (inFlight c ((c.base false).cancelSweep (reg c d.toNat 0 / 2 ^ 13) p w 7 true) (longFlag c) false [uniResult d.toNat 0] .none [])
        c.g.gid noWrites noUni t := by
  unfold execSvcancel
  refine handleForm_settles (ws := [0]) hi hf hfit hh ?_ (stands_cancelSweep _ _ _ _ _ _)
  rw [hsweep]
  cases p with
  | running => rfl
  | pending => rfl
  | last => exact absurd rfl hplace

theorem execSvcancel_noSweep (hfit : fits [useDesc d.toNat 1]) (hsweep : sweepOf c d.toNat = none) :
    ∃ t, execSvcancel d s = .next t ∧
      settles (inFlight c (c.base false) (longFlag c) false [uniResult d.toNat closedStatus] .none []) c.g.gid noWrites noUni t := by
  unfold execSvcancel
  refine handleForm_settles (ws := [closedStatus]) hi hf hfit hh ?_ (stands_of_eq rfl)
  rw [hsweep]

theorem execSvstat_answers (hfit : fits [useDesc d.toNat 4]) :
    ∃ t, execSvstat d s = .next t ∧
      settles (inFlight c (c.base false) (longFlag c) false (answer d.toNat (match sweepOf c d.toNat with
        | some (p, w) => [(match p with
            | .pending => 0
            | .running => if w.closed then 2 else 1
            | .last => 3), BitVec.ofNat 32 w.fetched, BitVec.ofNat 32 (w.next - w.committed), BitVec.ofNat 32 w.subs.length]
        | none => [closedStatus, 0, 0, 0])) .none []) c.g.gid noWrites noUni t := by
  unfold execSvstat
  refine handleForm_settles hi hf hfit hh ?_ (stands_of_eq rfl)
  cases sweepOf c d.toNat with
  | none => rfl
  | some x =>
    obtain ⟨p, w⟩ := x
    cases p with
    | running => cases hclosed : w.closed <;> simp [sweepState, hclosed]
    | pending => rfl
    | last => rfl

theorem execSvstatDesc_answers (hfit : fits [useDesc d.toNat 5]) :
    ∃ t, execSvstatDesc d s = .next t ∧
      settles (inFlight c (c.base false) (longFlag c) false (answer d.toNat (match sweepOf c d.toNat with
        | some (_, w) => [0, w.desc.getD 0 0, w.desc.getD 3 0, w.desc.getD 4 0, w.desc.getD 1 0]
        | none => [closedStatus, 0, 0, 0, 0])) .none []) c.g.gid noWrites noUni t := by
  unfold execSvstatDesc
  refine handleForm_settles hi hf hfit hh ?_ (stands_of_eq rfl)
  cases sweepOf c d.toNat <;> rfl

end

theorem survey_of_modify {s t : State} {u : Nat} {f : Survey → Survey} (h : t.surveys = s.surveys.modify u f) (hu : u < s.surveys.length) :
    t.survey u = f (s.survey u) := by
  simp [State.survey, h, List.getD_eq_getElem?_getD, hu]

/-- A cancelled sweep is its unit's last one, all its queries finished, and only its pages in flight keep their slots (R110). -/
theorem survey_cancelSweep {s : State} {u : Nat} (w : Sweep) (hu : u < s.surveys.length) :
    let t := s.cancelSweep u .running w 7 true
    (t.survey u).running = none ∧ (t.survey u).pending = (s.survey u).pending ∧
    (t.survey u).staging = (s.survey u).staging.filter (fun e => decide (e.sweep ≠ w.sequence) || !e.landed) ∧
    ∃ x, (t.survey u).last = some x ∧ x.sequence = w.sequence ∧ x.cancelled = true ∧ ∀ q ∈ x.subs, q.finished = true := by
  intro t
  rw [survey_of_modify (cancelSweep_surveys s u w 7 true) hu]
  refine ⟨rfl, rfl, rfl, _, rfl, rfl, rfl, ?_⟩
  intro q hq
  obtain ⟨q', -, rfl⟩ := List.mem_map.mp hq
  rfl

/-- Settles O37: each SV form judges its descriptor, changes its unit as R96 to R99 and R110 say, and completes with its status; a partial
goes out as a command (R105, R242). -/
theorem surveyInstructions : Obligations.SurveyInstructions := by
  refine ⟨?sweep, ?sub, ?post, ?handle, ?stat, ?cancelled⟩
  case sweep =>
    intro s c d hi hf hfit w0 u v h11 h6 h3 hcount halign
    refine ⟨?_, fun hroom => ?_⟩
    · rintro ⟨hrunning, hpending⟩
      exact execSvsweep_busy hi hf hfit ⟨h11, h6, h3, hcount, halign⟩ hrunning hpending
    · obtain ⟨t, ht, hset⟩ := execSvsweep_starts hi hf hfit ⟨h11, h6, h3, hcount, halign⟩ hroom
      exact ⟨t, newSweep c d, ht, hset, rfl, rfl, rfl, rfl, rfl, rfl, rfl⟩
  case sub =>
    intro s c d a tid obj lp p w slots hi hf hfit r core n fmt list v hteam hreserved hlimit hformat houtput hlist hobj hlp hclean hsweep hplace hopen
      hrising hbelow hslots hring hsubs hcore htable hnew
    have hstatus := subStatus_ok (slots := slots) hplace hopen (risingBelow_of hrising hbelow) hring hsubs hcore htable hnew
    obtain ⟨t, ht, hset⟩ := execSvsub_accepts hi hf hfit hteam ⟨hreserved, hlimit, hformat, houtput, hlist⟩ hobj hlp hclean hsweep hslots hstatus
    exact ⟨t, newQuery c d tid obj lp slots w, ht, hset, rfl, rfl, rfl, rfl, rfl, rfl, rfl, rfl, rfl, rfl, rfl, rfl, rfl, rfl, rfl, rfl, rfl, rfl, rfl⟩
  case post =>
    intro s c d p0 ps hi hf hfit _ haccess u n hlocal hmay
    exact execSvpart_posts hi hf hfit haccess hlocal hmay
  case handle =>
    intro s c d hi hf hfit hh u
    refine ⟨fun p w => execSvclose_closes hi hf hh hfit, fun p w => execSvclose_closed hi hf hh hfit, fun p w => execSvcancel_cancels hi hf hh hfit,
      fun hsweep i hform => ?_⟩
    simp only [List.mem_cons, List.not_mem_nil, or_false] at hform
    obtain rfl | rfl := hform
    · exact execSvclose_noSweep hi hf hh hfit hsweep
    · exact execSvcancel_noSweep hi hf hh hfit hsweep
  case stat =>
    intro s c d hi hf hh
    exact ⟨execSvstat_answers hi hf hh, execSvstatDesc_answers hi hf hh⟩
  case cancelled =>
    intro s u w hu _
    exact survey_cancelSweep w hu

end Sys2Proof.Laws
end

section
/-! The step in which a page meets a fetch fault, as its query's team sees it (R36, R103). -/
namespace Sys2Proof.Laws
open Sys2Proof.Machine Sys2Proof.Claim

/-! ### Ports -/

theorem team_updTeam_self {s : State} {tid : Nat} {tm : Team} (f : Team → Team) (h : s.team? tid = some tm) (hf : ∀ x, (f x).tid = x.tid) :
    (s.updTeam tid f).team? tid = some (f tm) := by
  have htid : tm.tid = tid := by simpa using List.find?_some h
  have hkey : (fun t : Team => decide ((if t.tid = tid then f t else t).tid = tid)) = fun t => decide (t.tid = tid) := by
    funext t
    by_cases ht : t.tid = tid <;> simp [ht, hf]
  unfold State.team? at h ⊢
  rw [State.updTeam_teams, List.find?_map]
  simp only [Function.comp_def, hkey, h, Option.map_some, htid, if_true]

/-- A port that is set is what was set where the team has it; a team that has no such port keeps none. -/
theorem port_setPort (t : Team) (i : Nat) (p : Port) : (t.setPort i p).port i = if i < t.ports.length then p else t.port i := by
  unfold Team.port Team.setPort
  by_cases hi : i < t.ports.length
  · simp [hi]
  · simp [hi, List.set_eq_of_length_le (Nat.le_of_not_lt hi)]

/-- An entry goes straight into a port that has room and that nothing waits for. -/
theorem toPort_room {s : State} {tid i : Nat} {tm : Team} {ws : List Word} (htm : s.team? tid = some tm) (hlive : tm.residency ≠ .freed)
    (hroom : tm.hasRoom i ws.length = true) (hnotices : s.notices = []) :
    s.toPort tid i ws = s.updTeam tid (fun t => t.setPort i { t.port i with entries := (t.port i).entries ++ [ws] }) := by
  simp [State.toPort, State.toPortFrom, htm, hlive, hroom, hnotices]

/-! ### Units -/

theorem survey_of_getElem? {s : State} {u : Nat} {v : Survey} (h : s.surveys[u]? = some v) : s.survey u = v := by
  simp [State.survey, h]

theorem serve_of_noOps {s : State} (h : s.ops = []) : s.serve = s := by
  unfold State.serve
  rw [h]
  rfl

theorem lowestPage_of_fails {s : State} {u p addr : Nat} {w : Sweep} {code : Word} (h : s.nextPage u w = .fails p code addr) : w.lowestPage = some p := by
  unfold State.nextPage at h
  dsimp only at h
  split at h
  · cases h
  · next p' hp' =>
    rw [hp']
    split at h
    · cases h
    · split at h
      · split at h <;> cases h
        rfl
      · split at h
        · cases h
        · split at h
          · cases h
          · split at h
            · cases h; rfl
            · split at h
              · cases h
              · split at h <;> cases h
                rfl

/-- The page that is next for a sweep of one query is the one next for that query, its only subscriber. -/
theorem nextPage_of_single {w : Sweep} {q : Subscription} {p : Nat} (hsubs : w.subs = [q]) (h : w.lowestPage = some p) : w.nextPage q = some p := by
  unfold Sweep.lowestPage at h
  rw [hsubs] at h
  cases hq : w.nextPage q with
  | none => simp [hq] at h
  | some x => simpa [hq] using h

theorem subscribers_of_single {w : Sweep} {q : Subscription} {p : Nat} (hsubs : w.subs = [q]) (h : w.nextPage q = some p) : w.subscribers p = [0] := by
  simp [Sweep.subscribers, hsubs, h]

/-- That query once the page is committed, and then changed. -/
theorem subs_updSub_commit {w : Sweep} {q : Subscription} {p : Nat} (f : Subscription → Subscription) (hsubs : w.subs = [q]) (honly : w.subscribers p = [0]) :
    ((w.commit p false).updSub 0 f).subs = [f { q with due := q.due ++ [p], served := true }] := by
  simp [Sweep.updSub, Sweep.commit, hsubs, honly]

theorem post_of_noGroup {s : State} {r : Record} (h : r.gid = none) : s.post r = { s with records := s.records ++ [r] } := by
  unfold State.post
  rw [h]
  split
  · next hr => cases hr
  · rfl

/-- A query whose entries are freed. -/
def endedQuery (q : Subscription) : Subscription :=
  { q with finished := true, due := [], masked := [], held := [], acc := none }

theorem running_updSweep {s : State} {u : Nat} {w : Sweep} {f : Sweep → Sweep} (hw : (s.survey u).running = some w) (hu : u < s.surveys.length) :
    ((s.updSweep u .running f).survey u).running = some (f w) := by
  unfold State.updSweep
  rw [survey_of_modify (s := s) rfl hu]
  simp [hw]

theorem checkQuery_of_finished {s : State} {u i : Nat} {w : Sweep} {q : Subscription} (hrunning : (s.survey u).running = some w)
    (hq : w.subs[i]? = some q) (hfinished : q.finished = true) : s.checkQuery u i = s := by
  simp [State.checkQuery, hrunning, hq, hfinished]

theorem team_checkClose (s : State) (u tid : Nat) : (s.checkClose u).team? tid = s.team? tid := by
  rw [checkClose_frame]
  rfl

/-! ### The fault of a page with one subscriber -/

/-- The notice that tells a query's team of the fault (R103, R109). -/
def faultNotice (u : Nat) (w : Sweep) (q : Subscription) : List Word :=
  [BitVec.ofNat 32 (4 * 2 ^ 16 + q.query), BitVec.ofNat 32 (u * 2 ^ 16 + (u * 2 ^ 13 + w.sequence))]

/-- A team to which a notice of the fault has been pushed. -/
def notified (u : Nat) (w : Sweep) (q : Subscription) (tm : Team) : Team :=
  tm.setPort 1 { tm.port 1 with entries := (tm.port 1).entries ++ [faultNotice u w q] }

/-- The state in which page p counts as committed and the object of its one subscriber has failed. -/
def faultCommitted (s : State) (u : Nat) (w : Sweep) (q : Subscription) (p : Nat) (code : Word) : State :=
  (s.updSurvey u (fun v => { v with running := some (w.commit p false) })).errorObject (some q.object) code

/-- The state in which that subscriber has been told and has ended. -/
def faultEnded (s : State) (u : Nat) (w : Sweep) (q : Subscription) (p : Nat) (code : Word) : State :=
  ((faultCommitted s u w q p code).mergeNotice u w q 4).endQuery u 0

/-- The same with the fault's record in the event buffer. -/
def faultPosted (s : State) (u : Nat) (w : Sweep) (q : Subscription) (p : Nat) (code : Word) (r : Record) : State :=
  { faultEnded s u w q p code with records := (faultEnded s u w q p code).records ++ [r] }

section
variable {s : State} {u p addr : Nat} {v : Survey} {w : Sweep} {q : Subscription} {code : Word} {x : Inset} {tm : Team}

theorem faultEnded_eq (htm : s.team? q.owner = some tm) (hlive : tm.residency ≠ .freed) (hroom : tm.hasRoom 1 2 = true) (hnotices : s.notices = []) :
    faultEnded s u w q p code = ((faultCommitted s u w q p code).updTeam q.owner (notified u w q)).endQuery u 0 :=
  congrArg (fun t : State => t.endQuery u 0) (toPort_room (s := faultCommitted s u w q p code) htm hlive hroom hnotices)

theorem faultEnded_running (hu : u < s.surveys.length) :
    ((faultEnded s u w q p code).survey u).running = some ((w.commit p false).updSub 0 endedQuery) := by
  have hcommitted : ((faultCommitted s u w q p code).survey u).running = some (w.commit p false) :=
    congrArg Survey.running (survey_of_modify (s := s) (f := fun v => { v with running := some (w.commit p false) }) rfl hu)
  have hsurveys := (served_mergeNotice (faultCommitted s u w q p code) u w q 4).surveys
  refine running_updSweep (s := (faultCommitted s u w q p code).mergeNotice u w q 4) ?_ ?_
  · unfold State.survey at hcommitted ⊢
    rw [hsurveys, hcommitted]
  · rw [hsurveys]
    simpa [faultCommitted, State.errorObject, State.updSurvey] using hu

/-- What the step makes of the state: the subscriber ended, and the fault's record posted. -/
theorem execPageFetchFault_single {unit : BitVec 3} (hunit : unit.toNat = u) (hv : s.surveys[u]? = some v) (hw : v.running = some w) (hsubs : w.subs = [q])
    (hfails : s.nextPage u w = .fails p code addr) (hbuffer : s.bufferFull = false)
    (hx : (faultEnded s u w q p code).inset? w.inset = some x) (hops : (faultEnded s u w q p code).ops = []) :
    execPageFetchFault unit s =
      .next ((faultPosted s u w q p code (insetRecord x 0x24 0 (BitVec.ofNat 32 (u * 2 ^ 16 + p)) addr)).checkClose u) := by
  subst hunit
  generalize hr : insetRecord x 0x24 0 (BitVec.ofNat 32 (unit.toNat * 2 ^ 16 + p)) addr = r
  have hrunning : (s.survey unit.toNat).running = some w := by rw [survey_of_getElem? hv, hw]
  have honly := subscribers_of_single hsubs (nextPage_of_single hsubs (lowestPage_of_fails hfails))
  have hended := faultEnded_running (w := w) (q := q) (p := p) (code := code) (List.getElem?_eq_some_iff.mp hv).1
  have hposted : (faultEnded s unit.toNat w q p code).post r = faultPosted s unit.toNat w q p code r := post_of_noGroup (by rw [← hr]; rfl)
  have hquiet : (faultPosted s unit.toNat w q p code r).checkQueries unit.toNat 1 = faultPosted s unit.toNat w q p code r :=
    checkQuery_of_finished hended (congrArg (fun l : List Subscription => l[0]?) (subs_updSub_commit endedQuery hsubs honly)) rfl
  have hserved : ((faultPosted s unit.toNat w q p code r).checkClose unit.toNat).serve = (faultPosted s unit.toNat w q p code r).checkClose unit.toNat :=
    serve_of_noOps (by rw [checkClose_frame]; exact hops)
  unfold execPageFetchFault
  simp only [hrunning, hfails, hbuffer, Bool.false_eq_true, if_false, honly, List.foldl_cons, List.foldl_nil, hsubs, List.getElem?_cons_zero]
  change Host.Outcome.next (((State.checkQueries (match (faultEnded s unit.toNat w q p code).inset? w.inset with
    | some x => (faultEnded s unit.toNat w q p code).post (insetRecord x 0x24 0 (BitVec.ofNat 32 (unit.toNat * 2 ^ 16 + p)) addr)
    | none => faultEnded s unit.toNat w q p code) unit.toNat 1).checkClose unit.toNat).serve) = _
  simp only [hx, hr, hposted]
  rw [hquiet, hserved]

/-- The team that issued the query is left with its qmg port set to hold the notice. -/
theorem execPageFetchFault_notifies {unit : BitVec 3} (hunit : unit.toNat = u) (hv : s.surveys[u]? = some v) (hw : v.running = some w)
    (hsubs : w.subs = [q]) (hfails : s.nextPage u w = .fails p code addr) (hbuffer : s.bufferFull = false) (hx : s.inset? w.inset = some x)
    (htm : s.team? q.owner = some tm) (hlive : tm.residency ≠ .freed) (hroom : tm.hasRoom 1 2 = true) (hnotices : s.notices = []) (hops : s.ops = []) :
    ∃ t, exec (.pageFetchFault unit) s = .next t ∧ t.team? q.owner = some (notified u w q tm) := by
  have heq := faultEnded_eq (u := u) (w := w) (p := p) (code := code) htm hlive hroom hnotices
  refine ⟨_, execPageFetchFault_single (x := x) hunit hv hw hsubs hfails hbuffer (by rw [heq]; exact hx) (by rw [heq]; exact hops), ?_⟩
  rw [team_checkClose]
  change (faultEnded s u w q p code).team? q.owner = _
  rw [heq]
  exact team_updTeam_self (s := s) _ htm (fun _ => rfl)

end

/-! ### A team without the port (R36) -/

/-- A resident team of which the state lists no ports. -/
def portlessTeam : Team := { startTeam 0 1 0 0 0 with ports := [] }

/-- A query of that team for page 0. -/
def portlessQuery : Subscription :=
  { query := 0
    number := 0
    list := [0]
    core := 0
    team := 1
    ring := 0
    slots := []
    limit := 1
    format := 0
    output := 0
    object := Config.vaultBase
    owner := 1
    acc := none
    due := []
    masked := []
    held := []
    served := false
    finished := false
    barred := false }

/-- The sweep it is of: its page array stands at 2^48, which is no canonical address (R60). -/
def strayingSweep : Sweep :=
  { sequence := 1
    inset := 1
    desc := [0, 0, 0x10000, 0, 0]
    next := 0
    highest := none
    fetched := 0
    committed := 0
    closed := false
    cancelled := false
    subs := [portlessQuery] }

def strayingUnit : Survey := { Survey.reset with running := some strayingSweep }

/-- The machine after reset with these, and the inset of the sweep. -/
def strayingState : State := { State.reset with teams := [portlessTeam], insets := [fetchInset 1], surveys := [strayingUnit] }

theorem strayingState_fails : strayingState.nextPage 0 strayingSweep = .fails 0 3 (2 ^ 48) := by rfl

/-- Refutes O38: page 0 of a sweep of unit 0 meets a fetch fault, and the team that is to get the notice runs and has room by its count of
words, but the state lists no port 1 of it. No notice stands there after the fault, where the clause of the fetch fault has one; a team that has
the port gets it (`execPageFetchFault_notifies`, `port_setPort`). -/
theorem not_surveyEvents : ¬ Obligations.SurveyEvents := by
  rintro ⟨-, -, -, -, -, -, hfault, -⟩
  have hlive : portlessTeam.residency ≠ .freed := by decide
  obtain ⟨t, -, -, ht, -, -, -, -, -, -, -, -, -, -, tm, htm, hentries⟩ := hfault strayingState 0 strayingUnit strayingSweep portlessQuery 0 3 (2 ^ 48)
    (fetchInset 1) portlessTeam rfl rfl rfl rfl strayingState_fails rfl rfl rfl hlive rfl rfl rfl
  obtain ⟨t', ht', htm'⟩ := execPageFetchFault_notifies (unit := 0) (s := strayingState) (v := strayingUnit) (x := fetchInset 1) (tm := portlessTeam)
    rfl rfl rfl rfl strayingState_fails rfl rfl rfl hlive rfl rfl rfl
  obtain rfl := Host.Outcome.next.inj (ht.symm.trans ht')
  rw [Option.some.inj (htm.symm.trans htm'), notified, port_setPort, if_neg (by decide)] at hentries
  exact List.cons_ne_nil _ _ hentries.symm

end Sys2Proof.Laws
end

section
/-! A demand on the Tolerance unit's table, as the least table that meets it (R113, R115). -/
namespace Sys2Proof.Laws
open Sys2Proof.Machine Sys2Proof.Claim

/-! ### Lookup in a table -/

theorem findKey_cons {α : Type} (k j : Nat) (x : α) (m : List (Nat × α)) : findKey ((k, x) :: m) j = if k = j then some x else findKey m j := by
  by_cases h : k = j <;> simp [findKey, h]

theorem findKey_map {α β : Type} (g : α → β) (m : List (Nat × α)) (k : Nat) :
    findKey (m.map (fun e => (e.1, g e.2))) k = (findKey m k).map g := by
  simp [findKey, List.find?_map, Function.comp_def]

theorem mem_of_findKey {α : Type} {m : List (Nat × α)} {k : Nat} {x : α} (h : findKey m k = some x) : (k, x) ∈ m := by
  obtain ⟨e, he, rfl⟩ := Option.map_eq_some_iff.mp h
  obtain rfl : e.1 = k := by simpa using List.find?_some he
  exact List.mem_of_find?_eq_some he

@[simp] theorem findKey_tolSet (n : Nat) (v : TolNode) (t : List (Nat × TolNode)) (j : Nat) :
    findKey (tolSet n v t) j = if n = j then some v else findKey t j := by
  induction t with
  | nil => simp [tolSet, findKey_cons]
  | cons e rest ih =>
    obtain ⟨k, w⟩ := e
    rcases Nat.lt_trichotomy n k with hlt | rfl | hgt
    · simp [tolSet, hlt, findKey_cons]
    · simp only [tolSet, Nat.lt_irrefl, if_false, if_true, findKey_cons]
      by_cases hj : n = j
      · simp only [if_pos hj]
      · simp only [if_neg hj]
    · simp only [tolSet, Nat.lt_asymm hgt, Nat.ne_of_gt hgt, if_false, findKey_cons, ih]
      by_cases hk : k = j
      · simp [hk, show n ≠ j by omega]
      · simp [hk]

/-! ### What a table declares, and the tolerances it holds -/

/-- The declarations of a table: its nodes and their operands, which no demand changes. -/
def declarations (t : List (Nat × TolNode)) : List (Nat × List (Nat × Int)) := t.map (fun e => (e.1, e.2.operands))

/-- The tolerance of a node, 0 where it is not declared. -/
def tauOf (t : List (Nat × TolNode)) (k : Nat) : Nat := ((findKey t k).map (·.tau)).getD 0

theorem tauOf_of_findKey {t : List (Nat × TolNode)} {k : Nat} {v : TolNode} (h : findKey t k = some v) : tauOf t k = v.tau := by
  simp [tauOf, h]

theorem findKey_declarations (t : List (Nat × TolNode)) (k : Nat) : findKey (declarations t) k = (findKey t k).map (·.operands) :=
  findKey_map _ _ _

/-- Tables of the same declarations declare the same nodes, each with the same operands. -/
theorem findKey_of_declarations_eq {t u : List (Nat × TolNode)} (h : declarations u = declarations t) {k : Nat} {w : TolNode}
    (hw : findKey u k = some w) : ∃ v, findKey t k = some v ∧ v.operands = w.operands := by
  have hk := findKey_declarations t k
  rw [← h, findKey_declarations, hw] at hk
  exact Option.map_eq_some_iff.mp hk.symm

theorem declarations_keys (t : List (Nat × TolNode)) : (declarations t).map (·.1) = t.map (·.1) := by
  simp [declarations]

theorem nodesOk_of_declarations_eq {t u : List (Nat × TolNode)} (h : declarations u = declarations t) (ht : nodesOk t) : nodesOk u := by
  obtain ⟨hsorted, hnodes⟩ := ht
  refine ⟨by rwa [← declarations_keys, h, declarations_keys], fun e he => ?_⟩
  have hmem : (e.1, e.2.operands) ∈ declarations t := h ▸ List.mem_map_of_mem he
  obtain ⟨e', he', heq⟩ := List.mem_map.mp hmem
  obtain ⟨hkey, hops⟩ := Prod.mk.inj heq
  obtain ⟨hlen, hlow⟩ := hnodes e' he'
  rw [← hkey, ← hops]
  refine ⟨hlen, fun o ho => ⟨(hlow o ho).1, ?_⟩⟩
  obtain ⟨v, hv⟩ := Option.isSome_iff_exists.mp (hlow o ho).2
  obtain ⟨w, hw, -⟩ := findKey_of_declarations_eq h.symm hv
  simp [hw]

theorem declarations_tolSet {n : Nat} {v w : TolNode} {t : List (Nat × TolNode)} (hsorted : (t.map (·.1)).Pairwise (· < ·))
    (hv : findKey t n = some v) (hops : w.operands = v.operands) : declarations (tolSet n w t) = declarations t := by
  induction t with
  | nil => cases hv
  | cons e rest ih =>
    obtain ⟨k, x⟩ := e
    obtain ⟨hfirst, hrest⟩ := List.pairwise_cons.mp hsorted
    rw [findKey_cons] at hv
    by_cases hk : k = n
    · obtain rfl := hk
      obtain rfl : x = v := by simpa using hv
      simp [tolSet, declarations, hops]
    · rw [if_neg hk] at hv
      have hlt : k < n := hfirst n (List.mem_map_of_mem (f := (·.1)) (mem_of_findKey hv))
      have htail := ih hrest hv
      simp only [declarations] at htail
      simp [tolSet, declarations, Nat.lt_asymm hlt, Nat.ne_of_gt hlt, htail]

/-! ### Raising: what no demand undoes -/

/-- Table u is t with some tolerances raised, and exactly the nodes raised tightened. -/
def raises (t u : List (Nat × TolNode)) : Prop :=
  declarations u = declarations t ∧
  ∀ k v w, findKey t k = some v → findKey u k = some w → v.tau ≤ w.tau ∧ w.tight = (v.tight || decide (v.tau < w.tau))

theorem raises_refl (t : List (Nat × TolNode)) : raises t t := by
  refine ⟨rfl, fun k v w hv hw => ?_⟩
  obtain rfl := Option.some.inj (hv.symm.trans hw)
  simp

theorem raises_trans {t u x : List (Nat × TolNode)} (htu : raises t u) (hux : raises u x) : raises t x := by
  refine ⟨hux.1.trans htu.1, fun k v w hv hw => ?_⟩
  obtain ⟨y, hy, -⟩ := findKey_of_declarations_eq htu.1.symm hv
  obtain ⟨hle, htight⟩ := htu.2 k v y hv hy
  obtain ⟨hle', htight'⟩ := hux.2 k y w hy hw
  refine ⟨Nat.le_trans hle hle', ?_⟩
  have hiff : v.tau < w.tau ↔ v.tau < y.tau ∨ y.tau < w.tau := by omega
  simp [htight', htight, hiff, Bool.or_assoc]

theorem tauOf_le_of_raises {t u : List (Nat × TolNode)} (h : raises t u) (k : Nat) : tauOf t k ≤ tauOf u k := by
  cases hv : findKey t k with
  | none => simp [tauOf, hv]
  | some v =>
    obtain ⟨w, hw, -⟩ := findKey_of_declarations_eq h.1.symm hv
    rw [tauOf_of_findKey hv, tauOf_of_findKey hw]
    exact (h.2 k v w hv hw).1

/-- The operands of a node are lower nodes of the table (R113). -/
theorem operand_lt {t : List (Nat × TolNode)} (ht : nodesOk t) {j : Nat} {v : TolNode} (hv : findKey t j = some v) {o : Nat × Int}
    (ho : o ∈ v.operands) : o.1 < j :=
  ((ht.2 _ (mem_of_findKey hv)).2 o ho).1

theorem operand_declared {t : List (Nat × TolNode)} (ht : nodesOk t) {j : Nat} {v : TolNode} (hv : findKey t j = some v) {o : Nat × Int}
    (ho : o ∈ v.operands) : (findKey t o.1).isSome :=
  ((ht.2 _ (mem_of_findKey hv)).2 o ho).2

/-! ### One requirement -/

/-- The only two things a requirement does: it leaves a table, or raises one declared node that is below it. -/
theorem tolRaise_cases (need n : Nat) (t : List (Nat × TolNode)) :
    (tolRaise need n t = t ∧ ∀ v, findKey t n = some v → need ≤ v.tau) ∨
    ∃ v, findKey t n = some v ∧ v.tau < need ∧ tolRaise need n t = tolSet n { v with tau := need, tight := true } t := by
  unfold tolRaise
  cases hv : findKey t n with
  | none => exact .inl ⟨rfl, fun _ h => nomatch h⟩
  | some v =>
    by_cases hlt : v.tau < need
    · exact .inr ⟨v, rfl, hlt, if_pos hlt⟩
    · refine .inl ⟨if_neg hlt, fun w hw => ?_⟩
      obtain rfl := Option.some.inj hw
      exact Nat.le_of_not_lt hlt

theorem raises_tolRaise {t : List (Nat × TolNode)} (ht : nodesOk t) (need n : Nat) : raises t (tolRaise need n t) := by
  obtain ⟨hsame, -⟩ | ⟨v, hv, hlt, hset⟩ := tolRaise_cases need n t
  · rw [hsame]
    exact raises_refl t
  · rw [hset]
    refine ⟨declarations_tolSet ht.1 hv rfl, fun k x w hx hw => ?_⟩
    rw [findKey_tolSet] at hw
    by_cases hk : n = k
    · obtain rfl := hk
      obtain rfl := Option.some.inj (hv.symm.trans hx)
      obtain rfl : _ = w := by simpa using hw
      simp [hlt, Nat.le_of_lt hlt]
    · rw [if_neg hk] at hw
      exact (raises_refl t).2 k x w hx hw

theorem nodesOk_tolRaise {t : List (Nat × TolNode)} (ht : nodesOk t) (need n : Nat) : nodesOk (tolRaise need n t) :=
  nodesOk_of_declarations_eq (raises_tolRaise ht need n).1 ht

theorem findKey_tolRaise_of_ne {need n k : Nat} (h : n ≠ k) (t : List (Nat × TolNode)) : findKey (tolRaise need n t) k = findKey t k := by
  obtain ⟨hsame, -⟩ | ⟨v, -, -, hset⟩ := tolRaise_cases need n t
  · rw [hsame]
  · rw [hset, findKey_tolSet, if_neg h]

theorem le_tauOf_tolRaise {t : List (Nat × TolNode)} {n : Nat} (need : Nat) (hn : (findKey t n).isSome) : need ≤ tauOf (tolRaise need n t) n := by
  obtain ⟨v, hv⟩ := Option.isSome_iff_exists.mp hn
  obtain ⟨hsame, hmet⟩ | ⟨v, -, -, hset⟩ := tolRaise_cases need n t
  · rw [hsame, tauOf_of_findKey hv]
    exact hmet v hv
  · simp [hset, tauOf]

/-- No node of the table is above the bound. -/
def bounded (f : Nat → Nat) (t : List (Nat × TolNode)) : Prop := ∀ k v, findKey t k = some v → v.tau ≤ f k

theorem bounded_tolRaise {f : Nat → Nat} {t : List (Nat × TolNode)} {need n : Nat} (ht : bounded f t) (hn : need ≤ f n) :
    bounded f (tolRaise need n t) := by
  obtain ⟨hsame, -⟩ | ⟨v, -, -, hset⟩ := tolRaise_cases need n t
  · rwa [hsame]
  · intro k w hw
    rw [hset, findKey_tolSet] at hw
    by_cases hk : n = k
    · obtain rfl := hk
      obtain rfl : _ = w := by simpa using hw
      exact hn
    · rw [if_neg hk] at hw
      exact ht k w hw

/-! ### The requirements of one node on its operands -/

theorem tolShareOf_eq (k : Nat) : tolShareOf k = shareOf k := by
  match k with
  | 0 | 1 | 2 | 3 | 4 => rfl
  | k + 5 => simp [tolShareOf, shareOf]

/-- What a node of tolerance tau with k operands needs of one of them (R115). -/
def operandNeed (tau k : Nat) (kappa : Int) : Nat := (clampInt 0 4095 (((tau + tolShareOf k : Nat) : Int) + kappa)).toNat

theorem operandNeed_le_iff (tau k m : Nat) (kappa : Int) :
    operandNeed tau k kappa ≤ m ↔ min 4095 (max 0 ((tau : Int) + shareOf k + kappa)) ≤ m := by
  rw [operandNeed, clampInt, tolShareOf_eq]
  omega

theorem operandNeed_mono {tau tau' : Nat} (h : tau ≤ tau') (k : Nat) (kappa : Int) : operandNeed tau k kappa ≤ operandNeed tau' k kappa := by
  rw [operandNeed, operandNeed, clampInt, clampInt]
  omega

theorem meets_iff {f : Nat → Nat} {j : Nat} {v : TolNode} :
    meets f j v ↔ ∀ o ∈ v.operands, operandNeed (f j) v.operands.length o.2 ≤ f o.1 := by
  simp only [meets, operandNeed_le_iff]

/-- A bound that meets what one table requires meets it for every table of its declarations. -/
theorem meets_of_declarations_eq {f : Nat → Nat} {t u : List (Nat × TolNode)} (h : declarations u = declarations t) {n : Nat}
    (hf : ∀ j ≤ n, ∀ v, findKey t j = some v → meets f j v) : ∀ j ≤ n, ∀ w, findKey u j = some w → meets f j w := by
  intro j hj w hw
  obtain ⟨v, hv, hops⟩ := findKey_of_declarations_eq h hw
  have hmeets := hf j hj v hv
  rwa [meets, hops] at hmeets

/-- Raising what stands below a node leaves its requirements met. -/
theorem meets_mono {f g : Nat → Nat} {j : Nat} {v : TolNode} (hj : g j = f j) (hle : ∀ k, f k ≤ g k) (h : meets f j v) : meets g j v := by
  rw [meets_iff] at h ⊢
  exact fun o ho => hj ▸ Nat.le_trans (h o ho) (hle o.1)

/-- Operands raised in turn, each to what it needs. -/
def raiseEach (tau k : Nat) (ops : List (Nat × Int)) (t : List (Nat × TolNode)) : List (Nat × TolNode) :=
  ops.foldl (fun t o => tolRaise (operandNeed tau k o.2) o.1 t) t

theorem tolPass_of_declared {t : List (Nat × TolNode)} {j : Nat} {v : TolNode} (hv : findKey t j = some v) :
    tolPass j t = raiseEach v.tau v.operands.length v.operands t := by
  simp only [tolPass, hv]
  rfl

theorem tolPass_of_undeclared {t : List (Nat × TolNode)} {j : Nat} (hj : findKey t j = none) : tolPass j t = t := by
  simp only [tolPass, hj]

section
variable (tau k : Nat)

theorem raises_raiseEach (ops : List (Nat × Int)) {t : List (Nat × TolNode)} (ht : nodesOk t) : raises t (raiseEach tau k ops t) := by
  induction ops generalizing t with
  | nil => exact raises_refl t
  | cons o ops ih => exact raises_trans (raises_tolRaise ht _ o.1) (ih (nodesOk_tolRaise ht _ o.1))

theorem findKey_raiseEach_of_ne {ops : List (Nat × Int)} {j : Nat} (h : ∀ o ∈ ops, o.1 ≠ j) (t : List (Nat × TolNode)) :
    findKey (raiseEach tau k ops t) j = findKey t j := by
  induction ops generalizing t with
  | nil => rfl
  | cons o ops ih =>
    obtain ⟨hfirst, hrest⟩ := List.forall_mem_cons.mp h
    exact (ih hrest _).trans (findKey_tolRaise_of_ne hfirst t)

theorem le_tauOf_raiseEach {ops : List (Nat × Int)} {t : List (Nat × TolNode)} (ht : nodesOk t) (hops : ∀ o ∈ ops, (findKey t o.1).isSome) :
    ∀ o ∈ ops, operandNeed tau k o.2 ≤ tauOf (raiseEach tau k ops t) o.1 := by
  induction ops generalizing t with
  | nil => exact fun _ ho => nomatch ho
  | cons o ops ih =>
    obtain ⟨hfirst, hrest⟩ := List.forall_mem_cons.mp hops
    have hraise := raises_tolRaise ht (operandNeed tau k o.2) o.1
    have hok := nodesOk_tolRaise ht (operandNeed tau k o.2) o.1
    refine List.forall_mem_cons.mpr ⟨?_, ih hok fun p hp => ?_⟩
    · exact Nat.le_trans (le_tauOf_tolRaise _ hfirst) (tauOf_le_of_raises (raises_raiseEach tau k ops hok) o.1)
    · obtain ⟨v, hv⟩ := Option.isSome_iff_exists.mp (hrest p hp)
      obtain ⟨w, hw, -⟩ := findKey_of_declarations_eq hraise.1.symm hv
      simp [hw]

theorem bounded_raiseEach {f : Nat → Nat} {ops : List (Nat × Int)} (h : ∀ o ∈ ops, operandNeed tau k o.2 ≤ f o.1) {t : List (Nat × TolNode)}
    (ht : bounded f t) : bounded f (raiseEach tau k ops t) := by
  induction ops generalizing t with
  | nil => exact ht
  | cons o ops ih =>
    obtain ⟨hfirst, hrest⟩ := List.forall_mem_cons.mp h
    exact ih hrest (bounded_tolRaise ht hfirst)

end

/-! ### One node's turn -/

theorem raises_tolPass {t : List (Nat × TolNode)} (ht : nodesOk t) (j : Nat) : raises t (tolPass j t) := by
  cases hv : findKey t j with
  | none => exact (tolPass_of_undeclared hv).symm ▸ raises_refl t
  | some v => exact (tolPass_of_declared hv).symm ▸ raises_raiseEach _ _ _ ht

theorem nodesOk_tolPass {t : List (Nat × TolNode)} (ht : nodesOk t) (j : Nat) : nodesOk (tolPass j t) :=
  nodesOk_of_declarations_eq (raises_tolPass ht j).1 ht

/-- A node's turn changes lower nodes alone. -/
theorem findKey_tolPass_of_le {t : List (Nat × TolNode)} (ht : nodesOk t) {j k : Nat} (hk : j ≤ k) : findKey (tolPass j t) k = findKey t k := by
  cases hv : findKey t j with
  | none => rw [tolPass_of_undeclared hv]
  | some v =>
    rw [tolPass_of_declared hv]
    exact findKey_raiseEach_of_ne _ _ (fun o ho => Nat.ne_of_lt (Nat.lt_of_lt_of_le (operand_lt ht hv ho) hk)) t

theorem meets_tolPass {t : List (Nat × TolNode)} (ht : nodesOk t) {j : Nat} {v : TolNode} (hv : findKey (tolPass j t) j = some v) :
    meets (tauOf (tolPass j t)) j v := by
  have hv' : findKey t j = some v := (findKey_tolPass_of_le ht (Nat.le_refl _)).symm.trans hv
  rw [meets_iff, tauOf_of_findKey hv, tolPass_of_declared hv']
  exact le_tauOf_raiseEach _ _ ht fun o ho => operand_declared ht hv' ho

theorem bounded_tolPass {f : Nat → Nat} {t : List (Nat × TolNode)} {j : Nat} (hf : ∀ v, findKey t j = some v → meets f j v) (ht : bounded f t) :
    bounded f (tolPass j t) := by
  cases hv : findKey t j with
  | none => exact (tolPass_of_undeclared hv).symm ▸ ht
  | some v =>
    rw [tolPass_of_declared hv]
    exact bounded_raiseEach _ _ (fun o ho => Nat.le_trans (operandNeed_mono (ht j v hv) _ _) (meets_iff.mp (hf v hv) o ho)) ht

/-! ### The descent -/

theorem raises_tolDescend {t : List (Nat × TolNode)} (ht : nodesOk t) (n : Nat) : raises t (tolDescend n t) := by
  induction n generalizing t with
  | zero => exact raises_tolPass ht 0
  | succ n ih => exact raises_trans (raises_tolPass ht (n + 1)) (ih (nodesOk_tolPass ht (n + 1)))

theorem findKey_tolDescend_of_le {t : List (Nat × TolNode)} (ht : nodesOk t) {n k : Nat} (hk : n ≤ k) :
    findKey (tolDescend n t) k = findKey t k := by
  induction n generalizing t with
  | zero => exact findKey_tolPass_of_le ht hk
  | succ n ih =>
    have hok := nodesOk_tolPass ht (n + 1)
    exact (ih hok (Nat.le_of_succ_le hk)).trans (findKey_tolPass_of_le ht hk)

/-- After the descent every node it passed has its requirements met: its own turn met them, and later turns change lower nodes alone. -/
theorem meets_tolDescend {t : List (Nat × TolNode)} (ht : nodesOk t) {n j : Nat} (hj : j ≤ n) {v : TolNode}
    (hv : findKey (tolDescend n t) j = some v) : meets (tauOf (tolDescend n t)) j v := by
  induction n generalizing t with
  | zero =>
    obtain rfl := Nat.le_zero.mp hj
    exact meets_tolPass ht hv
  | succ n ih =>
    have hok := nodesOk_tolPass ht (n + 1)
    obtain hle | rfl := Nat.le_succ_iff.mp hj
    · exact ih hok hle hv
    · have hkept : findKey (tolDescend (n + 1) t) (n + 1) = findKey (tolPass (n + 1) t) (n + 1) := findKey_tolDescend_of_le hok n.le_succ
      exact meets_mono (by simp only [tauOf, hkept]) (tauOf_le_of_raises (raises_tolDescend hok n)) (meets_tolPass ht (hkept.symm.trans hv))

theorem bounded_tolDescend {f : Nat → Nat} {t : List (Nat × TolNode)} (hok : nodesOk t) {n : Nat}
    (hf : ∀ j ≤ n, ∀ v, findKey t j = some v → meets f j v) (ht : bounded f t) : bounded f (tolDescend n t) := by
  induction n generalizing t with
  | zero => exact bounded_tolPass (hf 0 (Nat.le_refl _)) ht
  | succ n ih =>
    have hdecl := (raises_tolPass hok (n + 1)).1
    exact ih (nodesOk_tolPass hok _) (fun j hj => meets_of_declarations_eq hdecl hf j (Nat.le_succ_of_le hj)) (bounded_tolPass (hf _ (Nat.le_refl _)) ht)

/-! ### The demand -/

theorem raises_tolDemand {t : List (Nat × TolNode)} (ht : nodesOk t) (n need : Nat) : raises t (tolDemand n need t) :=
  raises_trans (raises_tolRaise ht need n) (raises_tolDescend (nodesOk_tolRaise ht need n) n)

theorem le_tauOf_tolDemand {t : List (Nat × TolNode)} (ht : nodesOk t) {n : Nat} (need : Nat) (hn : (findKey t n).isSome) :
    need ≤ tauOf (tolDemand n need t) n :=
  Nat.le_trans (le_tauOf_tolRaise need hn)
    (tauOf_le_of_raises (raises_tolDescend (nodesOk_tolRaise ht need n) n) n)

theorem bounded_tolDemand {f : Nat → Nat} {t : List (Nat × TolNode)} (hok : nodesOk t) {n need : Nat} (hn : need ≤ f n)
    (hf : ∀ j ≤ n, ∀ v, findKey t j = some v → meets f j v) (ht : bounded f t) : bounded f (tolDemand n need t) :=
  bounded_tolDescend (nodesOk_tolRaise hok need n) (meets_of_declarations_eq (raises_tolRaise hok need n).1 hf) (bounded_tolRaise ht hn)

/-- Settles O39: each turn of the descent raises the operands of one node to its requirements and changes lower nodes alone, so the requirements
met stay met (`meets_tolDescend`); and no turn raises a node above a table that meets them all (`bounded_tolDemand`). -/
theorem demandIsLeast : Obligations.DemandIsLeast := by
  intro t n need hok hn _
  obtain ⟨hdecl, hraised⟩ := raises_tolDemand hok n need
  refine ⟨hdecl, hraised, le_tauOf_tolDemand hok need hn, fun j hj v hv => ?met, fun f hbelow hneed hmeets k hk => ?least⟩
  case met => exact meets_tolDescend (nodesOk_tolRaise hok need n) hj hv
  case least =>
    obtain ⟨v, hv⟩ := Option.isSome_iff_exists.mp hk
    obtain ⟨w, hw, -⟩ := findKey_of_declarations_eq hdecl.symm hv
    exact Nat.le_trans (Nat.le_of_eq (tauOf_of_findKey hw)) (bounded_tolDemand hok hneed hmeets hbelow k w hw)

end Sys2Proof.Laws
end
